-- ==== Sys2Proof/Word.lean ====
section
/-!
DEFINITION. The word types of the G9 (rule R3): bytes, 32-bit words, 64-bit values and the
register numbers that an instruction word can carry (rule R47).
-/

namespace Sys2Proof

/-- Eight bits of memory. -/
abbrev Byte := BitVec 8

/-- A general, uniform or index register (R6). -/
abbrev Word := BitVec 32

/-- A register pair, a program counter or an address (R3, R6). -/
abbrev DWord := BitVec 64

/-- The number of a general register, g0 to g63 (R47). -/
abbrev Reg := BitVec 6

/-- The number of a uniform register, s0 to s31 (R47). -/
abbrev SReg := BitVec 5

/-- The number of a predicate, p0 to p7 (R6). -/
abbrev PReg := BitVec 3

/-- A completion-flag field: f0 to f11, 15 for none, 12 to 14 reserved (R47). -/
abbrev Flag := BitVec 4

end Sys2Proof
end

