-- ==== Sys2Proof/Syntax.lean ====
section
/-!
DEFINITION. The instructions: one constructor for each row of spec/opcode_table.json. The first 167
are instruction words (rules R44 to R68); the other 104 are the events and commands that the same
table lists (95_what_each_step_holds.md), which have no encoding.
-/

namespace Sys2Proof

/-- The header of an instruction word: chain bit, guard negate and guard predicate (R44, R45). -/
structure Hdr where
  chain : Bool
  gneg : Bool
  gp : PReg
  deriving DecidableEq, Repr

/-- The B operand of the R and P formats: a general register, or with S = 1 a uniform one (R47). -/
inductive Src where
  | g (r : Reg)
  | u (r : SReg)
  deriving DecidableEq, Repr

/-- The type T of an integer compare (R80). -/
inductive CmpT where
  | i32 | n32 | i64 | n64
  deriving DecidableEq, Repr

/-- The condition CC of an integer compare (R80). -/
inductive Cc where
  | eq | ne | lt | le | gt | ge
  deriving DecidableEq, Repr

/-- The condition CC of a floating-point compare (R122). -/
inductive FCc where
  | eq | ne | lt | le | gt | ge | un | ord
  deriving DecidableEq, Repr

/-- The operation of a predicate-logic word (R81). -/
inductive Lop where
  | and | or | xor
  deriving DecidableEq, Repr

/-- The access size SZ of an M-format word (R57). -/
inductive Size where
  | n8 | i8 | n16 | i16 | b32 | b64 | b128
  deriving DecidableEq, Repr

/-- The space SP of a memory word (R63, R217). -/
inductive Space where
  | gen | scr | global | ws
  deriving DecidableEq, Repr

/-- The scope codes (R63, R236). -/
inductive Scope where
  | band | crew | grove | die | device | system
  deriving DecidableEq, Repr

/-- The order codes (R63). -/
inductive Order where
  | relaxed | acquire | release | acqRel | seqCst
  deriving DecidableEq, Repr

/-- The type codes of major 0x3A (R63). -/
inductive AType where
  | i32 | n32 | i64 | n64 | f32 | f16x2 | bf16x2 | b32 | b64 | b128
  deriving DecidableEq, Repr

/-- The operation codes of ATOM (R63, R262). -/
inductive AOp where
  | add | min | max | and | or | xor | exch | inc | dec
  deriving DecidableEq, Repr

/-- The element formats, in the order of their codes (R59). -/
inductive Fmt where
  | f32 | f16 | bf16 | e4m3 | e5m2 | e2m3 | e3m2 | e2m1 | i32 | n32 | i16 | i8 | n8 | i4 | d8 | e8m0
  deriving DecidableEq, Repr

/-- The modes of DRAW (R350). -/
inductive DrawMode where
  | greedy | temp | topk | flat
  deriving DecidableEq, Repr

/-- The scope, order, space and flag that the control literal of major 0x3A gives (R63). -/
structure Ctl where
  sb : Flag
  scope : Scope
  order : Order
  sp : Space
  deriving DecidableEq, Repr

/-- The instructions and events, in the order of spec/opcode_table.json. -/
inductive Instr where
  -- control (R53)
  | nop (h : Hdr)
  | yield (h : Hdr)
  | bkpt (h : Hdr) (tag : BitVec 16)
  | bra (h : Hdr) (off : BitVec 21)
  | brx (h : Hdr) (a : Reg)
  | call (h : Hdr) (d : Reg) (lit : Word)
  | callx (h : Hdr) (d a : Reg)
  | ret (h : Hdr) (a : Reg)
  | exit (h : Hdr)
  | meet (h : Hdr) (d : Reg) (lit : Word)
  | setm (h : Hdr) (a : Reg)
  | getm (h : Hdr) (d : Reg)
  | rgn (h : Hdr)
  | trap (h : Hdr) (tag : BitVec 16)
  -- integer (R54)
  | addI32 (h : Hdr) (d a : Reg) (b : Src)
  | subI32 (h : Hdr) (d a : Reg) (b : Src)
  | addxN32 (h : Hdr) (d a : Reg) (b : Src)
  | subxN32 (h : Hdr) (d a : Reg) (b : Src)
  | addI64 (h : Hdr) (d a : Reg) (b : Src)
  | subI64 (h : Hdr) (d a : Reg) (b : Src)
  | mulwI32 (h : Hdr) (d a : Reg) (b : Src)
  | madwI32 (h : Hdr) (d a : Reg) (b : Src)
  | addI32Imm (h : Hdr) (d a : Reg) (imm : BitVec 9)
  | mulI32 (h : Hdr) (d a : Reg) (b : Src)
  | mulhiI32 (h : Hdr) (d a : Reg) (b : Src)
  | mulhiN32 (h : Hdr) (d a : Reg) (b : Src)
  | madI32 (h : Hdr) (d a : Reg) (b : Src)
  | divI32 (h : Hdr) (d a : Reg) (b : Src)
  | divN32 (h : Hdr) (d a : Reg) (b : Src)
  | remI32 (h : Hdr) (d a : Reg) (b : Src)
  | remN32 (h : Hdr) (d a : Reg) (b : Src)
  | andB32 (h : Hdr) (d a : Reg) (b : Src)
  | orB32 (h : Hdr) (d a : Reg) (b : Src)
  | xorB32 (h : Hdr) (d a : Reg) (b : Src)
  | andnB32 (h : Hdr) (d a : Reg) (b : Src)
  | minI32 (h : Hdr) (d a : Reg) (b : Src)
  | minN32 (h : Hdr) (d a : Reg) (b : Src)
  | maxI32 (h : Hdr) (d a : Reg) (b : Src)
  | maxN32 (h : Hdr) (d a : Reg) (b : Src)
  | shlB32 (h : Hdr) (d a : Reg) (b : Src)
  | shrN32 (h : Hdr) (d a : Reg) (b : Src)
  | shrI32 (h : Hdr) (d a : Reg) (b : Src)
  | bpermB32 (h : Hdr) (d a : Reg) (b : Src)
  | shlB32Imm (h : Hdr) (d a : Reg) (n : BitVec 5)
  | shrN32Imm (h : Hdr) (d a : Reg) (n : BitVec 5)
  | shrI32Imm (h : Hdr) (d a : Reg) (n : BitVec 5)
  | rotB32 (h : Hdr) (d a : Reg) (n : BitVec 5)
  | popcB32 (h : Hdr) (d a : Reg)
  | clzB32 (h : Hdr) (d a : Reg)
  | absI32 (h : Hdr) (d a : Reg)
  | negI32 (h : Hdr) (d a : Reg)
  | bfxN32 (h : Hdr) (d a : Reg) (b : Src)
  | bfxI32 (h : Hdr) (d a : Reg) (b : Src)
  | bfiB32 (h : Hdr) (d a : Reg) (b : Src)
  | movi (h : Hdr) (d : BitVec 5) (imm : BitVec 16)
  | movhi (h : Hdr) (d : BitVec 5) (imm : BitVec 16)
  -- compares, selection, moves, windows, basic loads and stores (R56)
  | cmp (h : Hdr) (t : CmpT) (cc : Cc) (pd : PReg) (a : Reg) (b : Src)
  | cmpi (h : Hdr) (cc : Cc) (pd : PReg) (a : Reg) (imm : BitVec 9)
  | fcmp (h : Hdr) (cc : FCc) (pd : PReg) (a : Reg) (b : Src)
  | sel (h : Hdr) (d a b : Reg) (p : PReg)
  | movB32 (h : Hdr) (d a : Reg)
  | movB64 (h : Hdr) (d a : Reg)
  | movLit (h : Hdr) (d : Reg) (lit : Word)
  | movB32S (h : Hdr) (d : Reg) (u : SReg)
  | xset (h : Hdr) (k : BitVec 2) (a : Reg)
  | xidx (h : Hdr) (k : BitVec 2) (a : Reg)
  | rdx (h : Hdr) (d : Reg) (k : BitVec 2)
  | wrx (h : Hdr) (k : BitVec 2) (a : Reg)
  | plop (h : Hdr) (op : Lop) (pd pa : PReg) (na : Bool) (pb : PReg) (nb : Bool)
  | ld (h : Hdr) (d a : Reg) (sb : Flag) (sz : Size) (off : Word)
  | st (h : Hdr) (d a : Reg) (sb : Flag) (sz : Size) (off : Word)
  -- floating point (R58)
  | addF32 (h : Hdr) (d a : Reg) (b : Src)
  | subF32 (h : Hdr) (d a : Reg) (b : Src)
  | mulF32 (h : Hdr) (d a : Reg) (b : Src)
  | fmaF32 (h : Hdr) (d a : Reg) (b : Src)
  | minF32 (h : Hdr) (d a : Reg) (b : Src)
  | maxF32 (h : Hdr) (d a : Reg) (b : Src)
  | absF32 (h : Hdr) (d a : Reg)
  | negF32 (h : Hdr) (d a : Reg)
  | addF16x2 (h : Hdr) (d a : Reg) (b : Src)
  | mulF16x2 (h : Hdr) (d a : Reg) (b : Src)
  | fmaF16x2 (h : Hdr) (d a : Reg) (b : Src)
  | maxF16x2 (h : Hdr) (d a : Reg) (b : Src)
  | addBf16x2 (h : Hdr) (d a : Reg) (b : Src)
  | mulBf16x2 (h : Hdr) (d a : Reg) (b : Src)
  | fmaBf16x2 (h : Hdr) (d a : Reg) (b : Src)
  | maxBf16x2 (h : Hdr) (d a : Reg) (b : Src)
  | pmergeF32 (h : Hdr) (d a b : Reg)
  | cvt (h : Hdr) (d a : Reg) (dt st : Fmt) (rz : Bool)
  | scalex (h : Hdr) (d a : Reg) (t : Fmt)
  | ex2F32 (h : Hdr) (d a : Reg) (sb : Flag)
  | lg2F32 (h : Hdr) (d a : Reg) (sb : Flag)
  | rcpF32 (h : Hdr) (d a : Reg) (sb : Flag)
  | rsqF32 (h : Hdr) (d a : Reg) (sb : Flag)
  | sinF32 (h : Hdr) (d a : Reg) (sb : Flag)
  | cosF32 (h : Hdr) (d a : Reg) (sb : Flag)
  -- uniform (R60)
  | uaddI32 (h : Hdr) (d a b : SReg)
  | usubI32 (h : Hdr) (d a b : SReg)
  | umulI32 (h : Hdr) (d a b : SReg)
  | umovlB32 (h : Hdr) (d : SReg) (lit : Word)
  | uandB32 (h : Hdr) (d a b : SReg)
  | uorB32 (h : Hdr) (d a b : SReg)
  | ushlB32 (h : Hdr) (d a b : SReg)
  | ushrN32 (h : Hdr) (d a b : SReg)
  | sld (h : Hdr) (d a : SReg) (sb : Flag) (sp : Space) (sz : Size) (off : Word)
  -- cooperation (R61)
  | voteAll (h : Hdr) (pd : PReg) (na : Bool) (pa : PReg)
  | voteAny (h : Hdr) (pd : PReg) (na : Bool) (pa : PReg)
  | voteBallot (h : Hdr) (d : SReg) (na : Bool) (pa : PReg)
  | rdfl (h : Hdr) (d : SReg) (a : Reg)
  | shflIdx (h : Hdr) (d a : Reg) (b : Src)
  | shflUp (h : Hdr) (d a : Reg) (b : Src)
  | shflDown (h : Hdr) (d a : Reg) (b : Src)
  | shflXor (h : Hdr) (d a : Reg) (b : Src)
  | bar (h : Hdr)
  | gbar (h : Hdr) (s : SReg)
  | bcast (h : Hdr) (d a : Reg) (s : SReg)
  | grow (h : Hdr) (k : BitVec 3)
  | shrink (h : Hdr) (k : BitVec 3)
  | take (h : Hdr) (d : Reg)
  | spawn (h : Hdr) (a : Reg)
  | req (h : Hdr) (d a : Reg) (sb : Flag) (sz : Size)
  | boinit (h : Hdr) (a b : Reg)
  | boarrive (h : Hdr) (d a : Reg)
  | bowait (h : Hdr) (a b : Reg)
  -- memory (R62)
  | ldSpace (h : Hdr) (d a : Reg) (sb : Flag) (sp : Space) (sz : Size) (off : Word)
  | stSpace (h : Hdr) (d a : Reg) (sb : Flag) (sp : Space) (sz : Size) (off : Word)
  | atom (h : Hdr) (d a b : Reg) (op : AOp) (ty : AType) (c : Ctl)
  | cas (h : Hdr) (d a b : Reg) (ty : AType) (c : Ctl)
  | ldAtomic (h : Hdr) (d a : Reg) (ty : AType) (c : Ctl)
  | stAtomic (h : Hdr) (a b : Reg) (ty : AType) (c : Ctl)
  | fence (h : Hdr) (scope : Scope) (order : Order)
  | shedDropL1 (h : Hdr) (a b : Reg)
  | shedCleanGrove (h : Hdr) (a b : Reg)
  | shedDropL1All (h : Hdr)
  | warmGrove (h : Hdr) (a b : Reg)
  | warmL1 (h : Hdr) (a b : Reg)
  -- matrix and draw unit (R65)
  | claim (h : Hdr) (mask : BitVec 16)
  | rels (h : Hdr) (mask : BitVec 16)
  | kset (h : Hdr) (k : BitVec 4) (a b : SReg)
  | ldt (h : Hdr) (sb : Flag) (os : BitVec 4) (a : Reg) (shape : BitVec 12)
  | stt (h : Hdr) (sb : Flag) (os : BitVec 4) (a : Reg) (shape : BitVec 12)
  | accz (h : Hdr) (acc : BitVec 3)
  | accld (h : Hdr) (sb : Flag) (acc : BitVec 3) (a : Reg)
  | accst (h : Hdr) (sb : Flag) (acc : BitVec 3) (a : Reg)
  | accstBf16 (h : Hdr) (sb : Flag) (acc : BitVec 3) (a : Reg)
  | accstF16 (h : Hdr) (sb : Flag) (acc : BitVec 3) (a : Reg)
  | mxsave (h : Hdr) (sb : Flag) (a : Reg)
  | mxrest (h : Hdr) (sb : Flag) (a : Reg)
  | draw (h : Hdr) (mode : DrawMode) (sb : Flag) (d : Reg) (acc : BitVec 3) (ps : SReg)
  | accept (h : Hdr) (sb : Flag) (d : Reg) (accp accq : BitVec 3) (ps : SReg)
  | mma (h : Hdr) (ta tb : Bool) (k : BitVec 4) (acc : BitVec 3) (oa ob : BitVec 4)
  -- engines (R66)
  | strmIn (h : Hdr) (sb : Flag) (a b : Reg) (shape : BitVec 12)
  | strmOut (h : Hdr) (sb : Flag) (a b : Reg) (shape : BitVec 12)
  | gnode (h : Hdr) (sb : Flag) (a : Reg)
  | xform (h : Hdr) (sb : Flag) (a b : Reg) (shape : BitVec 12) (xop : Byte)
  | link (h : Hdr) (sb : Flag) (a b : Reg)
  | unlink (h : Hdr) (sb : Flag) (a : Reg)
  | unlinkCmp (h : Hdr) (sb : Flag) (a : Reg)
  | segrd (h : Hdr) (sb : Flag) (a : Reg)
  | segrdRw (h : Hdr) (sb : Flag) (a : Reg)
  | gpw (h : Hdr) (sb : Flag) (n : BitVec 6) (b : Reg)
  -- watches, system registers, privileged forms (R67)
  | watch (h : Hdr) (sb : Flag) (a d : Reg)
  | unwatch (h : Hdr) (sb : Flag) (a : Reg)
  | srd (h : Hdr) (d : Reg) (sys : BitVec 10)
  | swr (h : Hdr) (a : Reg) (sys : BitVec 10)
  | tret (h : Hdr)
  | tlbinv (h : Hdr) (sb : Flag) (a : Reg)
  -- completions of memory, special-function and watch words
  | loadComplete (band : Nat)
  | storePerformed (id : Nat)
  | sfuComplete (band : Nat)
  | watchComplete (id : Nat)
  -- crews, registers, matrix unit
  | sproutStart (grove core : Nat)
  | crewStart (launch core : Nat)
  | growGrant (core : Nat)
  | registerSpill (core : Nat)
  | granuleFill (band granule : Nat)
  | claimGrant (core : Nat)
  | mmaCheck (core : Nat)
  | matrixTransferComplete (core : Nat)
  | drawPerform (core : Nat)
  | acceptPerform (core : Nat)
  -- range tasks
  | workRequestServed (band choice : Nat)
  | stealMessage (launch thief : Nat)
  | terminationRound (launch : Nat)
  -- engines, graph, link unit
  | streamTile (id : Nat)
  | xformComplete (id : Nat)
  | graphNodeComplete (id : Nat)
  | linkPublish (id bank : Nat)
  | unlinkPublish (id bank : Nat)
  | unlinkComplete (id : Nat)
  | segrdRead (id : Nat)
  | repairLayerCommit (pass : Nat)
  | repairPassStart (pass : Nat)
  | tlbinvComplete (id : Nat)
  | remoteEnqueueDelivery (id : Nat)
  | reqAck (id : Nat)
  -- compressed memory and faults
  | clearingPageReclaim (die ctx : Nat) (va : DWord)
  | waitingWritePerformed (id : Nat)
  | faultRecord (id : Nat)
  | faultReply (id : Nat) (code : Byte)
  | trapEntry (band : Nat)
  | asyncTrapReport (band lane : Nat)
  | crewRelaunch (crew core : Nat)
  | haltBroadcast (ctx quarter : Nat)
  | drainComplete (quarter : Nat)
  | wsRefreshStart (die : Nat)
  | wsRefreshEnd (die : Nat)
  | transectIntervalEnd (quarter : Nat)
  | stallSample (quarter : Nat)
  -- queues
  | queueMap (q : Nat)
  | sliceEnd (q : Nat)
  | preemptCollected (q : Nat)
  | launchEnd (launch : Nat)
  -- commands of user queues
  | cmdNop (q : Nat)
  | launch (q : Nat)
  | graph (q : Nat)
  | gpset (q : Nat)
  | waitv (q : Nat)
  | waitvSatisfied (q : Nat)
  | writev (q : Nat)
  | copy (q : Nat)
  | wsload (q : Nat)
  | ringreg (q : Nat)
  | redset (q : Nat)
  | coll (q : Nat)
  | ctxsetTvec (q : Nat)
  | ctxsetBalq (q : Nat)
  | ctxsetDbase (q : Nat)
  | ctxsetDslot (q : Nat)
  | ctxsetDn (q : Nat)
  | ctxsetLogmax (q : Nat)
  | ctxsetEventRing (q : Nat)
  | ctxsetDefaultLaunch (q : Nat)
  -- ends of commands, slots of rings, dies that park
  | copyComplete (q : Nat)
  | wsloadComplete (q : Nat)
  | reservedSlotGrant (id : Nat)
  | dieParked (die : Nat)
  -- commands of the control queue
  | ctxnew
  | ctxdel
  | acct
  | poolset
  | halt
  | resume
  | dump
  | dbgset
  | powerActive
  | powerReducedClock
  | powerDiePark
  | powerStandby
  -- power and reset
  | standbyEntry
  | reset
  -- management channel
  | getVersion
  | getCapabilities
  | negotiateAlgorithms (msg : List Byte)
  | getDigests
  | getCertificate (msg : List Byte)
  | challenge (msg : List Byte)
  | getMeasurements (index : Nat) (msg : List Byte)
  | spdmUnsupportedRequest (msg : List Byte)
  | debugNonceRequest (nonce : List Byte)
  | debugToken (token : List Byte)
  | measurementExtend (n : Nat) (digest : List Byte)
  -- host, hardware failures, reductions of other modules
  | queueDoorbell (q : Nat) (tail : Word)
  | controlQueueDoorbell (tail : Word)
  | uncorrectableError (crew : Nat)
  | hostAccess (ctx : Nat) (addr : DWord) (len : Nat) (data : Option (List Byte))
  | flitCrcError (boundary : Nat)
  | dieBoundaryFailed (boundary : Nat)
  | memoryUncorrectableError (ctx : Nat)
  | choelatosPortFailure (port : Nat)
  | collResult (q : Nat) (others : List (List Byte))
  deriving DecidableEq, Repr

end Sys2Proof
end

