-- ==== Sys2Proof/WellFormed.lean ====
section
/-!
DEFINITION. When an instruction word is well formed: the guard is not the reserved one (R45), no
code field holds a reserved value or combination (check 4 of R51) and every register field obeys
R47 (check 5). Events carry no encoding and are always well formed.
-/

namespace Sys2Proof

/-- A field that names a pair (R7). -/
def evenField {n : Nat} (r : BitVec n) : Bool := r.toNat % 2 == 0

/-- A field that names a quad (R47). -/
def quadField {n : Nat} (r : BitVec n) : Bool := r.toNat % 4 == 0

/-- A flag field names f0 to f11 or is 15 (R47). -/
def flagField (f : Flag) : Bool := f.toNat < 12 || f.toNat == 15

/-- A B operand of 64 bits: its field is even in either file (R47). -/
def Src.even : Src → Bool
  | .g r => evenField r
  | .u r => evenField r

/-- Bytes of an access of each size (R57). -/
def Size.bytes : Size → Nat
  | .n8 | .i8 => 1
  | .n16 | .i16 => 2
  | .b32 => 4
  | .b64 => 8
  | .b128 => 16

/-- Registers that the data of each size occupies (R57). -/
def Size.regs : Size → Nat
  | .b64 => 2
  | .b128 => 4
  | _ => 1

/-- The data field obeys the alignment of its size (R57). -/
def Size.fieldOk {n : Nat} (sz : Size) (r : BitVec n) : Bool :=
  match sz with
  | .b64 => evenField r
  | .b128 => quadField r
  | _ => true

/-- An address field names a pair, but one register in the scratchpad space (R47, R217). -/
def Space.addrOk {n : Nat} (sp : Space) (a : BitVec n) : Bool :=
  match sp with
  | .scr => true
  | _ => evenField a

/-- Bytes of an access of each type of major 0x3A (R63). -/
def AType.bytes : AType → Nat
  | .i64 | .n64 | .b64 => 8
  | .b128 => 16
  | _ => 4

/-- Registers that a value of each type occupies (R64). -/
def AType.regs : AType → Nat
  | .i64 | .n64 | .b64 => 2
  | .b128 => 4
  | _ => 1

/-- The width rules of R64. -/
def AType.fieldOk {n : Nat} (ty : AType) (r : BitVec n) : Bool :=
  match ty.regs with
  | 2 => evenField r
  | 4 => quadField r
  | _ => true

/-- The combinations of ATOM that are instructions (R64). -/
def AOp.typeOk (op : AOp) (ty : AType) : Bool :=
  match op, ty with
  | .add, .i32 | .add, .n32 | .add, .i64 | .add, .n64 | .add, .f32 | .add, .f16x2
  | .add, .bf16x2 => true
  | .min, .i32 | .min, .n32 | .min, .i64 | .min, .n64 | .min, .f32 => true
  | .max, .i32 | .max, .n32 | .max, .i64 | .max, .n64 | .max, .f32 => true
  | .and, .b32 | .and, .b64 | .or, .b32 | .or, .b64 | .xor, .b32 | .xor, .b64
  | .exch, .b32 | .exch, .b64 => true
  | .inc, .n32 | .dec, .n32 => true
  | _, _ => false

/-- The types of CAS, and of the ordered load and store (R64). -/
def AType.isBits : AType → Bool
  | .b32 | .b64 | .b128 => true
  | _ => false

/-- The orders of an ordered load (R64). -/
def Order.loadOk : Order → Bool
  | .relaxed | .acquire | .seqCst => true
  | _ => false

/-- The orders of an ordered store (R64). -/
def Order.storeOk : Order → Bool
  | .relaxed | .release | .seqCst => true
  | _ => false

/-- The element formats that have a block scale (R59). -/
def Fmt.hasScale : Fmt → Bool
  | .e4m3 | .e5m2 | .e2m3 | .e3m2 | .e2m1 | .i8 | .i4 => true
  | _ => false

/-- A store cannot be sign extending (R57). -/
def Size.storeOk : Size → Bool
  | .i8 | .i16 => false
  | _ => true

/-- The system registers that some chapter allocates, of 32 bits (R68, R152). -/
def sysRegs32 : List Nat :=
  [0x000, 0x001, 0x002, 0x003, 0x004, 0x005, 0x006, 0x007, 0x008, 0x009, 0x00A, 0x00B, 0x00C,
   0x00D, 0x00E, 0x100, 0x101, 0x102, 0x103, 0x105, 0x107, 0x111, 0x112, 0x113, 0x117, 0x207,
   0x20B]

/-- The system registers that some chapter allocates, of 64 bits (R68, R152). -/
def sysRegs64 : List Nat :=
  [0x010, 0x011, 0x012, 0x013, 0x014, 0x015, 0x016, 0x110, 0x114, 0x115, 0x116, 0x200, 0x201,
   0x202, 0x203, 0x204, 0x205, 0x206, 0x208, 0x209, 0x20A]

/-- The number is that of a 64-bit register (R153, R154). -/
def sys64 (y : BitVec 10) : Bool := sysRegs64.contains y.toNat

/-- SRD names an allocated number (R153). -/
def srdOk (y : BitVec 10) : Bool := sysRegs32.contains y.toNat || sysRegs64.contains y.toNat

/-- SWR names an allocated number from 0x100 on, and neither GRVSELF (R213) nor DRST (R348). -/
def swrOk (y : BitVec 10) : Bool :=
  srdOk y && decide (0x100 ≤ y.toNat) && y.toNat != 0x105 && y.toNat != 0x107

/-- Check 4 of R51, for what the constructor's fields can still hold. -/
def Instr.codesOk : Instr → Bool
  | .st _ _ _ _ sz _ => sz.storeOk
  | .stSpace _ _ _ _ _ sz _ => sz.storeOk
  | .sld _ _ _ _ _ sz _ => sz != .b128
  | .req _ _ _ _ sz => sz == .b64 || sz == .b128
  | .cvt _ _ _ tD tS _ => tD != tS
  | .scalex _ _ _ t => t.hasScale
  | .atom _ _ _ _ op ty _ => op.typeOk ty
  | .cas _ _ _ _ ty _ => ty.isBits
  | .ldAtomic _ _ _ ty c => ty.isBits && c.order.loadOk
  | .stAtomic _ _ _ ty c => ty.isBits && c.order.storeOk
  | .fence _ _ o => o != .relaxed
  | .claim _ m => m != 0
  | .rels _ m => m != 0
  | .xform _ _ _ _ _ x => decide (x.toNat < 6)
  | .srd _ _ y => srdOk y
  | .swr _ _ y => swrOk y
  | _ => true

/-- Check 5 of R51: the register rules of R47, R57, R61, R64 to R67 and R349. -/
def Instr.regsOk : Instr → Bool
  | .brx _ a | .ret _ a | .setm _ a => evenField a
  | .call _ d _ | .meet _ d _ | .getm _ d => evenField d
  | .callx _ d a => evenField d && evenField a
  | .addxN32 _ d _ _ | .subxN32 _ d _ _ | .mulwI32 _ d _ _ | .madwI32 _ d _ _ => evenField d
  | .addI64 _ d a b | .subI64 _ d a b => evenField d && evenField a && b.even
  | .cmp _ t _ _ a b =>
    match t with
    | .i64 | .n64 => evenField a && b.even
    | _ => true
  | .movB64 _ d a => evenField d && evenField a
  | .ld _ d a sb sz _ | .st _ d a sb sz _ => evenField a && sz.fieldOk d && flagField sb
  | .pmergeF32 _ d a b => quadField d && quadField a && quadField b
  | .ex2F32 _ _ _ sb | .lg2F32 _ _ _ sb | .rcpF32 _ _ _ sb | .rsqF32 _ _ _ sb
  | .sinF32 _ _ _ sb | .cosF32 _ _ _ sb => flagField sb
  | .sld _ d a sb sp sz _ => sp.addrOk a && sz.fieldOk d && flagField sb
  | .take _ d => evenField d
  | .spawn _ a => evenField a
  | .req _ d a sb sz => sz.fieldOk d && sz.fieldOk a && flagField sb
  | .ldSpace _ d a sb sp sz _ | .stSpace _ d a sb sp sz _ =>
    sp.addrOk a && sz.fieldOk d && flagField sb
  | .atom _ d a b _ ty c | .cas _ d a b ty c =>
    c.sp.addrOk a && ty.fieldOk d && ty.fieldOk b && flagField c.sb
  | .ldAtomic _ d a ty c => c.sp.addrOk a && ty.fieldOk d && flagField c.sb
  | .stAtomic _ a b ty c => c.sp.addrOk a && ty.fieldOk b && flagField c.sb
  | .shedDropL1 _ a _ | .shedCleanGrove _ a _ | .warmGrove _ a _ | .warmL1 _ a _ => evenField a
  | .ldt _ sb _ a _ | .stt _ sb _ a _ => evenField a && flagField sb
  | .accld _ sb _ a | .accst _ sb _ a | .accstBf16 _ sb _ a | .accstF16 _ sb _ a =>
    evenField a && flagField sb
  | .mxsave _ sb a | .mxrest _ sb a => evenField a && flagField sb
  | .draw _ _ sb d _ ps | .accept _ sb d _ _ ps =>
    evenField d && flagField sb && ps.toNat % 8 == 0
  | .strmIn _ sb a _ _ | .strmOut _ sb a _ _ | .link _ sb a _ => evenField a && flagField sb
  | .xform _ sb a _ _ _ => evenField a && flagField sb
  | .gnode _ sb a | .unlink _ sb a | .unlinkCmp _ sb a | .segrd _ sb a | .segrdRw _ sb a =>
    evenField a && flagField sb
  | .gpw _ sb _ b => evenField b && flagField sb
  | .watch _ sb a _ => evenField a && flagField sb
  | .unwatch _ sb _ => flagField sb
  | .srd _ d y => !sys64 y || evenField d
  | .swr _ a y => !sys64 y || evenField a
  | .tlbinv _ sb a => evenField a && flagField sb
  | _ => true

/-- The header of an instruction word. An event has none and gets the unguarded one. -/
def Instr.hdr : Instr → Hdr
  | .nop h | .yield h | .bkpt h _ | .bra h _ | .brx h _ | .call h _ _ | .callx h _ _ | .ret h _
  | .exit h | .meet h _ _ | .setm h _ | .getm h _ | .rgn h | .trap h _ => h
  | .addI32 h _ _ _ | .subI32 h _ _ _ | .addxN32 h _ _ _ | .subxN32 h _ _ _ | .addI64 h _ _ _
  | .subI64 h _ _ _ | .mulwI32 h _ _ _ | .madwI32 h _ _ _ | .addI32Imm h _ _ _ | .mulI32 h _ _ _
  | .mulhiI32 h _ _ _ | .mulhiN32 h _ _ _ | .madI32 h _ _ _ | .divI32 h _ _ _ | .divN32 h _ _ _
  | .remI32 h _ _ _ | .remN32 h _ _ _ | .andB32 h _ _ _ | .orB32 h _ _ _ | .xorB32 h _ _ _
  | .andnB32 h _ _ _ | .minI32 h _ _ _ | .minN32 h _ _ _ | .maxI32 h _ _ _ | .maxN32 h _ _ _
  | .shlB32 h _ _ _ | .shrN32 h _ _ _ | .shrI32 h _ _ _ | .bpermB32 h _ _ _ => h
  | .shlB32Imm h _ _ _ | .shrN32Imm h _ _ _ | .shrI32Imm h _ _ _ | .rotB32 h _ _ _
  | .popcB32 h _ _ | .clzB32 h _ _ | .absI32 h _ _ | .negI32 h _ _ => h
  | .bfxN32 h _ _ _ | .bfxI32 h _ _ _ | .bfiB32 h _ _ _ | .movi h _ _ | .movhi h _ _ => h
  | .cmp h _ _ _ _ _ | .cmpi h _ _ _ _ | .fcmp h _ _ _ _ | .sel h _ _ _ _ | .movB32 h _ _
  | .movB64 h _ _ | .movLit h _ _ | .movB32S h _ _ | .xset h _ _ | .xidx h _ _ | .rdx h _ _
  | .wrx h _ _ | .plop h _ _ _ _ _ _ | .ld h _ _ _ _ _ | .st h _ _ _ _ _ => h
  | .addF32 h _ _ _ | .subF32 h _ _ _ | .mulF32 h _ _ _ | .fmaF32 h _ _ _ | .minF32 h _ _ _
  | .maxF32 h _ _ _ | .absF32 h _ _ | .negF32 h _ _ | .addF16x2 h _ _ _ | .mulF16x2 h _ _ _
  | .fmaF16x2 h _ _ _ | .maxF16x2 h _ _ _ | .addBf16x2 h _ _ _ | .mulBf16x2 h _ _ _
  | .fmaBf16x2 h _ _ _ | .maxBf16x2 h _ _ _ | .pmergeF32 h _ _ _ | .cvt h _ _ _ _ _
  | .scalex h _ _ _ => h
  | .ex2F32 h _ _ _ | .lg2F32 h _ _ _ | .rcpF32 h _ _ _ | .rsqF32 h _ _ _ | .sinF32 h _ _ _
  | .cosF32 h _ _ _ => h
  | .uaddI32 h _ _ _ | .usubI32 h _ _ _ | .umulI32 h _ _ _ | .umovlB32 h _ _ | .uandB32 h _ _ _
  | .uorB32 h _ _ _ | .ushlB32 h _ _ _ | .ushrN32 h _ _ _ | .sld h _ _ _ _ _ _ => h
  | .voteAll h _ _ _ | .voteAny h _ _ _ | .voteBallot h _ _ _ | .rdfl h _ _ | .shflIdx h _ _ _
  | .shflUp h _ _ _ | .shflDown h _ _ _ | .shflXor h _ _ _ | .bar h | .gbar h _ | .bcast h _ _ _
  | .grow h _ | .shrink h _ | .take h _ | .spawn h _ | .req h _ _ _ _ | .boinit h _ _
  | .boarrive h _ _ | .bowait h _ _ => h
  | .ldSpace h _ _ _ _ _ _ | .stSpace h _ _ _ _ _ _ | .atom h _ _ _ _ _ _ | .cas h _ _ _ _ _
  | .ldAtomic h _ _ _ _ | .stAtomic h _ _ _ _ | .fence h _ _ | .shedDropL1 h _ _
  | .shedCleanGrove h _ _ | .shedDropL1All h | .warmGrove h _ _ | .warmL1 h _ _ => h
  | .claim h _ | .rels h _ | .kset h _ _ _ | .ldt h _ _ _ _ | .stt h _ _ _ _ | .accz h _
  | .accld h _ _ _ | .accst h _ _ _ | .accstBf16 h _ _ _ | .accstF16 h _ _ _ | .mxsave h _ _
  | .mxrest h _ _ | .draw h _ _ _ _ _ | .accept h _ _ _ _ _ | .mma h _ _ _ _ _ _ => h
  | .strmIn h _ _ _ _ | .strmOut h _ _ _ _ | .gnode h _ _ | .xform h _ _ _ _ _ | .link h _ _ _
  | .unlink h _ _ | .unlinkCmp h _ _ | .segrd h _ _ | .segrdRw h _ _ | .gpw h _ _ _ => h
  | .watch h _ _ _ | .unwatch h _ _ | .srd h _ _ | .swr h _ _ | .tret h | .tlbinv h _ _ => h
  | _ => ⟨false, false, 7⟩

/-- Check 2 of R51: the guard is not 0b1111 (R45). -/
def Hdr.ok (h : Hdr) : Bool := !(h.gneg && h.gp == 7)

/-- A well-formed instruction: what the decoder can answer, and every event. -/
def Instr.wf (i : Instr) : Bool := i.hdr.ok && i.codesOk && i.regsOk

end Sys2Proof
end

