-- ==== Sys2Proof/Decode.lean ====
section
/-!
DEFINITION. Decoding and encoding of instruction words (rules R44 to R68). `decode` answers the
instruction, or the number of the first failing check of R51 (2 to 6); check 1 belongs to the packet
and check 7 to the band. `encode` packs the fields of the same layouts.
-/

namespace Sys2Proof

/-- A word is a list of fields, the most significant first (R44, R46). -/
abbrev Fields := List ((n : Nat) × BitVec n)

/-- The bits that a list of fields fills. -/
def fieldBits : Fields → Nat
  | [] => 0
  | ⟨n, _⟩ :: r => n + fieldBits r

/-- The number that a list of fields stands for. -/
def packFields : Fields → Nat
  | [] => 0
  | ⟨_, v⟩ :: r => v.toNat * 2 ^ fieldBits r + packFields r

/-- The field of `n` bits whose lowest bit is bit `lo`. -/
def fld (w lo n : Nat) : BitVec n := BitVec.ofNat n (w / 2 ^ lo)

/-- A one-bit field. -/
def flag1 (w lo : Nat) : Bool := fld w lo 1 == 1

/-! ## Code fields -/

def CmpT.ofCode (c : BitVec 2) : CmpT :=
  match c.toNat with
  | 0 => .i32
  | 1 => .n32
  | 2 => .i64
  | _ => .n64

def CmpT.code : CmpT → BitVec 2
  | .i32 => 0
  | .n32 => 1
  | .i64 => 2
  | .n64 => 3

def Cc.ofCode (c : BitVec 3) : Option Cc :=
  match c.toNat with
  | 0 => some .eq
  | 1 => some .ne
  | 2 => some .lt
  | 3 => some .le
  | 4 => some .gt
  | 5 => some .ge
  | _ => none

def Cc.code : Cc → BitVec 3
  | .eq => 0
  | .ne => 1
  | .lt => 2
  | .le => 3
  | .gt => 4
  | .ge => 5

def FCc.ofCode (c : BitVec 3) : FCc :=
  match c.toNat with
  | 0 => .eq
  | 1 => .ne
  | 2 => .lt
  | 3 => .le
  | 4 => .gt
  | 5 => .ge
  | 6 => .un
  | _ => .ord

def FCc.code : FCc → BitVec 3
  | .eq => 0
  | .ne => 1
  | .lt => 2
  | .le => 3
  | .gt => 4
  | .ge => 5
  | .un => 6
  | .ord => 7

def Lop.ofCode (c : BitVec 2) : Option Lop :=
  match c.toNat with
  | 0 => some .and
  | 1 => some .or
  | 2 => some .xor
  | _ => none

def Lop.code : Lop → BitVec 2
  | .and => 0
  | .or => 1
  | .xor => 2

def Size.ofCode (c : BitVec 3) : Option Size :=
  match c.toNat with
  | 0 => some .n8
  | 1 => some .i8
  | 2 => some .n16
  | 3 => some .i16
  | 4 => some .b32
  | 5 => some .b64
  | 6 => some .b128
  | _ => none

def Size.code : Size → BitVec 3
  | .n8 => 0
  | .i8 => 1
  | .n16 => 2
  | .i16 => 3
  | .b32 => 4
  | .b64 => 5
  | .b128 => 6

def Space.ofCode (c : BitVec 2) : Space :=
  match c.toNat with
  | 0 => .gen
  | 1 => .scr
  | 2 => .global
  | _ => .ws

def Space.code : Space → BitVec 2
  | .gen => 0
  | .scr => 1
  | .global => 2
  | .ws => 3

def Scope.ofCode (c : BitVec 3) : Option Scope :=
  match c.toNat with
  | 0 => some .band
  | 1 => some .crew
  | 2 => some .grove
  | 3 => some .die
  | 4 => some .device
  | 5 => some .system
  | _ => none

def Scope.code : Scope → BitVec 3
  | .band => 0
  | .crew => 1
  | .grove => 2
  | .die => 3
  | .device => 4
  | .system => 5

def Order.ofCode (c : BitVec 3) : Option Order :=
  match c.toNat with
  | 0 => some .relaxed
  | 1 => some .acquire
  | 2 => some .release
  | 3 => some .acqRel
  | 4 => some .seqCst
  | _ => none

def Order.code : Order → BitVec 3
  | .relaxed => 0
  | .acquire => 1
  | .release => 2
  | .acqRel => 3
  | .seqCst => 4

def AType.ofCode (c : BitVec 4) : Option AType :=
  match c.toNat with
  | 0 => some .i32
  | 1 => some .n32
  | 2 => some .i64
  | 3 => some .n64
  | 4 => some .f32
  | 5 => some .f16x2
  | 6 => some .bf16x2
  | 7 => some .b32
  | 8 => some .b64
  | 9 => some .b128
  | _ => none

def AType.code : AType → BitVec 4
  | .i32 => 0
  | .n32 => 1
  | .i64 => 2
  | .n64 => 3
  | .f32 => 4
  | .f16x2 => 5
  | .bf16x2 => 6
  | .b32 => 7
  | .b64 => 8
  | .b128 => 9

def AOp.ofCode (c : BitVec 4) : Option AOp :=
  match c.toNat with
  | 0 => some .add
  | 1 => some .min
  | 2 => some .max
  | 3 => some .and
  | 4 => some .or
  | 5 => some .xor
  | 6 => some .exch
  | 7 => some .inc
  | 8 => some .dec
  | _ => none

def AOp.code : AOp → BitVec 4
  | .add => 0
  | .min => 1
  | .max => 2
  | .and => 3
  | .or => 4
  | .xor => 5
  | .exch => 6
  | .inc => 7
  | .dec => 8

def Fmt.ofCode (c : BitVec 4) : Fmt :=
  match c.toNat with
  | 0 => .f32
  | 1 => .f16
  | 2 => .bf16
  | 3 => .e4m3
  | 4 => .e5m2
  | 5 => .e2m3
  | 6 => .e3m2
  | 7 => .e2m1
  | 8 => .i32
  | 9 => .n32
  | 10 => .i16
  | 11 => .i8
  | 12 => .n8
  | 13 => .i4
  | 14 => .d8
  | _ => .e8m0

def Fmt.code : Fmt → BitVec 4
  | .f32 => 0
  | .f16 => 1
  | .bf16 => 2
  | .e4m3 => 3
  | .e5m2 => 4
  | .e2m3 => 5
  | .e3m2 => 6
  | .e2m1 => 7
  | .i32 => 8
  | .n32 => 9
  | .i16 => 10
  | .i8 => 11
  | .n8 => 12
  | .i4 => 13
  | .d8 => 14
  | .e8m0 => 15

def DrawMode.ofCode (c : BitVec 2) : DrawMode :=
  match c.toNat with
  | 0 => .greedy
  | 1 => .temp
  | 2 => .topk
  | _ => .flat

def DrawMode.code : DrawMode → BitVec 2
  | .greedy => 0
  | .temp => 1
  | .topk => 2
  | .flat => 3

/-- The B operand that S and B[5:0] name (R47). -/
def Src.ofFields (s : BitVec 1) (b : BitVec 6) : Src :=
  if s == 1 then .u (b.setWidth 5) else .g b

/-- The S bit of a B operand. -/
def Src.sBit : Src → BitVec 1
  | .g _ => 0
  | .u _ => 1

/-- The B field of a B operand. -/
def Src.bField : Src → BitVec 6
  | .g r => r
  | .u r => r.setWidth 6

/-! ## Decoding -/

/-- The end of every arm: checks 4 and 5 of R51, of the word's own bits and of the instruction. -/
def finish (c4 c5 : Bool) (i : Instr) : Except Nat Instr :=
  if c4 && i.codesOk then if c5 && i.regsOk then .ok i else .error 5 else .error 4

/-- The end of an always-literal word (R48): check 6 follows the checks of the word's own bits.
`none` from `mk` is a reserved value in the literal. -/
def finishLit (lit : Option Word) (c4 c5 : Bool) (mk : Nat → Option Instr) : Except Nat Instr :=
  match lit with
  | none => if c4 then if c5 then .error 6 else .error 5 else .error 4
  | some l =>
    match mk l.toNat with
    | none => .error 4
    | some i => finish c4 c5 i

def fldD (w : Nat) : Reg := fld w 15 6
def fldA (w : Nat) : Reg := fld w 9 6
def fldB (w : Nat) : Reg := fld w 3 6
def fldS (w : Nat) : BitVec 1 := fld w 2 1
def fldN (w : Nat) : Nat := (fld w 0 2).toNat

/-- D, A, B and S are fields marked unused where this is asked (R47, R53). -/
def noD (w : Nat) : Bool := fldD w == 0
def noA (w : Nat) : Bool := fldA w == 0
def noB (w : Nat) : Bool := fldB w == 0
def noS (w : Nat) : Bool := fldS w == 0

/-- A 6-bit field that names one of s0 to s31 (R47). -/
def isS (r : Reg) : Bool := decide (r.toNat < 32)

/-- The B operand of the R and P formats, and its rule: with S = 1, B[5] is 0 (R47). -/
def fldSrc (w : Nat) : Src := Src.ofFields (fldS w) (fldB w)
def srcOk (w : Nat) : Bool := noS w || isS (fldB w)

/-- An R-format word with three operands. -/
def decR3 (w : Nat) (mk : Reg → Reg → Src → Instr) : Except Nat Instr :=
  finish true (srcOk w) (mk (fldD w) (fldA w) (fldSrc w))

/-- An R-format word that leaves B and S unused. -/
def decR2 (w : Nat) (mk : Reg → Reg → Instr) : Except Nat Instr :=
  finish (noB w && noS w) true (mk (fldD w) (fldA w))

def dec00 (h : Hdr) (w : Nat) : Except Nat Instr :=
  let z := fld w 18 3 == 0
  let t : BitVec 16 := fld w 2 16
  match fldN w with
  | 0 => finish (z && t == 0) true (.nop h)
  | 1 => finish (z && t == 0) true (.yield h)
  | 2 => finish z true (.bkpt h t)
  | _ => .error 3

def dec02 (h : Hdr) (w : Nat) (lit : Option Word) : Except Nat Instr :=
  match fldN w with
  | 0 => finish (noD w && noB w && noS w) true (.brx h (fldA w))
  | 1 => finishLit lit (noA w && noB w && noS w) (evenField (fldD w))
      fun l => some (.call h (fldD w) (BitVec.ofNat 32 l))
  | 2 => finish (noB w && noS w) true (.callx h (fldD w) (fldA w))
  | _ => finish (noD w && noB w && noS w) true (.ret h (fldA w))

def dec03 (h : Hdr) (w : Nat) (lit : Option Word) : Except Nat Instr :=
  match fldN w with
  | 0 => finish (noD w && noA w && noB w && noS w) true (.exit h)
  | 1 => finishLit lit (noA w && noB w && noS w) (evenField (fldD w))
      fun l => some (.meet h (fldD w) (BitVec.ofNat 32 l))
  | 2 => finish (noD w && noB w && noS w) true (.setm h (fldA w))
  | _ => finish (noA w && noB w && noS w) true (.getm h (fldD w))

def dec04 (h : Hdr) (w : Nat) : Except Nat Instr :=
  let z := fld w 18 3 == 0
  let t : BitVec 16 := fld w 2 16
  match fldN w with
  | 0 => finish (z && t == 0) true (.rgn h)
  | 1 => finish z true (.trap h t)
  | _ => .error 3

def dec08 (h : Hdr) (w : Nat) : Except Nat Instr :=
  match fldN w with
  | 0 => decR3 w (.addI32 h)
  | 1 => decR3 w (.subI32 h)
  | 2 => decR3 w (.addxN32 h)
  | _ => decR3 w (.subxN32 h)

def dec09 (h : Hdr) (w : Nat) : Except Nat Instr :=
  match fldN w with
  | 0 => decR3 w (.addI64 h)
  | 1 => decR3 w (.subI64 h)
  | 2 => decR3 w (.mulwI32 h)
  | _ => decR3 w (.madwI32 h)

def dec0B (h : Hdr) (w : Nat) : Except Nat Instr :=
  match fldN w with
  | 0 => decR3 w (.mulI32 h)
  | 1 => decR3 w (.mulhiI32 h)
  | 2 => decR3 w (.mulhiN32 h)
  | _ => decR3 w (.madI32 h)

def dec0C (h : Hdr) (w : Nat) : Except Nat Instr :=
  match fldN w with
  | 0 => decR3 w (.divI32 h)
  | 1 => decR3 w (.divN32 h)
  | 2 => decR3 w (.remI32 h)
  | _ => decR3 w (.remN32 h)

def dec0D (h : Hdr) (w : Nat) : Except Nat Instr :=
  match fldN w with
  | 0 => decR3 w (.andB32 h)
  | 1 => decR3 w (.orB32 h)
  | 2 => decR3 w (.xorB32 h)
  | _ => decR3 w (.andnB32 h)

def dec0E (h : Hdr) (w : Nat) : Except Nat Instr :=
  match fldN w with
  | 0 => decR3 w (.minI32 h)
  | 1 => decR3 w (.minN32 h)
  | 2 => decR3 w (.maxI32 h)
  | _ => decR3 w (.maxN32 h)

def dec0F (h : Hdr) (w : Nat) : Except Nat Instr :=
  match fldN w with
  | 0 => decR3 w (.shlB32 h)
  | 1 => decR3 w (.shrN32 h)
  | 2 => decR3 w (.shrI32 h)
  | _ => decR3 w (.bpermB32 h)

/-- Major 0x10: IMM6 is 0 to 31 for the shifts, 0 for the unary forms (R54). -/
def dec10 (h : Hdr) (w : Nat) : Except Nat Instr :=
  let n : BitVec 5 := fld w 0 5
  let hi := fld w 5 1 == 0
  let z := hi && n == 0
  match (fld w 6 3).toNat with
  | 0 => finish hi true (.shlB32Imm h (fldD w) (fldA w) n)
  | 1 => finish hi true (.shrN32Imm h (fldD w) (fldA w) n)
  | 2 => finish hi true (.shrI32Imm h (fldD w) (fldA w) n)
  | 3 => finish hi true (.rotB32 h (fldD w) (fldA w) n)
  | 4 => finish z true (.popcB32 h (fldD w) (fldA w))
  | 5 => finish z true (.clzB32 h (fldD w) (fldA w))
  | 6 => finish z true (.absI32 h (fldD w) (fldA w))
  | _ => finish z true (.negI32 h (fldD w) (fldA w))

def dec11 (h : Hdr) (w : Nat) : Except Nat Instr :=
  match fldN w with
  | 0 => decR3 w (.bfxN32 h)
  | 1 => decR3 w (.bfxI32 h)
  | 2 => decR3 w (.bfiB32 h)
  | _ => .error 3

def dec18 (h : Hdr) (w : Nat) : Except Nat Instr :=
  match Cc.ofCode (fld w 15 3) with
  | none => .error 4
  | some cc => finish true (srcOk w)
      (.cmp h (CmpT.ofCode (fld w 0 2)) cc (fld w 18 3) (fldA w) (fldSrc w))

def dec19 (h : Hdr) (w : Nat) : Except Nat Instr :=
  match Cc.ofCode (fld w 15 3) with
  | none => .error 4
  | some cc => finish true true (.cmpi h cc (fld w 18 3) (fldA w) (fld w 0 9))

def dec1A (h : Hdr) (w : Nat) : Except Nat Instr :=
  finish (fldN w == 0) (srcOk w)
    (.fcmp h (FCc.ofCode (fld w 15 3)) (fld w 18 3) (fldA w) (fldSrc w))

/-- Major 0x1C, OP = 7 (R56). -/
def dec1Cplop (h : Hdr) (w : Nat) : Except Nat Instr :=
  match Lop.ofCode (fld w 8 2) with
  | none => .error 4
  | some op => finish (fld w 3 5 == 0) true
      (.plop h op (fld w 18 3) (fld w 15 3) (flag1 w 14) (fld w 11 3) (flag1 w 10))

def dec1C (h : Hdr) (w : Nat) (lit : Option Word) : Except Nat Instr :=
  match (fld w 0 3).toNat with
  | 0 => finish (noB w) true (.movB32 h (fldD w) (fldA w))
  | 1 => finish (noB w) true (.movB64 h (fldD w) (fldA w))
  | 2 => finishLit lit (noA w && noB w) true
      fun l => some (.movLit h (fldD w) (BitVec.ofNat 32 l))
  | 3 => finish (noA w && fld w 8 1 == 0) true (.movB32S h (fldD w) (fld w 3 5))
  | 4 =>
    let z := fld w 17 4 == 0 && fld w 3 5 == 0
    if flag1 w 8 then finish z true (.xidx h (fld w 15 2) (fldA w))
    else finish z true (.xset h (fld w 15 2) (fldA w))
  | 5 => finish (fld w 11 4 == 0 && fld w 3 6 == 0) true (.rdx h (fldD w) (fld w 9 2))
  | 6 => finish (fld w 17 4 == 0 && fld w 3 6 == 0) true (.wrx h (fld w 15 2) (fldA w))
  | _ => dec1Cplop h w

/-- The offset of an M-format word: the literal if it reads it, else 0 (R48). -/
def offOf (lit : Option Word) : Word := lit.getD 0

def dec1D (h : Hdr) (w : Nat) (lit : Option Word) : Except Nat Instr :=
  match Size.ofCode (fld w 0 3) with
  | none => .error 4
  | some sz =>
    match (fld w 3 2).toNat with
    | 0 => finish true true (.ld h (fldD w) (fldA w) (fld w 5 4) sz (offOf lit))
    | 1 => finish true true (.st h (fldD w) (fldA w) (fld w 5 4) sz (offOf lit))
    | _ => .error 4

def dec20 (h : Hdr) (w : Nat) : Except Nat Instr :=
  match fldN w with
  | 0 => decR3 w (.addF32 h)
  | 1 => decR3 w (.subF32 h)
  | 2 => decR3 w (.mulF32 h)
  | _ => decR3 w (.fmaF32 h)

def dec21 (h : Hdr) (w : Nat) : Except Nat Instr :=
  match fldN w with
  | 0 => decR3 w (.minF32 h)
  | 1 => decR3 w (.maxF32 h)
  | 2 => decR2 w (.absF32 h)
  | _ => decR2 w (.negF32 h)

def dec22 (h : Hdr) (w : Nat) : Except Nat Instr :=
  match fldN w with
  | 0 => decR3 w (.addF16x2 h)
  | 1 => decR3 w (.mulF16x2 h)
  | 2 => decR3 w (.fmaF16x2 h)
  | _ => decR3 w (.maxF16x2 h)

def dec23 (h : Hdr) (w : Nat) : Except Nat Instr :=
  match fldN w with
  | 0 => decR3 w (.addBf16x2 h)
  | 1 => decR3 w (.mulBf16x2 h)
  | 2 => decR3 w (.fmaBf16x2 h)
  | _ => decR3 w (.maxBf16x2 h)

/-- Major 0x24: B names a triple of general registers, so S is 0 (R58). -/
def dec24 (h : Hdr) (w : Nat) : Except Nat Instr :=
  match fldN w with
  | 0 => finish true (noS w) (.pmergeF32 h (fldD w) (fldA w) (fldB w))
  | _ => .error 3

def dec2A (h : Hdr) (w : Nat) : Except Nat Instr :=
  let z := fld w 0 2 == 0
  let sb : Flag := fld w 2 4
  match (fld w 6 3).toNat with
  | 0 => finish z true (.ex2F32 h (fldD w) (fldA w) sb)
  | 1 => finish z true (.lg2F32 h (fldD w) (fldA w) sb)
  | 2 => finish z true (.rcpF32 h (fldD w) (fldA w) sb)
  | 3 => finish z true (.rsqF32 h (fldD w) (fldA w) sb)
  | 4 => finish z true (.sinF32 h (fldD w) (fldA w) sb)
  | 5 => finish z true (.cosF32 h (fldD w) (fldA w) sb)
  | _ => .error 3

/-- A word of majors 0x2C and 0x2D with three uniform operands (R47). -/
def decU3 (w : Nat) (mk : SReg → SReg → SReg → Instr) : Except Nat Instr :=
  finish true (noS w && isS (fldD w) && isS (fldA w) && isS (fldB w))
    (mk (fld w 15 5) (fld w 9 5) (fld w 3 5))

def dec2C (h : Hdr) (w : Nat) (lit : Option Word) : Except Nat Instr :=
  match fldN w with
  | 0 => decU3 w (.uaddI32 h)
  | 1 => decU3 w (.usubI32 h)
  | 2 => decU3 w (.umulI32 h)
  | _ => finishLit lit (noA w && noB w) (noS w && isS (fldD w))
      fun l => some (.umovlB32 h (fld w 15 5) (BitVec.ofNat 32 l))

def dec2D (h : Hdr) (w : Nat) : Except Nat Instr :=
  match fldN w with
  | 0 => decU3 w (.uandB32 h)
  | 1 => decU3 w (.uorB32 h)
  | 2 => decU3 w (.ushlB32 h)
  | _ => decU3 w (.ushrN32 h)

def dec2E (h : Hdr) (w : Nat) (lit : Option Word) : Except Nat Instr :=
  match Size.ofCode (fld w 0 3) with
  | none => .error 4
  | some sz => finish true (isS (fldD w) && isS (fldA w))
      (.sld h (fld w 15 5) (fld w 9 5) (fld w 5 4) (Space.ofCode (fld w 3 2)) sz (offOf lit))

/-- Major 0x30 (R61). DESIGN CHOICE (log entry 134): a ballot or rdfl whose D[20] is 1 fails check 5, as a register that it
cannot name; and rdfl takes B and S as unused fields (check 4), which R61 does not say. -/
def dec30 (h : Hdr) (w : Nat) : Except Nat Instr :=
  let bs := noB w && noS w
  match fldN w with
  | 0 => finish (fld w 18 3 == 0 && fld w 13 2 == 0 && bs) true
      (.voteAll h (fld w 15 3) (flag1 w 12) (fld w 9 3))
  | 1 => finish (fld w 18 3 == 0 && fld w 13 2 == 0 && bs) true
      (.voteAny h (fld w 15 3) (flag1 w 12) (fld w 9 3))
  | 2 => finish (fld w 13 2 == 0 && bs) (isS (fldD w))
      (.voteBallot h (fld w 15 5) (flag1 w 12) (fld w 9 3))
  | _ => finish bs (isS (fldD w)) (.rdfl h (fld w 15 5) (fldA w))

def dec31 (h : Hdr) (w : Nat) : Except Nat Instr :=
  match fldN w with
  | 0 => decR3 w (.shflIdx h)
  | 1 => decR3 w (.shflUp h)
  | 2 => decR3 w (.shflDown h)
  | _ => decR3 w (.shflXor h)

/-- Major 0x32 (R61). DESIGN CHOICE (log entry 134): a GBAR or BCAST with S = 0 fails check 5; and GBAR takes D and A as
unused fields (check 4), which R61 does not say. -/
def dec32 (h : Hdr) (w : Nat) : Except Nat Instr :=
  match fldN w with
  | 0 => finish (noD w && noA w && noB w && noS w) true (.bar h)
  | 1 => finish (noD w && noA w) (!noS w && isS (fldB w)) (.gbar h (fld w 3 5))
  | 2 => finish true (!noS w && isS (fldB w)) (.bcast h (fldD w) (fldA w) (fld w 3 5))
  | _ => .error 3

def dec33 (h : Hdr) (w : Nat) : Except Nat Instr :=
  let z := noD w && noA w && noS w
  match fldN w with
  | 0 => finish (z && fld w 6 3 == 0) true (.grow h (fld w 3 3))
  | 1 => finish (z && fld w 6 3 == 0) true (.shrink h (fld w 3 3))
  | 2 => finish (noA w && noB w && noS w) true (.take h (fldD w))
  | _ => finish (noD w && noB w && noS w) true (.spawn h (fldA w))

def dec34 (h : Hdr) (w : Nat) : Except Nat Instr :=
  match Size.ofCode (fld w 0 3) with
  | none => .error 4
  | some sz => finish (fld w 3 2 == 0) true (.req h (fldD w) (fldA w) (fld w 5 4) sz)

def dec35 (h : Hdr) (w : Nat) : Except Nat Instr :=
  match fldN w with
  | 0 => finish (noD w && noS w) true (.boinit h (fldA w) (fldB w))
  | 1 => finish (noB w && noS w) true (.boarrive h (fldD w) (fldA w))
  | 2 => finish (noD w && noS w) true (.bowait h (fldA w) (fldB w))
  | _ => .error 3

def dec38 (h : Hdr) (w : Nat) (lit : Option Word) : Except Nat Instr :=
  match Size.ofCode (fld w 0 3) with
  | none => .error 4
  | some sz => finish true true
      (.ldSpace h (fldD w) (fldA w) (fld w 5 4) (Space.ofCode (fld w 3 2)) sz (offOf lit))

def dec39 (h : Hdr) (w : Nat) (lit : Option Word) : Except Nat Instr :=
  match Size.ofCode (fld w 0 3) with
  | none => .error 4
  | some sz => finish true true
      (.stSpace h (fldD w) (fldA w) (fld w 5 4) (Space.ofCode (fld w 3 2)) sz (offOf lit))

/-- The control literal of major 0x3A (R63): operation, type, and scope, order, space and flag. -/
def decCtl (l : Nat) : Option (AOp × AType × Ctl) :=
  if fld l 0 12 == 0 then
    match AOp.ofCode (fld l 24 4), AType.ofCode (fld l 20 4), Scope.ofCode (fld l 17 3),
      Order.ofCode (fld l 14 3) with
    | some op, some ty, some sc, some o => some (op, ty, ⟨fld l 28 4, sc, o, Space.ofCode (fld l 12 2)⟩)
    | _, _, _, _ => none
  else none

/-- Forms of major 0x3A other than ATOM have OP = 0 (R64). -/
def decCtl0 (l : Nat) (mk : AType → Ctl → Instr) : Option Instr :=
  match decCtl l with
  | some (.add, ty, c) => some (mk ty c)
  | _ => none

def dec3A (h : Hdr) (w : Nat) (lit : Option Word) : Except Nat Instr :=
  match (fld w 0 3).toNat with
  | 0 => finishLit lit true true
      fun l => (decCtl l).map fun t => .atom h (fldD w) (fldA w) (fldB w) t.1 t.2.1 t.2.2
  | 1 => finishLit lit true true fun l => decCtl0 l (.cas h (fldD w) (fldA w) (fldB w))
  | 2 => finishLit lit (noB w) true fun l => decCtl0 l (.ldAtomic h (fldD w) (fldA w))
  | 3 => finishLit lit (noD w) true fun l => decCtl0 l (.stAtomic h (fldA w) (fldB w))
  | _ => .error 3

def dec3Bfence (h : Hdr) (w : Nat) : Except Nat Instr :=
  match Scope.ofCode (fld w 18 3), Order.ofCode (fld w 15 3) with
  | some sc, some o => finish (fld w 2 13 == 0) true (.fence h sc o)
  | _, _ => .error 4

def dec3B (h : Hdr) (w : Nat) : Except Nat Instr :=
  let z := fld w 15 3 == 0 && fld w 2 1 == 0
  match fldN w with
  | 0 => dec3Bfence h w
  | 1 =>
    match (fld w 18 3).toNat with
    | 0 => finish z true (.shedDropL1 h (fldA w) (fldB w))
    | 1 => finish z true (.shedCleanGrove h (fldA w) (fldB w))
    | 2 => finish (z && noA w && noB w) true (.shedDropL1All h)
    | _ => .error 4
  | 2 =>
    match (fld w 18 3).toNat with
    | 0 => finish z true (.warmGrove h (fldA w) (fldB w))
    | 1 => finish z true (.warmL1 h (fldA w) (fldB w))
    | _ => .error 4
  | _ => .error 3

/-- A literal that holds a shape id in [11:0] and is 0 above (R65, R66). -/
def decShape (l : Nat) (mk : BitVec 12 → Instr) : Option Instr :=
  if fld l 12 20 == 0 then some (mk (fld l 0 12)) else none

/-- The literal of DRAW (R65, R350). -/
def decDrawLit (l : Nat) (mk : BitVec 3 → SReg → Instr) : Option Instr :=
  if fld l 24 8 == 0 && fld l 0 16 == 0 then some (mk (fld l 21 3) (fld l 16 5)) else none

/-- The literal of ACCEPT (R65, R352). -/
def decAcceptLit (l : Nat) (mk : BitVec 3 → BitVec 3 → SReg → Instr) : Option Instr :=
  if fld l 24 8 == 0 && fld l 0 13 == 0 then some (mk (fld l 21 3) (fld l 18 3) (fld l 13 5))
  else none

def dec3C (h : Hdr) (w : Nat) (lit : Option Word) : Except Nat Instr :=
  let sb : Flag := fld w 12 4
  match (fld w 16 5).toNat with
  | 0x00 => finish true true (.claim h (fld w 0 16))
  | 0x01 => finish true true (.rels h (fld w 0 16))
  | 0x02 => finish (fld w 0 2 == 0) true (.kset h (fld w 12 4) (fld w 7 5) (fld w 2 5))
  | 0x04 => finishLit lit (fld w 0 2 == 0) (evenField (fld w 2 6) && flagField sb)
      fun l => decShape l (.ldt h sb (fld w 8 4) (fld w 2 6))
  | 0x05 => finishLit lit (fld w 0 2 == 0) (evenField (fld w 2 6) && flagField sb)
      fun l => decShape l (.stt h sb (fld w 8 4) (fld w 2 6))
  | 0x08 => finish (fld w 0 13 == 0) true (.accz h (fld w 13 3))
  | 0x09 => finish (fld w 6 3 == 0) true (.accld h sb (fld w 9 3) (fld w 0 6))
  | 0x0A =>
    match (fld w 6 3).toNat with
    | 0 => finish true true (.accst h sb (fld w 9 3) (fld w 0 6))
    | 1 => finish true true (.accstBf16 h sb (fld w 9 3) (fld w 0 6))
    | 2 => finish true true (.accstF16 h sb (fld w 9 3) (fld w 0 6))
    | _ => .error 4
  | 0x0C => finish (fld w 0 6 == 0) true (.mxsave h sb (fld w 6 6))
  | 0x0D => finish (fld w 0 6 == 0) true (.mxrest h sb (fld w 6 6))
  | 0x10 => finishLit lit (fld w 0 4 == 0) (evenField (fld w 4 6) && flagField (fld w 10 4))
      fun l => decDrawLit l (.draw h (DrawMode.ofCode (fld w 14 2)) (fld w 10 4) (fld w 4 6))
  | 0x11 => finishLit lit (fld w 0 6 == 0) (evenField (fld w 6 6) && flagField sb)
      fun l => decAcceptLit l (.accept h sb (fld w 6 6))
  | 0x14 | 0x15 | 0x16 | 0x17 => finish (fld w 0 1 == 0) true
      (.mma h (flag1 w 17) (flag1 w 16) (fld w 12 4) (fld w 9 3) (fld w 5 4) (fld w 1 4))
  | _ => .error 3

/-- The literal of XFORM (R66): shape id and transform opcode. -/
def decXformLit (l : Nat) (mk : BitVec 12 → Byte → Instr) : Option Instr :=
  if fld l 20 12 == 0 then some (mk (fld l 0 12) (fld l 12 8)) else none

def dec3D (h : Hdr) (w : Nat) (lit : Option Word) : Except Nat Instr :=
  let sb : Flag := fld w 12 4
  let a : Reg := fld w 6 6
  let b : Reg := fld w 0 6
  let okA := evenField a && flagField sb
  match (fld w 16 5).toNat with
  | 0x00 => finishLit lit true okA fun l => decShape l (.strmIn h sb a b)
  | 0x01 => finishLit lit true okA fun l => decShape l (.strmOut h sb a b)
  | 0x04 => finish (b == 0) true (.gnode h sb a)
  | 0x08 => finishLit lit true okA fun l => decXformLit l (.xform h sb a b)
  | 0x0C => finish true true (.link h sb a b)
  | 0x0D => finish (b == 0) true (.unlink h sb a)
  | 0x0E => finish (b == 0) true (.unlinkCmp h sb a)
  | 0x10 => finish (b == 0) true (.segrd h sb a)
  | 0x11 => finish (b == 0) true (.segrdRw h sb a)
  | 0x14 => finish true true (.gpw h sb a b)
  | _ => .error 3

def dec3E (h : Hdr) (w : Nat) : Except Nat Instr :=
  let sb : Flag := fld w 12 4
  match (fld w 16 5).toNat with
  | 0x00 => finish true true (.watch h sb (fld w 6 6) (fld w 0 6))
  | 0x01 => finish (fld w 0 6 == 0) true (.unwatch h sb (fld w 6 6))
  | 0x02 => finish true true (.srd h (fld w 10 6) (fld w 0 10))
  | 0x03 => finish true true (.swr h (fld w 10 6) (fld w 0 10))
  | 0x04 => finish (fld w 0 16 == 0) true (.tret h)
  | 0x08 => finish (fld w 0 6 == 0) true (.tlbinv h sb (fld w 6 6))
  | _ => .error 3

/-- The opcode map (R53 to R67). Reserved majors fail check 3. -/
def decodeMajor (m : Nat) (h : Hdr) (w : Nat) (lit : Option Word) : Except Nat Instr :=
  match m with
  | 0x00 => dec00 h w
  | 0x01 => finish true true (.bra h (fld w 0 21))
  | 0x02 => dec02 h w lit
  | 0x03 => dec03 h w lit
  | 0x04 => dec04 h w
  | 0x08 => dec08 h w
  | 0x09 => dec09 h w
  | 0x0A => finish true true (.addI32Imm h (fldD w) (fldA w) (fld w 0 9))
  | 0x0B => dec0B h w
  | 0x0C => dec0C h w
  | 0x0D => dec0D h w
  | 0x0E => dec0E h w
  | 0x0F => dec0F h w
  | 0x10 => dec10 h w
  | 0x11 => dec11 h w
  | 0x12 => finish true true (.movi h (fld w 16 5) (fld w 0 16))
  | 0x13 => finish true true (.movhi h (fld w 16 5) (fld w 0 16))
  | 0x18 => dec18 h w
  | 0x19 => dec19 h w
  | 0x1A => dec1A h w
  | 0x1B => finish true true (.sel h (fldD w) (fldA w) (fldB w) (fld w 0 3))
  | 0x1C => dec1C h w lit
  | 0x1D => dec1D h w lit
  | 0x20 => dec20 h w
  | 0x21 => dec21 h w
  | 0x22 => dec22 h w
  | 0x23 => dec23 h w
  | 0x24 => dec24 h w
  | 0x28 => finish true true
      (.cvt h (fldD w) (fldA w) (Fmt.ofCode (fld w 5 4)) (Fmt.ofCode (fld w 1 4)) (flag1 w 0))
  | 0x29 => finish (fld w 0 5 == 0) true (.scalex h (fldD w) (fldA w) (Fmt.ofCode (fld w 5 4)))
  | 0x2A => dec2A h w
  | 0x2C => dec2C h w lit
  | 0x2D => dec2D h w
  | 0x2E => dec2E h w lit
  | 0x30 => dec30 h w
  | 0x31 => dec31 h w
  | 0x32 => dec32 h w
  | 0x33 => dec33 h w
  | 0x34 => dec34 h w
  | 0x35 => dec35 h w
  | 0x38 => dec38 h w lit
  | 0x39 => dec39 h w lit
  | 0x3A => dec3A h w lit
  | 0x3B => dec3B h w
  | 0x3C => dec3C h w lit
  | 0x3D => dec3D h w lit
  | 0x3E => dec3E h w
  | _ => .error 3

/-- The header of a word (R44). -/
def decHdr (w : Nat) : Hdr := ⟨flag1 w 31, flag1 w 30, fld w 27 3⟩

/-- Decode a word. `lit` is the literal if the word stands in slot 2 of a packet with L = 1, and
`none` in any other place (R48). The error is the number of the failing check of R51. -/
def decode (w : Word) (lit : Option Word) : Except Nat Instr :=
  if (decHdr w.toNat).ok then
    decodeMajor (fld w.toNat 21 6).toNat (decHdr w.toNat) w.toNat lit
  else .error 2

/-- The instruction of a row of the opcode table, with its literal in the bits above 31. -/
def decodeTableWord (_nbits w : Nat) : Option Instr :=
  match decode (BitVec.ofNat 32 w) (some (BitVec.ofNat 32 (w / 2 ^ 32))) with
  | .ok i => some i
  | .error _ => none

/-! ## Encoding -/

/-- The bit of a Boolean field. -/
def bitOf (b : Bool) : (n : Nat) × BitVec n := ⟨1, if b then 1 else 0⟩

/-- A word: header, major and the 21 bits of its format (R44). -/
def word (h : Hdr) (m : BitVec 6) (f : Fields) : Word :=
  BitVec.ofNat 32 (packFields (bitOf h.chain :: bitOf h.gneg :: ⟨3, h.gp⟩ :: ⟨6, m⟩ :: f))

/-- A literal word. -/
def litWord (f : Fields) : Option Word := some (BitVec.ofNat 32 (packFields f))

def fmtZ (n : BitVec 2) (t : BitVec 16) : Fields := [⟨3, 0⟩, ⟨16, t⟩, ⟨2, n⟩]
def fmtR (n : BitVec 2) (d a : Reg) (b : Src) : Fields :=
  [⟨6, d⟩, ⟨6, a⟩, ⟨6, b.bField⟩, ⟨1, b.sBit⟩, ⟨2, n⟩]
def fmtR2 (n : BitVec 2) (d a b : Reg) : Fields := [⟨6, d⟩, ⟨6, a⟩, ⟨6, b⟩, ⟨1, 0⟩, ⟨2, n⟩]
def fmtH (f : BitVec 3) (d a : Reg) (n : BitVec 5) : Fields :=
  [⟨6, d⟩, ⟨6, a⟩, ⟨3, f⟩, ⟨1, 0⟩, ⟨5, n⟩]
def fmtO (op : BitVec 3) (d a b : Reg) : Fields := [⟨6, d⟩, ⟨6, a⟩, ⟨6, b⟩, ⟨3, op⟩]
def fmtM (d a : Reg) (sb : Flag) (sp : BitVec 2) (sz : Size) : Fields :=
  [⟨6, d⟩, ⟨6, a⟩, ⟨4, sb⟩, ⟨2, sp⟩, ⟨3, sz.code⟩]
def fmtF (f : BitVec 3) (d a : Reg) (sb : Flag) : Fields :=
  [⟨6, d⟩, ⟨6, a⟩, ⟨3, f⟩, ⟨4, sb⟩, ⟨2, 0⟩]
def fmtU (n : BitVec 2) (d a b : SReg) : Fields :=
  [⟨1, 0⟩, ⟨5, d⟩, ⟨1, 0⟩, ⟨5, a⟩, ⟨1, 0⟩, ⟨5, b⟩, ⟨1, 0⟩, ⟨2, n⟩]
def fmtVote (n : BitVec 2) (hi : BitVec 3) (pd : PReg) (na : Bool) (pa : PReg) : Fields :=
  [⟨3, hi⟩, ⟨3, pd⟩, ⟨2, 0⟩, bitOf na, ⟨3, pa⟩, ⟨6, 0⟩, ⟨1, 0⟩, ⟨2, n⟩]
def fmtK (d : BitVec 5) (imm : BitVec 16) : Fields := [⟨5, d⟩, ⟨16, imm⟩]
def fmtCctl (n : BitVec 2) (code : BitVec 3) (a b : Reg) : Fields :=
  [⟨3, code⟩, ⟨3, 0⟩, ⟨6, a⟩, ⟨6, b⟩, ⟨1, 0⟩, ⟨2, n⟩]
/-- The E format with a flag and two registers in P (R66, R67). -/
def fmtE (sub : BitVec 5) (sb : Flag) (a b : Reg) : Fields := [⟨5, sub⟩, ⟨4, sb⟩, ⟨6, a⟩, ⟨6, b⟩]
def fmtLdt (sub : BitVec 5) (sb : Flag) (os : BitVec 4) (a : Reg) : Fields :=
  [⟨5, sub⟩, ⟨4, sb⟩, ⟨4, os⟩, ⟨6, a⟩, ⟨2, 0⟩]
def fmtAcc (sub : BitVec 5) (cv : BitVec 3) (sb : Flag) (acc : BitVec 3) (a : Reg) : Fields :=
  [⟨5, sub⟩, ⟨4, sb⟩, ⟨3, acc⟩, ⟨3, cv⟩, ⟨6, a⟩]
def litCtl (op : AOp) (ty : AType) (c : Ctl) : Option Word :=
  litWord [⟨4, c.sb⟩, ⟨4, op.code⟩, ⟨4, ty.code⟩, ⟨3, c.scope.code⟩, ⟨3, c.order.code⟩,
    ⟨2, c.sp.code⟩, ⟨12, 0⟩]
def litShape (s : BitVec 12) : Option Word := litWord [⟨20, 0⟩, ⟨12, s⟩]

/-- The major and the format fields of an instruction word, and its literal if it reads one. An
event has no encoding. -/
def encBody : Instr → Option (BitVec 6 × Fields × Option Word)
  | .nop _ => some (0x00, fmtZ 0 0, none)
  | .yield _ => some (0x00, fmtZ 1 0, none)
  | .bkpt _ t => some (0x00, fmtZ 2 t, none)
  | .bra _ off => some (0x01, [⟨21, off⟩], none)
  | .brx _ a => some (0x02, fmtR2 0 0 a 0, none)
  | .call _ d l => some (0x02, fmtR2 1 d 0 0, some l)
  | .callx _ d a => some (0x02, fmtR2 2 d a 0, none)
  | .ret _ a => some (0x02, fmtR2 3 0 a 0, none)
  | .exit _ => some (0x03, fmtR2 0 0 0 0, none)
  | .meet _ d l => some (0x03, fmtR2 1 d 0 0, some l)
  | .setm _ a => some (0x03, fmtR2 2 0 a 0, none)
  | .getm _ d => some (0x03, fmtR2 3 d 0 0, none)
  | .rgn _ => some (0x04, fmtZ 0 0, none)
  | .trap _ t => some (0x04, fmtZ 1 t, none)
  | .addI32 _ d a b => some (0x08, fmtR 0 d a b, none)
  | .subI32 _ d a b => some (0x08, fmtR 1 d a b, none)
  | .addxN32 _ d a b => some (0x08, fmtR 2 d a b, none)
  | .subxN32 _ d a b => some (0x08, fmtR 3 d a b, none)
  | .addI64 _ d a b => some (0x09, fmtR 0 d a b, none)
  | .subI64 _ d a b => some (0x09, fmtR 1 d a b, none)
  | .mulwI32 _ d a b => some (0x09, fmtR 2 d a b, none)
  | .madwI32 _ d a b => some (0x09, fmtR 3 d a b, none)
  | .addI32Imm _ d a imm => some (0x0A, [⟨6, d⟩, ⟨6, a⟩, ⟨9, imm⟩], none)
  | .mulI32 _ d a b => some (0x0B, fmtR 0 d a b, none)
  | .mulhiI32 _ d a b => some (0x0B, fmtR 1 d a b, none)
  | .mulhiN32 _ d a b => some (0x0B, fmtR 2 d a b, none)
  | .madI32 _ d a b => some (0x0B, fmtR 3 d a b, none)
  | .divI32 _ d a b => some (0x0C, fmtR 0 d a b, none)
  | .divN32 _ d a b => some (0x0C, fmtR 1 d a b, none)
  | .remI32 _ d a b => some (0x0C, fmtR 2 d a b, none)
  | .remN32 _ d a b => some (0x0C, fmtR 3 d a b, none)
  | .andB32 _ d a b => some (0x0D, fmtR 0 d a b, none)
  | .orB32 _ d a b => some (0x0D, fmtR 1 d a b, none)
  | .xorB32 _ d a b => some (0x0D, fmtR 2 d a b, none)
  | .andnB32 _ d a b => some (0x0D, fmtR 3 d a b, none)
  | .minI32 _ d a b => some (0x0E, fmtR 0 d a b, none)
  | .minN32 _ d a b => some (0x0E, fmtR 1 d a b, none)
  | .maxI32 _ d a b => some (0x0E, fmtR 2 d a b, none)
  | .maxN32 _ d a b => some (0x0E, fmtR 3 d a b, none)
  | .shlB32 _ d a b => some (0x0F, fmtR 0 d a b, none)
  | .shrN32 _ d a b => some (0x0F, fmtR 1 d a b, none)
  | .shrI32 _ d a b => some (0x0F, fmtR 2 d a b, none)
  | .bpermB32 _ d a b => some (0x0F, fmtR 3 d a b, none)
  | .shlB32Imm _ d a n => some (0x10, fmtH 0 d a n, none)
  | .shrN32Imm _ d a n => some (0x10, fmtH 1 d a n, none)
  | .shrI32Imm _ d a n => some (0x10, fmtH 2 d a n, none)
  | .rotB32 _ d a n => some (0x10, fmtH 3 d a n, none)
  | .popcB32 _ d a => some (0x10, fmtH 4 d a 0, none)
  | .clzB32 _ d a => some (0x10, fmtH 5 d a 0, none)
  | .absI32 _ d a => some (0x10, fmtH 6 d a 0, none)
  | .negI32 _ d a => some (0x10, fmtH 7 d a 0, none)
  | .bfxN32 _ d a b => some (0x11, fmtR 0 d a b, none)
  | .bfxI32 _ d a b => some (0x11, fmtR 1 d a b, none)
  | .bfiB32 _ d a b => some (0x11, fmtR 2 d a b, none)
  | .movi _ d imm => some (0x12, fmtK d imm, none)
  | .movhi _ d imm => some (0x13, fmtK d imm, none)
  | .cmp _ t cc pd a b =>
    some (0x18, [⟨3, pd⟩, ⟨3, cc.code⟩, ⟨6, a⟩, ⟨6, b.bField⟩, ⟨1, b.sBit⟩, ⟨2, t.code⟩], none)
  | .cmpi _ cc pd a imm => some (0x19, [⟨3, pd⟩, ⟨3, cc.code⟩, ⟨6, a⟩, ⟨9, imm⟩], none)
  | .fcmp _ cc pd a b =>
    some (0x1A, [⟨3, pd⟩, ⟨3, cc.code⟩, ⟨6, a⟩, ⟨6, b.bField⟩, ⟨1, b.sBit⟩, ⟨2, 0⟩], none)
  | .sel _ d a b p => some (0x1B, fmtO p d a b, none)
  | .movB32 _ d a => some (0x1C, fmtO 0 d a 0, none)
  | .movB64 _ d a => some (0x1C, fmtO 1 d a 0, none)
  | .movLit _ d l => some (0x1C, fmtO 2 d 0 0, some l)
  | .movB32S _ d u => some (0x1C, [⟨6, d⟩, ⟨6, 0⟩, ⟨1, 0⟩, ⟨5, u⟩, ⟨3, 3⟩], none)
  | .xset _ k a => some (0x1C, [⟨4, 0⟩, ⟨2, k⟩, ⟨6, a⟩, ⟨1, 0⟩, ⟨5, 0⟩, ⟨3, 4⟩], none)
  | .xidx _ k a => some (0x1C, [⟨4, 0⟩, ⟨2, k⟩, ⟨6, a⟩, ⟨1, 1⟩, ⟨5, 0⟩, ⟨3, 4⟩], none)
  | .rdx _ d k => some (0x1C, [⟨6, d⟩, ⟨4, 0⟩, ⟨2, k⟩, ⟨6, 0⟩, ⟨3, 5⟩], none)
  | .wrx _ k a => some (0x1C, [⟨4, 0⟩, ⟨2, k⟩, ⟨6, a⟩, ⟨6, 0⟩, ⟨3, 6⟩], none)
  | .plop _ op pd pa na pb nb =>
    some (0x1C, [⟨3, pd⟩, ⟨3, pa⟩, bitOf na, ⟨3, pb⟩, bitOf nb, ⟨2, op.code⟩, ⟨5, 0⟩, ⟨3, 7⟩],
      none)
  | .ld _ d a sb sz off => some (0x1D, fmtM d a sb 0 sz, some off)
  | .st _ d a sb sz off => some (0x1D, fmtM d a sb 1 sz, some off)
  | .addF32 _ d a b => some (0x20, fmtR 0 d a b, none)
  | .subF32 _ d a b => some (0x20, fmtR 1 d a b, none)
  | .mulF32 _ d a b => some (0x20, fmtR 2 d a b, none)
  | .fmaF32 _ d a b => some (0x20, fmtR 3 d a b, none)
  | .minF32 _ d a b => some (0x21, fmtR 0 d a b, none)
  | .maxF32 _ d a b => some (0x21, fmtR 1 d a b, none)
  | .absF32 _ d a => some (0x21, fmtR2 2 d a 0, none)
  | .negF32 _ d a => some (0x21, fmtR2 3 d a 0, none)
  | .addF16x2 _ d a b => some (0x22, fmtR 0 d a b, none)
  | .mulF16x2 _ d a b => some (0x22, fmtR 1 d a b, none)
  | .fmaF16x2 _ d a b => some (0x22, fmtR 2 d a b, none)
  | .maxF16x2 _ d a b => some (0x22, fmtR 3 d a b, none)
  | .addBf16x2 _ d a b => some (0x23, fmtR 0 d a b, none)
  | .mulBf16x2 _ d a b => some (0x23, fmtR 1 d a b, none)
  | .fmaBf16x2 _ d a b => some (0x23, fmtR 2 d a b, none)
  | .maxBf16x2 _ d a b => some (0x23, fmtR 3 d a b, none)
  | .pmergeF32 _ d a b => some (0x24, fmtR2 0 d a b, none)
  | .cvt _ d a tD tS rz =>
    some (0x28, [⟨6, d⟩, ⟨6, a⟩, ⟨4, tD.code⟩, ⟨4, tS.code⟩, bitOf rz], none)
  | .scalex _ d a t => some (0x29, [⟨6, d⟩, ⟨6, a⟩, ⟨4, t.code⟩, ⟨5, 0⟩], none)
  | .ex2F32 _ d a sb => some (0x2A, fmtF 0 d a sb, none)
  | .lg2F32 _ d a sb => some (0x2A, fmtF 1 d a sb, none)
  | .rcpF32 _ d a sb => some (0x2A, fmtF 2 d a sb, none)
  | .rsqF32 _ d a sb => some (0x2A, fmtF 3 d a sb, none)
  | .sinF32 _ d a sb => some (0x2A, fmtF 4 d a sb, none)
  | .cosF32 _ d a sb => some (0x2A, fmtF 5 d a sb, none)
  | .uaddI32 _ d a b => some (0x2C, fmtU 0 d a b, none)
  | .usubI32 _ d a b => some (0x2C, fmtU 1 d a b, none)
  | .umulI32 _ d a b => some (0x2C, fmtU 2 d a b, none)
  | .umovlB32 _ d l => some (0x2C, fmtU 3 d 0 0, some l)
  | .uandB32 _ d a b => some (0x2D, fmtU 0 d a b, none)
  | .uorB32 _ d a b => some (0x2D, fmtU 1 d a b, none)
  | .ushlB32 _ d a b => some (0x2D, fmtU 2 d a b, none)
  | .ushrN32 _ d a b => some (0x2D, fmtU 3 d a b, none)
  | .sld _ d a sb sp sz off =>
    some (0x2E, [⟨1, 0⟩, ⟨5, d⟩, ⟨1, 0⟩, ⟨5, a⟩, ⟨4, sb⟩, ⟨2, sp.code⟩, ⟨3, sz.code⟩], some off)
  | .voteAll _ pd na pa => some (0x30, fmtVote 0 0 pd na pa, none)
  | .voteAny _ pd na pa => some (0x30, fmtVote 1 0 pd na pa, none)
  | .voteBallot _ d na pa =>
    some (0x30, [⟨1, 0⟩, ⟨5, d⟩, ⟨2, 0⟩, bitOf na, ⟨3, pa⟩, ⟨6, 0⟩, ⟨1, 0⟩, ⟨2, 2⟩], none)
  | .rdfl _ d a => some (0x30, [⟨1, 0⟩, ⟨5, d⟩, ⟨6, a⟩, ⟨6, 0⟩, ⟨1, 0⟩, ⟨2, 3⟩], none)
  | .shflIdx _ d a b => some (0x31, fmtR 0 d a b, none)
  | .shflUp _ d a b => some (0x31, fmtR 1 d a b, none)
  | .shflDown _ d a b => some (0x31, fmtR 2 d a b, none)
  | .shflXor _ d a b => some (0x31, fmtR 3 d a b, none)
  | .bar _ => some (0x32, fmtR2 0 0 0 0, none)
  | .gbar _ s => some (0x32, fmtR 1 0 0 (.u s), none)
  | .bcast _ d a s => some (0x32, fmtR 2 d a (.u s), none)
  | .grow _ k => some (0x33, [⟨6, 0⟩, ⟨6, 0⟩, ⟨3, 0⟩, ⟨3, k⟩, ⟨1, 0⟩, ⟨2, 0⟩], none)
  | .shrink _ k => some (0x33, [⟨6, 0⟩, ⟨6, 0⟩, ⟨3, 0⟩, ⟨3, k⟩, ⟨1, 0⟩, ⟨2, 1⟩], none)
  | .take _ d => some (0x33, fmtR2 2 d 0 0, none)
  | .spawn _ a => some (0x33, fmtR2 3 0 a 0, none)
  | .req _ d a sb sz => some (0x34, fmtM d a sb 0 sz, none)
  | .boinit _ a b => some (0x35, fmtR2 0 0 a b, none)
  | .boarrive _ d a => some (0x35, fmtR2 1 d a 0, none)
  | .bowait _ a b => some (0x35, fmtR2 2 0 a b, none)
  | .ldSpace _ d a sb sp sz off => some (0x38, fmtM d a sb sp.code sz, some off)
  | .stSpace _ d a sb sp sz off => some (0x39, fmtM d a sb sp.code sz, some off)
  | .atom _ d a b op ty c => some (0x3A, fmtO 0 d a b, litCtl op ty c)
  | .cas _ d a b ty c => some (0x3A, fmtO 1 d a b, litCtl .add ty c)
  | .ldAtomic _ d a ty c => some (0x3A, fmtO 2 d a 0, litCtl .add ty c)
  | .stAtomic _ a b ty c => some (0x3A, fmtO 3 0 a b, litCtl .add ty c)
  | .fence _ sc o => some (0x3B, [⟨3, sc.code⟩, ⟨3, o.code⟩, ⟨13, 0⟩, ⟨2, 0⟩], none)
  | .shedDropL1 _ a b => some (0x3B, fmtCctl 1 0 a b, none)
  | .shedCleanGrove _ a b => some (0x3B, fmtCctl 1 1 a b, none)
  | .shedDropL1All _ => some (0x3B, fmtCctl 1 2 0 0, none)
  | .warmGrove _ a b => some (0x3B, fmtCctl 2 0 a b, none)
  | .warmL1 _ a b => some (0x3B, fmtCctl 2 1 a b, none)
  | .claim _ m => some (0x3C, [⟨5, 0x00⟩, ⟨16, m⟩], none)
  | .rels _ m => some (0x3C, [⟨5, 0x01⟩, ⟨16, m⟩], none)
  | .kset _ k a b => some (0x3C, [⟨5, 0x02⟩, ⟨4, k⟩, ⟨5, a⟩, ⟨5, b⟩, ⟨2, 0⟩], none)
  | .ldt _ sb os a s => some (0x3C, fmtLdt 0x04 sb os a, litShape s)
  | .stt _ sb os a s => some (0x3C, fmtLdt 0x05 sb os a, litShape s)
  | .accz _ acc => some (0x3C, [⟨5, 0x08⟩, ⟨3, acc⟩, ⟨13, 0⟩], none)
  | .accld _ sb acc a => some (0x3C, fmtAcc 0x09 0 sb acc a, none)
  | .accst _ sb acc a => some (0x3C, fmtAcc 0x0A 0 sb acc a, none)
  | .accstBf16 _ sb acc a => some (0x3C, fmtAcc 0x0A 1 sb acc a, none)
  | .accstF16 _ sb acc a => some (0x3C, fmtAcc 0x0A 2 sb acc a, none)
  | .mxsave _ sb a => some (0x3C, fmtE 0x0C sb a 0, none)
  | .mxrest _ sb a => some (0x3C, fmtE 0x0D sb a 0, none)
  | .draw _ mode sb d acc ps =>
    some (0x3C, [⟨5, 0x10⟩, ⟨2, mode.code⟩, ⟨4, sb⟩, ⟨6, d⟩, ⟨4, 0⟩],
      litWord [⟨8, 0⟩, ⟨3, acc⟩, ⟨5, ps⟩, ⟨16, 0⟩])
  | .accept _ sb d accp accq ps =>
    some (0x3C, fmtE 0x11 sb d 0, litWord [⟨8, 0⟩, ⟨3, accp⟩, ⟨3, accq⟩, ⟨5, ps⟩, ⟨13, 0⟩])
  | .mma _ ta tb k acc oa ob =>
    some (0x3C, [⟨3, 5⟩, bitOf ta, bitOf tb, ⟨4, k⟩, ⟨3, acc⟩, ⟨4, oa⟩, ⟨4, ob⟩, ⟨1, 0⟩], none)
  | .strmIn _ sb a b s => some (0x3D, fmtE 0x00 sb a b, litShape s)
  | .strmOut _ sb a b s => some (0x3D, fmtE 0x01 sb a b, litShape s)
  | .gnode _ sb a => some (0x3D, fmtE 0x04 sb a 0, none)
  | .xform _ sb a b s x =>
    some (0x3D, fmtE 0x08 sb a b, litWord [⟨12, 0⟩, ⟨8, x⟩, ⟨12, s⟩])
  | .link _ sb a b => some (0x3D, fmtE 0x0C sb a b, none)
  | .unlink _ sb a => some (0x3D, fmtE 0x0D sb a 0, none)
  | .unlinkCmp _ sb a => some (0x3D, fmtE 0x0E sb a 0, none)
  | .segrd _ sb a => some (0x3D, fmtE 0x10 sb a 0, none)
  | .segrdRw _ sb a => some (0x3D, fmtE 0x11 sb a 0, none)
  | .gpw _ sb n b => some (0x3D, fmtE 0x14 sb n b, none)
  | .watch _ sb a d => some (0x3E, fmtE 0x00 sb a d, none)
  | .unwatch _ sb a => some (0x3E, fmtE 0x01 sb a 0, none)
  | .srd _ d y => some (0x3E, [⟨5, 0x02⟩, ⟨6, d⟩, ⟨10, y⟩], none)
  | .swr _ a y => some (0x3E, [⟨5, 0x03⟩, ⟨6, a⟩, ⟨10, y⟩], none)
  | .tret _ => some (0x3E, [⟨5, 0x04⟩, ⟨16, 0⟩], none)
  | .tlbinv _ sb a => some (0x3E, fmtE 0x08 sb a 0, none)
  | _ => none

/-- The word and the literal of an instruction; none for an event. -/
def encode (i : Instr) : Option (Word × Option Word) :=
  (encBody i).map fun t => (word i.hdr t.1 t.2.1, t.2.2)

end Sys2Proof
end

