-- ==== Sys2Proof/Config.lean ====
section
/-!
DEFINITION. What the spec leaves open. Every constant here is opaque: nothing can be proved of its
value. The step applies those of the first group to the counter `State.free`, which it advances, so
that each use gets a fresh value. The last group stands for the cryptographic primitives that the
spec names by their standards (FIPS 205, SHAKE256, ECDSA P-384, SHA-384).
-/

namespace Sys2Proof.Config

/-- A choice between two outcomes that the spec leaves open: an early read (R19), a write race (R19),
a line of the L1 that may still be there (R223). -/
opaque pick : Nat → Nat → Bool

/-- A 32-bit value that the spec leaves open. -/
opaque freeWord : Nat → Nat → Word

/-- A choice among `n` candidates that the spec leaves open: the victim of a steal (R146), the home
slice of a line (R223), the next page of a clearing stage (R228). Callers take it modulo the number
of candidates. -/
opaque choose : Nat → Nat → Nat

/-- A byte that the spec leaves open (the bytes left by overlapping copies, R434). -/
opaque freeByte : Nat → Nat → Byte

/-- SLH-DSA-SHAKE-256s verification (FIPS 205, R431): body digest and signature. -/
opaque slhDsaVerify : List Byte → List Byte → Bool

/-- The body and the signature of a boot image (R431): 0 firmware, 1 part configuration record, 2 ROM contents of the
command processor, 3 Dexicor configuration. -/
opaque bootBody : Nat → List Byte
opaque bootSig : Nat → List Byte

/-- ECDSA P-384 with SHA-384 verification under the debug-authority key (R442): message, r and s. -/
opaque ecdsaVerify : List Byte → List Byte → List Byte → Bool

/-- ECDSA P-384 with SHA-384 signing by Heartwood (R433). -/
opaque ecdsaSign : List Byte → List Byte

/-- The part's certificate chain (R433). The spec gives no content. -/
opaque certificate : List Byte

/-- The bytes of an SPDM response that the spec does not lay out (R433): the request's code and the
number of the response. -/
opaque spdmBytes : Nat → Nat → List Byte

end Sys2Proof.Config
end

