-- ==== Sys2Proof/Machine/State.lean ====
section
/-!
DEFINITION. The state of the G9 as plain data. Every field cites the rule of spec/ that names it;
INVENTORY.md lists them with their reset values.
-/

namespace Sys2Proof.Machine

/-- Bytes by address, strictly rising, none of them 0: an unlisted byte reads 0 (log entry 2). -/
abbrev Memory := List Host.Cell

/-! ## Lanes -/

/-- The registers that R19 speaks of. -/
inductive RegName where
  | g (r : Reg)
  | p (r : PReg)
  | x (k : BitVec 2)
  | m
  | s (r : SReg)
  deriving DecidableEq, Repr

/-- The pipes (R18). -/
inductive Pipe where
  | control | integer | memory | fp | sfu | uniform | coop | matrix | engine
  deriving DecidableEq, Repr

/-- What a waiting lane waits for (R130). -/
inductive Wait where
  /-- at the crew barrier (R162) -/
  | crewBar
  /-- at the barrier of a group (R163) -/
  | groupBar (grp : Nat)
  /-- at the barrier of a group by BCAST: group, root crew, destination, and g[A] as read (R164) -/
  | bcast (grp root : Nat) (d : Reg) (v : Word)
  /-- in TAKE, for a work request: the request and the destination (R167) -/
  | take (req : Nat) (d : Reg)
  /-- at an MMA, on a convergence register (R200) -/
  | mma (k : BitVec 4)
  /-- in BOWAIT: scratchpad byte of the object, its address as given, and token (R271) -/
  | bowait (obj : Nat) (addr : Word) (token : BitVec 16)
  /-- masked by a pending trap (R361, R362) -/
  | trap
  /-- at a TRET (R366) -/
  | tret
  /-- at a BKPT that stopped its quarter (R405) -/
  | bkpt
  deriving DecidableEq, Repr

/-- The states of a lane (R130, R136, R90). -/
inductive LaneSt where
  | absent
  | exited
  | held
  | eligible
  | waiting (w : Wait)
  deriving DecidableEq, Repr

/-- A trap of one lane: what trap entry records of it (R355 to R357). -/
structure Trap where
  code : Byte
  info : BitVec 16
  async : Bool
  abrt : Bool
  addr : DWord
  orig : DWord
  deriving DecidableEq, Repr

/-- One thread (R6) with its per-lane trap registers (R356, R357). -/
structure Lane where
  /-- liveness and state (R130) -/
  st : LaneSt
  /-- program counter (R11) -/
  pc : DWord
  /-- g0 to g63 (R6) -/
  g : Vector Word 64
  /-- p0 to p7; bit 7 is not read (R6) -/
  p : BitVec 8
  /-- x0 to x3 (R9) -/
  x : Vector Word 4
  /-- meeting register (R12) -/
  m : DWord
  /-- released from its meeting point and not yet issued there (R133) -/
  released : Bool
  /-- a trap return has sent the lane to its PC, and it has not issued there (R366) -/
  returned : Bool
  /-- where a waiting lane goes on once its wait has ended; the model's own -/
  resume : DWord
  /-- TRAPCODE (R356) -/
  trapCode : Word
  /-- TRAPPC (R357) -/
  trapPc : DWord
  /-- TRAPADDR (R357) -/
  trapAddr : DWord
  /-- TRAPORIG (R357) -/
  trapOrig : DWord
  /-- asynchronous traps reported and not yet taken, oldest first (R362) -/
  reports : List Trap
  deriving DecidableEq, Repr

/-! ## Bands -/

/-- A result that is not yet settled: a reader before cycle `due` may read the other value (R19). -/
structure Unsettled where
  lane : Nat
  reg : RegName
  other : DWord
  due : Nat
  deriving DecidableEq, Repr

/-- A register that a flagged word in flight will write; `raced` marks the lanes in which a later
word has written it meanwhile (R19). -/
structure InFlight where
  id : Nat
  pipe : Pipe
  reg : RegName
  lanes : BitVec 32
  raced : BitVec 32
  deriving DecidableEq, Repr

/-- A store held by an open region (R250): its number in the order of issue, the word, its lane, its space and address,
its bytes in memory and the leaf entries of the pages it writes (R228). -/
structure HeldStore where
  id : Nat
  lane : Nat
  word : DWord
  sp : Space
  va : DWord
  bytes : List Host.Cell
  ptes : List Nat
  deriving DecidableEq, Repr

/-- A system-register write that applies from the next packet (R154). -/
structure SysWrite where
  num : Nat
  lanes : BitVec 32
  vals : List DWord
  deriving DecidableEq, Repr

/-- Why a whole band issues nothing (R165, R169, R172, R192, R445, R446, R371). -/
inductive Block where
  /-- in GROW, for this total holding (R165): its issue set and the word -/
  | grow (n : Nat) (lanes : BitVec 32) (word : DWord)
  /-- in CLAIM, for this mask: the lanes of V and the word (R192) -/
  | claim (mask : BitVec 16) (lanes : BitVec 32) (word : DWord)
  /-- FENCE waits for these accesses; its end drops the lines of the core's L1 (R267) -/
  | fence (ids : List Nat) (drop : Bool)
  /-- parked after a region abort (R371) -/
  | parked
  /-- a fetch or a word at issue waits for a page (R445, R446) -/
  | page
  deriving DecidableEq, Repr

/-- A band (R130) with its system registers. -/
structure Band where
  /-- index of its crew -/
  crew : Nat
  /-- band number in the crew (R138) -/
  num : Nat
  /-- core, die · 256 + core number -/
  core : Nat
  /-- quarter (R138) -/
  quarter : Nat
  /-- band slot in the quarter (R137) -/
  slot : Nat
  lanes : Vector Lane 32
  /-- s0 to s31 (R130) -/
  s : Vector Word 32
  /-- FPCTL (R107) -/
  fpctl : Word
  /-- conditions of words whose results are not yet written, with the cycle at which they are (R117) -/
  fpLate : List (Word × Nat)
  /-- cursor (R130) -/
  cursor : BitVec 5
  /-- f0 to f11: busy flags with the pipe that set each (R6, R149) -/
  flags : Vector (Option Pipe) 12
  unsettled : List Unsettled
  inFlight : List InFlight
  /-- cycle of the last issue (R15) -/
  lastIssue : Nat
  /-- the word that falls through from the last issue, and its issue set (R14) -/
  nextPc : DWord
  lastSet : BitVec 32
  /-- the band has issued since it started (R14) -/
  issued : Bool
  /-- granules held (R8, R140) -/
  gran : Nat
  /-- granules marked absent (R142, R393) -/
  absentGran : BitVec 8
  /-- its granules have been returned to the core's pool by a spill (R142) -/
  spilled : Bool
  /-- global addresses of the records that hold absent granules (R383, R393) -/
  saved : List (Nat × DWord)
  /-- CHECK (R21) -/
  check : Word
  /-- DRST (R348) -/
  drst : Word
  /-- SEG_SCR, SEG_STK, SEG_GRV, SEG_WS (R212) -/
  segScr : DWord
  segStk : DWord
  segGrv : DWord
  segWs : DWord
  /-- STKAREA and GRVSELF (R213) -/
  stkArea : DWord
  grvSelf : Word
  /-- TVEC (R359) -/
  tvec : DWord
  /-- PTROOT of the context (R225) -/
  ptroot : DWord
  /-- TRAPLANE (R357) -/
  trapLane : Word
  /-- handler mode (R364) -/
  handler : Bool
  /-- RGNPC (R357) -/
  rgnPc : DWord
  /-- RGNCNT.OPEN and ABORTS (R358); LINES follows from `held` -/
  rgnOpen : Bool
  rgnAborts : Byte
  /-- region store buffer, in program order (R250) -/
  held : List HeldStore
  /-- %glo and %ghi (R152) -/
  glo : DWord
  ghi : DWord
  /-- privileged launch (R364) -/
  priv : Bool
  /-- stopped for debug or pre-emption (R149, R403) -/
  stopped : Bool
  block : Option Block
  /-- stores that an ended region has released and that are not yet performed (R250) -/
  closing : List Nat
  /-- the lanes for which a word that reads operands in memory has issued, while it waits for a page (R445) -/
  paged : Option (BitVec 32)
  /-- the code that the fault service has given for that page, with its address (R445) -/
  pageCode : Option (Byte × DWord)
  /-- system-register writes not yet applied (R154) -/
  sysPend : List SysWrite
  /-- the crew read GRVSELF or used a grove address through this band (R394) -/
  gang : Bool
  /-- reserved slots held for the next REQ: lane and destination descriptor (R172) -/
  slots : List (Nat × DWord)
  deriving DecidableEq, Repr

/-! ## Accesses to memory -/

/-- What an address names (R212 to R217): an offset in the crew's allocation, a grove address, a global
virtual address, an offset in a thread's stack window or in the context's weight-store partition, or
nothing. -/
inductive Place where
  | scr (off : Nat)
  | grove (g : Nat)
  | global (va : DWord)
  | stack (off : Nat)
  | ws (off : Nat)
  | aperture
  deriving DecidableEq, Repr

/-- One byte of storage: physical memory, weight store or scratchpad, by its number there. -/
inductive Loc where
  | mem (pa : Nat)
  | ws (a : Nat)
  | scr (a : Nat)
  deriving DecidableEq, Repr

/-- What an access does when it is performed (R99, R256 to R265). -/
inductive AccKind where
  | load (d : Reg) (sz : Size)
  | uload (d : SReg) (sz : Size)
  | store
  | atom (d : Reg) (op : AOp) (ty : AType)
  | cas (d : Reg) (ty : AType)
  | loadOrd (d : Reg) (ty : AType)
  | storeOrd
  deriving DecidableEq, Repr

/-- One lane's part of an access: its address, its bytes, the leaf entries of the pages it writes
(R228), its operands, and the bytes that a load takes from the region store buffer (R250). `done`
parts have been performed; `absent` parts wait for a page (R371). -/
structure Part where
  lane : Nat
  va : DWord
  locs : List Loc
  ptes : List Nat
  data : List Byte
  cmp : List Byte
  held : List (Option Byte)
  done : Bool
  absent : Bool
  /-- bytes that it has read, while destinations of earlier words of the band are still to be written (R99, R260) -/
  got : Option (List Byte) := none
  deriving DecidableEq, Repr

/-- A memory word in flight (R99). -/
structure Access where
  id : Nat
  band : Nat
  word : DWord
  kind : AccKind
  sp : Space
  flag : Flag
  scope : Scope
  order : Order
  parts : List Part
  /-- accesses of the band that must be performed first: a release or a fence (R247, R267) -/
  after : List Nat
  /-- the lanes of V that take a trap of the access besides its own: those of an SLD (R156) -/
  also : BitVec 32 := 0
  deriving DecidableEq, Repr

/-- A flagged word whose result has been written and whose flag is not yet done (R19, R260): the accesses of its
band that complete first, and whether it stays until the agenda says so. -/
structure Late where
  band : Nat
  id : Nat
  flag : Flag
  after : List Nat
  hold : Bool
  /-- conditions that become sticky with the flag (R117) -/
  conds : Word := 0
  deriving DecidableEq, Repr

/-- A special-function word in flight (R127): results by lane. -/
structure SfuOp where
  id : Nat
  band : Nat
  word : DWord
  d : Reg
  flag : Flag
  lanes : BitVec 32
  vals : List Word
  /-- conditions, which become sticky when the flag is done (R117) -/
  conds : Word
  deriving DecidableEq, Repr

/-- A REQ entry in flight (R172). -/
structure ReqMsg where
  id : Nat
  band : Nat
  lane : Nat
  word : DWord
  ctx : Nat
  desc : DWord
  payload : List Byte
  flag : Flag
  /-- the fate at the destination: none before delivery, some true written, some false refused -/
  result : Option Bool
  deriving DecidableEq, Repr

/-- A request for a reserved slot (R172, R424). -/
structure SlotReq where
  id : Nat
  band : Nat
  lane : Nat
  desc : DWord
  deriving DecidableEq, Repr

/-- An arrival of several commands at one flag is counted by its word: a TLBINV in flight (R380). -/
structure TlbOp where
  id : Nat
  band : Nat
  flag : Flag
  va : DWord
  deriving DecidableEq, Repr

/-! ## Faults -/

/-- What waits for the reply of the fault service (R371, R445, R446). -/
inductive FaultKind where
  /-- a region abort: the faulting lanes with their addresses, and their word -/
  | abort (lanes : List (Nat × DWord)) (word : DWord)
  | access (id : Nat)
  | fetch
  | issue
  /-- a command of an engine, of the sequencer, of the link unit or of a command processor -/
  | engine (id : Nat)
  deriving DecidableEq, Repr

/-- A fault record (R371). -/
structure FaultRec where
  id : Nat
  ctx : Nat
  band : Nat
  core : Nat
  va : DWord
  kind : FaultKind
  /-- the service has placed the page -/
  placed : Bool
  deriving DecidableEq, Repr

/-! ## Crews, launches and range tasks -/

/-- A range task [cur, hi) with its grain (R144). -/
structure Range where
  cur : Nat
  hi : Nat
  grain : Nat
  deriving DecidableEq, Repr

/-- An entry of a task deque or of a spill area, with the launch and the crew that pushed it
(R144, R168, R169). -/
structure Task where
  launch : Nat
  crew : Nat
  range : Range
  /-- accesses of the pushing lane that its release orders before the task (R169) -/
  after : List Nat
  deriving DecidableEq, Repr

/-- What made a crew (R143, R284, R326, R313, R390). -/
inductive CrewKind where
  | range
  | resident
  | sprout (watch : Nat)
  | repair (pass : Nat)
  | graph (node : Nat)
  deriving DecidableEq, Repr

/-- A crew (R138). -/
structure Crew where
  launch : Nat
  kind : CrewKind
  /-- %crew (R152) -/
  num : Nat
  core : Nat
  /-- quarter of band 0 (R138) -/
  q0 : Nat
  /-- indices of its bands -/
  bands : List Nat
  /-- bands per crew and threads per crew (R136, R138) -/
  nband : Nat
  nthr : Nat
  /-- offset and length of its scratchpad allocation (R138, R219) -/
  scrOff : Nat
  scrLen : Nat
  /-- generation of the crew barrier (R162) -/
  barGen : Nat
  /-- its own range (R144) -/
  range : Option Range
  /-- the indices of its groups (R148) -/
  groups : List Nat
  /-- the crew runs; false once it has ended, been killed or been saved -/
  running : Bool
  /-- killed, and to be relaunched (R378) -/
  killed : Bool
  /-- trigger depth of a sprout (R283) -/
  depth : Nat
  deriving DecidableEq, Repr

/-- One group of a resident launch (R148) with its barrier (R163). -/
structure Group where
  index : Nat
  members : List Nat
  gen : Nat
  deriving DecidableEq, Repr

/-- The settings that a launch descriptor gives (R435, R436). -/
structure LaunchCfg where
  fpc : BitVec 6
  race : Bool
  priv : Bool
  /-- die mask; 0 means every die -/
  dies : BitVec 9
  stripe : Nat
  spill : Nat
  stkLen : Nat
  stkBase : DWord
  stkStride : DWord
  scrW : DWord
  stkW : DWord
  grvW : DWord
  wsW : DWord
  deriving DecidableEq, Repr

/-- The parts of a kernel image that a launch uses (R41). -/
structure Image where
  addr : DWord
  entry : DWord
  gran : Nat
  peak : Nat
  bands : Nat
  scratch : Nat
  idempotent : Bool
  /-- %dbase (R40) -/
  dataBase : DWord
  /-- CREWS, 0 for a range launch -/
  crews : Nat
  /-- the launch checks for races, which halves the scratchpad (R402) -/
  race : Bool
  deriving DecidableEq, Repr

/-- What a launch belongs to and what its end completes (R143, R326, R313, R284). -/
inductive Origin where
  /-- a LAUNCH of queue `q`, entry at this address -/
  | cmd (q : Nat) (entry : DWord)
  | sprout (watch : Nat)
  | repair (pass : Nat)
  | graph (node : Nat)
  deriving DecidableEq, Repr

/-- A launch (R143) with its root range as dealt to the distributors (R419). -/
structure Launch where
  ctx : Nat
  queue : Nat
  origin : Origin
  image : Image
  cfg : LaunchCfg
  tvec : DWord
  args : List Word
  nthr : Nat
  grain : Nat
  groups : List Group
  /-- for a sprout, the launch whose write made it (R254, R284) -/
  parent : Option Nat
  /-- crews still to be placed: the numbers of a resident launch (R143) -/
  toPlace : List Nat
  /-- stripes of each die's distributor, ascending (R419) -/
  stripes : List (Nat × Range)
  /-- spill entries of each die's distributor, oldest first (R169) -/
  spill : List (Nat × Task)
  /-- a termination round has decided NOWORK (R422) -/
  noWork : Bool
  /-- a repair launch of a queue that is stopping: no grain is delivered (R386) -/
  paused : Bool
  ended : Bool
  deriving DecidableEq, Repr

/-! ## Contexts and queues -/

/-- A reduction group (R428). -/
structure RedGroup where
  group : Nat
  members : List Nat
  op : Nat
  fmt : Nat
  count : Nat
  wexp : Int
  deriving DecidableEq, Repr

/-- A receive ring (R424): die, ring number and header address. -/
structure RecvRing where
  die : Nat
  ring : Nat
  header : Nat
  deriving DecidableEq, Repr

/-- A context (R381) with its settings (R434, R438). -/
structure Ctx where
  id : Nat
  ptroot : DWord
  shtab : DWord
  wsBase : Nat
  wsLen : Nat
  priv : Bool
  /-- installed shape ids with the image that installed each (R293) -/
  shapes : List (Nat × DWord)
  rings : List RecvRing
  reds : List RedGroup
  /-- CTXSET items (R434, R408, R439, R436) -/
  tvec : DWord
  dbase : DWord
  dslot : Nat
  dn : Nat
  /-- slot after the one it last wrote (R408) -/
  dumpNext : Nat
  logMax : Nat
  eventRing : DWord
  deflt : LaunchCfg
  /-- stopped by an escalation or a job-interrupting failure: the code (R379, R430) -/
  stoppedBy : Option Byte
  /-- halted by HALT (R438) -/
  halted : Bool
  deriving DecidableEq, Repr

/-- A GRAPH under way (R434): its entry and bit 7 of its FL, the recorded entries, how many have completed,
their number. -/
structure GraphRun where
  entry : DWord
  event : Bool
  base : DWord
  done : Nat
  n : Nat
  deriving DecidableEq, Repr

/-- What a queue runs: the address of the entry under way and its operation, with the parameters as read
at its start and bit 7 of its FL; `entry` is none between two recorded entries of a GRAPH (R434). -/
structure Running where
  entry : Option DWord
  op : Nat
  event : Bool
  params : List DWord
  graph : Option GraphRun
  deriving DecidableEq, Repr

/-! ## Cores and dies -/

/-- State of an accumulator (R188). -/
inductive AccSt where
  | z | u | f | i
  deriving DecidableEq, Repr

/-- A tile slot with its scale store and tag (R181, R186). Bytes not listed are 0. -/
structure Tile where
  data : Memory
  scale : Memory
  tag : Word
  deriving DecidableEq, Repr

/-- An accumulator: element (i, j) lies in bytes 128 i + 4 j on (R188, R205). -/
structure Acc where
  st : AccSt
  data : Memory
  deriving DecidableEq, Repr

/-- State of a convergence register (R199). -/
inductive ConvSt where
  | free | armed | broken
  deriving DecidableEq, Repr

/-- The fields of an MMA that its signature compares (R199, R200). -/
structure MmaSig where
  ta : Bool
  tb : Bool
  acc : BitVec 3
  oa : BitVec 4
  ob : BitVec 4
  deriving DecidableEq, Repr

/-- A convergence register: sets of (band number, lane) (R199). -/
structure Conv where
  st : ConvSt
  declared : List (Nat × Nat)
  signed : List (Nat × Nat)
  sig : Option MmaSig
  deriving DecidableEq, Repr

/-- What a command of the matrix sequencer does (R189, R195 to R204, R336, R347). -/
inductive SeqOp where
  /-- slot, address with the place it names, and the record read at issue -/
  | ldt (os : BitVec 4) (addr : DWord) (place : Place) (shape : List Byte)
  | stt (os : BitVec 4) (addr : DWord) (place : Place) (shape : List Byte)
  | accz (acc : BitVec 3)
  | accld (acc : BitVec 3) (addr : DWord) (place : Place)
  /-- conversion: 0 as held, 1 bf16, 2 f16 -/
  | accst (acc : BitVec 3) (addr : DWord) (place : Place) (cv : Nat) (ftz : Bool)
  /-- with HELD and the convergence registers of the crew's slots as they stood at entry (R205) -/
  | mxsave (addr : DWord) (place : Place) (held : List Nat) (convs : List (Nat × Conv))
  /-- with the slots that the crew held at entry (R204) -/
  | mxrest (addr : DWord) (place : Place) (held : List Nat)
  | rels (mask : BitVec 16)
  | mma (k : BitVec 4) (sig : MmaSig) (ftz : Bool)
  /-- mode, destination, accumulator and the eight parameter words (R349, R350) -/
  | draw (mode : DrawMode) (d : Reg) (acc : BitVec 3) (ps : List Word)
  /-- destination, accumulators, drafted token and parameter words (R352) -/
  | accept (d : Reg) (accp accq : BitVec 3) (x : Word) (ps : List Word)
  /-- a slot that a SEGRD fills (R336): its engine command -/
  | segrd (os : BitVec 4) (cmd : Nat)
  deriving DecidableEq, Repr

/-- An entered command of the matrix sequencer (R189). -/
structure SeqCmd where
  id : Nat
  crew : Nat
  band : Nat
  lanes : BitVec 32
  word : DWord
  flag : Flag
  op : SeqOp
  deriving DecidableEq, Repr

/-- A line of an L1 (R223): the number of its first byte in memory or in the weight store, and the
bytes that it holds. -/
structure L1Line where
  ws : Bool
  base : Nat
  bytes : List Byte
  deriving DecidableEq, Repr

/-- Transect counters of a quarter (R398, R401): bins and unbinned by class, stall samples by
reason, and the slot under the sampling pointer. -/
structure Transect where
  bins : List (List Nat)
  unbinned : List Nat
  samples : List Nat
  pointer : Nat
  /-- die local cycle at which the interval began (R399) -/
  start : Nat
  /-- the package cycle after that of the last sample, 0 for none (R401) -/
  sampled : Nat
  /-- bin bounds read at the start of the interval (R399) -/
  bounds : List (Nat × Nat)
  nrec : Nat
  deriving DecidableEq, Repr

/-- A dump that is being written (R407, R408): its quarter, context, slot and sequence number, and how far it is: 0 before
its header, 1 + 2k before section k, 2 + 2k before that section's SECT bit, 9 at its end. -/
structure DumpRun where
  quarter : Nat
  ctx : Nat
  slot : Nat
  seq : Nat
  at_ : Nat
  deriving DecidableEq, Repr

/-- An entry of a stopped quarter's pending-write table (R406, R409): `kind` and `st` have the
codes of R409, and `data` holds `nreg` words for each lane of `lanes` in ascending order. -/
structure PendWrite where
  /-- the operation whose result it holds; the model's own -/
  id : Nat
  band : Nat
  flag : Flag
  kind : Nat
  st : Nat
  dreg : Nat
  nreg : Nat
  code : Byte
  lanes : BitVec 32
  addr : DWord
  pc : DWord
  data : List Word
  /-- sticky conditions that its flag sets in FPCTL (R117); the model's own -/
  conds : Word
  /-- the value that its flag gives DRST (R348); the model's own -/
  drst : Option Word := none
  /-- lanes whose part has faulted; the model's own -/
  fail : BitVec 32 := 0
  deriving DecidableEq, Repr

/-- A quarter of a core (R137). -/
structure Quarter where
  /-- slot of the band for which it last issued -/
  last : Nat
  /-- cycle of its last issue, and whether it has issued since reset -/
  lastIssue : Nat
  issued : Bool
  /-- stopped (R403) -/
  stopped : Bool
  /-- drained since it stopped (R406) -/
  drained : Bool
  /-- stopped by an escalation or its halt broadcast, so never resumed (R438) -/
  escalated : Bool
  /-- code and INFO of the escalation in this quarter, 0 for another cause (R407) -/
  stopCode : Word
  /-- die local cycle of the stop (R407) -/
  stopCycle : DWord
  /-- a single step is under way (R397) -/
  stepping : Bool
  pendTable : List PendWrite
  transect : Transect
  /-- transects of intervals that have ended and whose records are still to be written, oldest first (R399) -/
  owed : List Transect
  deriving DecidableEq, Repr

/-- A core: matrix unit, deque, L1 and debug registers (R2, R181, R397). -/
structure Core where
  /-- die · 256 + core number -/
  id : Nat
  /-- free granules of the register file (R140) -/
  free : Nat
  /-- bands blocked in GROW, oldest first (R141) -/
  growQ : List Nat
  /-- task deque, oldest entry first (R144) -/
  deque : List Task
  /-- o0 to o15 (R181) -/
  tiles : Vector Tile 16
  /-- a0 to a7 (R181) -/
  accs : Vector Acc 8
  /-- k0 to k15 (R199) -/
  convs : Vector Conv 16
  /-- crew that holds each slot (R181) -/
  owners : Vector (Option Nat) 16
  /-- bands waiting in CLAIM, oldest first (R192) -/
  claimQ : List Nat
  /-- matrix sequencer, in entry order (R189) -/
  seq : List SeqCmd
  /-- DCTR (R347) -/
  dctr : DWord
  l1 : List L1Line
  /-- context whose lines the L1 holds (R396) -/
  l1ctx : Nat
  quarters : Vector Quarter 4
  /-- TRCTL, TRBUF, DBGCTL (R397), RACEA, RACEPC (R402) -/
  trctl : Word
  /-- the value of TRCTL by which this cycle counts (R397), and the context whose band wrote TRCTL last (R443) -/
  trUsed : Word
  trCtx : Nat
  trbuf : DWord
  dbgctl : Word
  racea : DWord
  racepc : DWord
  /-- race shadow: word number, band, generation of the last writer (R402) -/
  shadow : List (Nat × Nat × Nat)
  deriving DecidableEq, Repr

/-! ## Queues -/

/-- What a save keeps of a crew beside its bands (R386, R390): its place in its grove, what it held in the
matrix unit, its scratchpad, and its commands of the sequencer, which are entered again at restore. -/
structure SavedCrew where
  crew : Nat
  gang : Bool
  grove : Nat
  gidx : Nat
  scrOff : Nat
  scr : Memory
  tiles : List (Nat × Tile)
  accs : List (Nat × Acc)
  convs : List (Nat × Conv)
  seq : List SeqCmd
  deriving DecidableEq, Repr

/-- The states of a queue (R382). -/
inductive QState where
  | idle | waiting | mapped | stopping | saved
  deriving DecidableEq, Repr

/-- An entry of a reply log (R389, R395): the answer to a fault record of a band (code 0 for RESIDENT), or
a late report for one of its lanes. -/
inductive LogEntry where
  | reply (band : Nat) (addr : DWord) (kind : FaultKind) (code : Byte)
  | late (band lane : Nat) (trap : Trap)
  deriving DecidableEq, Repr

/-- A queue (R382) as the scheduler holds it. -/
structure Queue where
  id : Nat
  ctx : Nat
  st : QState
  /-- hardware slot (R385) -/
  slot : Option Nat
  /-- cycle at which it began to wait, cycle at which it was mapped (R385) -/
  since : Nat
  mapped : Nat
  /-- its slice has ended (R385) -/
  sliceOver : Bool
  /-- cycles of its slice that it had used when it was unmapped (R385) -/
  used : Nat
  /-- the queue that takes its slot once it has been saved (R385) -/
  heir : Option Nat
  /-- gp0 to gp63 (R344) -/
  gp : Vector DWord 64
  running : Option Running
  /-- the crews that stopped with it as it entered state 3 (R386) -/
  stops : List Nat
  /-- the crews of its save area (R390) -/
  saved : List SavedCrew
  log : List LogEntry
  deriving DecidableEq, Repr

/-! ## Watches (chapter 15) -/

/-- A watch (R274 to R276): its descriptor as WATCH read it, and its hardware state. -/
structure Watch where
  handle : Nat
  ctx : Nat
  /-- owner grove, die · 4 + grove -/
  grove : Nat
  /-- physical address of the descriptor (R275) -/
  desc : Nat
  base : DWord
  len : Nat
  /-- physical address of the range, which lies in one page (R274, R275) -/
  pa : Nat
  mode : Nat
  wide : Bool
  uns : Bool
  scope : Scope
  budget : Nat
  maxd : Nat
  image : Image
  nthr : Nat
  arg : DWord
  /-- 1 ARMED, 2 DISARMED by budget, 3 DISARMED by depth (R276) -/
  st : Nat
  /-- outstanding sprouts (R283) -/
  out : Nat
  /-- removed by UNWATCH, kept while its sprouts have not all ended (R279) -/
  removed : Bool
  /-- slices that hold an entry (R274) -/
  slices : List Nat
  deriving DecidableEq, Repr

/-- A queued sprout (R283). -/
structure Sprout where
  watch : Nat
  ctx : Nat
  grove : Nat
  va : DWord
  old : DWord
  new : DWord
  writer : Word
  count : Nat
  depth : Nat
  /-- the launch whose write made it (R284) -/
  launch : Option Nat
  deriving DecidableEq, Repr

/-- A WATCH or UNWATCH in flight (R278, R279, R286): the watch to arm, with everything that WATCH read at
issue, or the handle to remove. -/
structure WatchOp where
  id : Nat
  band : Nat
  lanes : BitVec 32
  word : DWord
  d : Reg
  flag : Flag
  arm : Option Watch
  handle : Nat
  /-- the records of the handler's image, which arming installs (R293) -/
  shapes : List (List Byte)
  /-- address of the descriptor; 0 for an UNWATCH -/
  desc : DWord := 0
  /-- the write of STATE for which its flag waits, and its handle (R278, R279) -/
  book : Option (Nat × Option Nat) := none
  deriving DecidableEq, Repr

/-! ## Engines and the dependence graph (chapter 17) -/

/-- Who issued an engine command: band, lanes of V, word, flag and trigger depth (R251, R282). -/
structure Issuer where
  band : Nat
  lanes : BitVec 32
  word : DWord
  flag : Flag
  depth : Nat
  deriving DecidableEq, Repr

/-- An engine command in flight (R307, R310): the records are the 64 bytes read once (R293). -/
inductive EngOp where
  /-- input or output; base, ring and control addresses, slots, bytes per slot, first tile, tile
  count, tiles moved (R305, R307) -/
  | strm (isIn : Bool) (base : Place) (ring ctrl : Word) (nslot slotb first n i : Nat)
      (shape : List Byte)
  /-- source, destination, records, opcode, tiles, first tile, barrier object and its address, FTZ
  (R310) -/
  | xform (src dst : Place) (sshape dshape : List Byte) (xop : Byte) (nt first : Nat)
      (bo : Option Nat) (ftz : Bool)
  deriving DecidableEq, Repr

/-- An engine command and its issuer, or the issuer of the GNODE that led to its node (R313). -/
structure EngCmd where
  id : Nat
  ctx : Nat
  issuer : Issuer
  /-- a graph node's run (R313) -/
  node : Option Nat
  /-- address of its descriptor, for TRAPADDR of decode errors (R355) -/
  desc : DWord
  /-- core of the issuing lane, for scratchpad addresses and scopes -/
  core : Nat
  crew : Nat
  op : EngOp
  deriving DecidableEq, Repr

/-- How a node ends (R315). -/
inductive NodeEnd where
  | done
  | failed (code : Byte)
  | skipped
  deriving DecidableEq, Repr

/-- A node that has been started (R315). -/
structure NodeRun where
  id : Nat
  ctx : Nat
  addr : DWord
  /-- queue and issuer of the GNODE that led to it (R314, R381) -/
  queue : Nat
  by_ : Issuer
  /-- the GNODE's band and flag, for a node that GNODE itself started (R314) -/
  flag : Option (Nat × Flag)
  /-- a launch node's launch -/
  launch : Option Nat
  started : Bool
  result : Option NodeEnd
  deriving DecidableEq, Repr

/-! ## The link unit (chapter 18) -/

/-- The commands of the link unit (R328, R330, R332). -/
inductive LinkOp where
  | link (h : Byte)
  | unlink (cmp : Bool)
  /-- SEGRD reads its whole descriptor and its two destination records at issue (R293, R336) -/
  | segrd (rw : Bool) (desc kd vd : List Byte) (ftz : Bool)
  deriving DecidableEq, Repr

/-- A command of the link unit in flight. `published` has the LID and the map of an UNLINK that only waits for the
crews and readers of what it removed (R330); `held` is the version that a SEGRD captured (R322). -/
structure LinkCmd where
  id : Nat
  die : Nat
  ctx : Nat
  core : Nat
  crew : Nat
  issuer : Issuer
  desc : DWord
  op : LinkOp
  published : Option (Nat × DWord)
  held : Option (Nat × Nat)
  /-- the wait of a strict read is over (R334) -/
  strictOver : Bool
  deriving DecidableEq, Repr

/-- The state of a repair pass (R326, R327). -/
inductive PassSt where
  /-- waits: 0 for the start of the pass, else for the launch of this layer (R327) -/
  | waiting (layer : Nat)
  /-- the launch of this layer runs -/
  | running (layer : Nat)
  | complete
  /-- superseded: its crews may still run -/
  | superseded
  deriving DecidableEq, Repr

/-- A repair pass: the link it belongs to, by map and LID (R326). -/
structure Pass where
  id : Nat
  ctx : Nat
  die : Nat
  queue : Nat
  map : DWord
  lid : Nat
  psig : Nat
  /-- the map's repair kernel (R293, R326) -/
  repk : DWord
  st : PassSt
  /-- launches made, the running one last -/
  launches : List Nat
  deriving DecidableEq, Repr

/-! ## Dies, power and security (chapter 25) -/

/-- One die: its memory controller, Clearing engine and counters. -/
structure Die where
  /-- sectors in the free pool and in the emergency reserve, and the high mark (R227, R229) -/
  pool : Nat
  reserve : Nat
  highMark : Nat
  /-- stage of the Clearing engine, 0 idle (R229) -/
  stage : Nat
  /-- accesses whose writes wait at the controller, oldest first (R227) -/
  waiting : List Nat
  /-- the blocks of waiting writes that lack sectors, each with its write: later loads and writes wait behind
  them (R227) -/
  blocks : List (Nat × Nat)
  /-- the address that each waiting write reports if it is refused (R374) -/
  addrs : List (Nat × DWord)
  /-- sectors of balloon pages kept for waiting writes, each with the context of its page (R228) -/
  marks : List (Nat × Nat)
  /-- RQERR (R425) -/
  rqerr : Word
  /-- local cycle count less the global count: %clock (R152) -/
  clockOff : DWord
  /-- sequence number of records and dumps (R400) -/
  seq : Word
  /-- weight-store refresh: bank under refresh or next, cycle of the next start, running (R222) -/
  refBank : Nat
  refNext : Nat
  refBusy : Bool
  /-- parked, and asked to park (R440, R441) -/
  parked : Bool
  parkReq : Bool
  deriving DecidableEq, Repr

/-- The agent of a write (R282): what its writer word, its depth and its traps need. A bookkeeping
write of R227 has `book`. -/
structure Writer where
  kind : Nat
  die : Nat
  core : Nat
  slot : Nat
  lane : Nat
  ctx : Nat
  depth : Nat
  band : Option Nat
  word : DWord
  launch : Option Nat
  book : Bool
  deriving DecidableEq, Repr

/-- A bookkeeping write that waits because no sector is free (R227): its context, place and bytes, and for a
write of a command processor the die of it, since those are checked against watches (R280). -/
structure BookWrite where
  id : Nat
  by_ : Option Writer
  ctx : Nat
  pa : Nat
  v : List Byte
  deriving DecidableEq, Repr

/-- A boundary between two dies: replays of the flit under way, and failure (R423). -/
structure Boundary where
  replays : Nat
  failed : Bool
  deriving DecidableEq, Repr

/-- The package power state (R440). -/
inductive Power where
  | active | reduced | standby
  deriving DecidableEq, Repr

/-- The security state (R442). -/
inductive Security where
  | locked | authorized | manufacturing
  deriving DecidableEq, Repr

/-- What the boot images configure (R431): addresses, node, harvested cores, uncompressed limits. -/
structure Boot where
  qtab : Nat
  ctlq : Nat
  acctab : List Nat
  node : Nat
  nnode : Nat
  harvested : List Nat
  uncompressed : List Nat
  /-- the images verified, so that the package is not held in standby (R431) -/
  ok : Bool
  /-- the signed record in boot flash that enters manufacturing at reset (R442) -/
  manufacturing : Bool
  deriving DecidableEq, Repr

/-- A COPY, WSLOAD or COLL under way, and a WAITV (R434): its queue and parameters. -/
structure CmdOp where
  id : Nat
  queue : Nat
  op : Nat
  params : List DWord
  deriving DecidableEq, Repr

/-- Heartwood's management state (R431 to R433, R442). -/
structure Heartwood where
  /-- MR0 to MR7 (R432) -/
  mr : Vector (List Byte) 8
  /-- boot count and outstanding nonce (R442) -/
  bootCount : Word
  nonce : Option (List Byte)
  /-- BOOTST: the boot failure recorded (R431) -/
  bootst : Word
  /-- SPDM: version and algorithms negotiated (R433) -/
  version : Bool
  caps : Bool
  algs : Bool
  /-- messages seen and responses sent, for the transcript that CHALLENGE signs -/
  transcript : List Byte
  responses : List (List Byte)
  /-- nonces issued, so that each is fresh -/
  issued : Nat
  /-- errors that ECC has corrected (R234) -/
  corrected : Nat
  deriving DecidableEq, Repr

/-! ## The machine -/

/-- Which unit moves next: an event or command of the table, or the issue of a quarter of a core. -/
inductive Act where
  | event (i : Instr)
  /-- the completion of a flagged word whose flag stays busy meanwhile (R19), and the flag of the oldest such -/
  | early (i : Instr)
  | flag
  /-- an error that ECC corrects (R234) -/
  | corrected
  | issue (core quarter : Nat)
  | tick
  deriving DecidableEq, Repr

/-- What the step knows of the word it issues, for its meaning: the L bit of its packet, and for a
chained pair where it stands in it (R14, R16). -/
structure Latch where
  /-- address of the word -/
  pc : DWord
  lbit : Bool
  /-- first word of a chained pair: 1; second: 2; alone: 0; a TRAP or BKPT that stands first and acts
  after the second (R444): 3 -/
  pair : Nat
  /-- for the second word of a pair: its issue set (R444), and the lanes that the first word has
  transferred elsewhere (R88) -/
  lanes : BitVec 32
  moved : BitVec 32
  /-- for the words of a pair: the counter of its choices, with which it was tested too (R19, R444) -/
  k : Nat
  /-- a rotation event falls after this issue (R132) -/
  rot : Bool
  deriving DecidableEq, Repr

/-- The state of the package. -/
structure State where
  /-- physical memory by 52-bit address (R224) -/
  mem : Memory
  /-- weight stores: byte die · 2^28 + offset (R220) -/
  ws : Memory
  /-- scratchpads: byte core · 2^18 + offset (R219) -/
  scr : Memory
  bands : List Band
  crews : List Crew
  launches : List Launch
  /-- cores that differ from the reset core, by number -/
  cores : List Core
  dies : Vector Die 9
  boundaries : List (Nat × Boundary)
  ctxs : List Ctx
  queues : List Queue
  /-- control queue: HEAD is in its descriptor; the entry under way (R437) -/
  ctlRunning : Option Running
  watches : List Watch
  sprouts : List Sprout
  accesses : List Access
  /-- flags that lag behind their results (R19, R260) -/
  late : List Late
  /-- the completion under way leaves its flag busy (R19) -/
  holdFlags : Bool
  /-- arrivals at barrier objects whose release still waits for accesses: the object's scratchpad
  byte and the accesses (R273) -/
  arrivals : List (Nat × List Nat)
  sfus : List SfuOp
  reqs : List ReqMsg
  slotReqs : List SlotReq
  tlbs : List TlbOp
  watchOps : List WatchOp
  engines : List EngCmd
  nodes : List NodeRun
  links : List LinkCmd
  passes : List Pass
  faults : List FaultRec
  cmds : List CmdOp
  /-- bookkeeping writes that wait (R227) -/
  books : List BookWrite
  boot : Boot
  power : Power
  /-- the clock in force, which standby keeps (R440, R441) -/
  clock : Power
  /-- pages that the Clearing engine has reclaimed in stages 1 and 2, by the place of their leaf entry: the
  copies held elsewhere (R225, R228) -/
  copies : List (Nat × Memory)
  security : Security
  /-- debug level in force: 0 none, 1 non-invasive trace, 2 invasive halt (R443) -/
  debug : Nat
  heart : Heartwood
  /-- flits in error and failures reported as job-interrupting (R430) -/
  failedPorts : List Nat
  /-- dumps that are being written (R407) -/
  dumps : List DumpRun
  /-- core clock cycles since reset -/
  cycle : Nat
  /-- next fresh identifier -/
  nextId : Nat
  /-- counter of free values (log entry 4) -/
  free : Nat
  /-- the units that move next, in order (log entry 3) -/
  agenda : List Act
  /-- the band whose word issues -/
  cur : Nat
  latch : Latch
  deriving DecidableEq, Repr

/-- Why the machine stops. No step of this model ends so: an access to an address that no memory
holds takes the trap that R218 gives it, and the spec describes every other error as a trap, a kill
or a stopped context. -/
inductive Fault where
  /-- Not raised. It stands for a stop that the spec does not describe; safe. -/
  | noSuchState
  deriving DecidableEq, Repr

/-- Why an instruction has no meaning here. -/
inductive Refusal where
  /-- Raised by an arm of `exec` that has no meaning yet, with the mnemonic of the opcode table;
  safe. -/
  | notModelled (mnemonic : String)
  deriving DecidableEq, Repr

/-! ## Reset -/

/-- A lane before any band uses it: absent, every register 0 (R24, log entry 1). -/
def Lane.blank : Lane :=
  { st := .absent, pc := 0, g := .replicate 64 0, p := 0, x := .replicate 4 0, m := 0,
    released := false, returned := false, resume := 0, trapCode := 0, trapPc := 0, trapAddr := 0, trapOrig := 0, reports := [] }

/-- A band before any crew uses it (log entry 1). -/
def Band.blank : Band :=
  { crew := 0, num := 0, core := 0, quarter := 0, slot := 0, lanes := .replicate 32 .blank,
    s := .replicate 32 0, fpctl := 0, fpLate := [], cursor := 0, flags := .replicate 12 none, unsettled := [],
    inFlight := [], lastIssue := 0, nextPc := 0, lastSet := 0, issued := false, gran := 1,
    absentGran := 0, spilled := false, saved := [], check := 0, drst := 0, segScr := 0, segStk := 0, segGrv := 0,
    segWs := 0, stkArea := 0, grvSelf := 0, tvec := 0, ptroot := 0, trapLane := 0,
    handler := false, rgnPc := 0, rgnOpen := false, rgnAborts := 0, held := [], glo := 0, ghi := 0,
    priv := false, stopped := false, block := none, closing := [], paged := none, pageCode := none, sysPend := [], gang := false, slots := [] }

/-- An empty slot: no byte, tag 0, not valid (R183). -/
def Tile.blank : Tile := { data := [], scale := [], tag := 0 }

/-- An accumulator in the Z state (R183). -/
def Acc.blank : Acc := { st := .z, data := [] }

/-- A free convergence register (R183). -/
def Conv.blank : Conv := { st := .free, declared := [], signed := [], sig := none }

/-- No transect interval has begun. -/
def Transect.blank : Transect :=
  { bins := .replicate 8 (.replicate 5 0), unbinned := .replicate 5 0, samples := .replicate 13 0,
    pointer := 0, start := 0, sampled := 0, bounds := [], nrec := 0 }

/-- A quarter that has issued nothing. DESIGN CHOICE (log entry 108): R137 names only the band for which a quarter
last issued, and before its first issue slot 0 comes first in its order. -/
def Quarter.blank : Quarter :=
  { last := 7, lastIssue := 0, issued := false, stopped := false, drained := false, escalated := false, stopCode := 0, stopCycle := 0,
    stepping := false, pendTable := [], transect := .blank, owed := [] }

/-- A core after reset: PER 20 and SPER 6 in TRCTL (R397), every granule free (R140). DCTR, TRBUF
and RACEPC have no reset value in the spec: 0 (log entry 1). -/
def Core.blank (id : Nat) : Core :=
  { id := id, free := 256, growQ := [], deque := [], tiles := .replicate 16 .blank,
    accs := .replicate 8 .blank, convs := .replicate 16 .blank, owners := .replicate 16 none,
    claimQ := [], seq := [], dctr := 0, l1 := [], l1ctx := 0, quarters := .replicate 4 .blank,
    trctl := 0x01460000, trUsed := 0x01460000, trCtx := 0, trbuf := 0, dbgctl := 0, racea := 0, racepc := 0, shadow := [] }

/-- A die after reset: the reserve is full (R227), the high mark is 64 MiB (R438); the free pool is
the rest of 96 GiB above the uncompressed limit (log entry 5). -/
def Die.blank : Die :=
  { pool := 3185573888, reserve := 2097152, highMark := 2097152, stage := 0, waiting := [], blocks := [], addrs := [], marks := [], rqerr := 0,
    clockOff := 0, seq := 0, refBank := 0, refNext := 0, refBusy := false, parked := false,
    parkReq := false }

/-- The default launch settings before CTXSET item 7 (R436). -/
def LaunchCfg.blank : LaunchCfg :=
  { fpc := 0, race := false, priv := false, dies := 0, stripe := 64, spill := 4096, stkLen := 0,
    stkBase := 0, stkStride := 0, scrW := 0, stkW := 0, grvW := 0, wsW := 0 }

/-- The boot configuration that the model takes (log entry 5): the spec names these values and
leaves them to the boot images. -/
def Boot.default : Boot :=
  { qtab := 0x100000, ctlq := 0x200000,
    acctab := (List.range 9).map fun d => d * 2 ^ 48 + 0x300000, node := 0, nnode := 1,
    harvested := [], uncompressed := .replicate 9 0x40000000, ok := true, manufacturing := false }

/-- Heartwood after reset: measurement registers of 64 zeros (R432), nothing negotiated. -/
def Heartwood.blank : Heartwood :=
  { mr := .replicate 8 (.replicate 64 0), bootCount := 0, nonce := none, bootst := 0,
    version := false, caps := false, algs := false, transcript := [], responses := [], issued := 0, corrected := 0 }

/-- The latch before any issue. -/
def Latch.blank : Latch :=
  { pc := 0, lbit := false, pair := 0, lanes := 0, moved := 0, k := 0, rot := false }

/-- The package right after reset (R24, R441, R442): active, every die awake, no context, no queue,
no crew, memory with nothing listed. -/
def State.reset : State :=
  { mem := [], ws := [], scr := [], bands := [], crews := [], launches := [], cores := [],
    dies := .replicate 9 .blank, boundaries := [], ctxs := [], queues := [], ctlRunning := none,
    watches := [], sprouts := [], accesses := [], late := [], holdFlags := false, arrivals := [], sfus := [], reqs := [],
    slotReqs := [], tlbs := [], watchOps := [], engines := [], nodes := [], links := [],
    passes := [], faults := [], cmds := [], books := [], boot := .default, power := .active, clock := .active, copies := [],
    security := .locked, debug := 0, heart := .blank, failedPorts := [], dumps := [], cycle := 0, nextId := 1,
    free := 0, agenda := [], cur := 0, latch := .blank }

end Sys2Proof.Machine
end

