-- ==== Sys2Proof/Machine/Mem.lean ====
section
/-!
DEFINITION. Bytes in storage: reading, writing and the canonical form of `Memory`, little-endian
values (R3), and bytes named by `Loc`.
-/

namespace Sys2Proof.Machine

/-- The byte at `a`; an unlisted byte is 0 (log entry 2). -/
def Memory.read : Memory → Nat → Byte
  | [], _ => 0
  | c :: r, a => if c.1 = a then c.2 else Memory.read r a

/-- List a byte at its place in the order of addresses. -/
def Memory.put : Memory → Nat → Byte → Memory
  | [], a, v => [(a, v)]
  | c :: r, a, v =>
    if a < c.1 then (a, v) :: c :: r
    else if a = c.1 then (a, v) :: r
    else c :: Memory.put r a v

/-- Write a byte, keeping the canonical form: writing 0 removes the entry. -/
def Memory.write (m : Memory) (a : Nat) (v : Byte) : Memory :=
  if v = 0 then m.filter fun c => c.1 != a else m.put a v

/-- The canonical form above a bound: addresses strictly rise and no entry is 0. -/
def Memory.wfFrom : Nat → Memory → Bool
  | _, [] => true
  | lo, c :: r => decide (lo ≤ c.1) && c.2 != 0 && Memory.wfFrom (c.1 + 1) r

/-- The canonical form of a memory. -/
def Memory.wf (m : Memory) : Bool := Memory.wfFrom 0 m

/-- `n` bytes from `a` on. -/
def Memory.readN (m : Memory) (a : Nat) : Nat → List Byte
  | 0 => []
  | n + 1 => m.read a :: m.readN (a + 1) n

/-- Write the bytes from `a` on. -/
def Memory.writeN (m : Memory) (a : Nat) : List Byte → Memory
  | [] => m
  | b :: r => (m.write a b).writeN (a + 1) r

/-- Write 0 to `n` bytes from `a` on. -/
def Memory.zero (m : Memory) (a n : Nat) : Memory := m.filter fun c => !(decide (a ≤ c.1) && decide (c.1 < a + n))

/-- The number that bytes stand for, the first the least significant (R3). -/
def leNat : List Byte → Nat
  | [] => 0
  | b :: r => b.toNat + 256 * leNat r

/-- The `n` low bytes of a number, the least significant first (R3). -/
def leBytes (v : Nat) : Nat → List Byte
  | 0 => []
  | n + 1 => BitVec.ofNat 8 v :: leBytes (v / 256) n

/-- An `n`-byte value in memory. -/
def Memory.readLE (m : Memory) (a n : Nat) : Nat := leNat (m.readN a n)

/-- Store an `n`-byte value. -/
def Memory.writeLE (m : Memory) (a n v : Nat) : Memory := m.writeN a (leBytes v n)

/-- The bytes `lo` to `lo + n - 1` of a record. -/
def sub (l : List Byte) (lo n : Nat) : List Byte := (l.drop lo).take n

/-- A little-endian field of a record. -/
def field (l : List Byte) (lo n : Nat) : Nat := leNat (sub l lo n)

/-- The bytes `lo` to `lo + n - 1` of a record are 0. -/
def zeros (l : List Byte) (lo n : Nat) : Bool := (sub l lo n).all (· == 0)

/-- The bits `lo` to `lo + n - 1` of a number. -/
def bits (v lo n : Nat) : Nat := v / 2 ^ lo % 2 ^ n

/-- The number as a signed one of `n` bits. -/
def signed (v n : Nat) : Int := if v < 2 ^ (n - 1) then v else (v : Int) - 2 ^ n

/-- Whether bit `i` of a lane mask is set. -/
def bit (m : BitVec 32) (i : Nat) : Bool := m.getLsbD i

/-- A lane mask from a predicate. -/
def maskOf (f : Nat → Bool) : BitVec 32 :=
  BitVec.ofNat 32 ((List.range 32).foldl (fun a i => if f i then a + 2 ^ i else a) 0)

/-- The lanes of a mask, ascending. -/
def lanesOf (m : BitVec 32) : List Nat := (List.range 32).filter (bit m)

/-- The lowest lane of a mask, 0 if it is empty. -/
def lowest (m : BitVec 32) : Nat := ((List.range 32).find? (bit m)).getD 0

/-- A byte of storage. -/
def State.readLoc (s : State) : Loc → Byte
  | .mem a => s.mem.read a
  | .ws a => s.ws.read a
  | .scr a => s.scr.read a

/-- Write a byte of storage. -/
def State.writeLoc (s : State) (l : Loc) (v : Byte) : State :=
  match l with
  | .mem a => { s with mem := s.mem.write a v }
  | .ws a => { s with ws := s.ws.write a v }
  | .scr a => { s with scr := s.scr.write a v }

/-- Write bytes, each at its place. -/
def State.writeLocs (s : State) : List Loc → List Byte → State
  | l :: ls, v :: vs => (s.writeLoc l v).writeLocs ls vs
  | _, _ => s

/-- The canonical form of all three storages. -/
def State.memWf (s : State) : Bool := s.mem.wf && s.ws.wf && s.scr.wf

end Sys2Proof.Machine
end

