-- ==== Sys2Proof/Machine/Regs.lean ====
section
/-!
DEFINITION. The registers of a band: raw values, early reads and write races (R19), pairs (R7).
-/

namespace Sys2Proof.Machine

/-! ## Tables of the state -/

def State.band (s : State) (b : Nat) : Band := s.bands.getD b .blank
def State.setBand (s : State) (b : Nat) (x : Band) : State := { s with bands := s.bands.set b x }
def State.crew (s : State) (c : Nat) : Option Crew := s.crews[c]?
def State.launch (s : State) (l : Nat) : Option Launch := s.launches[l]?
def State.setCrew (s : State) (c : Nat) (x : Crew) : State := { s with crews := s.crews.set c x }
def State.setLaunch (s : State) (l : Nat) (x : Launch) : State :=
  { s with launches := s.launches.set l x }

/-- The core, or a core after reset if the state lists none of that number. -/
def State.core (s : State) (id : Nat) : Core := (s.cores.find? (·.id == id)).getD (.blank id)

def setCoreIn : List Core → Core → List Core
  | [], c => [c]
  | d :: r, c => if d.id == c.id then c :: r else d :: setCoreIn r c

def State.setCore (s : State) (c : Core) : State := { s with cores := setCoreIn s.cores c }

def State.die (s : State) (d : Nat) : Die := s.dies.toArray.getD d .blank
def State.setDie (s : State) (d : Nat) (x : Die) : State := { s with dies := s.dies.setIfInBounds d x }
/-- The local cycle count of a die (R152, R400). -/
def State.localClock (s : State) (die : Nat) : DWord := BitVec.ofNat 64 s.cycle + (s.die die).clockOff

def State.ctx (s : State) (c : Nat) : Option Ctx := s.ctxs.find? (·.id == c)
def State.setCtx (s : State) (x : Ctx) : State :=
  { s with ctxs := s.ctxs.map fun c => if c.id == x.id then x else c }
def State.queue (s : State) (q : Nat) : Option Queue := s.queues.find? (·.id == q)
def State.setQueue (s : State) (x : Queue) : State :=
  { s with queues := s.queues.map fun c => if c.id == x.id then x else c }

/-- The band whose word issues. -/
def State.me (s : State) : Band := s.band s.cur
def State.setMe (s : State) (b : Band) : State := s.setBand s.cur b

/-- The launch of a band's crew. -/
def State.launchOf (s : State) (b : Band) : Option Launch :=
  (s.crew b.crew).bind fun c => s.launch c.launch

/-- The context of a band. -/
def State.ctxOf (s : State) (b : Band) : Nat := ((s.launchOf b).map (·.ctx)).getD 0

/-! ## Registers -/

def Band.lane (b : Band) (t : Nat) : Lane := b.lanes.toArray.getD t .blank
def Band.setLane (b : Band) (t : Nat) (l : Lane) : Band :=
  { b with lanes := b.lanes.setIfInBounds t l }

/-- Change the lanes of a mask. -/
def Band.mapLanes (b : Band) (m : BitVec 32) (f : Nat → Lane → Lane) : Band :=
  { b with lanes := b.lanes.mapFinIdx fun i l _ => if bit m i then f i l else l }

/-- A predicate; p7 reads true (R6). -/
def Lane.pred (l : Lane) (r : PReg) : Bool := r == 7 || l.p.getLsbD r.toNat

/-- Set a predicate; a write to p7 is discarded (R6). -/
def Lane.setPred (l : Lane) (r : PReg) (v : Bool) : Lane :=
  if r == 7 then l
  else
    let one : BitVec 8 := 1#8 <<< r.toNat
    { l with p := if v then l.p ||| one else l.p &&& ~~~one }

/-- The value a register holds once every write has settled. -/
def Lane.get (l : Lane) : RegName → DWord
  | .g r => (l.g[r.toNat]'(by have := r.isLt; omega)).setWidth 64
  | .p r => if l.pred r then 1 else 0
  | .x k => (l.x[k.toNat]'(by have := k.isLt; omega)).setWidth 64
  | .m => l.m
  | .s _ => 0

def Lane.put (l : Lane) (r : RegName) (v : DWord) : Lane :=
  match r with
  | .g r => { l with g := l.g.set r.toNat (v.setWidth 32) (by have := r.isLt; omega) }
  | .p r => l.setPred r (v.getLsbD 0)
  | .x k => { l with x := l.x.set k.toNat (v.setWidth 32) (by have := k.isLt; omega) }
  | .m => { l with m := v }
  | .s _ => l

/-- The number of a register among the choices of one word. -/
def RegName.code : RegName → Nat
  | .g r => r.toNat
  | .p r => 64 + r.toNat
  | .x k => 72 + k.toNat
  | .m => 76
  | .s r => 80 + r.toNat

/-- Uniform registers belong to the band; R19 speaks of them under lane 0. -/
def RegName.laneOf (r : RegName) (t : Nat) : Nat :=
  match r with
  | .s _ => 0
  | _ => t

/-- The settled value of a register of a lane. -/
def Band.getReg (b : Band) (t : Nat) (r : RegName) : DWord :=
  match r with
  | .s u => (b.s[u.toNat]'(by have := u.isLt; omega)).setWidth 64
  | _ => (b.lane t).get r

def Band.putReg (b : Band) (t : Nat) (r : RegName) (v : DWord) : Band :=
  match r with
  | .s u => { b with s := b.s.set u.toNat (v.setWidth 32) (by have := u.isLt; omega) }
  | _ => b.setLane t ((b.lane t).put r v)

/-- A choice of one word: what is chosen, for which register and lane. Keys of registers are even. -/
def pickKey (what t : Nat) (r : RegName) : Nat := ((what * 128 + r.code) * 32 + t) * 2

/-- A read at cycle `now` (R19): each result that is not yet due may read as the value before it, oldest
first, so that a reader under several pending results may see any of the values that they replaced. A
flagged word in flight has written its result or not, and a reader finds what stands there (log entry 6). -/
def Band.readReg (b : Band) (now k t : Nat) (r : RegName) : DWord :=
  let t' := r.laneOf t
  (b.unsettled.mapIdx fun i e => (i, e)).foldl (fun v p =>
    if p.2.lane == t' && decide (p.2.reg = r) && decide (now < p.2.due) && Config.pick k (pickKey (4 + p.1) t' r)
    then p.2.other else v) (b.getReg t r)

/-- Whether an earlier fixed-latency write of the register falls no earlier than cycle `due` (R19). -/
def Band.races (b : Band) (due t : Nat) (r : RegName) : Bool :=
  let t' := r.laneOf t
  b.unsettled.any fun e => e.lane == t' && decide (e.reg = r) && decide (due ≤ e.due)

/-- Whether a write at cycle `due` leaves a value that R19 does not specify: an earlier write falls
no earlier, or a flagged one is unfinished. The writes of one flagged pipe are in issue order (R99,
R127, R260). -/
def Band.openWrite (b : Band) (due : Nat) (p : Pipe) (t : Nat) (r : RegName) : Bool :=
  b.races due t r ||
  b.inFlight.any fun f => decide (f.reg = r) && bit f.lanes (r.laneOf t) && decide (f.pipe ≠ p)

/-- The read is not guaranteed (R21). -/
def Band.earlyRead (b : Band) (now t : Nat) (r : RegName) : Bool :=
  let t' := r.laneOf t
  b.unsettled.any (fun e => e.lane == t' && decide (e.reg = r) && decide (now < e.due)) ||
  b.inFlight.any (fun f => decide (f.reg = r) && bit f.lanes t')

/-- Whether the earlier of two fixed-latency writes that race is the value left. -/
def Band.keeps (b : Band) (due k t : Nat) (r : RegName) : Bool :=
  b.races due t r && Config.pick k (pickKey 2 (r.laneOf t) r)

/-- What a write leaves to R19: the value that an early reader may see instead, and for a flagged
word in flight the mark that it raced. -/
def Band.note (b : Band) (due k : Nat) (m : BitVec 32) (r : RegName) (v : Nat → DWord) : Band :=
  { b with
    unsettled := b.unsettled ++ if r = .p 7 then [] else (lanesOf m).map fun t =>
      ⟨r.laneOf t, r, if b.keeps due k t r then v t else b.getReg t r, due⟩
    inFlight := b.inFlight.map fun f =>
      if f.reg = r then { f with raced := f.raced ||| (f.lanes &&& m) } else f }

/-- Write a register in every lane of a mask, with a result due at a cycle (R19). -/
def Band.writeLanes (b : Band) (due k : Nat) (m : BitVec 32) (r : RegName) (v : Nat → DWord) :
    Band :=
  (b.note due k m r v).mapLanes m fun t l => if b.keeps due k t r then l else l.put r (v t)

/-- Write a uniform register, with a result due at a cycle (R19, R135). -/
def Band.writeU (b : Band) (due k : Nat) (u : SReg) (v : Word) : Band :=
  let b' := b.note due k 1 (.s u) fun _ => v.setWidth 64
  if b.keeps due k 0 (.s u) then b' else b'.putReg 0 (.s u) (v.setWidth 64)

/-- FPCTL with the conditions that are due by a cycle. -/
def Band.fpBy (b : Band) (now : Nat) : Word :=
  b.fpLate.foldl (fun c e => if now < e.2 then c else c ||| e.1) b.fpctl

/-- Results that are due have settled. -/
def Band.settle (b : Band) (now : Nat) : Band :=
  { b with unsettled := b.unsettled.filter fun e => decide (now < e.due)
           fpctl := b.fpBy now, fpLate := b.fpLate.filter fun e => decide (now < e.2) }

/-- Every fixed-latency result is written (R25). -/
def Band.drain (b : Band) : Band :=
  { b with unsettled := [], fpctl := b.fpLate.foldl (fun c e => c ||| e.1) b.fpctl, fpLate := [] }

/-- No result is outstanding: every read and write of R19 is certain. -/
def Band.quiet (b : Band) : Bool := b.unsettled.isEmpty && b.inFlight.isEmpty

/-- The odd register of a pair (R7). -/
def Reg.odd (r : Reg) : Reg := r + 1

/-- Whether a general register lies in the allocation (R8). -/
def Band.allocated (b : Band) (r : Nat) : Bool := decide (r < 8 * b.gran)

/-- Whether a register lies in a granule marked absent (R142, R393). -/
def Band.isAbsent (b : Band) (r : Nat) : Bool := b.absentGran.getLsbD (r / 8)

/-- BASE, LEN and IDX of an index register (R9). -/
def xBase (x : Word) : Nat := bits x.toNat 26 6
def xLen (x : Word) : Nat := bits x.toNat 16 7
def xIdx (x : Word) : Nat := bits x.toNat 0 8

end Sys2Proof.Machine
end

