-- ==== Sys2Proof/Machine/Addr.lean ====
section
/-!
DEFINITION. Addresses: canonical form (R22), translation (R224, R225), the windows of the generic
space (R212 to R215), the spaces of memory words (R216, R217) and the checks of R218 in their order.
-/

namespace Sys2Proof.Machine

/-- Bits [63:57] are copies of bit 56 (R11, R22). -/
def canonical (a : DWord) : Bool := (a.setWidth 57).signExtend 64 == a

/-- The 57 bits that translation reads (R225). -/
def va57 (a : DWord) : Nat := (a.setWidth 57).toNat

/-! ## Translation -/

/-- A page-table entry (R225). -/
inductive Pte where
  | unmapped
  | absent
  /-- the next table -/
  | table (pa : Nat)
  /-- a leaf: frame, writable, executable, reclaimable -/
  | leaf (frame : Nat) (w x rcl : Bool)
  deriving DecidableEq, Repr

/-- PA[51:48] names a die or the host (R224). DESIGN CHOICE (log entry 109): the offset is not bounded, so that a
frame past the 192 GiB of logical frames of a die is taken as memory that exists. -/
def paOk (pa : Nat) : Bool := pa / 2 ^ 48 < 9 || pa / 2 ^ 48 == 15

/-- A table entry: V, A and NEXT, 0 in every other bit (R225). -/
def pteTable (e : Nat) : Pte :=
  if bits e 62 1 == 0 then .unmapped
  else if bits e 52 10 != 0 || bits e 0 8 != 0 then .unmapped
  else if !paOk (bits e 8 44 * 2 ^ 8) then .unmapped
  else if bits e 63 1 == 0 then .absent
  else .table (bits e 8 44 * 2 ^ 8)

/-- A leaf entry; a 2 MiB page also needs FRAME[20:16] = 0 (R225). -/
def pteLeaf (e : Nat) (big : Bool) : Pte :=
  if bits e 62 1 == 0 then .unmapped
  else if bits e 52 4 != 0 || bits e 0 16 != 0 || (big && bits e 16 5 != 0) ||
      (!big && bits e 56 1 != 0) then .unmapped
  else if !paOk (bits e 16 36 * 2 ^ 16) then .unmapped
  else if bits e 63 1 == 0 then .absent
  else .leaf (bits e 16 36 * 2 ^ 16) (bits e 61 1 == 1) (bits e 60 1 == 1) (bits e 59 1 == 1)

/-- Where a translation ends: no mapping, a page that is mapped and not present, or the physical
address, the page's W and X, and the place of its leaf entry. -/
inductive Tr where
  | unmapped
  | absent
  | ok (pa : Nat) (w x : Bool) (pte : Nat)
  deriving DecidableEq, Repr

def entryAt (m : Memory) (table i : Nat) : Nat := m.readLE (table + 8 * i) 8

/-- Levels 3 and 4 of the walk (R225). -/
def walkLeaf (m : Memory) (va table : Nat) : Tr :=
  let a3 := table + 8 * bits va 21 9
  let e3 := m.readLE a3 8
  if bits e3 56 1 == 1 then
    match pteLeaf e3 true with
    | .leaf f w x _ => .ok (f + bits va 0 21) w x a3
    | .absent => .absent
    | _ => .unmapped
  else
    match pteTable e3 with
    | .table t =>
      let a4 := t + 8 * bits va 16 5
      match pteLeaf (m.readLE a4 8) false with
      | .leaf f w x _ => .ok (f + bits va 0 16) w x a4
      | .absent => .absent
      | _ => .unmapped
    | .absent => .absent
    | _ => .unmapped

/-- The levels above, by the lowest bits of their indices. -/
def walkFrom (m : Memory) (va : Nat) : List Nat → Nat → Tr
  | [], table => walkLeaf m va table
  | lo :: r, table =>
    match pteTable (entryAt m table (bits va lo 9)) with
    | .table t => walkFrom m va r t
    | .absent => .absent
    | _ => .unmapped

/-- Translate a virtual address under a root (R225). -/
def translate (m : Memory) (root va : DWord) : Tr :=
  walkFrom m (va57 va) [48, 39, 30] (bits root.toNat 12 40 * 2 ^ 12)

/-! ## Windows -/

/-- V, first address and length of a window, and its span in whole MiB (R212). -/
def segOpen (r : DWord) : Bool := r.getLsbD 63
def segBase (r : DWord) : Nat := bits r.toNat 20 37 * 2 ^ 20
def segLen (r : DWord) : Nat := (bits r.toNat 0 20 + 1) * 256
def segSpan (r : DWord) : Nat := (segLen r + 2 ^ 20 - 1) / 2 ^ 20 * 2 ^ 20

/-- The offset of an address in a window's span, if the window is open and its span holds it. -/
def segOff (r : DWord) (va : Nat) : Option Nat :=
  if segOpen r && decide (segBase r ≤ va) && decide (va < segBase r + segSpan r) then
    some (va - segBase r)
  else none

/-- The address lies in some open span (R11, R214). -/
def Band.inWindow (b : Band) (a : DWord) : Bool :=
  [b.segScr, b.segStk, b.segGrv, b.segWs].any fun r => (segOff r (va57 a)).isSome

/-- Bytes of the band's crew's scratchpad allocation (R138). -/
def State.allocOf (s : State) (b : Band) : Nat × Nat :=
  match s.crew b.crew with
  | some c => (c.scrOff, c.scrLen)
  | none => (0, 0)

/-- The windows in their order (R214). -/
def resolveGeneric (s : State) (b : Band) (a : DWord) : Place :=
  let va := va57 a
  match segOff b.segScr va with
  | some o => if o < segLen b.segScr && o < (s.allocOf b).2 then .scr o else .aperture
  | none =>
    match segOff b.segStk va with
    | some o => if o < segLen b.segStk then .stack o else .aperture
    | none =>
      match segOff b.segGrv va with
      | some o => if o < segLen b.segGrv && o < 2 ^ 24 then .grove o else .aperture
      | none =>
        match segOff b.segWs va with
        | some o => if o < segLen b.segWs then .ws o else .aperture
        | none => .global a

/-- A 32-bit scratchpad address (R217). -/
def resolveScr (s : State) (b : Band) (a : Word) : Place :=
  if a.getLsbD 31 then
    if bits a.toNat 24 7 == 0 then .grove (bits a.toNat 0 24) else .aperture
  else if a.toNat < (s.allocOf b).2 then .scr a.toNat else .aperture

/-- The address operand of a space (R217). -/
def resolve (s : State) (b : Band) (sp : Space) (a : DWord) : Place :=
  match sp with
  | .gen => resolveGeneric s b a
  | .scr => resolveScr s b (a.setWidth 32)
  | .global => .global a
  | .ws => if segOpen b.segWs && a.toNat < segLen b.segWs then .ws a.toNat else .aperture

/-- The global address of a byte of the stack window (R215). -/
def stackVa (b : Band) (t o : Nat) : DWord :=
  b.stkArea + BitVec.ofNat 64
    ((b.num * (segLen b.segStk / 4) * 32 + o / 4 * 32 + t) * 4 + o % 4)

/-- STKAREA obeys its rules (R213). -/
def stkAreaOk (b : Band) : Bool := canonical b.stkArea && bits b.stkArea.toNat 0 8 == 0

/-! ## The checks of R218 -/

/-- What an address check finds: the bytes, a trap code, or a page that is not present. -/
inductive Reach where
  | locs (l : List Loc)
  | trap (code : Byte)
  | absent (va : DWord)
  deriving DecidableEq, Repr

def Reach.append : Reach → Reach → Reach
  | .locs a, .locs b => .locs (a ++ b)
  | .locs _, r => r
  | r, _ => r

/-- Checks 5 to 7 for a run of bytes in one page. -/
def reachGlobal (s : State) (b : Band) (va : DWord) (n : Nat) (write : Bool) : Reach :=
  if !canonical va then .trap 0x0A
  else
    match translate s.mem b.ptroot va with
    | .unmapped => .trap 0x0A
    | .absent => .absent va
    | .ok pa w _ _ =>
      if write && !w then .trap 0x09 else .locs ((List.range n).map fun i => .mem (pa + i))

/-- The core of the band's grove that a grove address names (R216). -/
def groveCore (b : Band) (g : Nat) : Nat := b.core / 64 * 64 + bits g 18 6

/-- A byte of a grove address lies in the allocation of a running crew of the same context (R216). -/
def groveByteOk (s : State) (b : Band) (g : Nat) : Bool :=
  s.crews.any fun c => c.running && c.core == groveCore b g &&
    decide (c.scrOff ≤ bits g 0 18) && decide (bits g 0 18 < c.scrOff + c.scrLen) &&
    ((s.launch c.launch).map (·.ctx)).getD 0 == s.ctxOf b

/-- The bytes of an `n`-byte access at a place, checks 3 to 7 of R218. -/
def reachPlace (s : State) (b : Band) (t : Nat) (p : Place) (n : Nat) (write rmw : Bool) : Reach :=
  match p with
  | .aperture => .trap 0x07
  | .scr o =>
    if o + n ≤ (s.allocOf b).2 then
      .locs ((List.range n).map fun i => .scr (b.core * 2 ^ 18 + (s.allocOf b).1 + o + i))
    else .trap 0x07
  | .grove g =>
    if (List.range n).all fun i => groveByteOk s b (g + i) then
      .locs ((List.range n).map fun i => .scr (groveCore b g * 2 ^ 18 + bits g 0 18 + i))
    else .trap 0x09
  | .global va => reachGlobal s b va n write
  | .stack o =>
    if rmw && decide (4 < n) then .trap 0x07
    else if !stkAreaOk b then .trap 0x0A
    else
      (List.range ((n + 3) / 4)).foldl (fun r i =>
        r.append (reachGlobal s b (stackVa b t (o + 4 * i)) (min 4 (n - 4 * i)) write)) (.locs [])
  | .ws o =>
    let c := s.ctx (s.ctxOf b)
    let base := (c.map (·.wsBase)).getD 0
    if (c.map (·.wsLen)).getD 0 < o + n then .trap 0x07
    else if write then .trap 0x15
    else
      .locs ((List.range n).map fun i => .ws (b.core / 256 * 2 ^ 28 + base + o + i))

/-- All the checks of R218 for an access of `n` bytes by lane `t`. DESIGN CHOICE (log entry 110): the operand of
SP = 3 is an offset and no address, so step 1 does not apply to it and R217 bounds it. -/
def reach (s : State) (b : Band) (t : Nat) (sp : Space) (a : DWord) (n : Nat) (write rmw : Bool) :
    Reach :=
  if sp != .scr && sp != .ws && !canonical a then .trap 0x0A
  else if a.toNat % n != 0 then .trap 0x06
  else reachPlace s b t (resolve s b sp a) n write rmw

/-- Instruction fetch: the physical address of a word, a trap code or a page not present (R446). -/
def fetchPa (s : State) (b : Band) (a : DWord) : Except (Option Byte) Nat :=
  match translate s.mem b.ptroot a with
  | .unmapped => .error (some 0x0A)
  | .absent => .error none
  | .ok pa _ x _ => if x then .ok pa else .error (some 0x09)

end Sys2Proof.Machine
end

