-- ==== Sys2Proof/Machine/Issue.lean ====
section
/-!
DEFINITION. Who issues: live, held, waiting and eligible lanes (R130, R93), the reconvergence rule
(R133), the cursor and the issue set (R131, R132), and the order of words in packets (R13, R14).
-/

namespace Sys2Proof.Machine

/-! ## Words and packets -/

/-- The fields of a control word (R13). -/
def ctlWM (w : Nat) : Nat := bits w 20 12
def ctlW2 (w : Nat) : Nat := bits w 16 4
def ctlW3 (w : Nat) : Nat := bits w 12 4
def ctlD1 (w : Nat) : Nat := bits w 9 3
def ctlD2 (w : Nat) : Nat := bits w 6 3
def ctlD3 (w : Nat) : Nat := bits w 3 3
def ctlL (w : Nat) : Bool := bits w 2 1 == 1
def ctlY (w : Nat) : Bool := bits w 1 1 == 1

/-- The slot of a word, bits [3:2] of its address (R11). -/
def slotOf (pc : DWord) : Nat := bits pc.toNat 2 2

/-- The address of a word's packet. -/
def packetOf (pc : DWord) : DWord := pc - BitVec.ofNat 64 (bits pc.toNat 0 4)

/-- The address of the word that follows in issue order (R53). -/
def nextPc (pc : DWord) (lbit : Bool) : DWord :=
  if slotOf pc == 3 || (slotOf pc == 2 && lbit) then packetOf pc + 20 else pc + 4

/-- R18 gives the major opcode a pipe; a reserved one outside its ranges has none. -/
def hasPipe (major : Nat) : Bool :=
  !([0x05, 0x06, 0x07, 0x1E, 0x1F, 0x25, 0x26, 0x27, 0x2B, 0x2F, 0x36, 0x37, 0x3F].contains major)

/-- The pipe of a major opcode (R18), where it has one. -/
def pipeOf (major : Nat) : Pipe :=
  if major ≤ 0x04 then .control
  else if major ≤ 0x1C then .integer
  else if major = 0x1D then .memory
  else if major ≤ 0x29 then .fp
  else if major = 0x2A then .sfu
  else if major ≤ 0x2E then .uniform
  else if major ≤ 0x35 then .coop
  else if major ≤ 0x3B then .memory
  else if major = 0x3C then .matrix
  else .engine

/-! ## Lanes -/

/-- Present and not exited (R130). -/
def Lane.live (l : Lane) : Bool :=
  match l.st with
  | .absent | .exited => false
  | _ => true

/-- The lane takes part: in handler mode only the lanes of TRAPLANE do (R364). -/
def Band.takesPart (b : Band) (t : Nat) : Bool :=
  (b.lane t).live && (!b.handler || bit b.trapLane t)

/-- The lane can be in an issue set (R130, R364). -/
def Band.eligible (b : Band) (t : Nat) : Bool :=
  decide ((b.lane t).st = .eligible) && b.takesPart t

/-- The lane stands at its meeting point and has not been released there (R93). -/
def Lane.arrives (l : Lane) : Bool := l.m != 0 && l.pc == l.m && !l.released

/-- Lanes that reach their meeting points are held (R93), but for those that stand where no thread is held. -/
def Band.hold (b : Band) (never : BitVec 32) : Band :=
  b.mapLanes (maskOf fun t => b.eligible t && (b.lane t).arrives && !bit never t) fun _ l => { l with st := .held }

def Lane.isHeld (l : Lane) : Bool := decide (l.st = .held)

/-- The lanes held for address `a` may go (R133). -/
def Band.releases (b : Band) (a : DWord) : Bool :=
  let part := (List.range 32).filter b.takesPart
  part.all (fun t => (b.lane t).isHeld || (b.lane t).m != a) || part.all fun t => (b.lane t).isHeld

/-- Release every hold that R133 allows at this moment. -/
def Band.release (b : Band) : Band :=
  b.mapLanes (maskOf fun t => b.takesPart t && (b.lane t).isHeld && b.releases (b.lane t).m)
    fun _ l => { l with st := .eligible, released := true }

/-- The next lane after `c` in cyclic order that satisfies a predicate. -/
def nextLane (c : Nat) (p : Nat → Bool) : Option Nat :=
  ((List.range 32).map fun i => (c + 1 + i) % 32).find? p

/-- A cursor on a lane that is not eligible moves to the next eligible one (R131). -/
def Band.switch (b : Band) : Band :=
  if b.eligible b.cursor.toNat then b
  else
    match nextLane b.cursor.toNat b.eligible with
    | some t => { b with cursor := BitVec.ofNat 5 t }
    | none => b

/-- The selection before an issue (R131, steps 1 and 2). -/
def Band.select (b : Band) (never : BitVec 32) : Band := ((b.hold never).release).switch

/-- The address at which the cursor lane stands. -/
def Band.pc (b : Band) : DWord := (b.lane b.cursor.toNat).pc

/-- The issue set (R131, step 3); a word that has issued and waits for a page keeps its own (R445). -/
def Band.issueSet (b : Band) : BitVec 32 :=
  if b.eligible b.cursor.toNat then maskOf fun t => b.eligible t && (b.lane t).pc == b.pc && bit (b.paged.getD (BitVec.allOnes 32)) t
  else 0

/-- A rotation event after the issue of a set (R132), among the lanes that are eligible in a band. -/
def Band.rotate (b : Band) (issued : BitVec 32) (among : Band) : Band :=
  match nextLane b.cursor.toNat fun t => among.eligible t && !bit issued t with
  | some t => { b with cursor := BitVec.ofNat 5 t }
  | none => b

/-- A band has ended once no lane is live (R90). -/
def Band.ended (b : Band) : Bool := (List.range 32).all fun t => !(b.lane t).live

/-- The lanes of a set whose guard reads true at a cycle (R19, R45). -/
def Band.guarded (b : Band) (now k : Nat) (h : Hdr) (set : BitVec 32) : BitVec 32 :=
  if h.gp == 7 then if h.gneg then 0 else set
  else maskOf fun t => bit set t && ((b.readReg now k t (.p h.gp)).getLsbD 0 != h.gneg)

/-- A transfer of control to an address traps with this code (R11, R86, R214). `lbit` is the L bit
of the target's packet, where it can be read. DESIGN CHOICE (log entry 107): a target that fails several checks
takes the first of 0x02, 0x0A and 0x07, the order in which R11 lists them. -/
def targetTrap (b : Band) (a : DWord) (lbit : Bool) : Option Byte :=
  if bits a.toNat 0 2 != 0 || slotOf a == 0 || (slotOf a == 3 && lbit) then some 0x02
  else if !canonical a then some 0x0A
  else if b.inWindow a then some 0x07
  else none

/-- The L bit of the packet of an address, false where it cannot be fetched. -/
def State.lbitAt (s : State) (b : Band) (a : DWord) : Bool :=
  match translate s.mem b.ptroot (packetOf a) with
  | .ok pa _ _ _ => ctlL (s.mem.readLE pa 4)
  | _ => false

/-- No thread is held at an address that is the literal slot of a packet with L = 1 (R91, R92). DESIGN CHOICE (log
entry 123): while the page of the packet is not present, a lane at slot 3 is not held either, and waits for the page. -/
def State.noHold (s : State) (b : Band) (a : DWord) : Bool :=
  slotOf a == 3 && match translate s.mem b.ptroot (packetOf a) with
    | .ok pa _ _ _ => ctlL (s.mem.readLE pa 4)
    | .absent => true
    | .unmapped => false

/-- The selection of a band in this state (R131, R91 to R93). -/
def State.select (s : State) (b : Band) : Band :=
  b.select (maskOf fun t => (b.lane t).arrives && s.noHold b (b.lane t).pc)

/-- The trap of a transfer to an address in this state. -/
def State.targetTrap (s : State) (b : Band) (a : DWord) : Option Byte :=
  Machine.targetTrap b a (s.lbitAt b a)

end Sys2Proof.Machine
end

