-- ==== Sys2Proof/Machine/Operands.lean ====
section
/-!
DEFINITION. The operands of instruction words: the registers each word names as sources and as
destinations (R47, R57, R61 to R67), how a word at issue reads them (R19, R69), and the forms that
act once per issue (R150) or end a region (R369).
-/

namespace Sys2Proof.Machine

/-- A word at issue: its address, issue set, participant set V, issue cycle, the counter of its
choices, and the L bit of its packet. -/
structure Ex where
  pc : DWord
  set : BitVec 32
  v : BitVec 32
  now : Nat
  k : Nat
  lbit : Bool
  deriving DecidableEq, Repr

/-- The word that issues in this state. -/
def State.ex (s : State) (h : Hdr) : Ex :=
  let b := s.me
  let set := if 2 ≤ s.latch.pair then s.latch.lanes else b.issueSet
  let k := if s.latch.pair = 0 then s.free else s.latch.k
  { pc := if 2 ≤ s.latch.pair then s.latch.pc else b.pc, set := set,
    v := b.guarded s.cycle k h set, now := s.cycle, k := k, lbit := s.latch.lbit }

/-- The lowest lane of V, for words that act once per issue (R150). -/
def Ex.low (x : Ex) : Nat := lowest x.v

/-! ## Reading -/

/-- g[r] in lane `t`. -/
def Band.rg (b : Band) (x : Ex) (t : Nat) (r : Reg) : Word :=
  (b.readReg x.now x.k t (.g r)).setWidth 32

/-- pair(r) in lane `t` (R7). -/
def Band.rg2 (b : Band) (x : Ex) (t : Nat) (r : Reg) : DWord :=
  (b.rg x t (r + 1)) ++ (b.rg x t r)

/-- s[u] (R135). -/
def Band.ru (b : Band) (x : Ex) (u : SReg) : Word := (b.readReg x.now x.k 0 (.s u)).setWidth 32

/-- A uniform pair. -/
def Band.ru2 (b : Band) (x : Ex) (u : SReg) : DWord := (b.ru x (u + 1)) ++ (b.ru x u)

/-- A predicate in lane `t`. -/
def Band.rp (b : Band) (x : Ex) (t : Nat) (p : PReg) : Bool :=
  (b.readReg x.now x.k t (.p p)).getLsbD 0

/-- An index register in lane `t`. -/
def Band.rx (b : Band) (x : Ex) (t : Nat) (k : BitVec 2) : Word :=
  (b.readReg x.now x.k t (.x k)).setWidth 32

/-- The B operand (R69). -/
def Band.src (b : Band) (x : Ex) (t : Nat) : Src → Word
  | .g r => b.rg x t r
  | .u r => b.ru x r

/-- The 64-bit B operand (R70). -/
def Band.src2 (b : Band) (x : Ex) (t : Nat) : Src → DWord
  | .g r => b.rg2 x t r
  | .u r => b.ru2 x r

/-- The `n` registers from r on in lane `t`, as bytes, the lowest register first (R3). -/
def Band.rgBytes (b : Band) (x : Ex) (t : Nat) (r : Reg) (n : Nat) : List Byte :=
  ((List.range n).map fun i => leBytes (b.rg x t (r + BitVec.ofNat 6 i)).toNat 4).flatten

/-! ## Names -/

def gs (n : Nat) (r : Reg) : List RegName := (List.range n).map fun i => .g (r + BitVec.ofNat 6 i)
def ss (n : Nat) (r : SReg) : List RegName := (List.range n).map fun i => .s (r + BitVec.ofNat 5 i)

def srcNames (n : Nat) : Src → List RegName
  | .g r => gs n r
  | .u r => ss n r

/-- Registers of an address operand in a space (R217). -/
def addrRegs (sp : Space) : Nat := if sp = .scr then 1 else 2

/-- The registers that a word names as sources, its guard apart. -/
def srcsOf : Instr → List RegName
  | .brx _ a | .callx _ _ a | .ret _ a | .setm _ a => gs 2 a
  | .getm .. | .meet .. => [.m]
  | .addI32 _ _ a b | .subI32 _ _ a b | .mulI32 _ _ a b | .mulhiI32 _ _ a b | .mulhiN32 _ _ a b
  | .mulwI32 _ _ a b | .divI32 _ _ a b | .divN32 _ _ a b | .remI32 _ _ a b | .remN32 _ _ a b
  | .andB32 _ _ a b | .orB32 _ _ a b | .xorB32 _ _ a b | .andnB32 _ _ a b | .minI32 _ _ a b
  | .minN32 _ _ a b | .maxI32 _ _ a b | .maxN32 _ _ a b | .shlB32 _ _ a b | .shrN32 _ _ a b
  | .shrI32 _ _ a b | .bpermB32 _ _ a b | .bfxN32 _ _ a b | .bfxI32 _ _ a b =>
    gs 1 a ++ srcNames 1 b
  | .addxN32 _ d a b | .subxN32 _ d a b => gs 1 (d + 1) ++ gs 1 a ++ srcNames 1 b
  | .addI64 _ _ a b | .subI64 _ _ a b => gs 2 a ++ srcNames 2 b
  | .madwI32 _ d a b => gs 2 d ++ gs 1 a ++ srcNames 1 b
  | .addI32Imm _ _ a _ => gs 1 a
  | .madI32 _ d a b | .bfiB32 _ d a b => gs 1 d ++ gs 1 a ++ srcNames 1 b
  | .shlB32Imm _ _ a _ | .shrN32Imm _ _ a _ | .shrI32Imm _ _ a _ | .rotB32 _ _ a _
  | .popcB32 _ _ a | .clzB32 _ _ a | .absI32 _ _ a | .negI32 _ _ a => gs 1 a
  | .movhi _ d _ => [.g (d.setWidth 6)]
  | .cmp _ t _ _ a b =>
    match t with
    | .i64 | .n64 => gs 2 a ++ srcNames 2 b
    | _ => gs 1 a ++ srcNames 1 b
  | .cmpi _ _ _ a _ => gs 1 a
  | .fcmp _ _ _ a b => gs 1 a ++ srcNames 1 b
  | .sel _ _ a b p => gs 1 a ++ gs 1 b ++ [.p p]
  | .movB32 _ _ a | .xset _ _ a | .xidx _ _ a => gs 1 a
  | .movB64 _ _ a => gs 2 a
  | .movB32S _ _ u => [.s u]
  | .rdx _ _ k => [.x k]
  | .wrx _ k a => .x k :: gs 1 a
  | .plop _ _ _ pa _ pb _ => [.p pa, .p pb]
  | .ld _ _ a _ _ _ => gs 2 a
  | .st _ d a _ sz _ => gs 2 a ++ gs sz.regs d
  | .addF32 _ _ a b | .subF32 _ _ a b | .mulF32 _ _ a b | .minF32 _ _ a b | .maxF32 _ _ a b
  | .addF16x2 _ _ a b | .mulF16x2 _ _ a b | .maxF16x2 _ _ a b | .addBf16x2 _ _ a b
  | .mulBf16x2 _ _ a b | .maxBf16x2 _ _ a b => gs 1 a ++ srcNames 1 b
  | .fmaF32 _ d a b | .fmaF16x2 _ d a b | .fmaBf16x2 _ d a b => gs 1 d ++ gs 1 a ++ srcNames 1 b
  | .absF32 _ _ a | .negF32 _ _ a | .cvt _ _ a _ _ _ | .scalex _ _ a _ => gs 1 a
  | .pmergeF32 _ _ a b => gs 3 a ++ gs 3 b
  | .ex2F32 _ _ a _ | .lg2F32 _ _ a _ | .rcpF32 _ _ a _ | .rsqF32 _ _ a _ | .sinF32 _ _ a _
  | .cosF32 _ _ a _ => gs 1 a
  | .uaddI32 _ _ a b | .usubI32 _ _ a b | .umulI32 _ _ a b | .uandB32 _ _ a b | .uorB32 _ _ a b
  | .ushlB32 _ _ a b | .ushrN32 _ _ a b => [.s a, .s b]
  | .sld _ _ a _ sp _ _ => ss (addrRegs sp) a
  | .voteAll _ _ _ pa | .voteAny _ _ _ pa | .voteBallot _ _ _ pa => [.p pa]
  | .rdfl _ _ a => gs 1 a
  | .shflIdx _ _ a b | .shflUp _ _ a b | .shflDown _ _ a b | .shflXor _ _ a b =>
    gs 1 a ++ srcNames 1 b
  | .gbar _ s => [.s s]
  | .bcast _ _ a s => .s s :: gs 1 a
  | .spawn _ a => gs 2 a
  | .req _ d a _ sz => gs sz.regs d ++ gs 2 a
  | .boinit _ a b | .bowait _ a b => gs 1 a ++ gs 1 b
  | .boarrive _ _ a => gs 1 a
  | .ldSpace _ _ a _ sp _ _ => gs (addrRegs sp) a
  | .stSpace _ d a _ sp sz _ => gs (addrRegs sp) a ++ gs sz.regs d
  | .atom _ _ a b _ ty c => gs (addrRegs c.sp) a ++ gs ty.regs b
  | .cas _ d a b ty c => gs (addrRegs c.sp) a ++ gs ty.regs b ++ gs ty.regs d
  | .ldAtomic _ _ a _ c => gs (addrRegs c.sp) a
  | .stAtomic _ a b ty c => gs (addrRegs c.sp) a ++ gs ty.regs b
  | .shedDropL1 _ a b | .shedCleanGrove _ a b | .warmGrove _ a b | .warmL1 _ a b =>
    gs 2 a ++ gs 1 b
  | .kset _ _ a b => [.s a, .s b]
  | .ldt _ _ _ a _ | .stt _ _ _ a _ | .accld _ _ _ a | .accst _ _ _ a | .accstBf16 _ _ _ a
  | .accstF16 _ _ _ a | .mxsave _ _ a | .mxrest _ _ a => gs 2 a
  | .draw _ _ _ _ _ ps | .accept _ _ _ _ _ ps => ss 8 ps
  | .strmIn _ _ a b _ | .strmOut _ _ a b _ | .xform _ _ a b _ _ => gs 2 a ++ gs 1 b
  | .gnode _ _ a | .unlink _ _ a | .unlinkCmp _ _ a | .segrd _ _ a | .segrdRw _ _ a => gs 2 a
  | .link _ _ a b => gs 2 a ++ gs 1 b
  | .gpw _ _ _ b => gs 2 b
  | .watch _ _ a _ => gs 2 a
  | .unwatch _ _ a => gs 1 a
  | .swr _ a y => gs (if sys64 y then 2 else 1) a
  | .tlbinv _ _ a => gs 2 a
  | _ => []

/-- The registers that a word names as destinations. -/
def dstsOf : Instr → List RegName
  | .call _ d _ | .callx _ d _ | .getm _ d => gs 2 d
  | .meet _ d _ => .m :: gs 2 d
  | .setm .. => [.m]
  | .addI32 _ d _ _ | .subI32 _ d _ _ | .addI32Imm _ d _ _ | .mulI32 _ d _ _ | .mulhiI32 _ d _ _
  | .mulhiN32 _ d _ _ | .madI32 _ d _ _ | .divI32 _ d _ _ | .divN32 _ d _ _ | .remI32 _ d _ _
  | .remN32 _ d _ _ | .andB32 _ d _ _ | .orB32 _ d _ _ | .xorB32 _ d _ _ | .andnB32 _ d _ _
  | .minI32 _ d _ _ | .minN32 _ d _ _ | .maxI32 _ d _ _ | .maxN32 _ d _ _ | .shlB32 _ d _ _
  | .shrN32 _ d _ _ | .shrI32 _ d _ _ | .bpermB32 _ d _ _ | .bfxN32 _ d _ _ | .bfxI32 _ d _ _
  | .bfiB32 _ d _ _ => gs 1 d
  | .shlB32Imm _ d _ _ | .shrN32Imm _ d _ _ | .shrI32Imm _ d _ _ | .rotB32 _ d _ _
  | .popcB32 _ d _ | .clzB32 _ d _ | .absI32 _ d _ | .negI32 _ d _ => gs 1 d
  | .addxN32 _ d _ _ | .subxN32 _ d _ _ | .addI64 _ d _ _ | .subI64 _ d _ _ | .mulwI32 _ d _ _
  | .madwI32 _ d _ _ => gs 2 d
  | .movi _ d _ | .movhi _ d _ => [.g (d.setWidth 6)]
  | .cmp _ _ _ pd _ _ | .cmpi _ _ pd _ _ | .fcmp _ _ pd _ _ | .plop _ _ pd _ _ _ _
  | .voteAll _ pd _ _ | .voteAny _ pd _ _ => [.p pd]
  | .sel _ d _ _ _ | .movB32 _ d _ | .movLit _ d _ | .movB32S _ d _ | .rdx _ d _ => gs 1 d
  | .movB64 _ d _ => gs 2 d
  | .xset _ k _ | .xidx _ k _ => [.x k]
  | .ld _ d _ _ sz _ | .ldSpace _ d _ _ _ sz _ => gs sz.regs d
  | .addF32 _ d _ _ | .subF32 _ d _ _ | .mulF32 _ d _ _ | .fmaF32 _ d _ _ | .minF32 _ d _ _
  | .maxF32 _ d _ _ | .absF32 _ d _ | .negF32 _ d _ | .addF16x2 _ d _ _ | .mulF16x2 _ d _ _
  | .fmaF16x2 _ d _ _ | .maxF16x2 _ d _ _ | .addBf16x2 _ d _ _ | .mulBf16x2 _ d _ _
  | .fmaBf16x2 _ d _ _ | .maxBf16x2 _ d _ _ | .cvt _ d _ _ _ _ | .scalex _ d _ _
  | .ex2F32 _ d _ _ | .lg2F32 _ d _ _ | .rcpF32 _ d _ _ | .rsqF32 _ d _ _ | .sinF32 _ d _ _
  | .cosF32 _ d _ _ => gs 1 d
  | .pmergeF32 _ d _ _ => gs 3 d
  | .uaddI32 _ d _ _ | .usubI32 _ d _ _ | .umulI32 _ d _ _ | .umovlB32 _ d _ | .uandB32 _ d _ _
  | .uorB32 _ d _ _ | .ushlB32 _ d _ _ | .ushrN32 _ d _ _ | .voteBallot _ d _ _ | .rdfl _ d _ =>
    [.s d]
  | .sld _ d _ _ _ sz _ => ss sz.regs d
  | .shflIdx _ d _ _ | .shflUp _ d _ _ | .shflDown _ d _ _ | .shflXor _ d _ _ | .bcast _ d _ _
  | .boarrive _ d _ | .watch _ _ _ d => gs 1 d
  | .take _ d => gs 2 d
  | .atom _ d _ _ _ ty _ | .cas _ d _ _ ty _ | .ldAtomic _ d _ ty _ => gs ty.regs d
  | .draw _ _ _ d _ _ | .accept _ _ d _ _ _ => gs 2 d
  | .srd _ d y => gs (if sys64 y then 2 else 1) d
  | _ => []

/-- The completion flag that a word names; 15 for none (R17). -/
def flagOf : Instr → Flag
  | .ld _ _ _ sb _ _ | .st _ _ _ sb _ _ | .ldSpace _ _ _ sb _ _ _ | .stSpace _ _ _ sb _ _ _ => sb
  | .ex2F32 _ _ _ sb | .lg2F32 _ _ _ sb | .rcpF32 _ _ _ sb | .rsqF32 _ _ _ sb | .sinF32 _ _ _ sb
  | .cosF32 _ _ _ sb => sb
  | .sld _ _ _ sb _ _ _ | .req _ _ _ sb _ => sb
  | .atom _ _ _ _ _ _ c | .cas _ _ _ _ _ c | .ldAtomic _ _ _ _ c | .stAtomic _ _ _ _ c => c.sb
  | .ldt _ sb _ _ _ | .stt _ sb _ _ _ | .accld _ sb _ _ | .accst _ sb _ _ | .accstBf16 _ sb _ _
  | .accstF16 _ sb _ _ | .mxsave _ sb _ | .mxrest _ sb _ => sb
  | .draw _ _ sb _ _ _ | .accept _ sb _ _ _ _ => sb
  | .strmIn _ sb _ _ _ | .strmOut _ sb _ _ _ | .gnode _ sb _ | .xform _ sb _ _ _ _ | .link _ sb _ _
  | .unlink _ sb _ | .unlinkCmp _ sb _ | .segrd _ sb _ | .segrdRw _ sb _ | .gpw _ sb _ _ => sb
  | .watch _ sb _ _ | .unwatch _ sb _ | .tlbinv _ sb _ => sb
  | _ => 15

/-- Words that act once per issue and read their general registers in the lowest lane of V (R150). -/
def onceOf : Instr → Bool
  | .boinit .. | .ldt .. | .stt .. | .accld .. | .accst .. | .accstBf16 .. | .accstF16 .. | .mxsave ..
  | .mxrest .. | .strmIn .. | .strmOut .. | .gnode .. | .xform .. | .link .. | .unlink ..
  | .unlinkCmp .. | .segrd .. | .segrdRw .. | .gpw .. | .watch .. | .unwatch .. | .tlbinv .. | .rdfl .. => true
  | .swr _ _ y => y.toNat != 0x114
  | _ => false

/-- Words that act once per issue, so that a trap of one lane is a trap of every lane of V (R150). -/
def actsOnce (i : Instr) : Bool :=
  onceOf i || match i with
    | .srd .. | .swr .. | .tret .. | .rgn .. | .voteBallot .. | .grow .. | .shrink .. | .take .. => true
    | .uaddI32 .. | .usubI32 .. | .umulI32 .. | .umovlB32 .. | .uandB32 .. | .uorB32 .. | .ushlB32 .. | .ushrN32 ..
    | .sld .. => true
    | .claim .. | .rels .. | .kset .. | .accz .. | .draw .. | .accept .. => true
    | _ => false

/-- Words that end an open region (R369). -/
def endsRegion : Instr → Bool
  | .rgn .. | .exit .. | .trap .. | .bkpt .. | .fence .. | .atom .. | .cas .. | .ldAtomic ..
  | .stAtomic .. => true
  | .claim .. | .rels .. | .kset .. | .ldt .. | .stt .. | .accz .. | .accld .. | .accst ..
  | .accstBf16 .. | .accstF16 .. | .mxsave .. | .mxrest .. | .draw .. | .accept .. | .mma .. => true
  | .strmIn .. | .strmOut .. | .gnode .. | .xform .. | .link .. | .unlink .. | .unlinkCmp ..
  | .segrd .. | .segrdRw .. | .gpw .. | .watch .. | .unwatch .. | .tlbinv .. => true
  | .bar .. | .gbar .. | .bcast .. | .take .. | .spawn .. | .req .. | .boinit .. | .boarrive ..
  | .swr .. => true
  | _ => false

/-- Words that trap with code 0x1B in handler mode (R365). -/
def waitsOnOthers : Instr → Bool
  | .bar .. | .gbar .. | .bcast .. | .take .. | .grow .. | .claim .. | .kset .. | .mma .. | .link ..
  | .unlink .. | .unlinkCmp .. | .segrd .. | .segrdRw .. => true
  | _ => false

/-- SWR and the privileged SRDs, TRET and TLBINV (R67, R154). -/
def privSrd (y : BitVec 10) : Bool := [0x205, 0x206].contains y.toNat

/-- Result latency of the fixed-latency pipes (R18). -/
def latencyOf (p : Pipe) : Nat :=
  match p with
  | .control => 1
  | .fp => 5
  | _ => 4

end Sys2Proof.Machine
end

