-- ==== Sys2Proof/Machine/Flags.lean ====
section
/-!
DEFINITION. Completion flags (R6, R17), the exception conditions of FPCTL as a word leaves them
(R107, R108, R117), carries and comparisons of the integer words (R71, R80).
-/

namespace Sys2Proof.Machine

/-! ## Completion flags -/

/-- A flag is busy (R17); a number above 11 names none. -/
def Band.busy (b : Band) (n : Nat) : Bool := (b.flags.toArray.getD n none).isSome

/-- Flag(f) := busy, set by a pipe (R5, R149). A field of 15 names no flag. -/
def Band.setBusy (b : Band) (f : Flag) (p : Pipe) : Band :=
  { b with flags := b.flags.setIfInBounds f.toNat (some p) }

/-- Flag(f) := done (R5). -/
def Band.setDone (b : Band) (f : Flag) : Band :=
  { b with flags := b.flags.setIfInBounds f.toNat none }

/-- Some flag of the band is busy. -/
def Band.anyBusy (b : Band) : Bool := (List.range 12).any b.busy

/-! ## Integer conditions -/

/-- The sum of a carry add (R71): result and carry. -/
def addCarry (a b : Word) (c : Bool) : Word × Word :=
  let s := a.toNat + b.toNat + (if c then 1 else 0)
  (BitVec.ofNat 32 s, if 2 ^ 32 ≤ s then 1 else 0)

/-- The difference of a borrow subtract (R71): result and borrow. -/
def subBorrow (a b : Word) (c : Bool) : Word × Word :=
  let k := b.toNat + (if c then 1 else 0)
  (BitVec.ofNat 32 (a.toNat + 2 ^ 33 - k), if a.toNat < k then 1 else 0)

/-- A condition between two values compared by one order (R80). -/
def ccHolds (cc : Cc) (eq lt : Bool) : Bool :=
  match cc with
  | .eq => eq
  | .ne => !eq
  | .lt => lt
  | .le => lt || eq
  | .gt => !(lt || eq)
  | .ge => !lt

/-- A compare of 32-bit values. -/
def cmp32 (cc : Cc) (sgn : Bool) (a b : Word) : Bool :=
  ccHolds cc (a == b) (if sgn then a.slt b else a.ult b)

/-- A compare of 64-bit values. -/
def cmp64 (cc : Cc) (sgn : Bool) (a b : DWord) : Bool :=
  ccHolds cc (a == b) (if sgn then a.slt b else a.ult b)

/-! ## FPCTL -/

/-- The conditions that have a sticky bit (R107). -/
def stickyOf (c : Word) : Word := c &&& 0xFE00

/-- The conditions of a word set their sticky bits when its result is written (R108, R117). -/
def Band.stick (b : Band) (due : Nat) (c : Word) : Band :=
  if stickyOf c = 0 then b else { b with fpLate := b.fpLate ++ [(stickyOf c, due)] }

/-- FPCTL as an SRD at a cycle reads it: a bit that is not yet due may be seen or not (R117). -/
def Band.readFpctl (b : Band) (now k : Nat) : Word :=
  (b.fpLate.mapIdx fun i e => (i, e)).foldl (fun c e =>
    if now < e.2.2 && !Config.pick k (2 ^ 30 + e.1) then c else c ||| e.2.1) b.fpctl

/-- INFO of code 0x0D: FPCTL[13:9] of the lane's conditions (R355). -/
def condInfo (c : Word) : Nat := bits c.toNat 9 5

end Sys2Proof.Machine
end

