-- ==== Sys2Proof/Machine/Codec.lean ====
section
/-!
DEFINITION. The leaf codec (R299 to R303) and the sectors that a block of compressed memory
occupies (R226, R302).
-/

namespace Sys2Proof.Machine

/-- The 64 words of a leaf tile. -/
def tileWords (t : List Byte) : List Nat := (List.range 64).map fun i => field t (4 * i) 4

/-- The smallest width K, at least 1, with `v < 2 ^ K`, up to 33. -/
def widthOf (v : Nat) : Nat := ((List.range 33).map (· + 1)).find? (fun k => decide (v < 2 ^ k)) |>.getD 33

/-- The distinct byte values of a tile, ascending. -/
def distinctBytes (t : List Byte) : List Nat :=
  (List.range 256).filter fun v => t.any fun b => b.toNat == v

/-- Least word and the delta width of a tile (R301). -/
def tileMin (t : List Byte) : Nat := (tileWords t).foldl min (2 ^ 32 - 1)
def tileK (t : List Byte) : Nat :=
  let m := tileMin t
  widthOf ((tileWords t).foldl (fun a w => max a (w - m)) 0)

/-- The encoded lengths of the modes that apply, in the order of the modes (R301). -/
def modeLens (t : List Byte) : List (Nat × Nat) :=
  let ws := tileWords t
  let k := tileK t
  (if ws.all (· == 0) then [(0, 4)] else []) ++
  (if ws.all (· == ws.headD 0) then [(1, 8)] else []) ++
  (if k ≤ 16 then [(2, 8 + 8 * k)] else []) ++
  (if (distinctBytes t).length ≤ 16 then [(3, 148)] else []) ++
  [(4, 260)]

/-- The mode of least length, ties to the lower mode (R301). -/
def bestMode (t : List Byte) : Nat × Nat :=
  (modeLens t).foldl (fun a m => if m.2 < a.2 then m else a) (5, 261)

/-- The 32-byte sectors that a 256-byte block occupies (R302). -/
def blockSectors (t : List Byte) : Nat :=
  let m := bestMode t
  if m.1 == 0 then 0 else if m.1 == 4 then 8 else (m.2 + 31) / 32

/-- Pack numbers of `k` bits, the first lowest, into one number. -/
def packBits (k : Nat) : List Nat → Nat
  | [] => 0
  | v :: r => v % 2 ^ k + 2 ^ k * packBits k r

/-- Encode a 256-byte tile; the encoder pads to a slot with zeros (R299, R301). -/
def leafEncode (t : List Byte) : List Byte :=
  let m := bestMode t
  let k := if m.1 == 2 then tileK t else 0
  let h := leBytes (m.2 * 2 ^ 16 + k * 16 + m.1) 4
  match m.1 with
  | 0 => h
  | 1 => h ++ t.take 4
  | 2 =>
    let lo := tileMin t
    h ++ leBytes lo 4 ++ leBytes (packBits k ((tileWords t).map (· - lo))) (8 * k)
  | 3 =>
    let d := distinctBytes t
    let dict := (List.range 16).map fun i => BitVec.ofNat 8 (d.getD i 0)
    h ++ dict ++ leBytes (packBits 4 (t.map fun b => d.idxOf b.toNat)) 128
  | _ => h ++ t

/-- Decode a slot; none if the tile is not well formed (R299, R300). -/
def leafDecode (e : List Byte) : Option (List Byte) :=
  let h := field e 0 4
  let len := bits h 16 16
  let k := bits h 4 5
  let mode := bits h 0 4
  if bits h 9 7 != 0 then none
  else
    match mode with
    | 0 => if k == 0 && len == 4 then some (List.replicate 256 0) else none
    | 1 =>
      if k == 0 && len == 8 then some ((List.replicate 64 (sub e 4 4)).flatten) else none
    | 2 =>
      if 1 ≤ k && k ≤ 16 && len == 8 + 8 * k then
        let base := field e 4 4
        let d := field e 8 (8 * k)
        some (((List.range 64).map fun i => leBytes ((base + bits d (k * i) k) % 2 ^ 32) 4).flatten)
      else none
    | 3 =>
      if k == 0 && len == 148 then
        some ((List.range 256).map fun j =>
          (e.drop 4).getD (bits ((e.getD (20 + j / 2) 0).toNat) (4 * (j % 2)) 4) 0)
      else none
    | 4 => if k == 0 && len == 260 then some (sub e 4 256) else none
    | _ => none

end Sys2Proof.Machine
end

