-- ==== Sys2Proof/Machine/Num.lean ====
section
/-!
DEFINITION. The element formats, rounding, subnormals and the exception conditions (chapter 05).
Values are exact: a finite number is ± m · 2^e, and every operation computes it exactly before the
one rounding that its entry names.
-/

namespace Sys2Proof.Machine

/-! ## Conditions: the sticky bits of FPCTL (R107) -/

def cClamp : Word := 0x8000
def cSat : Word := 0x4000
def cNV : Word := 0x2000
def cDZ : Word := 0x1000
def cOF : Word := 0x0800
def cUF : Word := 0x0400
def cNX : Word := 0x0200

/-- A set of conditions if a test holds. -/
def cIf (b : Bool) (c : Word) : Word := if b then c else 0

/-- FPCTL.FTZ. -/
def ftzOf (fpctl : Word) : Bool := fpctl.getLsbD 0

/-- Some raised condition has its trap enabled (R107, R108). -/
def enabledCond (fpctl c : Word) : Bool := (c >>> 8) &&& fpctl &&& 0x3E != 0

/-! ## Values -/

/-- The value of a code: NaN (signalling or not), an infinity, or ± m · 2^e. -/
inductive Fp where
  | nan (sig : Bool)
  | inf (neg : Bool)
  | fin (neg : Bool) (m : Nat) (e : Int)
  deriving DecidableEq, Repr

namespace Fp

def qnan : Fp := .nan false
def zero : Fp := .fin false 0 0
def ofInt (v : Int) : Fp := .fin (decide (v < 0)) v.natAbs 0
/-- 2^e -/
def pow2 (e : Int) : Fp := .fin false 1 e

def isNan : Fp → Bool
  | .nan _ => true
  | _ => false

def isSig : Fp → Bool
  | .nan s => s
  | _ => false

def isZero : Fp → Bool
  | .fin _ m _ => m == 0
  | _ => false

def isInf : Fp → Bool
  | .inf _ => true
  | _ => false

def neg : Fp → Fp
  | .nan s => .nan s
  | .inf n => .inf !n
  | .fin n m e => .fin (!n) m e

def isNeg : Fp → Bool
  | .nan _ => false
  | .inf n => n
  | .fin n _ _ => n

/-- The number in units of 2^q, for q at most its exponent. -/
def units (q : Int) : Fp → Int
  | .fin n m e => (if n then -1 else 1) * ((m * 2 ^ (e - q).toNat : Nat) : Int)
  | _ => 0

def exp : Fp → Int
  | .fin _ _ e => e
  | _ => 0

/-- The exact sum; an exact zero is −0 only if both terms are −0 (R109). -/
def add (a b : Fp) : Fp :=
  match a, b with
  | .nan _, _ => qnan
  | _, .nan _ => qnan
  | .inf x, .inf y => if x = y then .inf x else qnan
  | .inf x, _ => .inf x
  | _, .inf y => .inf y
  | .fin x _ e, .fin y _ f =>
    let q := min e f
    let s := a.units q + b.units q
    if s = 0 then .fin (x && y) 0 0 else .fin (decide (s < 0)) s.natAbs q

/-- The exact product, with the exclusive or of the signs. -/
def mul (a b : Fp) : Fp :=
  match a, b with
  | .nan _, _ => qnan
  | _, .nan _ => qnan
  | .inf x, .inf y => .inf (x != y)
  | .inf x, .fin y m _ => if m = 0 then qnan else .inf (x != y)
  | .fin x m _, .inf y => if m = 0 then qnan else .inf (x != y)
  | .fin x m e, .fin y n f => .fin (x != y) (m * n) (e + f)

/-- Less, for numbers; −0 equals +0. -/
def lt (a b : Fp) : Bool :=
  match a, b with
  | .nan _, _ => false
  | _, .nan _ => false
  | .inf x, .inf y => x && !y
  | .inf x, _ => x
  | _, .inf y => !y
  | .fin _ _ e, .fin _ _ f => let q := min e f; decide (a.units q < b.units q)

/-- Equality of numbers; −0 equals +0 and a NaN equals nothing. -/
def eq (a b : Fp) : Bool := !a.isNan && !b.isNan && !a.lt b && !b.lt a

/-- floor(log2 |x|) of a nonzero finite number. -/
def log2 : Fp → Int
  | .fin _ m e => Nat.log2 m + e
  | _ => 0

end Fp

/-- Invalid operation of a sum (R108, R118). -/
def nvAdd (a b : Fp) : Bool :=
  a.isSig || b.isSig || (a.isInf && b.isInf && decide (a ≠ b))

/-- Invalid operation of a product (R108, R118). -/
def nvMul (a b : Fp) : Bool :=
  a.isSig || b.isSig || (a.isInf && b.isZero) || (a.isZero && b.isInf)

/-! ## Rounding (R104) -/

/-- The rounding modes. -/
inductive Mode where
  | rne | rz | ru | rd
  deriving DecidableEq, Repr

/-- `m / 2^sh` rounded to an integer, and whether that is inexact. A value below half a unit is told by its length,
so that no power of a large exponent is computed. -/
def roundNat (mode : Mode) (neg : Bool) (m sh : Nat) : Nat × Bool :=
  let far := decide (Nat.log2 m + 2 ≤ sh)
  let q := if far then 0 else m / 2 ^ sh
  let r := if far then m else m % 2 ^ sh
  let up :=
    match mode with
    | .rne => !far && (decide (2 ^ sh < 2 * r) || (2 * r == 2 ^ sh && r != 0 && q % 2 == 1))
    | .rz => false
    | .ru => !neg && r != 0
    | .rd => neg && r != 0
  (if up then q + 1 else q, r != 0)

/-- `m · 2^e` rounded to units of 2^q, and whether that is inexact. -/
def roundAt (mode : Mode) (neg : Bool) (m : Nat) (e q : Int) : Nat × Bool :=
  if q ≤ e then (m * 2 ^ (e - q).toNat, false) else roundNat mode neg m (q - e).toNat

/-- A floating format (R100): widths of exponent and mantissa, bias, largest finite code, whether it
has infinities, the canonical NaN if it has one, and whether FTZ touches it (R109). -/
structure FSpec where
  eb : Nat
  mb : Nat
  bias : Nat
  big : Nat
  hasInf : Bool
  nan : Option Nat
  flush : Bool
  deriving DecidableEq, Repr

def fF32 : FSpec := ⟨8, 23, 127, 0x7F7FFFFF, true, some 0x7FC00000, true⟩
def fBf16 : FSpec := ⟨8, 7, 127, 0x7F7F, true, some 0x7FC0, true⟩
def fF16 : FSpec := ⟨5, 10, 15, 0x7BFF, true, some 0x7E00, true⟩
def fE4m3 : FSpec := ⟨4, 3, 7, 0x7E, false, some 0x7F, false⟩
def fE5m2 : FSpec := ⟨5, 2, 15, 0x7B, true, some 0x7E, false⟩
def fE2m3 : FSpec := ⟨2, 3, 1, 0x1F, false, none, false⟩
def fE3m2 : FSpec := ⟨3, 2, 3, 0x1F, false, none, false⟩
def fE2m1 : FSpec := ⟨2, 1, 1, 0x7, false, none, false⟩

namespace FSpec

/-- The code with only the sign bit set. -/
def signBit (f : FSpec) : Nat := 2 ^ (f.eb + f.mb)

/-- Exponent of the smallest subnormal. -/
def qmin (f : FSpec) : Int := 1 - (f.bias : Int) - f.mb

/-- The code of an infinity without its sign. -/
def infCode (f : FSpec) : Nat := (2 ^ f.eb - 1) * 2 ^ f.mb

/-- The value of a code (R100), with subnormal operands flushed under FTZ (R109). -/
def val (f : FSpec) (ftz : Bool) (c : Nat) : Fp :=
  let neg := bits c (f.eb + f.mb) 1 == 1
  let a := c % f.signBit
  let ef := a / 2 ^ f.mb
  let ff := a % 2 ^ f.mb
  if decide (f.big < a) then
    if f.hasInf && a == f.infCode then .inf neg
    else .nan (f.flush && ff < 2 ^ (f.mb - 1))
  else if ef = 0 then
    if ftz && f.flush then .fin neg 0 0 else .fin neg ff f.qmin
  else .fin neg (2 ^ f.mb + ff) (f.qmin + (ef - 1 : Nat))

/-- A result beyond the range (R104). -/
def overflow (f : FSpec) (mode : Mode) (neg : Bool) : Nat × Word :=
  let toInf := f.hasInf &&
    match mode with
    | .rne => true
    | .rz => false
    | .ru => !neg
    | .rd => neg
  if toInf then (f.infCode, cOF ||| cNX) else (f.big, cOF ||| cNX ||| cSat)

/-- The code without its sign of `m · 2^e`, with its conditions (R104, R108, R109). Tininess is
judged on the value rounded as though the exponent range were unbounded (log entry 7). -/
def roundMag (f : FSpec) (mode : Mode) (ftz neg : Bool) (m : Nat) (e : Int) : Nat × Word :=
  if m = 0 then (0, 0)
  else
    let top := (Nat.log2 m : Int) + e
    let q := max (top - f.mb) f.qmin
    let r := roundAt mode neg m e q
    let code := (q - f.qmin).toNat * 2 ^ f.mb + r.1
    let wide := (roundAt mode neg m e (top - f.mb)).1
    let tiny := decide (top < f.qmin + f.mb) &&
      !(decide (2 ^ (f.mb + 1) ≤ wide) && decide (top + 1 = f.qmin + f.mb))
    if f.big < code then f.overflow mode neg
    else if ftz && f.flush && code != 0 && code < 2 ^ f.mb then (0, cUF ||| cNX)
    else (code, cIf r.2 (if tiny then cUF ||| cNX else cNX))

/-- Round a value to the format: its code and its conditions (R104, R124). -/
def round (f : FSpec) (mode : Mode) (ftz : Bool) (x : Fp) : Nat × Word :=
  match x with
  | .nan sig =>
    match f.nan with
    | some c => (c, cIf sig cNV)
    | none => (0, cNV)
  | .inf neg =>
    let s := if neg then f.signBit else 0
    if f.hasInf then (s + f.infCode, 0) else (s + f.big, cNV)
  | .fin neg m e =>
    let r := f.roundMag mode ftz neg m e
    ((if neg then f.signBit else 0) + r.1, r.2)

end FSpec

/-- A D8 term in units of 2^−6 (R102). -/
def d8Term (s e : Nat) : Int :=
  if e = 7 then 0 else (if s = 1 then -1 else 1) * ((2 ^ (6 - e) : Nat) : Int)

/-- The value of a D8 byte in units of 2^−6 (R102). -/
def d8Units (c : Nat) : Int := d8Term (bits c 7 1) (bits c 4 3) + d8Term (bits c 3 1) (bits c 0 3)

/-- The order of R106 among the codes of one value. -/
def d8Key (c : Nat) : Nat :=
  ((if bits c 4 3 = 7 then 0 else 1) + (if bits c 0 3 = 7 then 0 else 1)) * 2 ^ 8 +
    bits c 4 3 * 2 ^ 5 + bits c 0 3 * 2 ^ 2 + bits c 7 1 * 2 + bits c 3 1

/-- The code that R106 chooses for a value in units of 2^−6. -/
def d8Code (v : Int) : Nat :=
  match (List.range 256).filter fun c => decide (d8Units c = v) with
  | [] => 0x77
  | c :: r => r.foldl (fun a c => if d8Key c < d8Key a then c else a) c

/-- The magnitudes of D8 values in units of 2^−6. -/
def d8Mags : List Nat := (List.range 129).filter fun v => (List.range 256).any fun c => d8Units c == v

/-- Round to D8 (R105, R124): the nearest value, a tie to the smaller magnitude; RZ the largest one
not beyond |x|. -/
def d8Round (mode : Mode) (neg : Bool) (m : Nat) (e : Int) : Nat × Word :=
  let q := min e (-6)
  let x := m * 2 ^ (e - q).toNat
  let sc := 2 ^ ((-6) - q).toNat
  let sgn : Int := if neg then -1 else 1
  if 128 * sc < x then (d8Code (sgn * 128), cOF ||| cNX ||| cSat)
  else
    let lo := d8Mags.foldl (fun a v => if v * sc ≤ x then max a v else a) 0
    let hi := d8Mags.foldl (fun a v => if x ≤ v * sc then min a v else a) 128
    let up :=
      match mode with
      | .rne => decide (hi * sc - x < x - lo * sc)
      | .rz => false
      | .ru => !neg
      | .rd => neg
    (d8Code (sgn * (if up then hi else lo : Nat)), cIf (lo * sc != x) cNX)

/-- Round to E8M0 (R105, R124): a power of two, the range judged on the rounded power. -/
def e8m0Round (mode : Mode) (m : Nat) (e : Int) : Nat × Word :=
  let top := (Nat.log2 m : Int) + e
  let exact := m == 2 ^ Nat.log2 m
  let up :=
    match mode with
    | .rne => decide (3 * 2 ^ Nat.log2 m ≤ 2 * m)
    | .ru => !exact
    | _ => false
  let p := if up then top + 1 else top
  if 127 < p then (0xFE, cSat ||| cNX)
  else if p < -127 then (0, cSat ||| cNX)
  else ((p + 127).toNat, cIf (!exact) cNX)

/-- Saturate to a range (R5). -/
def satInt (v lo hi : Int) : Int := max lo (min hi v)

end Sys2Proof.Machine

namespace Sys2Proof

open Machine

/-! ## The formats by their codes (R59, R100 to R102) -/

def Fmt.fspec : Fmt → Option FSpec
  | .f32 => some fF32
  | .f16 => some fF16
  | .bf16 => some fBf16
  | .e4m3 => some fE4m3
  | .e5m2 => some fE5m2
  | .e2m3 => some fE2m3
  | .e3m2 => some fE3m2
  | .e2m1 => some fE2m1
  | _ => none

/-- Bits of an element. -/
def Fmt.width : Fmt → Nat
  | .f32 | .i32 | .n32 => 32
  | .f16 | .bf16 | .i16 => 16
  | .e2m3 | .e3m2 => 6
  | .e2m1 | .i4 => 4
  | _ => 8

/-- A signed integer type. -/
def Fmt.isI : Fmt → Bool
  | .i32 | .i16 | .i8 | .i4 => true
  | _ => false

/-- Bounds of an integer type. -/
def Fmt.lo (f : Fmt) : Int := if f.isI then -((2 ^ (f.width - 1) : Nat) : Int) else 0
def Fmt.hi (f : Fmt) : Int := ((if f.isI then 2 ^ (f.width - 1) else 2 ^ f.width : Nat) : Int) - 1

/-- The low bits of an integer, as many as the type has. -/
def Fmt.intCode (f : Fmt) (v : Int) : Nat := (v % ((2 ^ f.width : Nat) : Int)).toNat

/-- Round to an integer type and saturate (R105, R124). -/
def Fmt.intRound (f : Fmt) (mode : Mode) (x : Fp) : Nat × Word :=
  match x with
  | .nan _ => (0, cNV)
  | .inf neg => (f.intCode (if neg then f.lo else f.hi), cNV)
  | .fin neg m e =>
    let r := roundAt mode neg m e 0
    let v : Int := if neg then -(r.1 : Int) else r.1
    if v < f.lo ∨ f.hi < v then (f.intCode (satInt v f.lo f.hi), cNV ||| cSat)
    else (f.intCode v, cIf r.2 cNX)

/-- Val of a code of a format (R100 to R102, R123). DESIGN CHOICE (log entry 135): an integer or d8 zero is +0, so that an
exact product of it with a negative value is -0 (R109). -/
def Fmt.val (f : Fmt) (ftz : Bool) (c : Nat) : Fp :=
  let c := c % 2 ^ f.width
  match f.fspec with
  | some s => s.val ftz c
  | none =>
    match f with
    | .d8 => let v := d8Units c; .fin (decide (v < 0)) v.natAbs (-6)
    | .e8m0 => if c = 0xFF then Fp.qnan else Fp.pow2 ((c : Int) - 127)
    | _ => Fp.ofInt (if f.isI then signed c f.width else c)

/-- Round a value to a format: the code, zero extended, and the conditions (R104, R105, R124). -/
def Fmt.enc (f : Fmt) (mode : Mode) (ftz : Bool) (x : Fp) : Nat × Word :=
  match f.fspec with
  | some s => s.round mode ftz x
  | none =>
    match f with
    | .d8 =>
      match x with
      | .nan _ => (0x77, cNV)
      | .inf neg => (d8Code (if neg then -128 else 128), cNV)
      | .fin neg m e => d8Round mode neg m e
    | .e8m0 =>
      match x with
      | .nan sig => (0xFF, cIf sig cNV)
      | .inf neg => (if neg then 0xFF else 0xFE, cNV)
      | .fin neg m e => if neg || m == 0 then (0xFF, cNV) else e8m0Round mode m e
    | _ => f.intRound mode x

/-- emax(T) of the scalable formats (R125). -/
def Fmt.emax : Fmt → Int
  | .e4m3 => 8
  | .e5m2 => 15
  | .e2m3 => 2
  | .e3m2 => 4
  | .e2m1 => 2
  | .i8 => 6
  | .i4 => 2
  | _ => 0

end Sys2Proof

namespace Sys2Proof.Machine

/-- The block scale code of an f32 block maximum (R125), and SCALECLAMP. -/
def blockScale (t : Fmt) (v : Fp) : Nat × Word :=
  match v with
  | .nan _ => (0xFF, 0)
  | .inf _ => (0xFF, 0)
  | .fin _ m _ =>
    if m = 0 then (0, 0)
    else
      let e := v.log2 - t.emax
      if e < -127 then (0, cClamp) else ((e + 127).toNat, 0)

/-! ## Arithmetic in a format -/

namespace FSpec

/-- a + b rounded once (R118). -/
def fadd (f : FSpec) (ftz : Bool) (a b : Nat) : Nat × Word :=
  let x := f.val ftz a
  let y := f.val ftz b
  let r := f.round .rne ftz (x.add y)
  (r.1, r.2 ||| cIf (nvAdd x y) cNV)

/-- a − b rounded once (R118). -/
def fsub (f : FSpec) (ftz : Bool) (a b : Nat) : Nat × Word :=
  let x := f.val ftz a
  let y := (f.val ftz b).neg
  let r := f.round .rne ftz (x.add y)
  (r.1, r.2 ||| cIf (nvAdd x y) cNV)

/-- a · b rounded once (R118). -/
def fmul (f : FSpec) (ftz : Bool) (a b : Nat) : Nat × Word :=
  let x := f.val ftz a
  let y := f.val ftz b
  let r := f.round .rne ftz (x.mul y)
  (r.1, r.2 ||| cIf (nvMul x y) cNV)

/-- a · b + c rounded once (R115, R118). -/
def ffma (f : FSpec) (ftz : Bool) (a b c : Nat) : Nat × Word :=
  let x := f.val ftz a
  let y := f.val ftz b
  let z := f.val ftz c
  let p := x.mul y
  let r := f.round .rne ftz (p.add z)
  (r.1, r.2 ||| cIf (nvMul x y || z.isSig || (p.isInf && nvAdd p z)) cNV)

/-- An operand as min and max return it: a subnormal reads as zero under FTZ (R119). -/
def operand (f : FSpec) (ftz : Bool) (c : Nat) : Nat :=
  if ftz && f.flush && c % f.signBit < 2 ^ f.mb then c / f.signBit % 2 * f.signBit else c

/-- Below in the order of R119, with −0 below +0. -/
def before (x y : Fp) : Bool := x.lt y || (x.isZero && y.isZero && x.isNeg && !y.isNeg)

/-- min and max (R119). -/
def fminmax (f : FSpec) (ftz max : Bool) (a b : Nat) : Nat × Word :=
  let x := f.val ftz a
  let y := f.val ftz b
  let nv := cIf (x.isSig || y.isSig) cNV
  if x.isNan && y.isNan then (f.nan.getD 0, nv)
  else if x.isNan then (f.operand ftz b, nv)
  else if y.isNan then (f.operand ftz a, nv)
  else
    let takeB := if max then before x y else before y x
    (f.operand ftz (if takeB then b else a), nv)

end FSpec

end Sys2Proof.Machine
end

