-- ==== Sys2Proof/Machine/Perform.lean ====
section
/-!
DEFINITION. Writes as they are performed: sectors of compressed memory (R226, R227), the watch checks
of the home slice (R280 to R287), event records (R439), asynchronous reports (R362), the L1 of the
writer's core (R223) and the race shadow of the scratchpad (R402).
-/

namespace Sys2Proof.Machine

/-! ## Who writes -/

/-- The writer word (R282). -/
def Writer.code (w : Writer) : Word :=
  BitVec.ofNat 32 (w.kind * 2 ^ 29 + w.die * 2 ^ 25 + w.core * 2 ^ 17 + w.slot * 2 ^ 12 + w.lane * 2 ^ 7)

/-- The trigger depth of a band's lanes (R283). -/
def State.depthOf (s : State) (b : Band) : Nat := ((s.crew b.crew).map (·.depth)).getD 0

/-- A lane of a band as the writer of a word; an engine thread forked by it has kind 1. -/
def State.laneWriter (s : State) (bi t : Nat) (word : DWord) (engine : Bool) : Writer :=
  let b := s.band bi
  { kind := if engine then 1 else 0, die := b.core / 256, core := b.core % 256,
    slot := b.quarter * 8 + b.slot, lane := t, ctx := s.ctxOf b, depth := s.depthOf b,
    band := some bi, word := word, launch := (s.crew b.crew).map (·.launch), book := false }

/-- The command processor of a die, writing for a context. -/
def cpWriter (die ctx : Nat) (book : Bool) : Writer :=
  { kind := 2, die := die, core := 0, slot := 0, lane := 0, ctx := ctx, depth := 0, band := none,
    word := 0, launch := none, book := book }

/-- The host, writing for a context. -/
def hostWriter (ctx : Nat) : Writer :=
  { kind := 3, die := 15, core := 0, slot := 0, lane := 0, ctx := ctx, depth := 0, band := none,
    word := 0, launch := none, book := false }

/-! ## Sectors of compressed memory (R226 to R231) -/

/-- The die of a physical address; 15 is the host (R224). -/
def dieOfPa (pa : Nat) : Nat := bits pa 48 4

/-- The address lies in compressed memory (R224). -/
def State.compressed (s : State) (pa : Nat) : Bool :=
  decide (dieOfPa pa < 9) && decide (s.boot.uncompressed.getD (dieOfPa pa) 0 ≤ bits pa 0 48)

/-- Sectors that a 256-byte block of memory occupies. -/
def sectorsAt (m : Memory) (blk : Nat) : Nat := blockSectors (m.readN (blk * 256) 256)

/-- Sectors of the system floor, 8 MiB (R227). -/
def systemFloor : Nat := 262144

/-- Sectors of a full reserve, 64 MiB (R227). -/
def fullReserve : Nat := 2097152

/-- Entry of the accounting table of a context on a die (R230). -/
def State.acctAt (s : State) (die ctx : Nat) : Nat := s.boot.acctab.getD die 0 + 16 * ctx

/-- Change a 32-bit count of the accounting table by an amount (R230). -/
def State.acctAdd (s : State) (die ctx off : Nat) (k : Int) : State :=
  let a := s.acctAt die ctx + off
  let v : Int := (s.mem.readLE a 4 : Int) + k
  { s with mem := s.mem.writeLE a 4 (v % 2 ^ 32).toNat }

/-- Take `k` more sectors on a die for a context, or return them if `k` is negative. None if the
write must wait at the controller; a bookkeeping write may go below the system floor (R227). -/
def State.takeSectors (s : State) (die ctx : Nat) (k : Int) (book : Bool) : Option State :=
  let d := s.die die
  if k ≤ 0 then
    some ((s.setDie die { d with pool := d.pool + (-k).toNat }).acctAdd die ctx 0 k)
  else
    let n := k.toNat
    if n ≤ d.pool then some ((s.setDie die { d with pool := d.pool - n }).acctAdd die ctx 0 k)
    else if decide (n + (if book then 0 else systemFloor) ≤ d.reserve) then
      some ((s.setDie die { d with reserve := d.reserve - n, stage := max 1 d.stage }).acctAdd
        die ctx 0 k)
    else none

/-! ## The pages of a context (R225) -/

/-- The page-table root of a context. -/
def State.rootOf (s : State) (ctx : Nat) : DWord := ((s.ctx ctx).map (·.ptroot)).getD 0

/-- A page of a context: its context, address, the place and the value of its leaf entry, and its length. -/
structure PageAt where
  ctx : Nat
  va : Nat
  pte : Nat
  e : Nat
  len : Nat
  deriving DecidableEq, Repr

/-- The tables below some tables, each with the address at which it starts. -/
def tablesBelow (m : Memory) (lo : Nat) (ts : List (Nat × Nat)) : List (Nat × Nat) :=
  (ts.map fun t => (List.range 512).filterMap fun i => match pteTable (entryAt m t.2 i) with
    | .table pa => some (t.1 + i * 2 ^ lo, pa)
    | _ => none).flatten

/-- The leaf entries of a context's tables (R225). -/
def State.pages (s : State) (ctx : Nat) : List PageAt :=
  let root := bits (s.rootOf ctx).toNat 12 40 * 2 ^ 12
  let l3 := tablesBelow s.mem 30 (tablesBelow s.mem 39 (tablesBelow s.mem 48 [(0, root)]))
  (l3.map fun t => ((List.range 512).map fun i =>
    let e := entryAt s.mem t.2 i
    let va := t.1 + i * 2 ^ 21
    if bits e 56 1 = 1 then [⟨ctx, va, t.2 + 8 * i, e, 2 ^ 21⟩]
    else
      match pteTable e with
      | .table pa => (List.range 32).map fun j => ⟨ctx, va + j * 2 ^ 16, pa + 8 * j, entryAt s.mem pa j, 2 ^ 16⟩
      | _ => []).flatten).flatten

/-- The frame of a page that is present. -/
def PageAt.frame (p : PageAt) : Option Nat :=
  match pteLeaf p.e (p.len == 2 ^ 21) with
  | .leaf f _ _ _ => some f
  | _ => none

/-- A page that is present holds a byte of memory. -/
def PageAt.holds (p : PageAt) (pa : Nat) : Bool :=
  match p.frame with
  | some f => decide (f ≤ pa) && decide (pa < f + p.len)
  | none => false

/-- The context whose page holds a block, which is charged for its sectors (R227): the writer's, which reaches the
block through its own tables, or for a write by physical address the first context that maps it. -/
def State.chargeTo (s : State) (ctx blk : Nat) : Nat :=
  if ctx != 0 then ctx
  else ((s.ctxs.find? fun c => (s.pages c.id).any fun p => p.holds (blk * 256)).map (·.id)).getD 0

/-! ## Bytes of memory with their sectors -/

/-- Charge the blocks of a write: the sectors each needs more or less (R226, R227). -/
def State.charge (s : State) (ctx : Nat) (book : Bool) (m1 : Memory) : List Nat → Option State
  | [] => some s
  | blk :: r =>
    let k : Int := (sectorsAt m1 blk : Int) - sectorsAt s.mem blk
    if k = 0 then s.charge ctx book m1 r
    else
      match s.takeSectors (dieOfPa (blk * 256)) (s.chargeTo ctx blk) k book with
      | some s' => s'.charge ctx book m1 r
      | none => none

/-- The 256-byte blocks that a run of bytes touches. -/
def blocksOf (pa n : Nat) : List Nat :=
  if n = 0 then [] else (List.range ((pa + n - 1) / 256 - pa / 256 + 1)).map (pa / 256 + ·)

/-- The Clearing engine starts on a die (R227). -/
def State.startClearing (s : State) (die : Nat) : State :=
  let d := s.die die
  s.setDie die { d with stage := max 1 d.stage }

/-- One of these blocks has a write that lacks sectors, so that a load or a write waits behind it (R227). -/
def State.blocked (s : State) (blks : List Nat) : Bool :=
  s.dies.toList.any fun d => d.blocks.any fun x => blks.contains x.2

/-- Something waits at the controller of a die, and the Clearing engine runs. A write that lacks sectors holds back
what comes to its blocks after it (R227). -/
def State.waitAt (s : State) (die id : Nat) (blks : List Nat) (va : DWord) : State :=
  let s := s.startClearing die
  let d := s.die die
  s.setDie die { d with
    waiting := if d.waiting.contains id then d.waiting else d.waiting ++ [id]
    blocks := d.blocks ++ if s.blocked blks then [] else blks.map fun b => (id, b)
    addrs := d.addrs.filter (fun x => x.1 != id) ++ [(id, va)] }

/-- The address of a write that waits. -/
def State.waitVa (s : State) (id : Nat) : DWord :=
  ((s.dies.toList.findSome? fun d => d.addrs.find? fun x => x.1 == id).map (·.2)).getD 0

/-- The write of this number is tried again: its own blocks hold it back no longer. -/
def State.unblock (s : State) (id : Nat) : State :=
  { s with dies := s.dies.map fun d => { d with blocks := d.blocks.filter fun x => x.1 != id } }

/-- It no longer waits at any controller. -/
def State.unwait (s : State) (id : Nat) : State :=
  { s with dies := s.dies.map fun d =>
      { d with waiting := d.waiting.filter (· != id), blocks := d.blocks.filter fun x => x.1 != id
               addrs := d.addrs.filter fun x => x.1 != id } }

/-- Put bytes into physical memory, with their sectors; none if the write must wait. -/
def State.putMem (s : State) (ctx : Nat) (book : Bool) (pa : Nat) (v : List Byte) : Option State :=
  if s.blocked (blocksOf pa v.length) then none
  else
    let m1 := s.mem.writeN pa v
    let blks := (blocksOf pa v.length).filter fun b => s.compressed (b * 256)
    (s.charge ctx book m1 blks).map fun s' => { s' with mem := s'.mem.writeN pa v }

/-- A bookkeeping write waits at its controller until the Clearing engine frees a sector (R227). -/
def State.bookWait (s : State) (by_ : Option Writer) (ctx pa : Nat) (v : List Byte) : State :=
  let id := s.nextId
  State.waitAt { s with nextId := id + 1, books := s.books ++ [⟨id, by_, ctx, pa, v⟩] } (dieOfPa pa) id
    (blocksOf pa v.length) 0

/-- A bookkeeping write that no watch is checked against (R227, R280). -/
def State.putBook (s : State) (ctx pa : Nat) (v : List Byte) : State :=
  (s.putMem ctx true pa v).getD (s.bookWait none ctx pa v)

/-- Clear RCL in the leaf entries of pages that are written (R228). -/
def State.clearRcl (s : State) (ptes : List Nat) : State :=
  ptes.foldl (fun s a =>
    let e := s.mem.readLE a 8
    if bits e 59 1 == 1 then { s with mem := s.mem.writeLE a 8 (e - 2 ^ 59) } else s) s

/-- The leaf entries of every page that holds a byte: a write by its physical address clears their RCL (R228). -/
def State.ptesAt (s : State) (pa : Nat) : List Nat :=
  ((s.ctxs.map fun c => (s.pages c.id).filterMap fun p => if p.holds pa then some p.pte else none).flatten)

/-- The leaf entries of every page that holds one of some bytes. -/
def State.ptesOver (s : State) (pa n : Nat) : List Nat :=
  if n = 0 then [] else ((List.range (n / 65536 + 2)).map fun i => s.ptesAt (min (pa + 65536 * i) (pa + n - 1))).flatten

/-! ## Reports and events -/

/-- Translate for a context: the physical address, and the place of the leaf entry; none if the page cannot be
reached. -/
def State.pageOf (s : State) (ctx : Nat) (va : DWord) : Option (Nat × Nat) :=
  match translate s.mem (s.rootOf ctx) va with
  | .ok pa _ _ e => some (pa, e)
  | _ => none

/-- The physical address alone. -/
def State.paOf (s : State) (ctx : Nat) (va : DWord) : Option Nat := (s.pageOf ctx va).map (·.1)

/-- An event record to post (R439). -/
structure Ev where
  ctx : Nat
  kind : Nat
  die : Nat
  info : Nat
  addr : DWord
  deriving DecidableEq, Repr

/-- A lane can still take an asynchronous trap (R362). -/
def State.laneLive (s : State) (bi t : Nat) : Bool := ((s.band bi).lane t).live

/-- The saved queue whose save area holds a band. -/
def State.savedQueue (s : State) (bi : Nat) : Option Queue :=
  s.queues.find? fun q => decide (q.st = .saved) && q.saved.any fun x => x.crew == (s.band bi).crew

/-- An asynchronous trap becomes pending in a lane (R362). -/
def State.pend (s : State) (bi t : Nat) (x : Trap) : State :=
  let b := s.band bi
  let l := b.lane t
  s.setBand bi (b.setLane t { l with reports := l.reports ++ [x] })

/-- An asynchronous trap. -/
def asyncTrap (code : Byte) (info : Nat) (addr orig : DWord) : Trap :=
  { code := code, info := BitVec.ofNat 16 info, async := true, abrt := false, addr := addr,
    orig := orig }

/-! ## Watch checks (R280 to R287) -/

/-- The writer lies in the owner grove's instance of the watch's scope (R280). -/
def Watch.covers (x : Watch) (w : Writer) : Bool :=
  match x.scope with
  | .grove => decide (w.kind ≤ 1) && w.die * 4 + w.core / 64 == x.grove
  | .die => decide (w.kind ≤ 2) && w.die == x.grove / 4
  | .device => decide (w.kind ≤ 2)
  | .system => true
  | _ => false

/-- The change test (R281). -/
def Watch.triggers (x : Watch) (old new : Nat) : Bool :=
  let n := if x.wide then 64 else 32
  let lt (a b : Nat) : Bool := if x.uns then decide (a < b) else decide (signed a n < signed b n)
  match x.mode with
  | 0 => old != new
  | 1 => lt new old
  | _ => lt old new

/-- Write the STATE byte of a watch's descriptor (R276). -/
def State.setWatchState (s : State) (x : Watch) (st : Nat) : State :=
  let ws : List Watch := s.watches.map fun y =>
    if y.handle == x.handle && y.ctx == x.ctx then { y with st := st } else y
  let ptes := (s.pages x.ctx).filterMap fun p => if p.holds (x.desc + 15) then some p.pte else none
  (State.clearRcl { s with watches := ws } ptes).putBook x.ctx (x.desc + 15) [BitVec.ofNat 8 st]

/-- A runaway trigger, 2 by budget or 3 by depth (R287). -/
def State.runaway (s : State) (x : Watch) (w : Writer) (va : DWord) (why : Nat) : State × List Ev :=
  let s := s.setWatchState x why
  match w.kind, w.band with
  | 0, some bi =>
    if s.laneLive bi w.lane then (s.pend bi w.lane (asyncTrap 0x13 why va w.word), [])
    else (s, [⟨x.ctx, 1, w.die, why, va⟩])
  | _, _ => (s, [⟨x.ctx, 1, w.die, why, va⟩])

/-- A triggering write acts on a watch (R283); a sprout wakes the die of its grove (R441). -/
def State.trigger (s : State) (x : Watch) (w : Writer) (va : DWord) (old new : Nat) :
    State × List Ev :=
  let dep := w.depth + 1
  let same (p : Sprout) : Bool := p.watch == x.handle && p.ctx == x.ctx && p.va == va
  if x.st != 1 then (s, [])
  else if s.sprouts.any same then
    let join (p : Sprout) : Sprout :=
      { p with new := BitVec.ofNat 64 new, writer := w.code,
               count := min (p.count + 1) (2 ^ 32 - 1), depth := max p.depth dep }
    ({ s with sprouts := s.sprouts.map fun p => if same p then join p else p }, [])
  else if x.maxd < dep then s.runaway x w va 3
  else if x.out == x.budget + 1 then s.runaway x w va 2
  else
    let p : Sprout :=
      { watch := x.handle, ctx := x.ctx, grove := x.grove, va := va, old := BitVec.ofNat 64 old,
        new := BitVec.ofNat 64 new, writer := w.code, count := 1, depth := dep, launch := w.launch }
    let ws : List Watch := s.watches.map fun y =>
      if y.handle == x.handle && y.ctx == x.ctx then { y with out := y.out + 1 } else y
    let d := x.grove / 4
    (State.setDie { s with sprouts := s.sprouts ++ [p], watches := ws } d { s.die d with parked := false }, [])

/-- The granules of a watch that a run of bytes touches, by physical address, ascending. -/
def Watch.granules (x : Watch) (pa n : Nat) : List Nat :=
  let g := if x.wide then 8 else 4
  if n = 0 then []
  else ((List.range ((pa + n - 1) / g - pa / g + 1)).map fun i => (pa / g + i) * g).filter
    fun a => decide (x.pa ≤ a) && decide (a < x.pa + x.len)

/-- Check one watch against a performed write (R281). -/
def State.checkWatch (s : State) (w : Writer) (m0 : Memory) (pa n : Nat) (handle ctx : Nat) :
    State × List Ev :=
  match s.watches.find? fun x => x.handle == handle && x.ctx == ctx with
  | none => (s, [])
  | some x =>
    let g := if x.wide then 8 else 4
    (x.granules pa n).foldl (fun r a =>
      let old := m0.readLE a g
      let new := r.1.mem.readLE a g
      match r.1.watches.find? fun y => y.handle == handle && y.ctx == ctx with
      | some y =>
        if y.triggers old new then
          let q := r.1.trigger y w (y.base + BitVec.ofNat 64 (a - y.pa)) old new
          (q.1, r.2 ++ q.2)
        else r
      | none => r) (s, [])

/-- Check a performed write against every watch of its context (R280, R281). Writes by the host to host memory pass
no home slice (R280, R288). -/
def State.checkWatches (s : State) (w : Writer) (m0 : Memory) (pa n : Nat) : State × List Ev :=
  if w.kind = 3 ∧ dieOfPa pa = 15 then (s, []) else
  (s.watches.filter fun x => !x.removed && x.ctx == w.ctx && x.covers w).foldl
    (fun r x => let q := r.1.checkWatch w m0 pa n x.handle x.ctx; (q.1, r.2 ++ q.2)) (s, [])

/-! ## Caches and shadows -/

/-- The writer's core sees its own writes: its L1 lines take the bytes (R223, R246). -/
def State.touchL1 (s : State) (w : Writer) (pa : Nat) (v : List Byte) : State :=
  if 1 < w.kind then s
  else
    let c := s.core (w.die * 256 + w.core)
    if c.l1.any fun l => !l.ws && decide (l.base < pa + v.length) && decide (pa < l.base + 128) then
      s.setCore { c with l1 := c.l1.map fun l =>
        if l.ws then l
        else { l with bytes := l.bytes.mapIdx fun i x =>
          if pa ≤ l.base + i ∧ l.base + i < pa + v.length then v.getD (l.base + i - pa) 0 else x } }
    else s

/-- Every line of a core's L1 is dropped: an acquire at grove scope or wider (R246, R267). -/
def State.dropL1 (s : State) (core : Nat) : State :=
  let c := s.core core
  if c.l1.isEmpty then s else s.setCore { c with l1 := [] }

/-- Lines of a frame are dropped from the L1 of every core, as the frame leaves a page or is given to one (R232). -/
def State.dropFrame (s : State) (pa len : Nat) : State :=
  { s with cores := s.cores.map fun c =>
      { c with l1 := c.l1.filter fun l => l.ws || decide (l.base + 128 ≤ pa) || decide (pa + len ≤ l.base) } }

/-- The line of a byte is dropped from a core's L1. -/
def State.dropLine (s : State) (core : Nat) (ws : Bool) (a : Nat) : State :=
  let c := s.core core
  if c.l1.any fun l => l.ws == ws && l.base == a / 128 * 128 then
    s.setCore { c with l1 := c.l1.filter fun l => !(l.ws == ws && l.base == a / 128 * 128) }
  else s

/-! ## One write -/

/-- A write with its checks and its event list; none if it must wait for sectors. -/
def State.write1 (s : State) (w : Writer) (pa : Nat) (v : List Byte) : Option (State × List Ev) :=
  (s.putMem w.ctx w.book pa v).map fun s1 =>
    (s1.touchL1 w pa v).checkWatches w s.mem pa v.length

/-- A bookkeeping write which watches are checked against (R227, R280); with no sector free it waits. -/
def State.bookBy (s : State) (w : Writer) (pa : Nat) (v : List Byte) : State × List Ev :=
  (s.write1 w pa v).getD (s.bookWait (some w) w.ctx pa v, [])

/-- A bookkeeping write of a command processor. -/
def State.cpBook (s : State) (die ctx pa : Nat) (v : List Byte) : State × List Ev := s.bookBy (cpWriter die ctx true) pa v

/-- Post one record to its context's event ring, or count it as lost (R439). A ring that cannot be
reached drops the event (log entry 9). -/
def State.post1 (s : State) (e : Ev) : State × List Ev :=
  match s.ctx e.ctx with
  | none => (s, [])
  | some c =>
    if c.eventRing = 0 then (s, [])
    else
      match s.pageOf e.ctx c.eventRing with
      | none => (s, [])
      | some (h, p) =>
        let base := BitVec.ofNat 64 (s.mem.readLE h 8)
        let n := s.mem.readLE (h + 8) 4
        let head := s.mem.readLE (h + 12) 4
        let tail := s.mem.readLE (h + 16) 4
        let put (s : State) (a : Nat) (p : Nat) (v : List Byte) : State × List Ev :=
          (s.clearRcl [p]).cpBook e.die e.ctx a v
        if (tail + 2 ^ 32 - head) % 2 ^ 32 == n then
          put s (h + 20) p (leBytes (s.mem.readLE (h + 20) 4 + 1) 4)
        else
          match s.pageOf e.ctx (base + BitVec.ofNat 64 (16 * (if n = 0 then 0 else tail % n))) with
          | none => (s, [])
          | some (a, pa) =>
            let rec16 := leBytes e.kind 1 ++ leBytes e.die 1 ++ leBytes e.ctx 2 ++ leBytes e.info 4 ++
              leBytes e.addr.toNat 8
            let r := put s a pa rec16
            let q := put r.1 (h + 16) p (leBytes (tail + 1) 4)
            (q.1, r.2 ++ q.2)

/-- Post records in order; the records that these writes cause come after them. -/
def State.postAll (s : State) : Nat → List Ev → State
  | 0, _ => s
  | _, [] => s
  | n + 1, e :: r => let q := s.post1 e; q.1.postAll n (r ++ q.2)

/-- Post records. Each further record disarms a watch, which bounds their number. -/
def State.post (s : State) (es : List Ev) : State := s.postAll (es.length + s.watches.length) es

/-- A write to physical memory as it is performed; none if it must wait for sectors. -/
def State.write (s : State) (w : Writer) (pa : Nat) (v : List Byte) : Option State :=
  (s.write1 w pa v).map fun r => r.1.post r.2

/-- A write of a command processor for its records (R227). -/
def State.cpWrite (s : State) (die ctx pa : Nat) (v : List Byte) : State :=
  let r := s.cpBook die ctx pa v
  r.1.post r.2

/-- Cut a run of virtual addresses where pages may end. -/
def pageRuns (va : DWord) : Nat → Nat → List (DWord × Nat)
  | 0, _ => []
  | _, 0 => []
  | k + 1, n =>
    let m := min n (65536 - va.toNat % 65536)
    (va, m) :: pageRuns (va + BitVec.ofNat 64 m) k (n - m)

/-- Bookkeeping bytes at addresses of a context, where the pages can be reached (R227): `put` writes one run. -/
def State.bookRuns (s : State) (ctx : Nat) (va : DWord) (v : List Byte) (put : State → Nat → List Byte → State) : State :=
  ((pageRuns va (v.length / 65536 + 2) v.length).foldl (fun (r : State × List Byte) p =>
    (match r.1.pageOf ctx p.1 with
      | some (pa, e) => put (r.1.clearRcl [e]) pa (r.2.take p.2)
      | none => r.1, r.2.drop p.2)) (s, v)).1

/-- A hardware bookkeeping write that no watch is checked against (R227, R280). -/
def State.hwWrite (s : State) (ctx : Nat) (va : DWord) (v : List Byte) : State :=
  s.bookRuns ctx va v fun s pa v => s.putBook ctx pa v

/-- A bookkeeping write at addresses of a context which watches are checked against: that of the walker's or a GNODE's
RMW on PRED (R227, R280, R314). -/
def State.hwWriteBy (s : State) (w : Writer) (va : DWord) (v : List Byte) : State :=
  s.bookRuns w.ctx va v fun s pa v => let r := s.bookBy w pa v; r.1.post r.2

/-- A command processor writes its records at addresses of a context: STATUS and CODE of entries, event records,
reply logs, save areas and dumps (R227, R280). -/
def State.cpRecord (s : State) (die ctx : Nat) (va : DWord) (v : List Byte) : State :=
  s.bookRuns ctx va v fun s pa v => s.cpWrite die ctx pa v

/-- Try a bookkeeping write that waits once more (R227). -/
def State.bookRetry (s : State) (b : BookWrite) : State :=
  let s0 := s.unblock b.id
  let gone (s : State) : State := { s with books := s.books.filter fun x => x.id != b.id }.unwait b.id
  match b.by_ with
  | some w =>
    match s0.write1 w b.pa b.v with
    | some r => gone (r.1.post r.2)
    | none => s
  | none => ((s0.putMem b.ctx true b.pa b.v).map gone).getD s

/-- Enter an entry into the reply log of a saved queue; a full log loses it (R395). NLOG of the save area
follows, and the 16 bytes of the entry, whose layout the spec does not give (R389). -/
def State.logReply (s : State) (q : Queue) (e : LogEntry) : State :=
  let n := q.log.length
  if n < ((s.ctx q.ctx).map (·.logMax)).getD 0 then
    let s := s.setQueue { q with log := q.log ++ [e] }
    let area := BitVec.ofNat 64 (s.mem.readLE (s.boot.qtab + 64 * q.id + 0x18) 8)
    let s1 := s.cpRecord 0 q.ctx (area + 0x0C) (leBytes (n + 1) 4)
    match s1.paOf q.ctx (area + 0x20) with
    | some pa =>
      { s1.cpRecord 0 q.ctx (area + BitVec.ofNat 64 (s1.mem.readLE pa 8 + 16 * n)) ((List.range 16).map fun i => Config.freeByte s1.free (49 * 2 ^ 16 + i)) with
        free := s1.free + 1 }
    | none => s1
  else s

/-- Report an asynchronous trap to a lane (R362); one for a saved lane is logged (R395). -/
def State.report (s : State) (bi t : Nat) (x : Trap) : State :=
  match s.savedQueue bi with
  | some q => s.logReply q (.late bi t x)
  | none => s.pend bi t x

/-- Report an asynchronous trap to every live lane of a mask. -/
def State.reportAll (s : State) (bi : Nat) (m : BitVec 32) (x : Trap) : State :=
  (lanesOf m).foldl (fun s t => if s.laneLive bi t then s.report bi t x else s) s

/-! ## Bytes at their places -/

/-- The length of the longest prefix that lies at consecutive addresses of memory. -/
def runLen : List Loc → Nat
  | .mem a :: .mem b :: r => if b = a + 1 then 1 + runLen (.mem b :: r) else 1
  | _ :: _ => 1
  | [] => 0

/-- The words of a core's scratchpad among some bytes. -/
def scrWords (locs : List Loc) : List (Nat × Nat) :=
  (locs.filterMap fun l => match l with
    | .scr a => some (a / 2 ^ 18, a % 2 ^ 18 / 4)
    | _ => none).eraseDups

/-- A write that is no access of a band through a local offset clears the shadow entries of its words (R402). -/
def State.clearShadow (s : State) (locs : List Loc) : State :=
  (scrWords locs).foldl (fun s w =>
    let c := s.core w.1
    if c.shadow.isEmpty then s else s.setCore { c with shadow := c.shadow.filter fun e => e.1 != w.2 }) s

/-- Write bytes at their places, run by run. -/
def State.writeRuns (s : State) (w : Writer) : Nat → List Loc → List Byte → Option State
  | 0, _, _ => some s
  | _, [], _ => some s
  | n + 1, .mem a :: ls, v =>
    let k := runLen (.mem a :: ls)
    match s.write w a (v.take k) with
    | some s' => s'.writeRuns w n ((Loc.mem a :: ls).drop k) (v.drop k)
    | none => none
  | n + 1, l :: ls, v =>
    match v with
    | [] => some s
    | x :: xs => (s.writeLoc l x).writeRuns w n ls xs

/-- Bookkeeping bytes at their places, all of them at once; none if one must wait for sectors (R227). -/
def State.putRuns (s : State) (ctx : Nat) : Nat → List Loc → List Byte → Option State
  | 0, _, _ => some s
  | _, [], _ => some s
  | n + 1, .mem a :: ls, v =>
    let k := runLen (.mem a :: ls)
    match s.putMem ctx true a (v.take k) with
    | some s' => s'.putRuns ctx n ((Loc.mem a :: ls).drop k) (v.drop k)
    | none => none
  | n + 1, l :: ls, v =>
    match v with
    | [] => some s
    | x :: xs => (s.writeLoc l x).putRuns ctx n ls xs

end Sys2Proof.Machine
end

