-- ==== Sys2Proof/Machine/Sfu.lean ====
section
/-!
DEFINITION. The special functions (R127 to R129) and PMERGE (R126). The tables hold c0, c1 and c2 of
R128, computed from its formula: Q(h(t)), Q(h′(t)) and Q(h″(t) / 2) in units of 2^−30.
-/

namespace Sys2Proof.Machine

/-- The special functions, in the order of their minors (R127). -/
inductive SfuFn where
  | ex2 | lg2 | rcp | rsq | sin | cos
  deriving DecidableEq, Repr

def ex2Table0 : List (Int × Int × Int) :=
  [(1079572136, 748302382, 259341843), (1091327906, 756450861, 262165891),
   (1103211687, 764688071, 265020690), (1115224875, 773014978, 267906576),
   (1127368878, 781432559, 270823888), (1139645120, 789941802, 273772966),
   (1152055042, 798543704, 276754158), (1164600099, 807239275, 279767814),
   (1177281762, 816029534, 282814285), (1190101520, 824915513, 285893931),
   (1203060876, 833898254, 289007112), (1216161350, 842978811, 292154193),
   (1229404479, 852158248, 295335544), (1242791816, 861437643, 298551537),
   (1256324931, 870818084, 301802550), (1270005413, 880300671, 305088964)]

def ex2Table1 : List (Int × Int × Int) :=
  [(1283834865, 889886517, 308411165), (1297814910, 899576746, 311769543),
   (1311947188, 909372494, 315164490), (1326233356, 919274912, 318596407),
   (1340675091, 929285159, 322065694), (1355274085, 939404411, 325572759),
   (1370032052, 949633854, 329118014), (1384950723, 959974689, 332701875),
   (1400031848, 970428128, 336324760), (1415277195, 980995398, 339987097),
   (1430688553, 991677737, 343689314), (1446267730, 1002476400, 347431845),
   (1462016553, 1013392652, 351215130), (1477936870, 1024427774, 355039612),
   (1494030547, 1035583061, 358905740), (1510299473, 1046859822, 362813967)]

def ex2Table2 : List (Int × Int × Int) :=
  [(1526745556, 1058259378, 366764752), (1543370725, 1069783067, 370758558),
   (1560176931, 1081432241, 374795854), (1577166143, 1093208266, 378877114),
   (1594340357, 1105112523, 383002815), (1611701585, 1117146410, 387173442),
   (1629251865, 1129311336, 391389484), (1646993254, 1141608731, 395651436),
   (1664927835, 1154040035, 399959798), (1683057710, 1166606707, 404315075),
   (1701385007, 1179310221, 408717777), (1719911875, 1192152067, 413168422),
   (1738640488, 1205133752, 417667531), (1757573041, 1218256798, 422215632),
   (1776711757, 1231522745, 426813259), (1796058879, 1244933148, 431460951)]

def ex2Table3 : List (Int × Int × Int) :=
  [(1815616678, 1258489581, 436159253), (1835387448, 1272193635, 440908715),
   (1855373507, 1286046915, 445709897), (1875577199, 1300051048, 450563359),
   (1896000896, 1314207675, 455469672), (1916646992, 1328518459, 460429412),
   (1937517909, 1342985076, 465443160), (1958616096, 1357609225, 470511503),
   (1979944027, 1372392620, 475635038), (2001504204, 1387336996, 480814364),
   (2023299156, 1402444105, 486050089), (2045331439, 1417715720, 491342827),
   (2067603638, 1433153632, 496693200), (2090118366, 1448759652, 502101834),
   (2112878262, 1464535610, 507569365), (2135885998, 1480483358, 513096433)]

/-- The table of ex2: entry j holds c0, c1 and c2 in units of 2^−30 (R128). -/
def ex2Table : List (Int × Int × Int) :=
  ex2Table0 ++ ex2Table1 ++ ex2Table2 ++ ex2Table3

def lg2Table0 : List (Int × Int × Int) :=
  [(12055174, 1537073617, -762579159), (35887675, 1513606844, -739472046),
   (59359063, 1490845839, -717399502), (82480119, 1468759234, -696300674),
   (105261148, 1447317493, -676119121), (127712004, 1426492781, -656802432),
   (149842124, 1406258841, -638301885), (171660541, 1386590885, -620572144),
   (193175914, 1367465494, -603570977), (214396548, 1348860521, -587259002),
   (235330407, 1330755011, -571599468), (255985140, 1313129117, -556558036),
   (276368092, 1295964030, -542102601), (296486323, 1279241914, -528203113),
   (316346620, 1262945838, -514831424), (335955515, 1247059727, -501961148)]

def lg2Table1 : List (Int × Int × Int) :=
  [(355319292, 1231568302, -489567524), (374444004, 1216457034, -477627302),
   (393335482, 1201712101, -466118633), (411999347, 1187320339, -455020968),
   (430441017, 1173269211, -444314967), (448665721, 1159546764, -433982414),
   (466678506, 1146141599, -424006141), (484484242, 1133042838, -414369952),
   (502087636, 1120240094, -405058565), (519493235, 1107723445, -396057544),
   (536705435, 1095483407, -387353249), (553728485, 1083510910, -378932777),
   (570566499, 1071797279, -370783924), (587223455, 1060334206, -362895129),
   (603703206, 1049113739, -355255446), (620009483, 1038128254, -347854494)]

def lg2Table2 : List (Int × Int × Int) :=
  [(636145900, 1027370449, -340682429), (652115959, 1016833316, -333729909),
   (667923055, 1006510135, -326988064), (683570481, 996394455, -320448468),
   (699061430, 986480083, -314103111), (714399001, 976761067, -307944376),
   (729586201, 967231691, -301965016), (744625951, 957886457, -296158132),
   (759521085, 948720079, -290517154), (774274358, 939727472, -285035821),
   (788888448, 930903740, -279708166), (803365955, 922244170, -274528497),
   (817709409, 913744224, -269491384), (831921271, 905399528, -264591643),
   (846003931, 897205867, -259824323), (859959719, 889159178, -255184697)]

def lg2Table3 : List (Int × Int × Int) :=
  [(873790901, 881255540, -250668243), (887499680, 873491174, -246270639),
   (901088206, 865862431, -241987754), (914558569, 858365786, -237815629),
   (927912807, 850997839, -233750480), (941152905, 843755305, -229788679),
   (954280797, 836635007, -225926753), (967298370, 829633877, -222161373),
   (980207461, 822748949, -218489347), (993009864, 815977352, -214907615),
   (1005707329, 809316313, -211413241), (1018301561, 802763144, -208003406),
   (1030794226, 796315247, -204675405), (1043186948, 789970106, -201426641),
   (1055481314, 783725283, -198254617), (1067678873, 777578418, -195156936)]

/-- The table of lg2: entry j holds c0, c1 and c2 in units of 2^−30 (R128). -/
def lg2Table : List (Int × Int × Int) :=
  lg2Table0 ++ lg2Table1 ++ lg2Table2 ++ lg2Table3

def rcpTable0 : List (Int × Int × Int) :=
  [(1065418244, -1057159188, 1048964155), (1049152317, -1025125928, 1001649761),
   (1033375590, -994526884, 957138655), (1018066322, -965277698, 915226262),
   (1003204040, -937300125, 875725664), (988769449, -910521507, 838465849),
   (974744351, -884874304, 803290149), (961111563, -860295665, 770054861),
   (947854852, -836727041, 738628009), (934958867, -814113844, 708888245),
   (922409084, -792405119, 680723861), (910191745, -771553267, 654031909),
   (898293814, -751513779, 628717410), (886702926, -732244997, 604692642),
   (875407347, -713707901, 581876505), (864395934, -695865909, 560193939)]

def rcpTable1 : List (Int × Int × Int) :=
  [(853658096, -678684698, 539575412), (843183764, -662132035, 519956445),
   (832963354, -646177632, 501277194), (822987745, -630793002, 483482062),
   (813248245, -615951334, 466519353), (803736570, -601627374, 450340958),
   (794444818, -587797322, 434902065), (785365448, -574438728, 420160898),
   (776491263, -561530405, 406078485), (767815383, -549052341, 392618433),
   (759331235, -536985625, 379746740), (751032533, -525312373, 367431605),
   (742913262, -514015662, 355643269), (734967666, -503079472, 344353863),
   (727190230, -492488621, 333537267), (719575673, -482228723, 323168987)]

def rcpTable2 : List (Int × Int × Int) :=
  [(712118930, -472286130, 313226034), (704815146, -462647891, 303686821),
   (697659662, -453301710, 294531060), (690648007, -444235904, 285739677),
   (683775888, -435439371, 277294724), (677039180, -426901552, 269179304),
   (670433919, -418612398, 261377498), (663956297, -410562348, 253874302),
   (657602648, -402742292, 246655566), (651369448, -395143551, 239707936),
   (645253303, -387757853, 233018804), (639250946, -380577308, 226576258),
   (633359233, -373594386, 220369039), (627575130, -366801902, 214386500),
   (621895717, -360192995, 208618567), (616318177, -353761106, 203055702)]

def rcpTable3 : List (Int × Int × Int) :=
  [(610839793, -347499971, 197688873), (605457945, -341403599, 192509518),
   (600170102, -335466258, 187509524), (594973825, -329682466, 182681193),
   (589866753, -324046972, 178017220), (584846611, -318554750, 173510672),
   (579911196, -313200984, 169154962), (575058383, -307981059, 164943831),
   (570286114, -302890550, 160871330), (565592401, -297925215, 156931801),
   (560975320, -293080984, 153119861), (556433010, -288353949, 149430386),
   (551963669, -283740360, 145858498), (547565552, -279236616, 142399549),
   (543236970, -274839258, 139049111), (538976288, -270544960, 135802960)]

/-- The table of rcp: entry j holds c0, c1 and c2 in units of 2^−30 (R128). -/
def rcpTable : List (Int × Int × Int) :=
  rcpTable0 ++ rcpTable1 ++ rcpTable2 ++ rcpTable3

def rsqTable0 : List (Int × Int × Int) :=
  [(1065450257, -524529357, 387344756), (1049427536, -501219122, 359082356),
   (1034106604, -479585671, 333624815), (1019437682, -459464871, 310624138),
   (1005375799, -440712679, 289783679), (991880210, -423202223, 270849423),
   (978913898, -406821360, 253602926), (966443148, -391470642, 237855580),
   (954437177, -377061601, 223443912), (942867814, -363515302, 210225717),
   (931709222, -350761119, 198076867), (920937655, -338735689, 186888656),
   (910531246, -327382021, 176565584), (900469818, -316648727, 167023504),
   (890734723, -306489367, 158188060), (881308694, -296861876, 149993369)]

def rsqTable1 : List (Int × Int × Int) :=
  [(872175715, -287728071, 142380901), (863320910, -279053223, 135298533),
   (854730438, -270805683, 128699731), (846391405, -262956553, 122542860),
   (838291779, -255479399, 116790583), (830420321, -248350003, 111409347),
   (822766514, -241546133, 106368939), (815320510, -235047354, 101642099),
   (808073073, -228834852, 97204185), (801015531, -222891278, 93032881),
   (794139734, -217200611, 89107943), (787438013, -211748037, 85410973),
   (780903145, -206519840, 81925226), (774528319, -201503302, 78635435),
   (768307107, -196686619, 75527662), (762233438, -192058819, 72589160)]

def rsqTable2 : List (Int × Int × Int) :=
  [(753387102, -370898266, 273894104), (742057327, -354415440, 253909569),
   (731223792, -339118280, 235908369), (720851298, -324890726, 219644434),
   (710908045, -311630924, 204908005), (701365222, -299249162, 191519463),
   (692196655, -287666142, 179324349), (683378504, -276811546, 168189294),
   (674889000, -266622815, 157998705), (666708225, -257044135, 148652030),
   (658817909, -248025566, 140061496), (651201261, -239522303, 132150236),
   (643842818, -231494047, 124850722), (636728315, -223904462, 118103453),
   (629844563, -216720710, 111855850), (623179354, -209913045, 106061328)]

def rsqTable3 : List (Int × Int × Int) :=
  [(616721362, -203454470, 100678501), (610460069, -197320427, 95670510),
   (604385689, -191488535, 91004452), (598489102, -185938362, 86650887),
   (592761802, -180651216, 82583413), (587195840, -175609971, 78778305),
   (581783781, -170798908, 75214198), (576518662, -166203578, 71871818),
   (571393950, -161810676, 68733738), (566403514, -157607934, 65784181),
   (561541591, -153584025, 63008831), (556802759, -149728473, 60394678),
   (552181909, -146031579, 57929883), (547674226, -142484352, 55603649),
   (543275165, -139078442, 53406122), (538980433, -135806093, 51328287)]

/-- The table of rsq: entry j holds c0, c1 and c2 in units of 2^−30 (R128). -/
def rsqTable : List (Int × Int × Int) :=
  rsqTable0 ++ rsqTable1 ++ rsqTable2 ++ rsqTable3

def sinTable0 : List (Int × Int × Int) :=
  [(13176464, 1686502713, -16255811), (39521455, 1685486827, -48757640),
   (65842639, 1683455666, -81230100), (92124163, 1680410455, -113653630),
   (118350194, 1676353028, -146008699), (144504935, 1671285828, -178275818),
   (170572633, 1665211908, -210435551), (196537583, 1658134926, -242468524),
   (222384147, 1650059146, -274355444), (248096755, 1640989432, -306077103),
   (273659918, 1630931248, -337614392), (299058239, 1619890651, -368948314),
   (324276419, 1607874293, -400059996), (349299266, 1594889412, -430930697),
   (374111709, 1580943829, -461541822), (398698801, 1566045944, -491874930)]

def sinTable1 : List (Int × Int × Int) :=
  [(423045732, 1550204732, -521911752), (447137835, 1533429734, -551634194),
   (470960600, 1515731056, -581024351), (494499676, 1497119358, -610064522),
   (517740883, 1477605852, -638737212), (540670223, 1457202290, -667025151),
   (563273883, 1435920965, -694911299), (585538248, 1413774695, -722378858),
   (607449906, 1390776819, -749411284), (628995660, 1366941192, -775992292),
   (650162530, 1342282170, -802105871), (670937767, 1316814608, -827736292),
   (691308855, 1290553846, -852868115), (711263525, 1263515702, -877486202),
   (730789757, 1235716464, -901575725), (749875788, 1207172876, -925122172)]

def sinTable2 : List (Int × Int × Int) :=
  [(768510122, 1177902133, -948111360), (786681534, 1147921866, -970529441),
   (804379079, 1117250133, -992362912), (821592095, 1085905410, -1013598620),
   (838310216, 1053906579, -1034223775), (854523370, 1021272914, -1054225951),
   (870221790, 988024072, -1073593101), (885396022, 954180082, -1092313559),
   (900036924, 919761329, -1110376049), (914135678, 884788546, -1127769689),
   (927683790, 849282800, -1144484003), (940673101, 813265477, -1160508922),
   (953095785, 776758274, -1175834794), (964944360, 739783181, -1190452388),
   (976211688, 702362469, -1204352897), (986890984, 664518681, -1217527949)]

def sinTable3 : List (Int × Int × Int) :=
  [(996975812, 626274612, -1229969608), (1006460100, 587653299, -1241670380),
   (1015338134, 548678005, -1252623215), (1023604567, 509372208, -1262821517),
   (1031254418, 469759584, -1272259142), (1038283080, 429863994, -1280930407),
   (1044686319, 389709471, -1288830086), (1050460278, 349320201, -1295953423),
   (1055601479, 308720514, -1302296126), (1060106826, 267934865, -1307854374),
   (1063973603, 226987822, -1312624820), (1067199483, 185904050, -1316604589),
   (1069782521, 144708296, -1319791285), (1071721163, 103425376, -1322182989),
   (1073014240, 62080156, -1323778258), (1073660973, 20697541, -1324576133)]

/-- The table of sin: entry j holds c0, c1 and c2 in units of 2^−30 (R128). -/
def sinTable : List (Int × Int × Int) :=
  sinTable0 ++ sinTable1 ++ sinTable2 ++ sinTable3

/-- p = c0 + c1 · f + c2 · f² at u, exactly, with `n` intervals from entry `off` on (R128). -/
def sfuPoly (table : List (Int × Int × Int)) (n off : Nat) (u : Fp) : Fp :=
  let j : Int :=
    match u with
    | .fin _ m e => if 0 ≤ e then ((m * n * 2 ^ e.toNat : Nat) : Int) else ((m * n / 2 ^ (-e).toNat : Nat) : Int)
    | _ => 0
  -- t = (2 j + 1) / (2 n) with n a power of two
  let t : Fp := .fin false (2 * j + 1).toNat (-(Nat.log2 n : Int) - 1)
  let f := u.add t.neg
  let c := table.getD (off + j.toNat) (0, 0, 0)
  let k (v : Int) : Fp := .fin (decide (v < 0)) v.natAbs (-30)
  (k c.1).add (((k c.2.1).mul f).add ((k c.2.2).mul (f.mul f)))

/-- Multiply by 2^n. -/
def Fp.scale (x : Fp) (n : Int) : Fp :=
  match x with
  | .fin s m e => .fin s m (e + n)
  | y => y

/-- Round an exact value to f32. -/
def sfuRound (ftz : Bool) (x : Fp) : Nat × Word := fF32.round .rne ftz x

/-- A result formed by R128 raises NX (R129). -/
def sfuInexact (ftz : Bool) (x : Fp) : Nat × Word :=
  let r := sfuRound ftz x
  (r.1, r.2 ||| cNX)

/-- floor(x) of a finite number. -/
def Fp.floor : Fp → Int
  | .fin n m e => Fp.units 0 (.fin n (if 0 ≤ e then m * 2 ^ e.toNat else
      if n then (m + 2 ^ (-e).toNat - 1) / 2 ^ (-e).toNat else m / 2 ^ (-e).toNat) 0)
  | _ => 0

/-- floor(2^400 / 2π). -/
def invTwoPi : Nat :=
  410977832395975605218853833625233461132178843898737362007205898620758186588316929411123559258072822909570399674468614023

/-- w = floor(x · 2^40 / 2π) mod 2^40 (R128). -/
def sfuPhase (neg : Bool) (m : Nat) (e : Int) : Nat :=
  let v := m * invTwoPi
  let fl := if 360 ≤ e then v * 2 ^ (e - 360).toNat else v / 2 ^ (360 - e).toNat
  if neg then (2 ^ 40 - 1 - fl % 2 ^ 40) else fl % 2 ^ 40

/-- sin and cos of an operand that R129 does not take. -/
def sfuTrig (ftz : Bool) (w add : Nat) : Nat × Word :=
  let q := (bits w 38 2 + add) % 4
  let uu := bits w 0 38
  let prime := q % 2 == 1
  let p : Fp :=
    if uu = 0 then .fin false (if prime then 1 else 0) 0
    else sfuPoly sinTable 64 0 (.fin false (if prime then 2 ^ 38 - uu else uu) (-38))
  sfuInexact ftz (if 2 ≤ q then p.neg else p)

/-- The part u of a normalised significand 2^e · (1 + u). -/
def fracOf (m : Nat) : Fp := .fin false (m - 2 ^ Nat.log2 m) (-(Nat.log2 m : Int))

/-- A special function of an f32 code: result and conditions (R128, R129). -/
def sfu (fn : SfuFn) (ftz : Bool) (x : Nat) : Nat × Word :=
  match fF32.val ftz x with
  | .nan sig => (0x7FC00000, cIf sig cNV)
  | .inf neg =>
    match fn with
    | .ex2 => (if neg then 0 else 0x7F800000, 0)
    | .lg2 => if neg then (0x7FC00000, cNV) else (0x7F800000, 0)
    | .rcp => (if neg then 0x80000000 else 0, 0)
    | .rsq => if neg then (0x7FC00000, cNV) else (0, 0)
    | .sin | .cos => (0x7FC00000, cNV)
  | .fin neg m e =>
    let s : Nat := if neg then 0x80000000 else 0
    if m = 0 then
      match fn with
      | .ex2 | .cos => (0x3F800000, 0)
      | .lg2 => (0xFF800000, cDZ)
      | .rcp | .rsq => (s + 0x7F800000, cDZ)
      | .sin => (s, 0)
    else
      let top := (Nat.log2 m : Int) + e
      let pow := m == 2 ^ Nat.log2 m
      match fn with
      | .ex2 =>
        if !neg && decide (7 ≤ top) then (0x7F800000, cOF ||| cNX)
        else
          let v : Fp := .fin neg m e
          let n := v.floor
          let u := v.add (Fp.ofInt n).neg
          if u.isZero then sfuRound ftz (Fp.pow2 n)
          else sfuInexact ftz ((sfuPoly ex2Table 64 0 u).scale n)
      | .lg2 =>
        if neg then (0x7FC00000, cNV)
        else if pow then sfuRound ftz (Fp.ofInt top)
        else sfuInexact ftz ((Fp.ofInt top).add (sfuPoly lg2Table 64 0 (fracOf m)))
      | .rcp =>
        if pow then sfuRound ftz (.fin neg 1 (-top))
        else
          let p := (sfuPoly rcpTable 64 0 (fracOf m)).scale (-top)
          sfuInexact ftz (if neg then p.neg else p)
      | .rsq =>
        let k := (top % 2).toNat
        if neg then (0x7FC00000, cNV)
        else if pow && k == 0 then sfuRound ftz (Fp.pow2 (-top / 2))
        else sfuInexact ftz ((sfuPoly rsqTable 32 (32 * k) (fracOf m)).scale (-((top - k) / 2)))
      | .sin =>
        if top < -12 then (x, cNX) else sfuTrig ftz (sfuPhase neg m e) 0
      | .cos =>
        if top < -12 then (0x3F800000, cNX) else sfuTrig ftz (sfuPhase neg m e) 1

/-- EX2 of PMERGE: the result of the special function, which raises nothing here (R126). -/
def pmEx2 (ftz : Bool) (x : Nat) : Nat := (sfu .ex2 ftz x).1

/-- PMERGE of two triples: m, l and o with the conditions (R126). -/
def pmerge (ftz : Bool) (a b : Nat × Nat × Nat) : (Nat × Nat × Nat) × Word :=
  let vs := [a.1, a.2.1, a.2.2, b.1, b.2.1, b.2.2].map (fF32.val ftz)
  if vs.any Fp.isNan then
    ((0x7FC00000, 0x7FC00000, 0x7FC00000), cIf (vs.any Fp.isSig) cNV)
  else
    let ma := fF32.val ftz a.1
    let mb := fF32.val ftz b.1
    let m := fF32.operand ftz (if ma.lt mb then b.1 else a.1)
    let vm := fF32.val ftz m
    let da := if ma.eq vm then (0, 0) else fF32.fsub ftz a.1 m
    let db := if mb.eq vm then (0, 0) else fF32.fsub ftz b.1 m
    let ea := pmEx2 ftz da.1
    let eb := pmEx2 ftz db.1
    let l1 := fF32.fmul ftz a.2.1 ea
    let l2 := fF32.ffma ftz b.2.1 eb l1.1
    let o1 := fF32.fmul ftz a.2.2 ea
    let o2 := fF32.ffma ftz b.2.2 eb o1.1
    ((m, l2.1, o2.1), da.2 ||| db.2 ||| l1.2 ||| l2.2 ||| o1.2 ||| o2.2)

end Sys2Proof.Machine
end

