-- ==== Sys2Proof/Machine/Ops.lean ====
section
/-!
DEFINITION. The shared operations of the meanings: accesses to memory as they are performed (R23,
R99, R238 to R251, R258 to R264), results of flagged words (R19, R406), regions (R368 to R371),
taking a trap and returning from it (R360 to R367, R379, R444), and the issue of one word.
-/

namespace Sys2Proof.Machine

/-! ## Results of flagged words -/

/-- The quarter of a band. -/
def State.quarterOf (s : State) (b : Band) : Quarter :=
  (s.core b.core).quarters.toArray.getD b.quarter .blank

def State.setQuarter (s : State) (core q : Nat) (x : Quarter) : State :=
  let c := s.core core
  s.setCore { c with quarters := c.quarters.setIfInBounds q x }

/-- A result of a flagged word: its destination registers and its lanes' words (R406, R409). -/
structure Result where
  id : Nat
  word : DWord
  flag : Flag
  kind : Nat
  /-- destination: general or uniform, the first register and how many -/
  uni : Bool
  dreg : Nat
  va : DWord
  /-- lanes with one word for each register -/
  lanes : List (Nat × List Word)
  /-- sticky conditions (R117) -/
  conds : Word := 0
  /-- the value of DRST after a draw (R348) -/
  drst : Option Word := none
  deriving DecidableEq, Repr

/-- The name of register `i` of a result. -/
def Result.reg (r : Result) (i : Nat) : RegName :=
  if r.uni then .s (BitVec.ofNat 5 (r.dreg + i)) else .g (BitVec.ofNat 6 (r.dreg + i))

/-- Write one register of a flagged result at cycle `now`; where a later word raced with it, or an earlier result is not
yet due, which value is left is open (R19). Registers of exited lanes (R90) and registers that SHRINK has released (R166)
are not written. -/
def Band.putResult (b : Band) (now k id t : Nat) (r : RegName) (v : Word) : Band :=
  let raced := b.races now t r || b.inFlight.any fun f => f.id == id && decide (f.reg = r) && bit f.raced (r.laneOf t)
  let dead := match r with
    | .s _ => false
    | _ => !(b.lane t).live
  let released := !b.inFlight.any fun f => f.id == id && decide (f.reg = r) && bit f.lanes (r.laneOf t)
  if dead || released || (raced && Config.pick k (pickKey 3 t r)) then b
  else b.putReg t r (v.setWidth 64)

/-- Conditions become sticky in a cycle: they count as set in it, after any clearing of that cycle (R117). -/
def Band.sticky (b : Band) (now : Nat) (c : Word) : Band :=
  if c = 0 then b else { b with fpLate := b.fpLate ++ [(c, now)] }

/-- Write a result into the registers of its band. -/
def Band.putResults (b : Band) (now k : Nat) (r : Result) : Band :=
  r.lanes.foldl (fun b l => (l.2.mapIdx fun i v => (i, v)).foldl
    (fun b p => b.putResult now k r.id l.1 (r.reg p.1) p.2) b) { b with drst := r.drst.getD b.drst }

/-- The words that an entry of the table holds for each of its lanes. -/
def PendWrite.results (p : PendWrite) : List (Nat × List Word) :=
  (lanesOf p.lanes).mapIdx fun i t => (t, (p.data.drop (i * p.nreg)).take p.nreg)

/-- A stopped quarter keeps results in its pending-write table (R406). -/
def Quarter.hold (q : Quarter) (bi : Nat) (r : Result) : Quarter :=
  let mask (l : List (Nat × List Word)) : BitVec 32 := maskOf fun t => l.any fun x => x.1 == t
  let words (l : List (Nat × List Word)) : List Word :=
    ((lanesOf (mask l)).map fun t => ((l.find? (·.1 == t)).map (·.2)).getD []).flatten
  let nreg := (r.lanes.headD (0, [])).2.length
  if q.pendTable.any fun p => p.id == r.id then
    { q with pendTable := q.pendTable.map fun p =>
        if p.id == r.id then
          let l := r.lanes ++ p.results
          { p with lanes := mask l, data := words l, nreg := max p.nreg nreg, dreg := r.dreg }
        else p }
  else
    { q with pendTable := q.pendTable ++
        [{ id := r.id, band := bi, flag := r.flag, kind := r.kind, st := 0, dreg := r.dreg, nreg := nreg, code := 0,
           lanes := mask r.lanes, addr := r.va, pc := r.word, data := words r.lanes, conds := r.conds, drst := r.drst }] }

/-- A stopped quarter keeps the fault of an operation's lanes in its table (R406). DESIGN CHOICE (log entry 127): an
operation whose lanes have both data and a fault has one entry with ST 1, whose data still goes to its lanes' registers
at the resume. -/
def Quarter.holdFault (q : Quarter) (bi : Nat) (r : Result) (lanes : BitVec 32) (code : Byte) : Quarter :=
  let q := q.hold bi { r with lanes := [] }
  { q with pendTable := q.pendTable.map fun p =>
      if p.id == r.id then
        { p with st := 1, code := code, fail := p.fail ||| lanes, nreg := max p.nreg (r.lanes.headD (0, [])).2.length }
      else p }

/-- Deliver a result: to the registers, or to the pending-write table of a stopped quarter. -/
def State.deliver (s : State) (bi : Nat) (r : Result) : State :=
  let b := s.band bi
  if (s.quarterOf b).stopped then
    s.setQuarter b.core b.quarter ((s.quarterOf b).hold bi r)
  else { s.setBand bi (b.putResults s.cycle s.free r) with free := s.free + 1 }

/-- The flag of a word is done, its registers are settled, and its conditions are sticky (R17, R117). -/
def State.flagDone (s : State) (bi id : Nat) (f : Flag) (conds : Word := 0) : State :=
  let b := s.band bi
  s.setBand bi ({ b.setDone f with inFlight := b.inFlight.filter fun e => e.id != id }.sticky s.cycle conds)

/-- A flagged word is complete: its flag is done and its registers are settled, unless its quarter
is stopped (R17, R406), or the flag lags behind the result (R19). -/
def State.finish (s : State) (bi id : Nat) (f : Flag) (conds : Word := 0) : State :=
  let b := s.band bi
  if (s.quarterOf b).stopped && (s.quarterOf b).pendTable.any fun p => p.id == id then s
  else if s.holdFlags && f != 15 then { s with late := s.late ++ [⟨bi, id, f, [], true, conds⟩] }
  else s.flagDone bi id f conds

/-- The address operand of a matrix command; 0 for one that has none. -/
def SeqOp.va : SeqOp → DWord
  | .ldt _ va .. | .stt _ va .. | .accld _ va _ | .accst _ va .. | .mxsave va .. | .mxrest va .. => va
  | _ => 0

/-- A matrix transfer of a stopped quarter ends: it has an entry in the pending-write table, with the lanes of its
participant set, its address, and its code if it has one; its flag, if it names one, stays busy (R406, R409, R413). -/
def State.finishHeld (s : State) (q : SeqCmd) (code : Option Byte) : State :=
  let b := s.band q.band
  let r : Result :=
    { id := q.id, word := q.word, flag := q.flag, kind := 4, uni := false, dreg := 0, va := q.op.va,
      lanes := (lanesOf q.lanes).map fun t => (t, []) }
  let x := s.quarterOf b
  let s :=
    if x.stopped then
      s.setQuarter b.core b.quarter (match code with
        | some c => x.holdFault q.band r q.lanes c
        | none => x.hold q.band r)
    else s
  s.finish q.band q.id q.flag

/-- A word in flight will write these registers in these lanes (R19). -/
def Band.fly (b : Band) (id : Nat) (p : Pipe) (m : BitVec 32) (rs : List RegName) : Band :=
  { b with inFlight := b.inFlight ++ rs.map fun r => ⟨id, p, r, m, 0⟩ }

/-! ## Plain reads -/

/-- The cached line of a byte, whether it is of the weight store, and the byte's number. -/
def locLine : Loc → Option (Bool × Nat)
  | .mem a => some (false, a)
  | .ws a => some (true, a)
  | .scr _ => none

/-- The choice between a cached line and the memory below it, apart from the choices of registers. -/
def lineKey (ws : Bool) (a : Nat) : Nat := (a / 128 * 2 + if ws then 1 else 0) * 2 + 1

/-- A byte as a plain load of a core reads it: an L1 line may still hold an older value (R223, R246). -/
def State.readPlain (s : State) (core k : Nat) (l : Loc) : Byte :=
  match locLine l with
  | none => s.readLoc l
  | some (ws, a) =>
    match (s.core core).l1.find? fun x => x.ws == ws && x.base == a / 128 * 128 with
    | some x =>
      if Config.pick k (lineKey ws a) then x.bytes.getD (a % 128) 0
      else s.readLoc l
    | none => s.readLoc l

/-- The lines of a core's L1 that reads pass over for the memory below are dropped, so that a later plain load of the
lane reads no older value (R244). -/
def State.passLines (s : State) (core : Nat) : State :=
  let c := s.core core
  if c.l1.isEmpty then s
  else s.setCore { c with l1 := c.l1.filter fun l => Config.pick s.free (lineKey l.ws l.base) }

/-- A plain load allocates the lines it reads, unless it took the older line (R223). -/
def State.allocLine (s : State) (core k : Nat) (l : Loc) : State :=
  match locLine l with
  | none => s
  | some (ws, a) =>
    let base := a / 128 * 128
    let c := s.core core
    let has := c.l1.any fun x => x.ws == ws && x.base == base
    if has && Config.pick k (lineKey ws a) then s
    else
      let line : L1Line := { ws := ws, base := base, bytes := (if ws then s.ws else s.mem).readN base 128 }
      s.setCore { c with l1 := line :: c.l1.filter fun x => !(x.ws == ws && x.base == base) }

/-! ## Read-modify-write operations (R262) -/

def aopMin (sgn : Bool) (n a b : Nat) : Nat :=
  if sgn then (if signed b n < signed a n then b else a) else min a b

def aopMax (sgn : Bool) (n a b : Nat) : Nat :=
  if sgn then (if signed a n < signed b n then b else a) else max a b

/-- Each half of a packed value by one operation of its format. -/
def halves (f : Nat → Nat → Nat) (a b : Nat) : Nat :=
  f (bits a 0 16) (bits b 0 16) + 2 ^ 16 * f (bits a 16 16) (bits b 16 16)

/-- Op(old, b) of R262. -/
def aop (op : AOp) (ty : AType) (old b : Nat) : Nat :=
  let n := 8 * ty.bytes
  let sgn := ty == .i32 || ty == .i64
  match op with
  | .add =>
    match ty with
    | .f32 => (fF32.fadd false old b).1
    | .f16x2 => halves (fun x y => (fF16.fadd false x y).1) old b
    | .bf16x2 => halves (fun x y => (fBf16.fadd false x y).1) old b
    | _ => (old + b) % 2 ^ n
  | .min => if ty = .f32 then (fF32.fminmax false false old b).1 else aopMin sgn n old b
  | .max => if ty = .f32 then (fF32.fminmax false true old b).1 else aopMax sgn n old b
  | .and => old &&& b
  | .or => old ||| b
  | .xor => old ^^^ b
  | .exch => b
  | .inc => if b ≤ old then 0 else old + 1
  | .dec => if old = 0 ∨ b < old then b else old - 1

/-! ## The race shadow of the scratchpad (R402) -/

/-- RACEA of a report. -/
def raceWord (wband aband : Nat) (write : Bool) (off : Nat) : DWord :=
  BitVec.ofNat 64 (2 ^ 63 + wband * 2 ^ 58 + aband * 2 ^ 54 + (if write then 2 ^ 53 else 0) + off)

/-- Check one word of a plain local access, and record a write; a latch leaves OVF, which only a write of 1 clears. -/
def Core.raceCheck (c : Core) (band gen : Nat) (pc : DWord) (write : Bool) (w : Nat) : Core :=
  let hit := c.shadow.find? fun e => e.1 == w
  let c := match hit with
    | some (_, b, g) =>
      if b != band && g == gen then
        if c.racea.getLsbD 63 then { c with racea := c.racea ||| 2 ^ 62 }
        else { c with racea := raceWord b band write (4 * w) ||| c.racea &&& 2 ^ 62, racepc := pc }
      else c
    | none => c
  if write then { c with shadow := (w, band, gen) :: c.shadow.filter fun e => e.1 != w } else c

/-- A plain access through a local offset is checked word by word, in a launch with race checking (R402). -/
def State.race (s : State) (b : Band) (word : DWord) (locs : List Loc) (write : Bool) : State :=
  if ((s.launchOf b).map (·.cfg.race)).getD false then
    let gen := (((s.crew b.crew).map (·.barGen)).getD 0) % 128
    (scrWords locs).foldl (fun s w => s.setCore ((s.core w.1).raceCheck b.num gen word write w.2)) s
  else s

/-- What an access of a lane does to the race shadow: a plain one through a local offset is checked, a write through a
grove address clears, and an atomic at a local offset does neither (R402). -/
def State.shadowed (s : State) (b : Band) (word : DWord) (locs : List Loc) (isLocal plain write : Bool) : State :=
  if isLocal then (if plain then s.race b word locs write else s) else if write then s.clearShadow locs else s

/-! ## Order among accesses -/

def AccKind.isLoad : AccKind → Bool
  | .load .. | .uload .. | .loadOrd .. => true
  | _ => false

/-- The access writes destination registers. -/
def AccKind.hasDest : AccKind → Bool
  | .store | .storeOrd => false
  | _ => true

def Order.acquires : Order → Bool
  | .acquire | .acqRel | .seqCst => true
  | _ => false

def Order.releases : Order → Bool
  | .release | .acqRel | .seqCst => true
  | _ => false

/-- Two parts touch a common byte; of a part that waits for its page only the address is known. -/
def Part.overlaps (p q : Part) : Bool :=
  if p.absent || q.absent then
    decide (p.va.toNat < q.va.toNat + 16) && decide (q.va.toNat < p.va.toNat + 16)
  else p.locs.any fun l => q.locs.contains l

/-- An earlier access of the band must be performed before this part (R23, R247, R249). A write is performed after
every earlier access of its lane, so that an agent that observes it and releases carries with it all that happened
before it (R242, R252); accesses of a lane to a common byte stay in order (R23, R244). -/
def Access.before (e a : Access) (p : Part) : Bool :=
  e.band == a.band && e.parts.any fun q => !q.done && q.lane == p.lane &&
    (!a.kind.isLoad || Order.acquires e.order || Order.releases a.order || q.overlaps p)

/-- The blocks of memory that the part touches. -/
def Part.blocks (p : Part) : List Nat := (p.locs.filterMap fun x => match x with
  | .mem a => some (a / 256)
  | _ => none).eraseDups

/-- A part reaches a block with a write that waits for sectors, so that it waits behind it (R227). -/
def State.behind (s : State) (p : Part) : Bool := s.blocked p.blocks

/-- A byte lies in a weight-store bank under refresh, so that its reads wait (R222). -/
def State.bankBusy (s : State) : Loc → Bool
  | .ws a => let d := s.die (a / 2 ^ 28); d.refBusy && d.refBank == bits a 12 4
  | _ => false

/-- A part reads a weight-store bank under refresh (R222). -/
def State.refreshing (s : State) (p : Part) : Bool := p.locs.any s.bankBusy

/-- A matrix command that accesses memory, as its lowest lane (R191). -/
def SeqOp.isTransfer : SeqOp → Bool
  | .ldt .. | .stt .. | .accld .. | .accst .. | .mxsave .. | .mxrest .. => true
  | _ => false

/-- All of these accesses and matrix transfers have been performed. -/
def State.performed (s : State) (ids : List Nat) : Bool :=
  !s.accesses.any (fun a => ids.contains a.id) &&
    !s.cores.any fun c => c.seq.any fun q => q.op.isTransfer && ids.contains q.id

/-- The part reaches a barrier object with an arrival whose lanes have released accesses that are still to be performed:
whoever observes it comes after them (R242, R273). -/
def State.unreleased (s : State) (a : Access) (p : Part) : Bool :=
  s.arrivals.any fun x => !x.2.contains a.id && !s.performed x.2 && p.locs.any fun l => match l with
    | .scr n => decide (x.1 ≤ n) && decide (n < x.1 + 8)
    | _ => false

/-- The matrix transfers of these lanes of a band that are still to be performed. -/
def State.transfers (s : State) (bi : Nat) (lanes : BitVec 32) : List SeqCmd :=
  (s.core (s.band bi).core).seq.filter fun c =>
    c.band == bi && c.op.isTransfer && bit lanes (lowest c.lanes)

/-- Destination registers of an access. -/
def AccKind.dests : AccKind → List RegName
  | .load d sz => gs sz.regs d
  | .uload d sz => ss sz.regs d
  | .atom d _ ty | .cas d ty | .loadOrd d ty => gs ty.regs d
  | _ => []

/-- The granules marked absent among some registers (R393). -/
def Band.absentIn (b : Band) (rs : List RegName) : List Nat :=
  if b.absentGran = 0 then []
  else rs.filterMap fun r => match r with
    | .g n => if b.isAbsent n.toNat then some (n.toNat / 8) else none
    | _ => none

/-- The part can be performed now: R23 orders it after earlier accesses, matrix transfers among them, and its target
lies in no granule that is still to be filled (R393). -/
def State.partReady (s : State) (a : Access) (p : Part) : Bool :=
  let earlier := s.accesses.takeWhile fun e => e.id != a.id
  !p.absent && !earlier.any (fun e => e.before a p || a.after.contains e.id) && !s.behind p &&
    ((s.band a.band).absentIn a.kind.dests).isEmpty &&
    !s.refreshing p && !s.unreleased a p && !(s.transfers a.band (BitVec.ofNat 32 (2 ^ (p.lane % 32)))).any fun c => decide (c.id < a.id)

/-! ## One part of an access -/

/-- The part reaches its scratchpad bytes by a local offset. -/
def State.isLocal (s : State) (b : Band) (a : Access) (p : Part) : Bool :=
  match resolve s b a.sp p.va with
  | .scr _ => true
  | _ => false

/-- Bytes as a load of the part reads them: bytes held by the region first (R250). -/
def State.loadBytes (s : State) (core : Nat) (plain : Bool) (p : Part) : List Byte :=
  p.locs.mapIdx fun i l =>
    match p.held.getD i none with
    | some v => v
    | none => if plain then s.readPlain core s.free l else s.readLoc l

/-- Perform one part; the bytes it reads, or none if its write must wait for sectors. -/
def State.performPart (s : State) (a : Access) (p : Part) : Option (State × List Byte) :=
  let b := s.band a.band
  let w := s.laneWriter a.band p.lane a.word false
  let n := p.locs.length
  let fresh (s : State) : State := p.locs.foldl (fun s l => match l with
    | .mem x => s.dropLine b.core false x
    | _ => s) s
  let wr (v : List Byte) : Option State :=
    ((s.clearRcl p.ptes).shadowed b a.word p.locs (s.isLocal b a p) (a.kind = .store) true).writeRuns
      w n p.locs v
  match a.kind with
  | .load .. | .uload .. =>
    let v := s.loadBytes b.core true p
    let s1 := p.locs.foldl (fun s l => s.allocLine b.core s.free l) s
    some (s1.shadowed b a.word p.locs (s.isLocal b a p) true false, v)
  | .loadOrd .. => some (fresh s, s.loadBytes b.core false p)
  | .store | .storeOrd => (wr p.data).map fun s' => (s', [])
  | .atom _ op ty =>
    let old := p.locs.map s.readLoc
    (wr (leBytes (aop op ty (leNat old) (leNat p.data)) n)).map fun s' => (fresh s', old)
  | .cas .. =>
    let old := p.locs.map s.readLoc
    if old = p.cmp then (wr p.data).map fun s' => (fresh s', old) else some (fresh s, old)

/-- Extend the bytes of a load to the words of its destination (R96). -/
def loadWords (sz : Size) (v : List Byte) : List Word :=
  let n := leNat v
  match sz with
  | .i8 => [BitVec.signExtend 32 (BitVec.ofNat 8 n)]
  | .i16 => [BitVec.signExtend 32 (BitVec.ofNat 16 n)]
  | .n8 | .n16 | .b32 => [BitVec.ofNat 32 n]
  | .b64 => [BitVec.ofNat 32 n, BitVec.ofNat 32 (n / 2 ^ 32)]
  | .b128 => (List.range 4).map fun i => BitVec.ofNat 32 (n / 2 ^ (32 * i))

/-- The words of a value of an atomic type. -/
def typeWords (ty : AType) (v : List Byte) : List Word :=
  (List.range ty.regs).map fun i => BitVec.ofNat 32 (leNat v / 2 ^ (32 * i))

/-- The result that a part's bytes give its lane (R96, R261 to R263). -/
def Access.result (a : Access) (p : Part) (v : List Byte) : Option Result :=
  let mk (kind : Nat) (uni : Bool) (d : Nat) (ws : List Word) : Option Result :=
    some { id := a.id, word := a.word, flag := a.flag, kind := kind, uni := uni, dreg := d, va := p.va,
           lanes := [(p.lane, ws)] }
  match a.kind with
  | .load d sz => mk 0 false d.toNat (loadWords sz v)
  | .uload d sz => mk 1 true d.toNat (loadWords sz v)
  | .atom d _ ty | .cas d ty => mk 3 false d.toNat (typeWords ty v)
  | .loadOrd d ty => mk 0 false d.toNat (typeWords ty v)
  | _ => none

/-- The mask of one lane. -/
def laneMask (t : Nat) : BitVec 32 := BitVec.ofNat 32 (2 ^ (t % 32))

/-! ## Whole accesses -/

def State.findAccess (s : State) (id : Nat) : Option Access := s.accesses.find? (·.id == id)

/-- Change an access in the list. -/
def State.mapAccess (s : State) (id : Nat) (f : Access → Access) : State :=
  { s with accesses := s.accesses.map fun a => if a.id == id then f a else a }

def Part.pending (p : Part) : Bool := !p.done

/-- The part of a lane is done. -/
def Access.markDone (a : Access) (t : Nat) : Access :=
  { a with parts := a.parts.map fun p => if p.lane == t then { p with done := true } else p }

/-- The die of a write's first byte, for the controller it waits at. -/
def Part.die (p : Part) : Option Nat :=
  match p.locs with
  | .mem a :: _ => some (dieOfPa a)
  | _ => none

/-- The accesses of a band before a number whose destinations are still to be written (R260). -/
def State.loadsBefore (s : State) (bi id : Nat) : List Nat :=
  (s.accesses.filter fun e => e.band == bi && e.kind.hasDest && decide (e.id < id)).map (·.id)

/-- The result of a part goes to the registers of its band. -/
def State.deliverPart (s : State) (a : Access) (p : Part) (v : List Byte) : State :=
  match a.result p v with
  | some r => s.deliver a.band r
  | none => s

/-- The effects of a performed part on its band: the write-back, which waits until earlier words of the band have
written theirs (R99, R260), and an acquire's drop of the L1. -/
def State.afterPart (s : State) (a : Access) (p : Part) (v : List Byte) : State :=
  let s :=
    if a.kind.hasDest && !(s.loadsBefore a.band a.id).isEmpty then
      s.mapAccess a.id fun e => { e with parts := e.parts.map fun q => if q.lane == p.lane then { q with got := some v } else q }
    else s.deliverPart a p v
  if Order.acquires a.order && a.scope != .band && a.scope != .crew then
    s.dropL1 (s.band a.band).core
  else s

/-- Perform the parts of an access that are ready, in ascending lanes (R258), until one must wait. -/
def State.performParts (s : State) (id : Nat) : List Part → State
  | [] => s
  | p :: r =>
    match s.findAccess id with
    | none => s
    | some a =>
      if s.partReady a p then
        match s.performPart a p with
        | some (s', v) => ((s'.mapAccess id (·.markDone p.lane)).afterPart a p v).performParts id r
        | none => match p.die with
          | some d => s.waitAt d id p.blocks p.va
          | none => s
      else if p.absent then s.performParts id r
      else s

/-- A flag that waits only for accesses, all of them complete. -/
def State.lateDue (s : State) (e : Late) : Bool := !e.hold && !s.accesses.any fun a => e.after.contains a.id

/-- The flags whose accesses are complete become done (R260). -/
def State.flushLate (s : State) : State :=
  (s.late.filter s.lateDue).foldl (fun s e => s.flagDone e.band e.id e.flag e.conds)
    { s with late := s.late.filter fun e => !s.lateDue e }

/-- The oldest flag that lags behind its result becomes done (R19). -/
def State.flushHeld (s : State) : State :=
  match s.late.find? (·.hold) with
  | some e => { s with late := s.late.filter fun x => x.id != e.id }.flagDone e.band e.id e.flag e.conds
  | none => s

/-- The flag of a complete access: that of a store waits for earlier destinations of its band (R99, R260). -/
def State.complete (s : State) (a : Access) : State :=
  let w := if a.kind.hasDest || a.flag == 15 then [] else s.loadsBefore a.band a.id
  if w.isEmpty then s.finish a.band a.id a.flag
  else { s with late := s.late ++ [⟨a.band, a.id, a.flag, w, false, 0⟩] }

/-- What an access has read and not yet written to its band's registers. -/
def Access.kept (a : Access) : List (Part × List Byte) := a.parts.filterMap fun p => p.got.map fun v => (p, v)

/-- The results that an access keeps can be written: none of their granules is absent (R393). -/
def State.mayDeliver (s : State) (a : Access) : Bool := a.kept.isEmpty || ((s.band a.band).absentIn a.kind.dests).isEmpty

/-- The destinations of an access that is now the oldest of its band to write any (R99, R260). -/
def State.deliverKept (s : State) (a : Access) : State :=
  if a.kept.isEmpty then s
  else a.kept.foldl (fun s q => s.deliverPart a q.1 q.2)
    (s.mapAccess a.id fun e => { e with parts := e.parts.map fun q => { q with got := none } })

/-- An access whose parts are all done is removed, and its flag completes. -/
def State.remove (s : State) (a : Access) : State :=
  (({ s with accesses := s.accesses.filter fun e => e.id != a.id }.unwait a.id).complete a).flushLate

/-- The oldest access of a band that writes destinations. -/
def State.oldestLoad (s : State) (bi : Nat) : Option Access :=
  s.accesses.find? fun a => a.band == bi && a.kind.hasDest

/-- The accesses of a band that waited for the destinations of an earlier one write theirs, in the order of issue, until
one is still to be performed. -/
def State.nextLoads (s : State) (bi : Nat) : Nat → State
  | 0 => s
  | n + 1 =>
    match s.oldestLoad bi with
    | some a =>
      if !s.mayDeliver a then s
      else
        let s := s.deliverKept a
        if a.parts.all (·.done) then (s.remove a).nextLoads bi n else s
    | none => s

/-- An access whose parts are all done completes, once no earlier word of its band has destinations to write; those that
waited for it go on (R99, R260). -/
def State.retire (s : State) (id : Nat) : State :=
  match s.findAccess id with
  | some a =>
    if !a.parts.all (·.done) then s
    else if !a.kind.hasDest then s.remove a
    else if (s.loadsBefore a.band id).isEmpty && s.mayDeliver a then
      let s := (s.deliverKept a).remove a
      s.nextLoads a.band s.accesses.length
    else s
  | none => s

/-- A part of an access ends with a trap that its lane takes later, and that the table of a stopped quarter holds; an
SLD's is raised in every lane of V (R156, R362, R406). -/
def State.failPart (s : State) (a : Access) (p : Part) (code : Byte) : State :=
  let b := s.band a.band
  let s := match a.result p (List.replicate 16 0) with
    | some r => if (s.quarterOf b).stopped then
        s.setQuarter b.core b.quarter ((s.quarterOf b).holdFault a.band r (laneMask p.lane ||| a.also) code) else s
    | none => s
  (s.mapAccess a.id (·.markDone p.lane)).reportAll a.band (laneMask p.lane ||| a.also) (asyncTrap code 0 p.va a.word)

/-- The parts of an access that are not performed end with a trap. -/
def State.failParts (s : State) (id : Nat) (sel : Part → Bool) (code : Byte) : State :=
  match s.findAccess id with
  | some a =>
    ((a.parts.filter fun p => !p.done && sel p).foldl (fun s p => s.failPart a p code) s).retire id
  | none => s

/-- Perform what can be performed of an access, and complete it if nothing is left. -/
def State.perform (s : State) (id : Nat) : State :=
  let s := s.unblock id
  match s.findAccess id with
  | some a => (s.performParts id (a.parts.filter (·.pending))).retire id
  | none => s

/-- Complete the pending loads of a band, oldest first, as far as they can be. -/
def State.performLoads (s : State) (bi : Nat) : Nat → State
  | 0 => s
  | n + 1 =>
    match s.oldestLoad bi with
    | some a =>
      let s' := s.perform a.id
      if (s'.findAccess a.id).isSome then s' else s'.performLoads bi n
    | none => s

/-! ## Regions -/

/-- A fresh identifier. -/
def State.fresh (s : State) : Nat × State := (s.nextId, { s with nextId := s.nextId + 1 })

/-- A record of the fault service for an access of a band (R371). -/
def State.accessFault (s : State) (bi id : Nat) (va : DWord) : State :=
  let b := s.band bi
  let f := s.fresh
  { f.2 with faults := f.2.faults ++
      [{ id := f.1, ctx := s.ctxOf b, band := bi, core := b.core, va := va, kind := .access id, placed := false }] }

/-- A held store becomes a plain store that is performed after the held stores before it (R250). One whose page has
been reclaimed meanwhile waits for it, and one whose page has come back goes to its new frame (R228); the band issues
nothing until it is performed. -/
def State.releaseHeld (s : State) (bi : Nat) (h : HeldStore) : State :=
  let f := s.fresh
  let at_ := reach s (s.band bi) h.lane h.sp h.va h.bytes.length true false
  let gone := match at_ with
    | .absent _ => true
    | _ => h.ptes.any fun e => bits (s.mem.readLE e 8) 63 1 == 0
  let a : Access :=
    { id := f.1, band := bi, word := h.word, kind := .store, sp := h.sp, flag := 15, scope := .band,
      order := .relaxed, after := (s.band bi).closing,
      parts := [{ lane := h.lane, va := h.va, locs := if gone then [] else match at_ with
                    | .locs l => l
                    | _ => h.bytes.map fun c => .mem c.1,
                  ptes := h.ptes, data := h.bytes.map (·.2), cmp := [], held := [], done := false,
                  absent := gone }] }
  let s1 : State := { f.2 with accesses := f.2.accesses ++ [a] }
  let s2 := if gone then s1.accessFault bi f.1 h.va else s1.perform f.1
  if (s2.findAccess f.1).isSome then
    s2.setBand bi { s2.band bi with closing := (s2.band bi).closing ++ [f.1] }
  else s2

/-- Stores that an ended region has released are still to be performed, so that what ended it waits (R250). -/
def State.closes (s : State) (b : Band) : Bool := b.closing.any fun id => (s.findAccess id).isSome

/-- End the open region: the held stores are performed in program order (R250, R369). Pending loads
of the band that they overlap are performed before them (R23). -/
def State.endRegion (s : State) (bi : Nat) : State :=
  let b := s.band bi
  if b.rgnOpen then
    let hs := b.held
    let s := s.setBand bi { b with rgnOpen := false, held := [] }
    let s := if hs.isEmpty then s else s.performLoads bi s.accesses.length
    hs.foldl (fun s h => s.releaseHeld bi h) s
  else s

/-- The 128-byte lines that the region store buffer holds, in the order in which they entered. -/
def Band.heldLines (b : Band) : List Nat :=
  ((b.held.map fun h => h.bytes.map fun c => c.1 / 128).flatten).eraseDups

/-- RGNCNT (R358). -/
def Band.rgncnt (b : Band) : Word :=
  BitVec.ofNat 32 ((if b.rgnOpen then 2 ^ 31 else 0) + b.rgnAborts.toNat * 2 ^ 8 + b.heldLines.length)

/-! ## Traps -/

/-- TRAPCODE of a trap (R356). -/
def Trap.word (x : Trap) : Word :=
  x.info ++ (if x.async then 1#1 else 0#1) ++ (if x.abrt then 1#1 else 0#1) ++ 0#6 ++ x.code

/-- A precise or deferred trap. -/
def syncTrap (code : Byte) (info : Nat) (addr orig : DWord) : Trap :=
  { code := code, info := BitVec.ofNat 16 info, async := false, abrt := false, addr := addr,
    orig := orig }

/-- Record a trap of a lane and mask it off, with this resume address (R360, R361). -/
def Band.raise (b : Band) (t : Nat) (resume : DWord) (x : Trap) : Band :=
  let l := b.lane t
  let b := b.setLane t { l with st := .waiting .trap, trapCode := x.word, trapPc := resume,
                                trapAddr := x.addr, trapOrig := x.orig }
  { b with trapLane := b.trapLane ||| laneMask t }

/-- The lane can be masked for a report before its next issue (R362). -/
def Lane.free (l : Lane) : Bool :=
  match l.st with
  | .held | .eligible => true
  | _ => false

/-- Mask a lane for its oldest report, outside handler mode (R362). -/
def Band.takeReport (b : Band) (t : Nat) : Band :=
  let l := b.lane t
  match l.reports with
  | x :: r =>
    if l.free && !b.handler && !bit b.trapLane t then
      (b.setLane t { l with reports := r }).raise t l.pc x
    else b
  | [] => b

/-- Mask every lane that has a report (R362). -/
def Band.takeReports (b : Band) : Band := (List.range 32).foldl Band.takeReport b

/-- Some trap has been raised and not yet taken (R363). -/
def Band.trapPending (b : Band) : Bool := !b.handler && b.trapLane != 0

/-- The trap that a lane has recorded (R356, R357). -/
def Lane.recorded (l : Lane) : Trap :=
  { code := l.trapCode.setWidth 8, info := (l.trapCode >>> 16).setWidth 16, async := l.trapCode.getLsbD 15,
    abrt := l.trapCode.getLsbD 14, addr := l.trapAddr, orig := l.trapOrig }

/-- A context is stopped and reported as stopped, once (R379, R423, R430, R439). -/
def State.stopCtx (s : State) (ctx die : Nat) (code : Byte) (orig : DWord) : State :=
  match s.ctx ctx with
  | some c =>
    if c.stoppedBy.isSome then s
    else (s.setCtx { c with stoppedBy := some code }).post [⟨ctx, 6, die, code.toNat, orig⟩]
  | none => s

/-- The die local cycle at which a quarter stops: that of the word that stops it, or the cycle after one in which the
quarter has issued (R403). -/
def State.stopClock (s : State) (core : Nat) (q : Quarter) : DWord :=
  s.localClock (core / 256) + if q.issued && q.lastIssue == s.cycle then 1 else 0

/-- A trap that TVEC cannot deliver keeps its code, with the code in INFO too (R379, R413). -/
def Trap.undelivered (x : Trap) : Trap := { x with info := x.code.setWidth 16 }

/-- A trap that cannot be delivered, or that a word in handler mode raises, escalates: the band and its quarter stop
and the context is stopped with its code (R379, R403); the halt broadcast lets other bands of the quarter take their
pending traps (R363). -/
def State.escalate (s : State) (bi : Nat) (x : Trap) : State :=
  let s := s.setBand bi { s.band bi with stopped := true }
  let b := s.band bi
  let q := s.quarterOf b
  let s := if q.stopCode != 0 then s else s.setQuarter b.core b.quarter
    { q with stopped := true, drained := false, stepping := false,
             stopCode := x.info ++ 0#8 ++ x.code, stopCycle := s.stopClock b.core q }
  s.stopCtx (s.ctxOf b) (b.core / 256) x.code x.orig

/-- The handler's entry (R359). -/
def tvecEntry (v : DWord) : DWord := (v.setWidth 57).signExtend 64

/-- Take the pending traps of a band (R363, R364): the region ends, every lane with a report joins,
and the lanes of TRAPLANE go to the handler's entry in handler mode; or the trap escalates with its
own code, which each of them records in INFO too (R379). -/
def State.enterHandler (s : State) (bi : Nat) : State :=
  let s := s.endRegion bi
  let b := (s.band bi).takeReports
  let s := s.setBand bi b
  if b.trapLane = 0 then s
  else if b.tvec.getLsbD 63 && (s.targetTrap b (tvecEntry b.tvec)).isNone then
    s.setBand bi { b.mapLanes b.trapLane (fun _ l =>
      if l.live then { l with st := .eligible, pc := tvecEntry b.tvec, released := false, returned := false } else l) with
      handler := true, nextPc := 0 }
  else
    let b1 := (lanesOf b.trapLane).foldl (fun (b : Band) t =>
      b.setLane t { b.lane t with trapCode := (b.lane t).recorded.undelivered.word }) b
    (s.setBand bi b1).escalate bi (b1.lane (lowest b.trapLane)).recorded

/-- The trap that a word in handler mode leaves behind: code 0x1B with the original code in INFO; a
word of R365 has no code of its own (R379). -/
def Trap.nested (x : Trap) : Trap :=
  { x with code := 0x1B, info := if x.code = 0x1B then 0 else x.code.setWidth 16 }

/-- Take a precise trap of some lanes (R360): the fixed-latency results of earlier words are written (R25), and
TRAPPC is the word, or the next word for the codes 0x18 and 0x1A. In handler mode it escalates (R379). -/
def State.takePrecise (s : State) (bi : Nat) (pc next : DWord) (ts : List (Nat × Trap)) : State :=
  let s := s.setBand bi (s.band bi).drain
  let b := s.band bi
  if b.handler then
    let s := s.endRegion bi
    let b := ts.foldl (fun b p => b.raise p.1 pc p.2.nested) (s.band bi)
    match ts with
    | p :: _ => (s.setBand bi b).escalate bi p.2.nested
    | [] => s
  else
    let resume (x : Trap) : DWord := if x.code = 0x18 ∨ x.code = 0x1A then next else pc
    (s.setBand bi (ts.foldl (fun b p => b.raise p.1 (resume p.2) p.2) b)).enterHandler bi

/-- Raise the deferred traps of a word; in handler mode they escalate (R361, R379). -/
def State.deferTraps (s : State) (bi : Nat) (pc : DWord) (ts : List (Nat × Trap)) : State :=
  match ts with
  | [] => s
  | t :: _ =>
    let b := s.band bi
    if b.handler then
      let s := s.endRegion bi
      (s.setBand bi (ts.foldl (fun b p => b.raise p.1 pc p.2.nested) (s.band bi))).escalate bi t.2.nested
    else s.setBand bi (ts.foldl (fun b p => b.raise p.1 pc p.2) b)

/-- Return from the handler (R366): the lanes of TRAPLANE go to their TRAPPC, and the suspended lanes go on. A
TRAPPC that breaks R11 traps at its first issue, and no lane is held there (R91, R92). -/
def State.returnTrap (s : State) (bi : Nat) : State :=
  let b := s.band bi
  let m := b.trapLane
  let b := b.mapLanes m fun _ l =>
    if l.live then { l with st := .eligible, pc := l.trapPc, trapCode := 0,
                            released := (s.targetTrap b l.trapPc).isSome, returned := true } else l
  s.setBand bi { b with trapLane := 0, handler := false, nextPc := 0 }

/-- Every live lane of TRAPLANE waits at a TRET (R366). -/
def Band.allAtTret (b : Band) : Bool :=
  let m := (List.range 32).filter fun t => bit b.trapLane t && (b.lane t).live
  b.handler && !m.isEmpty && m.all fun t => decide ((b.lane t).st = .waiting .tret)

/-- Pending traps are to be taken before the band's next issue (R363): no region is open, the next
word ends it, or no other live lane is eligible. -/
def Band.mustTake (b : Band) (nextEnds : Bool) : Bool :=
  b.trapPending && (!b.rgnOpen || nextEnds || (List.range 32).all fun t => !b.eligible t)

/-- The open region is aborted (R371): held stores and pending deferred traps are discarded, and every live
lane goes to RGNPC. -/
def Band.abort (b : Band) : Band :=
  let undo (t : Nat) (l : Lane) : Lane :=
    if bit b.trapLane t && !l.trapCode.getLsbD 15 then { l with trapCode := 0 } else l
  let reported := maskOf fun t => bit b.trapLane t && (b.lane t).trapCode.getLsbD 15
  let again (t : Nat) (l : Lane) : Lane :=
    let l := undo t l
    if l.live then { l with st := .eligible, pc := b.rgnPc, released := false, returned := false } else l
  -- an asynchronous trap already raised stays pending and is taken after the replay begins (R373)
  let back (t : Nat) (l : Lane) : Lane :=
    if bit reported t then
      { l with trapCode := 0, reports :=
          { code := l.trapCode.setWidth 8, info := (l.trapCode >>> 16).setWidth 16, async := true,
            abrt := false, addr := l.trapAddr, orig := l.trapOrig } :: l.reports }
    else l
  let b' := b.mapLanes (BitVec.allOnes 32) fun t l => again t (back t l)
  { b' with held := [], trapLane := 0, nextPc := 0 }

/-- A region abort at a page that is not present (R371): the band parks until the reply to a fault record for
the faulting lanes. -/
def State.abortRegion (s : State) (bi : Nat) (lanes : List (Nat × DWord)) (word va : DWord) : State :=
  let b := s.band bi
  let f := s.fresh
  { f.2.setBand bi { b.abort with block := some .parked,
                                  rgnAborts := if b.rgnAborts = 255 then 255 else b.rgnAborts + 1 } with
    faults := f.2.faults ++ [{ id := f.1, ctx := s.ctxOf b, band := bi, core := b.core, va := va,
                               kind := .abort lanes word, placed := false }] }

/-! ## Where lanes go -/

/-- The lanes of the issue set go on to the next word; a lane that waits goes on there once its wait
ends. Lanes masked by a trap and lanes that the first word of a pair transferred stay (R14, R88). -/
def State.advance (s : State) (x : Ex) (stay : BitVec 32) : State :=
  let next := nextPc x.pc x.lbit
  if s.latch.pair = 3 then s
  else
    s.setMe (s.me.mapLanes (x.set &&& ~~~stay &&& ~~~s.latch.moved) fun _ l =>
      match l.st with
      | .waiting .trap => l
      | .waiting _ => { l with resume := next }
      | _ => { l with pc := next, released := false, returned := false })

/-- A lane waits in the word, and goes on at the address it has reached once its wait ends. -/
def Band.wait (b : Band) (x : Ex) (m : BitVec 32) (w : Nat → Wait) : Band :=
  b.mapLanes m fun t l => { l with st := .waiting (w t), resume := l.pc, pc := x.pc }

/-- A wait has ended: the lane goes on. -/
def Lane.wake (l : Lane) : Lane := { l with st := .eligible, pc := l.resume, released := false, returned := false }

/-- Wake the lanes of a mask. -/
def Band.wake (b : Band) (m : BitVec 32) : Band := b.mapLanes m fun _ l => l.wake

/-- Transfer control in the lanes of V (R86): each goes to its target; a target at or below the word
is a rotation event (R132). -/
def State.transfer (s : State) (x : Ex) (target : Nat → DWord) : State :=
  let back := (lanesOf x.v).any fun t => decide ((target t).toNat ≤ x.pc.toNat)
  let b := s.me.mapLanes x.v fun t l => { l with pc := target t, released := false, returned := false }
  { s.setMe { b with nextPc := 0 } with
    latch := { s.latch with moved := s.latch.moved ||| x.v, rot := s.latch.rot || back } }

/-! ## Results of fixed latency -/

/-- Write a general register in each lane of V. -/
def State.putG (s : State) (x : Ex) (lat : Nat) (d : Reg) (v : Nat → Word) : State :=
  s.setMe (s.me.writeLanes (x.now + lat) x.k x.v (.g d) fun t => (v t).setWidth 64)

/-- Write a pair in each lane of V (R7). -/
def State.putG2 (s : State) (x : Ex) (lat : Nat) (d : Reg) (v : Nat → DWord) : State :=
  (s.putG x lat d fun t => (v t).setWidth 32).putG x lat (d + 1) fun t => ((v t) >>> 32).setWidth 32

/-- Write a predicate in each lane of V. -/
def State.putP (s : State) (x : Ex) (lat : Nat) (d : PReg) (v : Nat → Bool) : State :=
  s.setMe (s.me.writeLanes (x.now + lat) x.k x.v (.p d) fun t => if v t then 1 else 0)

/-- Write a uniform register (R135). -/
def State.putU (s : State) (x : Ex) (lat : Nat) (d : SReg) (v : Word) : State :=
  s.setMe (s.me.writeU (x.now + lat) x.k d v)

end Sys2Proof.Machine
end

