-- ==== Sys2Proof/Machine/Run.lean ====
section
/-!
DEFINITION. One word at issue: the checks that need the band (R51, R52), precise and deferred traps,
the end of a region, the waits for pages (R445), and the accesses of memory words (R96 to R99, R156,
R256 to R264).
-/

namespace Sys2Proof.Machine

/-! ## Checks before the word takes effect -/

/-- The band is privileged (R364). -/
def Band.privileged (b : Band) : Bool := b.priv || b.handler

/-- TRET outside handler mode fails check 4, and a privileged word in a band that is not privileged
fails check 7 (R51, R153, R366). -/
def check51 (i : Instr) (b : Band) (pc : DWord) : Option Trap :=
  match i with
  | .tret _ => if b.handler then none else some (syncTrap 0x01 4 0 pc)
  | .swr .. | .tlbinv .. => if b.privileged then none else some (syncTrap 0x17 0 0 pc)
  | .srd _ _ y =>
    if decide (0x200 ≤ y.toNat) && !b.privileged then some (syncTrap 0x17 0 0 pc) else none
  | _ => none

/-- The register that an access through an index register resolves to (R10). -/
def windowReg (xk : Word) : Except Nat Nat :=
  if xLen xk ≤ xIdx xk then .error 5 else .ok (xBase xk + xIdx xk)

/-- The index register of a word that accesses an element. -/
def windowOf : Instr → Option (BitVec 2)
  | .rdx _ _ k | .wrx _ k _ => some k
  | _ => none

/-- The resolved register of an element access in a lane. -/
def Band.window (b : Band) (x : Ex) (t : Nat) (i : Instr) : Option (Except Nat Nat) :=
  (windowOf i).map fun k => windowReg (b.rx x t k)

/-- The registers that a lane reads, with the element a window resolves to. -/
def Band.readsIn (b : Band) (x : Ex) (t : Nat) (i : Instr) : List RegName :=
  .p i.hdr.gp :: (if onceOf i && t != x.low then [] else srcsOf i) ++
    match i, b.window x t i with
    | .rdx .., some (.ok n) => [.g (BitVec.ofNat 6 n)]
    | .accept _ _ d _ _ _, _ => if t = x.low then gs 1 d else []
    | _, _ => []

/-- The registers that a lane writes. -/
def Band.writesIn (b : Band) (x : Ex) (t : Nat) (i : Instr) : List RegName :=
  dstsOf i ++
    match i, b.window x t i with
    | .wrx .., some (.ok n) => [.g (BitVec.ofNat 6 n)]
    | _, _ => []

/-- The major's pipe of a word, from its encoding; events go to none. -/
def pipeOfInstr (i : Instr) : Pipe :=
  match encBody i with
  | some (m, _, _) => pipeOf m.toNat
  | none => .engine

/-- The pipe's results are flagged (R18). -/
def flaggedPipe (i : Instr) : Bool :=
  match pipeOfInstr i with
  | .memory | .sfu | .matrix => true
  | .engine => match i with
    | .srd .. => false
    | _ => true
  | .uniform => match i with
    | .sld .. => true
    | _ => false
  | _ => false

/-- The cycle before which a write of this word would have to be later than others (R19); TAKE writes in the
cycle in which its lanes resume (R151). -/
def writeDue (i : Instr) (x : Ex) : Nat :=
  match i with
  | .take .. => x.now
  | _ => if flaggedPipe i then x.now else x.now + latencyOf (pipeOfInstr i)

/-- A read or a write of the word is not certain (R21). -/
def Band.stallViolation (b : Band) (x : Ex) (t : Nat) (i : Instr) : Bool :=
  (b.readsIn x t i).any (b.earlyRead x.now t) ||
  (b.writesIn x t i).any (b.openWrite (writeDue i x) (pipeOfInstr i) t)

/-- The first general register that the word names outside the allocation, sources first (R8, log
entry 10). -/
def Band.outside (b : Band) (i : Instr) : Option Nat :=
  (srcsOf i ++ dstsOf i).findSome? fun r => match r with
    | .g n => if b.allocated n.toNat then none else some n.toNat
    | _ => none

/-- The target of a transfer of control (R86). -/
def targetOf (i : Instr) (b : Band) (x : Ex) (t : Nat) : Option DWord :=
  match i with
  | .bra _ off => some (x.pc + 4 * off.signExtend 64)
  | .call _ _ lit => some (x.pc + 4 * lit.signExtend 64)
  | .brx _ a | .callx _ _ a | .ret _ a => some (b.rg2 x t a)
  | _ => none

/-- The space, address register, offset, data register and size of a plain store. -/
def storeOf : Instr → Option (Space × Reg × Word × Reg × Size)
  | .st _ d a _ sz off => some (.gen, a, off, d, sz)
  | .stSpace _ d a _ sp sz off => some (sp, a, off, d, sz)
  | _ => none

/-- The address of a memory word in a lane (R96, R256). -/
def Band.addr (b : Band) (x : Ex) (t : Nat) (sp : Space) (a : Reg) (off : Word) : DWord :=
  match sp with
  | .scr => (b.rg x t a + off).setWidth 64
  | _ => b.rg2 x t a + off.signExtend 64

/-- The place is held by an open region: global memory or the stack window (R250). -/
def Place.holdable : Place → Bool
  | .global _ | .stack _ => true
  | _ => false

/-- Lines of memory among some bytes. -/
def linesOf (l : List Loc) : List Nat :=
  (l.filterMap fun x => match x with
    | .mem a => some (a / 128)
    | _ => none).eraseDups

/-- The lanes of a store that would need a 65th line of the region store buffer (R370). -/
def overflowLanes (s : State) (x : Ex) (i : Instr) : List (Nat × Trap) :=
  let b := s.me
  match storeOf i with
  | some (sp, a, off, _, sz) =>
    if b.rgnOpen then
      ((lanesOf x.v).foldl (fun (acc : List Nat × List (Nat × Trap)) t =>
        let va := b.addr x t sp a off
        if (resolve s b sp va).holdable then
          match reach s b t sp va sz.bytes true false with
          | .locs l =>
            let ls := (acc.1 ++ linesOf l).eraseDups
            if 64 < ls.length then (acc.1, acc.2 ++ [(t, syncTrap 0x0E 0 va x.pc)])
            else (ls, acc.2)
          | _ => acc
        else acc) (b.heldLines, [])).2
    else []
  | none => []

/-- The kernel's PEAK (R165). -/
def State.peakOf (s : State) (b : Band) : Nat := ((s.launchOf b).map (·.image.peak)).getD 8

/-- The precise traps of a word's own entry in a lane of V. -/
def ownPrecise (s : State) (x : Ex) (i : Instr) (t : Nat) : Option Trap :=
  let b := s.me
  if waitsOnOthers i && b.handler then some (syncTrap 0x1B 0 0 x.pc)
  else
    match i with
    | .rdx _ _ k | .wrx _ k _ =>
      match windowReg (b.rx x t k) with
      | .error _ => some (syncTrap 0x05 k.toNat 0 x.pc)
      | .ok n => if b.allocated n then none else some (syncTrap 0x04 n 0 x.pc)
    | .xset _ k a =>
      let v := b.rg x t a
      if 64 < xLen v ∨ 64 < xBase v + xLen v then some (syncTrap 0x05 k.toNat 0 x.pc) else none
    | .bra .. | .brx .. | .call .. | .callx .. | .ret .. =>
      match targetOf i b x t with
      | some a => (s.targetTrap b a).map fun c => syncTrap c 0 a x.pc
      | none => none
    | .meet _ _ lit =>
      let a := x.pc + 4 * lit.signExtend 64
      if !canonical a then some (syncTrap 0x0A 0 a x.pc)
      else if bits a.toNat 0 2 != 0 || slotOf a == 0 then some (syncTrap 0x02 0 a x.pc)
      else none
    | .grow _ k =>
      if s.peakOf b < k.toNat + 1 then some (syncTrap 0x04 (8 * s.peakOf b) 0 x.pc) else none
    | .trap _ tag => some (syncTrap 0x18 tag.toNat 0 x.pc)
    | .bkpt _ tag => some (syncTrap 0x1A tag.toNat 0 x.pc)
    | _ => none

/-- The checking scoreboard stops a lane (R21); in a word that acts once per issue it stops every lane of V (R150). -/
def Band.stalls (b : Band) (x : Ex) (t : Nat) (i : Instr) : Bool :=
  b.check.getLsbD 0 &&
    if actsOnce i then (lanesOf x.v).any fun u => b.stallViolation x u i else b.stallViolation x t i

/-- The first precise trap of a lane of V in the order of R52. -/
def preciseLane (s : State) (x : Ex) (i : Instr) (t : Nat) : Option Trap :=
  let b := s.me
  if b.stalls x t i then some (syncTrap 0x03 0 0 x.pc)
  else
    match b.outside i with
    | some r => some (syncTrap 0x04 r 0 x.pc)
    | none => ownPrecise s x i t

/-- TRAP and BKPT, which act after the other word of their pair (R444). -/
def Trap.software (q : Trap) : Bool := q.code == 0x18 || q.code == 0x1A

/-- The precise traps of R52 in lanes of V, each with its own code (R360). -/
def ownTraps (s : State) (x : Ex) (i : Instr) : List (Nat × Trap) :=
  (lanesOf x.v).filterMap (fun t => (preciseLane s x i t).map fun q => (t, q)) ++
    if (lanesOf x.v).any fun t => (preciseLane s x i t).isSome then [] else overflowLanes s x i

/-- The precise traps of a word: those of R51 in every lane of the issue set, or those of R52. A word of a chained pair
has been tested before it acts (R444), and raises only the codes of TRAP and BKPT. -/
def preciseTraps (s : State) (x : Ex) (i : Instr) : List (Nat × Trap) :=
  if 2 ≤ s.latch.pair then
    (lanesOf x.v).filterMap fun t => ((ownPrecise s x i t).filter Trap.software).map fun q => (t, q)
  else
  match check51 i s.me x.pc with
  | some q => (lanesOf x.set).map fun t => (t, q)
  | none => ownTraps s x i

/-- The address that TRAP and BKPT give as the next word: after the pair, if they stand first in
one (R360, R444). -/
def nextAfter (s : State) (x : Ex) : DWord :=
  let n := nextPc x.pc x.lbit
  if s.latch.pair = 3 then nextPc n x.lbit else n

/-! ## One word -/

/-- The mask of the lanes of a list. -/
def maskOfList (ts : List (Nat × Trap)) : BitVec 32 := maskOf fun t => ts.any fun p => p.1 == t

/-- The word has been issued: the counter of choices goes on. -/
def State.tickFree (s : State) : State := { s with free := s.free + 1 }

/-- Issue a word: precise traps first; otherwise its region ends if it is one that ends it, lanes
with a deferred trap are masked, the issue set goes on, and the body acts for the rest of V. -/
def runWord (i : Instr) (deferred : State → Ex → Nat → Option Trap) (body : Ex → State → State)
    (s : State) : State :=
  let x := s.ex i.hdr
  match preciseTraps s x i with
  | p :: ps => (s.takePrecise s.cur x.pc (nextAfter s x) (p :: ps)).tickFree
  | [] =>
    let s1 := if endsRegion i && x.v != 0 then s.endRegion s.cur else s
    let ds := (lanesOf x.v).filterMap fun t => (deferred s1 x t).map fun q => (t, q)
    let m := maskOfList ds
    let s2 := s1.advance x m
    let x' := { x with v := x.v &&& ~~~m }
    let s3 := if x'.v = 0 then s2 else body x' s2
    (s3.deferTraps s.cur x.pc ds).tickFree

/-- No deferred trap. -/
def noTrap : State → Ex → Nat → Option Trap := fun _ _ _ => none

/-- A word that only acts on registers and raises nothing of its own. -/
def plainWord (i : Instr) (body : Ex → State → State) (s : State) : State := runWord i noTrap body s

/-- Raise one trap in every lane of V, for words that act once per issue (R150). -/
def allLanes (f : State → Ex → Option Trap) : State → Ex → Nat → Option Trap := fun s x _ => f s x

/-- A fault record for a page (R371, R446, R445). -/
def State.addFault (s : State) (bi : Nat) (va : DWord) (k : FaultKind) : State :=
  let b := s.band bi
  let f := s.fresh
  { f.2 with faults := f.2.faults ++
      [{ id := f.1, ctx := s.ctxOf b, band := bi, core := b.core, va := va, kind := k,
         placed := false }] }

/-- The word waits at its issue, for a page or for bytes that cannot be read yet: its region has ended, and it keeps
its issue set (R222, R227, R445). -/
def State.awaitPage (s : State) (x : Ex) (va : Option DWord) : State :=
  let s1 := s.endRegion s.cur
  let s2 := s1.setMe { s1.me with block := some .page, paged := some x.set }
  match va with
  | some a => s2.addFault s.cur a .issue
  | none => s2

/-- A word that reads operands in memory at its issue: a page that is not present makes the band wait at the word, and
a code that the fault service gives for it is a deferred trap of every lane of V (R445; log entry 84). `page` is what it
waits for: a page, or nothing that has an address. -/
def pagedWord (i : Instr) (page : State → Ex → Option (Option DWord))
    (deferred : State → Ex → Nat → Option Trap) (body : Ex → State → State) (s : State) : State :=
  let x := s.ex i.hdr
  if (preciseTraps s x i).isEmpty && x.v != 0 then
    match s.me.pageCode, page s x with
    | some c, _ => runWord i (fun _ x _ => some (syncTrap c.1 0 c.2 x.pc)) body s
    | none, some va => s.awaitPage x va
    | none, none => runWord i deferred body s
  else runWord i deferred body s

/-! ## Memory words -/

/-- A memory word: how each lane makes its access. -/
structure MemWord where
  sp : Space
  kind : AccKind
  n : Nat
  write : Bool
  rmw : Bool
  flag : Flag
  scope : Scope
  order : Order
  deriving DecidableEq, Repr

/-- The leaf entries of the pages that an access writes (R228). -/
def ptesOf (s : State) (b : Band) (t : Nat) (p : Place) (n : Nat) : List Nat :=
  let one (va : DWord) : List Nat :=
    match translate s.mem b.ptroot va with
    | .ok _ _ _ e => [e]
    | _ => []
  match p with
  | .global va => one va
  | .stack o => ((List.range ((n + 3) / 4)).map fun i => one (stackVa b t (o + 4 * i))).flatten
  | _ => []

/-- The bytes of the region store buffer for a load, issue order's latest first (R250). -/
def Band.heldByte (b : Band) : Loc → Option Byte
  | .mem a =>
    b.held.foldl (fun r h => match h.bytes.find? fun c => c.1 == a with
      | some c => some c.2
      | none => r) none
  | _ => none

/-- What the address checks find in each lane of a mask. -/
def reaches (s : State) (m : MemWord) (lanes : List (Nat × DWord)) : List (Nat × DWord × Reach) :=
  lanes.map fun p => (p.1, p.2, reach s s.me p.1 m.sp p.2 m.n m.write m.rmw)

/-- Some lane meets a page that is not present. -/
def anyAbsent (rs : List (Nat × DWord × Reach)) : Bool :=
  rs.any fun r => match r.2.2 with
    | .absent _ => true
    | _ => false

/-- The word aborts its region: the region is open, the band is not in handler mode, and a page is
not present (R371). -/
def aborts (s : State) (m : MemWord) (lanes : List (Nat × DWord)) : Bool :=
  s.me.rgnOpen && !s.me.handler && anyAbsent (reaches s m lanes)

/-- The deferred trap of a lane of a memory word (R218, R257); an abort leaves none (R373). -/
def memTrap (s : State) (x : Ex) (m : MemWord) (lanes : List (Nat × DWord)) (t : Nat) :
    Option Trap :=
  if aborts s m lanes then none
  else
    match lanes.find? fun p => p.1 == t with
    | some (_, va) =>
      match reach s s.me t m.sp va m.n m.write m.rmw with
      | .trap c => some (syncTrap c 0 va x.pc)
      | _ => none
    | none => none

/-- The part of a lane's access. -/
def mkPart (s : State) (m : MemWord) (t : Nat) (va : DWord) (l : List Loc) (absent : Bool)
    (data cmp : List Byte) : Part :=
  let b := s.me
  { lane := t, va := va, locs := l,
    ptes := if m.write then ptesOf s b t (resolve s b m.sp va) m.n else [], data := data, cmp := cmp,
    held := if m.kind.isLoad then l.map b.heldByte else [], done := false, absent := absent }

/-- Hold the parts of a plain store that lie in global memory while a region is open (R250). -/
def holdPart (s : State) (x : Ex) (m : MemWord) (p : Part) : Option HeldStore :=
  if decide (m.kind = .store) && s.me.rgnOpen && !p.absent && (resolve s s.me m.sp p.va).holdable then
    some { id := s.nextId, lane := p.lane, word := x.pc, sp := m.sp, va := p.va, ptes := p.ptes,
           bytes := (p.locs.zip p.data).filterMap fun q => match q.1 with
             | .mem a => some (a, q.2)
             | _ => none }
  else none

/-- A place behind the grove window (R394). -/
def Place.isGrove : Place → Bool
  | .grove _ => true
  | _ => false

/-- A word of the band uses a place: through the grove window it makes its crew a gang (R394). -/
def State.touchPlace (s : State) (p : Place) : State := if p.isGrove then s.setMe { s.me with gang := true } else s

/-- Issue the accesses of a memory word (R99, R250, R258 to R260, R371): lanes with their addresses,
store data and compare values. Parts that a region holds are performed for the band at once, and their flag waits for the
destinations of earlier words alone (R260). -/
def memIssue (x : Ex) (m : MemWord) (pipe : Pipe) (lanes : List (Nat × DWord))
    (data cmp : Nat → List Byte) (s : State) : State :=
  let b := s.me
  let rs := reaches s m lanes
  let ab := aborts s m lanes
  let parts := rs.filterMap fun r => match r.2.2 with
    | .locs l => some (mkPart s m r.1 r.2.1 l false (data r.1) (cmp r.1))
    | .absent _ => if ab then none else some (mkPart s m r.1 r.2.1 [] true (data r.1) (cmp r.1))
    | .trap _ => none
  let held := parts.filterMap (holdPart s x m)
  let rest := parts.filter fun p => (holdPart s x m p).isNone
  let f := s.fresh
  let mask := match m.kind with
    | .uload .. => 1
    | _ => maskOf fun t => rest.any fun p => p.lane == t
  let b' := { b with held := b.held ++ held,
                     gang := b.gang || lanes.any fun p => (resolve s b m.sp p.2).isGrove }
  let fl : Flag := if ab then 15 else m.flag
  let a : Access :=
    { id := f.1, band := s.cur, word := x.pc, kind := m.kind, sp := m.sp, flag := fl, scope := m.scope,
      order := m.order, parts := rest, after := [],
      also := match m.kind with
        | .uload .. => x.v
        | _ => 0 }
  let before := s.loadsBefore s.cur f.1
  let s1 :=
    if rest.isEmpty then
      if held.isEmpty || fl == 15 || before.isEmpty then s.setMe b'
      else { f.2.setMe (b'.setBusy fl pipe) with late := f.2.late ++ [⟨s.cur, f.1, fl, before, false, 0⟩] }
    else { f.2.setMe ((b'.setBusy fl pipe).fly f.1 pipe mask m.kind.dests) with
      accesses := f.2.accesses ++ [a] }
  let faulting := rs.filterMap fun r => match r.2.2 with
    | .absent va => some (r.1, va)
    | _ => none
  match faulting with
  | [] => s1
  | (_, va) :: _ =>
    -- the lanes that hit write their destinations before the abort (R259)
    if ab then (s1.performLoads s.cur s1.accesses.length).abortRegion s.cur (match m.kind with
      | .uload .. => (lanesOf x.v).map fun t => (t, va)
      | _ => faulting) x.pc va
    else s1.addFault s.cur va (.access f.1)

/-- A word whose lanes each make one access. -/
def memWord (i : Instr) (m : MemWord) (addr : State → Ex → Nat → DWord)
    (data cmp : State → Ex → Nat → List Byte) (s : State) : State :=
  let lanes (s : State) (x : Ex) := (lanesOf x.v).map fun t => (t, addr s x t)
  runWord i (fun s x t => memTrap s x m (lanes s x) t)
    (fun x s => memIssue x m .memory (lanes s x) (data s x) (cmp s x) s) s

/-- No bytes: the operands of a load. -/
def noBytes : State → Ex → Nat → List Byte := fun _ _ _ => []

end Sys2Proof.Machine
end

