-- ==== Sys2Proof/Machine/Crews.lean ====
section
/-!
DEFINITION. What lanes of one crew do together: waits that end with a trap, convergence registers
(R199 to R203), barriers of crews and groups (R162 to R164), waits on barrier objects (R271), the
trap return (R366), stops of a quarter (R403), and the end of a crew (R90, R139, R145, R193).
`State.observe` carries out everything of this kind that is due.
-/

namespace Sys2Proof.Machine

/-! ## Order -/

/-- The accesses and matrix transfers of these lanes of a band that are still to be performed. -/
def State.unperformed (s : State) (bi : Nat) (lanes : BitVec 32) : List Nat :=
  (s.accesses.filter fun a => a.band == bi && a.parts.any fun p => !p.done && bit lanes p.lane).map
    (·.id) ++ (s.transfers bi lanes).map (·.id)

/-- No earlier access of these lanes of a band is still to be performed: accesses have ascending
identifiers (R247, R251, R273). -/
def State.clear (s : State) (bi : Nat) (lanes : BitVec 32) (id : Nat) : Bool :=
  (s.unperformed bi lanes).all fun x => decide (id ≤ x)

/-- The earlier accesses of these lanes of a band are performed, oldest first, as far as they can be. -/
def State.settleLanes (s : State) (bi : Nat) (lanes : BitVec 32) : State :=
  (s.accesses.filter fun a => a.band == bi && a.parts.any fun p => !p.done && bit lanes p.lane).foldl
    (fun s a => s.perform a.id) s

/-! ## Work that runs -/

/-- The queue of a launch is mapped; sprouts go on while any queue of the context is, and grains of a repair pass
that have been delivered run to their end while it stops (R284, R385, R386). -/
def State.queueRuns (s : State) (l : Launch) : Bool :=
  let st (p : QState → Bool) : Bool := ((s.queue l.queue).map fun x => p x.st).getD false
  match l.origin with
  | .sprout _ => s.queues.any fun x => x.ctx == l.ctx && decide (x.st = .mapped)
  | .repair _ => st fun x => decide (x = .mapped) || decide (x = .stopping)
  | _ => st fun x => decide (x = .mapped)

/-- The work of a launch goes on: its context is neither stopped nor halted, and its queue runs (R379, R386, R438). -/
def State.workRuns (s : State) (l : Launch) : Bool :=
  match s.ctx l.ctx with
  | none => false
  | some c => c.stoppedBy.isNone && !c.halted && s.queueRuns l

/-- The crew is saved: what it does stands still until its restore (R386, R392). -/
def State.crewSaved (s : State) (ci : Nat) : Bool := s.queues.any fun q => q.saved.any fun x => x.crew == ci

/-- The die of a core is parked, so that nothing runs on it (R440). -/
def State.dieParked (s : State) (core : Nat) : Bool := (s.die (core / 256)).parked

/-- The units that work for a band go on; those of a stopped quarter stop at their boundaries, and those of a saved
crew or of a parked die stand still (R386, R392, R406, R440). -/
def State.unitRuns (s : State) (bi : Nat) : Bool :=
  let b := s.band bi
  match s.launchOf b with
  | some l => s.workRuns l && !s.crewSaved b.crew && !s.dieParked b.core && (b.ended || !(s.quarterOf b).stopped)
  | none => true

/-- The matrix sequencer and the draw unit go on with a command: those of a queue in state 3 stand at a boundary, and
are re-entered at the restore (R386). -/
def State.seqRuns (s : State) (q : SeqCmd) : Bool :=
  match s.launchOf (s.band q.band) with
  | some l => s.queueRuns l
  | none => true

/-! ## Waits that end with a trap -/

/-- A waiting lane resumes with a trap of its word, which it takes before it issues again (R361). -/
def Band.resumeTrap (b : Band) (t : Nat) (code : Byte) (info : Nat) (addr : DWord) : Band :=
  let l := b.lane t
  b.setLane t { l with st := .eligible, released := false, returned := false,
                       reports := l.reports ++ [syncTrap code info addr l.pc] }

/-- The live lanes of a band that satisfy a predicate of their state. -/
def Band.lanesIn (b : Band) (p : LaneSt → Bool) : BitVec 32 :=
  maskOf fun t => (b.lane t).live && p (b.lane t).st

/-- Change every band of a crew. -/
def State.mapCrew (s : State) (ci : Nat) (f : Nat → Band → Band) : State :=
  match s.crew ci with
  | some c => c.bands.foldl (fun s bi => s.setBand bi (f bi (s.band bi))) s
  | none => s

/-- The band of a crew with a number, among its bands. -/
def State.crewBand (s : State) (c : Crew) (n : Nat) : Option Nat :=
  c.bands.find? fun bi => (s.band bi).num == n

/-! ## Convergence registers -/

def Core.conv (c : Core) (k : Nat) : Conv := c.convs.toArray.getD k .blank
def Core.setConv (c : Core) (k : Nat) (x : Conv) : Core := { c with convs := c.convs.setIfInBounds k x }

/-- The crew that holds a slot and what is tied to it (R182). -/
def Core.owner (c : Core) (n : Nat) : Option Nat := c.owners.toArray.getD n none

/-- Lanes waiting to sign kK, or for the check of their MMA, resume with code 0x10 (R193, R200). -/
def State.failSigners (s : State) (ci k info : Nat) : State :=
  s.mapCrew ci fun _ b =>
    (lanesOf (b.lanesIn fun st => match st with
      | .waiting (.mma j) => j.toNat == k
      | _ => false)).foldl (fun b t => b.resumeTrap t 0x10 info 0) b

/-- SUB of an MMA (R65). -/
def mmaSub (ta tb : Bool) : Nat := 0x14 + (if ta then 2 else 0) + (if tb then 1 else 0)

/-- SUB of the MMAs that signed a register, for INFO of code 0x10 (R355). -/
def Conv.sub (x : Conv) : Nat :=
  match x.sig with
  | some g => mmaSub g.ta g.tb
  | none => 0x14

/-- Break(k): the register is BROKEN and its signers resume with code 0x10 (R200). -/
def State.breakConv (s : State) (core k : Nat) : State :=
  let c := s.core core
  let x := c.conv k
  let s := s.setCore (c.setConv k { x with st := .broken, signed := [], sig := none })
  match c.owner k with
  | some ci => s.failSigners ci k x.sub
  | none => s

/-- A lane exits: it breaks every armed register that declares it and that it has not signed in this
round (R203). A lane whose MMA waits for its check has signed. -/
def State.exitConvs (s : State) (bi t : Nat) : State :=
  let b := s.band bi
  (List.range 16).foldl (fun s k =>
    let c := s.core b.core
    let x := c.conv k
    if x.st = .armed ∧ c.owner k = some b.crew ∧ (b.num, t) ∈ x.declared ∧ (b.num, t) ∉ x.signed then
      s.breakConv b.core k
    else s) s

/-! ## Barriers -/

/-- The band takes part in barriers: it has a live lane (R162). -/
def Band.inBarrier (b : Band) : Bool := !b.ended

/-- The lane waits at the barrier of a group (R163, R164). -/
def LaneSt.atGroup (st : LaneSt) (g : Nat) : Bool :=
  match st with
  | .waiting (.groupBar x) => x == g
  | .waiting (.bcast x _ _ _) => x == g
  | _ => false

/-- The band has arrived: every live lane waits there, and its releases have been performed. -/
def State.arrived (s : State) (bi : Nat) (p : LaneSt → Bool) : Bool :=
  let b := s.band bi
  (List.range 32).all (fun t => !(b.lane t).live || p (b.lane t).st) &&
    (s.unperformed bi (BitVec.allOnes 32)).isEmpty

/-- The bands of a crew that take part. -/
def State.taking (s : State) (ci : Nat) : List Nat :=
  match s.crew ci with
  | some c => if c.running then c.bands.filter fun bi => (s.band bi).inBarrier else []
  | none => []

/-- The crew barrier releases once every band that takes part has arrived (R162). -/
def State.crewBarrier (s : State) (ci : Nat) : State :=
  let at_ (st : LaneSt) : Bool := decide (st = .waiting .crewBar)
  let bs := s.taking ci
  if !bs.isEmpty && bs.all fun bi => s.arrived bi at_ then
    let s := bs.foldl (fun s bi => s.setBand bi ((s.band bi).wake ((s.band bi).lanesIn at_))) s
    match s.crew ci with
    | some c => s.setCrew ci { c with barGen := c.barGen + 1 }
    | none => s
  else s

/-- A crew that is a member of a group by number (R148). -/
def State.memberCrew (s : State) (li n : Nat) : Option Nat :=
  (List.range s.crews.length).find? fun ci =>
    match s.crew ci with
    | some c => c.launch == li && c.num == n && c.running
    | none => false

/-- The value that a broadcast delivers to lanes that named this root: g[A] of the lowest live lane of
the lowest band of the root crew that arrived by BCAST with that root (R164). -/
def State.bcastValue (s : State) (li g root : Nat) (members : List Nat) : Word :=
  if members.contains root then
    match s.memberCrew li root with
    | some ci =>
      let vals := (s.taking ci).map fun bi =>
        let b := s.band bi
        (List.range 32).filterMap fun t =>
          match (b.lane t).st with
          | .waiting (.bcast x r _ v) => if (b.lane t).live && x == g && r == root then some v else none
          | _ => none
      vals.flatten.headD 0
    | none => 0
  else 0

/-- Release the lanes of one band from a group barrier: those that arrived by BCAST receive their
value 4 cycles later (R151, R164). -/
def State.groupWake (s : State) (bi g : Nat) (val : Nat → Word) : State :=
  let b := s.band bi
  let m := b.lanesIn (·.atGroup g)
  let b' := (lanesOf m).foldl (fun b t =>
    match (b.lane t).st with
    | .waiting (.bcast _ root d _) =>
      b.writeLanes (s.cycle + 4) s.free (laneMask t) (.g d) fun _ => (val root).setWidth 64
    | _ => b) b
  s.setBand bi (b'.wake m)

/-- The destinations of a band's lanes that wait in BCAST. -/
def Band.bcastDests (b : Band) : List RegName :=
  ((List.range 32).map fun t => match (b.lane t).st with
    | .waiting (.bcast _ _ d _) => [.g d]
    | _ => []).flatten

/-- The barrier of a group releases once every member crew has arrived (R163): an acquire at device
scope, so the cores' L1 lines go. A granule that a BCAST writes is filled first (R393). -/
def State.groupBarrier (s : State) (li : Nat) (grp : Group) : State :=
  let bs := (grp.members.filterMap (s.memberCrew li)).map s.taking
  let bs := bs.flatten
  -- a killed member arrives with the crew that takes its place (R378)
  let due := s.crews.any fun c => c.killed && c.launch == li && grp.members.contains c.num
  if !due && !bs.isEmpty && bs.all fun bi => s.arrived bi (·.atGroup grp.index) &&
      ((s.band bi).absentIn (s.band bi).bcastDests).isEmpty then
    let val (root : Nat) : Word := s.bcastValue li grp.index root grp.members
    let vals := grp.members.map fun r => (r, val r)
    let s' := bs.foldl (fun s bi =>
      (s.groupWake bi grp.index fun r => ((vals.find? (·.1 == r)).map (·.2)).getD 0).dropL1
        (s.band bi).core) s
    match s'.launch li with
    | some l => s'.setLaunch li { l with groups := l.groups.map fun x =>
        if x.index == grp.index then { x with gen := x.gen + 1 } else x }
    | none => s'
  else s

/-- Every barrier of groups of a launch. -/
def State.groupBarriers (s : State) (li : Nat) : State :=
  match s.launch li with
  | some l => if l.ended then s else l.groups.foldl (fun s g => s.groupBarrier li g) s
  | none => s

/-! ## Barrier objects -/

/-- The object at a scratchpad byte: BRK, GEN, EXP and PEND (R269). -/
def State.object (s : State) (a : Nat) : Nat := s.scr.readLE a 8
def objBrk (o : Nat) : Bool := bits o 63 1 == 1
def objGen (o : Nat) : Nat := bits o 32 16
def objExp (o : Nat) : Nat := bits o 16 16
def objPend (o : Nat) : Nat := bits o 0 16

/-- Write an object; its words are no longer checked for races (R402). -/
def State.putObject (s : State) (a o : Nat) : State :=
  let s := { s with scr := s.scr.writeLE a 8 o }
  let c := s.core (a / 2 ^ 18)
  if c.shadow.isEmpty then s
  else
    let w := a % 2 ^ 18 / 4
    s.setCore { c with shadow := c.shadow.filter fun e => e.1 != w && e.1 != w + 1 }

/-- One arrival (R271). -/
def objArrive (o : Nat) : Nat :=
  let pend := (objPend o + 2 ^ 16 - 1) % 2 ^ 16
  if pend = 0 then o - objGen o * 2 ^ 32 + (objGen o + 1) % 2 ^ 16 * 2 ^ 32 - objPend o + objExp o
  else o - objPend o + pend

/-- An engine command arrives at an object as a lane would, or breaks it (R272). -/
def State.engineArrive (s : State) (a : Nat) (ok : Bool) : State :=
  let o := s.object a
  if !ok then s.putObject a (if objBrk o then o else o + 2 ^ 63)
  else if objBrk o then s
  else s.putObject a (objArrive o)

/-- The arrivals at an object are as good as their releases (R273). -/
def State.objReleased (s : State) (a : Nat) : Bool :=
  s.arrivals.all fun x => x.1 != a || s.performed x.2

/-- A lane that waits in BOWAIT resumes with code 0x0F: its word raised the trap, so that in handler mode it escalates
(R271, R379). -/
def State.failWaiter (s : State) (bi t : Nat) (va : Word) : State :=
  let b := s.band bi
  let l := b.lane t
  if b.handler && bit b.trapLane t then s.deferTraps bi l.pc [(t, syncTrap 0x0F 0 (va.setWidth 64) l.pc)]
  else s.setBand bi (b.resumeTrap t 0x0F 0 (va.setWidth 64))

/-- A lane that waits on an object goes on, or traps on a broken one (R271). The end of the wait is an acquire, and
the join of the engine commands that have arrived (R251, R273). -/
def State.objectWake (s : State) (bi t : Nat) : State :=
  let b := s.band bi
  match (b.lane t).st with
  | .waiting (.bowait a va tok) =>
    let o := s.object a
    if objBrk o then s.failWaiter bi t va
    else if objGen o != tok.toNat && s.objReleased a then
      (s.setBand bi (b.wake (laneMask t))).dropL1 b.core
    else s
  | _ => s

/-- Every lane of a band that waits on an object. -/
def State.objectWakes (s : State) (bi : Nat) : State := (List.range 32).foldl (fun s t => s.objectWake bi t) s

/-- The wait of a FENCE has ended: its acquire part drops the lines that the core has read meanwhile (R248, R267). -/
def State.fenceEnd (s : State) (bi : Nat) : State :=
  let b := s.band bi
  match b.block with
  | some (.fence ids drop) =>
    if s.performed ids then
      let s := s.setBand bi { b with block := none }
      if drop then s.dropL1 b.core else s
    else s
  | _ => s

/-! ## Stops -/

/-- The bands of a quarter that have not ended. -/
def State.residents (s : State) (core q : Nat) : List Nat :=
  (List.range s.bands.length).filter fun bi =>
    (s.band bi).core == core && (s.band bi).quarter == q && !(s.band bi).ended &&
      ((s.crew (s.band bi).crew).map (·.running)).getD false

/-- A band that is to be stopped takes its pending traps (R363). One that is parked after an abort takes reports once
its replay has begun (R373), and one whose word waits for a page once the word is done (R445). -/
def State.takePending (s : State) (bi : Nat) : State :=
  let b := s.band bi
  if b.stopped || b.paged.isSome || decide (b.block = some .parked) then s
  else
    let b := b.takeReports
    if b.trapPending then (s.setBand bi b).enterHandler bi else s

/-- Stop a quarter: its bands take their pending traps (R363) and issue no more (R403). -/
def State.stopQuarter (s : State) (core q : Nat) : State :=
  let s := (s.residents core q).foldl State.takePending s
  let x := (s.core core).quarters.toArray.getD q .blank
  if x.stopped then s
  else s.setQuarter core q { x with stopped := true, drained := false, stepping := false, stopCode := 0,
                                    stopCycle := s.stopClock core x }

/-! ## The end of a crew -/

/-- An operation of the band is outstanding (R90). -/
def State.outstanding (s : State) (bi : Nat) : Bool :=
  let b := s.band bi
  s.accesses.any (·.band == bi) || s.late.any (·.band == bi) || s.sfus.any (·.band == bi) ||
    s.reqs.any (fun r => r.band == bi && r.flag != 15) ||
    s.tlbs.any (·.band == bi) || s.watchOps.any (·.band == bi) ||
    s.engines.any (fun e => e.node.isNone && e.issuer.band == bi) ||
    s.links.any (·.issuer.band == bi) || s.nodes.any (fun n => (n.flag.map (·.1)) == some bi) ||
    (s.core b.core).seq.any (·.band == bi)

/-- Granules that a band occupies in the register file (R140, R142). -/
def Band.occupies (b : Band) : Nat := if b.spilled then 0 else b.gran

/-- Release what a crew holds in the matrix unit: RELS of its slots enters the sequencer (R193). -/
def State.releaseMatrix (s : State) (ci : Nat) : State :=
  match s.crew ci with
  | none => s
  | some c =>
    let k := s.core c.core
    let m := BitVec.ofNat 16 ((List.range 16).foldl (fun a n =>
      if k.owner n = some ci then a + 2 ^ n else a) 0)
    let k := { k with claimQ := k.claimQ.filter fun bi => (s.band bi).crew != ci,
                      growQ := k.growQ.filter fun bi => (s.band bi).crew != ci }
    if m = 0 then s.setCore k
    else
      let f := s.fresh
      f.2.setCore { k with seq := k.seq ++ [{ id := f.1, crew := ci, band := 0, lanes := 0, word := 0,
                                               flag := 15, op := .rels m }] }

/-- The rest of a crew's range goes to its die's distributor (R145). -/
def State.returnRange (s : State) (ci : Nat) : State :=
  match s.crew ci with
  | some c =>
    match c.range, s.launch c.launch with
    | some r, some l =>
      if r.cur < r.hi then
        (s.setLaunch c.launch { l with spill := l.spill ++
          [(c.core / 256, { launch := c.launch, crew := ci, range := r, after := [] })] }).setCrew ci
            { c with range := none }
      else s
    | _, _ => s
  | none => s

/-- A sprout ends: it is no longer outstanding, and a watch that was removed goes with its last one
(R279, R283). -/
def State.sproutEnds (s : State) (ctx handle : Nat) : State :=
  let ws : List Watch := s.watches.map fun y =>
    if y.handle == handle && y.ctx == ctx then { y with out := y.out - 1 } else y
  { s with watches := ws.filter fun y => !(y.removed && y.out == 0) }

/-- The part reaches bytes of a stretch of scratchpads. -/
def Part.within (p : Part) (lo n : Nat) : Bool := p.locs.any fun l => match l with
  | .scr a => decide (lo ≤ a) && decide (a < lo + n)
  | _ => false

/-- Accesses of other crews to the scratchpad of one that ends, is killed or is saved are performed before it goes, or trap
with code 0x09 (R216). -/
def State.leaveGrove (s : State) (c : Crew) (ci : Nat) : State :=
  let mine (p : Part) : Bool := p.within (c.core * 2 ^ 18 + c.scrOff) c.scrLen
  let ids := (s.accesses.filter fun a => (s.band a.band).crew != ci && a.parts.any fun p => !p.done && mine p).map (·.id)
  (ids.foldl (fun (s : State) id => s.perform id) s |> ids.foldl fun s id => s.failParts id mine 0x09)

/-- A crew has ended: its resources return to the core (R139). -/
def State.endCrew (s : State) (ci : Nat) : State :=
  match s.crew ci with
  | none => s
  | some c =>
    let s := s.leaveGrove c ci
    let k := s.core c.core
    let g := (c.bands.map fun bi => (s.band bi).occupies).sum
    let s := s.setCore { k with free := k.free + g }
    let s := (s.setCrew ci { c with running := false }).returnRange ci
    let s := s.releaseMatrix ci
    match c.kind, s.launch c.launch with
    | .sprout h, some l => s.sproutEnds l.ctx h
    | _, _ => s

/-- The crew runs and every band of it has ended, with nothing outstanding (R90, R139). -/
def State.crewOver (s : State) (ci : Nat) : Bool :=
  match s.crew ci with
  | some c => c.running && c.bands.all fun bi => (s.band bi).ended && !s.outstanding bi
  | none => false

/-! ## Granules -/

/-- Registers g(8 lo) to g(8 hi − 1) become 0 in every lane (R141). -/
def Band.zeroGranules (b : Band) (lo hi : Nat) : Band :=
  b.mapLanes (BitVec.allOnes 32) fun _ l =>
    { l with g := l.g.mapFinIdx fun i v _ => if 8 * lo ≤ i ∧ i < 8 * hi then 0 else v }

/-- Grant the oldest GROW of a core if the free granules suffice (R141); a spilled band receives its
old granules too, which stay absent (R142). -/
def State.growGrant (s : State) (core : Nat) : State :=
  let c := s.core core
  match c.growQ with
  | [] => s
  | bi :: r =>
    let b := s.band bi
    match b.block with
    | some (.grow n _ _) =>
      let need := n - b.occupies
      if need ≤ c.free then
        (s.setCore { c with free := c.free - need, growQ := r }).setBand bi
          { b.zeroGranules b.gran n with gran := n, block := none, spilled := false }
      else s
    | _ => s.setCore { c with growQ := r }

/-- Grant every GROW that can be granted, oldest first. -/
def State.growGrants (s : State) (core : Nat) : State :=
  (s.core core).growQ.foldl (fun s _ => s.growGrant core) s

/-! ## What is due -/

/-- Matrix commands that no memory or draw unit delays: ACCZ and RELS take effect at their turn. -/
def SeqOp.prompt : SeqOp → Bool
  | .accz _ | .rels _ => true
  | _ => false

/-- TRET: every live lane of TRAPLANE waits at one (R366). -/
def State.trets (s : State) (bi : Nat) : State :=
  if (s.band bi).allAtTret then s.returnTrap bi else s

/-- Arrivals whose releases have been performed need no more care. -/
def State.pruneArrivals (s : State) : State :=
  if s.arrivals.isEmpty then s
  else { s with arrivals := s.arrivals.filter fun x => !s.performed x.2 }

/-- A word that waits at its issue for bytes under refresh, behind a write that lacks sectors, or for earlier accesses of
its lanes, is tried again once no bank is refreshed, no write lacks sectors and no such access is left (R222, R227,
R251). -/
def State.operandWake (s : State) (bi : Nat) : State :=
  let b := s.band bi
  let idle := s.dies.toList.all fun d => !d.refBusy && d.blocks.isEmpty
  if decide (b.block = some .page) && b.paged.isSome && idle &&
      (s.unperformed bi (b.paged.getD 0)).isEmpty &&
      !s.faults.any fun f => f.band == bi && decide (f.kind = .issue) then s.setBand bi { b with block := none }
  else s

/-- Everything that happens as soon as its condition holds. -/
def State.observeCrews (s : State) : State :=
  let s := s.pruneArrivals
  let live := (List.range s.bands.length).filter fun bi => !(s.band bi).ended && !s.crewSaved (s.band bi).crew
  let s := live.foldl (fun s bi => (((s.trets bi).fenceEnd bi).operandWake bi).objectWakes bi) s
  let crews := (List.range s.crews.length).filter fun ci => ((s.crew ci).map (·.running)).getD false
  let s := crews.foldl State.crewBarrier s
  let s := (List.range s.launches.length).foldl State.groupBarriers s
  let s := crews.foldl (fun s ci => if s.crewOver ci then s.endCrew ci else s) s
  (s.cores.map (·.id)).foldl State.growGrants s

end Sys2Proof.Machine
end

