-- ==== Sys2Proof/Machine/Memory.lean ====
section
/-!
DEFINITION. Memory words: the basic loads and stores of major 0x1D (R96 to R99), the forms that name
a space (R256), the ordered and atomic forms of major 0x3A (R261 to R265), FENCE (R266, R267) and
cache control (R268).
-/

namespace Sys2Proof.Machine

/-! ## Loads and stores -/

/-- How a plain load of a space acts in each lane (R96, R256). -/
def loadWord (sp : Space) (d : Reg) (sb : Flag) (sz : Size) : MemWord :=
  { sp := sp, kind := .load d sz, n := sz.bytes, write := false, rmw := false, flag := sb,
    scope := .band, order := .relaxed }

/-- How a plain store acts in each lane (R97, R256). -/
def storeWord (sp : Space) (sb : Flag) (sz : Size) : MemWord :=
  { sp := sp, kind := .store, n := sz.bytes, write := true, rmw := false, flag := sb, scope := .band,
    order := .relaxed }

/-- The bytes of a register operand in a lane, as many as the access has. -/
def dataOf (d : Reg) (regs n : Nat) : State → Ex → Nat → List Byte :=
  fun s x t => (s.me.rgBytes x t d regs).take n

def execLd (h : Hdr) (d a : Reg) (sb : Flag) (sz : Size) (off : Word) (s : State) :
    Host.Outcome State Fault Refusal :=
  .next (memWord (.ld h d a sb sz off) (loadWord .gen d sb sz)
    (fun s x t => s.me.addr x t .gen a off) noBytes noBytes s)

def execSt (h : Hdr) (d a : Reg) (sb : Flag) (sz : Size) (off : Word) (s : State) :
    Host.Outcome State Fault Refusal :=
  .next (memWord (.st h d a sb sz off) (storeWord .gen sb sz)
    (fun s x t => s.me.addr x t .gen a off) (dataOf d sz.regs sz.bytes) noBytes s)

def execLdSpace (h : Hdr) (d a : Reg) (sb : Flag) (sp : Space) (sz : Size) (off : Word) (s : State) :
    Host.Outcome State Fault Refusal :=
  .next (memWord (.ldSpace h d a sb sp sz off) (loadWord sp d sb sz)
    (fun s x t => s.me.addr x t sp a off) noBytes noBytes s)

def execStSpace (h : Hdr) (d a : Reg) (sb : Flag) (sp : Space) (sz : Size) (off : Word) (s : State) :
    Host.Outcome State Fault Refusal :=
  .next (memWord (.stSpace h d a sb sp sz off) (storeWord sp sb sz)
    (fun s x t => s.me.addr x t sp a off) (dataOf d sz.regs sz.bytes) noBytes s)

/-! ## Atomic words -/

/-- The access of a word of major 0x3A: its control literal gives space, scope, order and flag. -/
def ctlWord (c : Ctl) (kind : AccKind) (ty : AType) (write rmw : Bool) : MemWord :=
  { sp := c.sp, kind := kind, n := ty.bytes, write := write, rmw := rmw, flag := c.sb,
    scope := c.scope, order := c.order }

/-- One read-modify-write in each lane (R262). -/
def execAtom (h : Hdr) (d a b : Reg) (op : AOp) (ty : AType) (c : Ctl) (s : State) :
    Host.Outcome State Fault Refusal :=
  .next (memWord (.atom h d a b op ty c) (ctlWord c (.atom d op ty) ty true true)
    (fun s x t => s.me.addr x t c.sp a 0) (dataOf b ty.regs ty.bytes) noBytes s)

/-- Compare and swap: D holds the compare value, B the new one (R263). -/
def execCas (h : Hdr) (d a b : Reg) (ty : AType) (c : Ctl) (s : State) :
    Host.Outcome State Fault Refusal :=
  .next (memWord (.cas h d a b ty c) (ctlWord c (.cas d ty) ty true true)
    (fun s x t => s.me.addr x t c.sp a 0) (dataOf b ty.regs ty.bytes) (dataOf d ty.regs ty.bytes) s)

def execLdAtomic (h : Hdr) (d a : Reg) (ty : AType) (c : Ctl) (s : State) :
    Host.Outcome State Fault Refusal :=
  .next (memWord (.ldAtomic h d a ty c) (ctlWord c (.loadOrd d ty) ty false false)
    (fun s x t => s.me.addr x t c.sp a 0) noBytes noBytes s)

def execStAtomic (h : Hdr) (a b : Reg) (ty : AType) (c : Ctl) (s : State) :
    Host.Outcome State Fault Refusal :=
  .next (memWord (.stAtomic h a b ty c) (ctlWord c .storeOrd ty true true)
    (fun s x t => s.me.addr x t c.sp a 0) (dataOf b ty.regs ty.bytes) noBytes s)

/-! ## FENCE -/

/-- A scope of grove or wider, which reaches beyond the core's L1 (R236, R267). -/
def Scope.wide : Scope → Bool
  | .band | .crew => false
  | _ => true

/-- The order of an access that a later fence of its lane follows: later accesses of the lane are
performed after it (R240, R247). -/
def Order.fenced : Order → Order
  | .relaxed => .acquire
  | .release => .acqRel
  | o => o

/-- Earlier accesses of these lanes that read come before every later access of the lane. One that is performed after
a seq_cst fence of a wide scope drops the lines that the core has read since, as the fence would (R245, R248). -/
def State.fenceReads (s : State) (bi : Nat) (v : BitVec 32) (scope : Scope) (order : Order) : State :=
  { s with accesses := s.accesses.map fun a =>
      if a.band == bi && a.parts.any (fun p => !p.done && bit v p.lane) then
        { a with order := Order.fenced a.order
                 scope := if decide (order = .seqCst) && Scope.wide scope && !Scope.wide a.scope then scope else a.scope }
      else a }

/-- A matrix command that stores to memory (R191). -/
def SeqOp.stores : SeqOp → Bool
  | .stt .. | .accst .. | .mxsave .. => true
  | _ => false

/-- The stores and read-modify-writes of these lanes that are still to be performed (R267). -/
def State.writesPending (s : State) (bi : Nat) (v : BitVec 32) : List Nat :=
  (s.accesses.filter fun a => a.band == bi && !a.kind.isLoad &&
    a.parts.any fun p => !p.done && bit v p.lane).map (·.id) ++
    ((s.transfers bi v).filter fun c => c.op.stores).map (·.id)

/-- FENCE: the release part waits for earlier writes, the acquire part drops the L1, once more at the end of a wait
(R248, R267). -/
def State.fence (s : State) (bi : Nat) (v : BitVec 32) (scope : Scope) (order : Order) : State :=
  let ids := if Order.releases order then s.writesPending bi v else []
  let drop := Order.acquires order && Scope.wide scope
  let s := s.fenceReads bi v scope order
  let s := if drop then s.dropL1 (s.band bi).core else s
  if ids.isEmpty then s else s.setBand bi { s.band bi with block := some (.fence ids drop) }

def execFence (h : Hdr) (scope : Scope) (order : Order) (s : State) :
    Host.Outcome State Fault Refusal :=
  .next (plainWord (.fence h scope order) (fun x s => s.fence s.cur x.v scope order) s)

/-! ## Cache control -/

/-- A non-canonical address of SHED: code 0x0A (R268). -/
def shedTrap (a : Reg) (s : State) (x : Ex) (t : Nat) : Option Trap :=
  let va := s.me.rg2 x t a
  if canonical va then none else some (syncTrap 0x0A 0 va x.pc)

/-- The cached lines behind a 128-byte line of addresses of a lane (R214, R268). -/
def cachedLines (s : State) (b : Band) (t : Nat) (va : DWord) : List (Bool × Nat) :=
  let glob (va : DWord) : List (Bool × Nat) :=
    match translate s.mem b.ptroot va with
    | .ok pa _ _ _ => [(false, pa / 128 * 128)]
    | _ => []
  if !canonical va then []
  else
    match resolveGeneric s b va with
    | .global va => glob va
    | .stack o => ((List.range 32).map fun i => glob (stackVa b t (o + 4 * i))).flatten
    | .ws o =>
      let base := ((s.ctx (s.ctxOf b)).map (·.wsBase)).getD 0
      [(true, (b.core / 256 * 2 ^ 28 + base + o) / 128 * 128)]
    | _ => []

/-- The addresses of the 128-byte lines of a range. -/
def rangeLines (va : DWord) (len : Nat) : List DWord :=
  if len = 0 then []
  else
    let lo := va.toNat / 128
    (List.range ((va.toNat + len - 1) / 128 - lo + 1)).map fun i => BitVec.ofNat 64 ((lo + i) * 128)

/-- Drop the lines of a range from the core's L1 in each lane of V (R268). -/
def State.shedRange (s : State) (x : Ex) (a b : Reg) : State :=
  let B := s.me
  if (s.core B.core).l1.isEmpty then s
  else
    ((lanesOf x.v).map fun t => ((rangeLines (B.rg2 x t a) (B.rg x t b).toNat).map
      (cachedLines s B t)).flatten).flatten.foldl (fun s p => s.dropLine B.core p.1 p.2) s

def execShedDropL1 (h : Hdr) (a b : Reg) (s : State) : Host.Outcome State Fault Refusal :=
  .next (runWord (.shedDropL1 h a b) (shedTrap a) (fun x s => s.shedRange x a b) s)

/-- A clean writes modified lines of the grove cache to memory; the model's memory holds them already
(R223, R268). -/
def execShedCleanGrove (h : Hdr) (a b : Reg) (s : State) : Host.Outcome State Fault Refusal :=
  .next (runWord (.shedCleanGrove h a b) (shedTrap a) (fun _ s => s) s)

def execShedDropL1All (h : Hdr) (s : State) : Host.Outcome State Fault Refusal :=
  .next (plainWord (.shedDropL1All h) (fun _ s => s.dropL1 s.me.core) s)

/-- A hint, which hardware may drop without effect (R268). -/
def execWarmGrove (h : Hdr) (a b : Reg) (s : State) : Host.Outcome State Fault Refusal :=
  .next (plainWord (.warmGrove h a b) (fun _ s => s) s)

/-- A hint, which hardware may drop without effect (R268). -/
def execWarmL1 (h : Hdr) (a b : Reg) (s : State) : Host.Outcome State Fault Refusal :=
  .next (plainWord (.warmL1 h a b) (fun _ s => s) s)

end Sys2Proof.Machine
end

