-- ==== Sys2Proof/Machine/Tasks.lean ====
section
/-!
DEFINITION. Range tasks and deques: grains (R144, R145), splits and work requests (R146, R168, R420),
pushes with their spill area (R169).
-/

namespace Sys2Proof.Machine

/-- What a TAKE delivers when no work remains (R167). -/
def NOWORK : DWord := 0xFFFFFFFFFFFFFFFF

/-! ## Ranges -/

def Range.empty (r : Range) : Bool := decide (r.hi ≤ r.cur)

/-- The grain count (R144). -/
def Range.grains (r : Range) : Nat :=
  if r.hi ≤ r.cur ∨ r.grain = 0 then 0 else (r.hi - r.cur + r.grain - 1) / r.grain

/-- End of the lowest grain (R144). -/
def Range.grainEnd (r : Range) : Nat := min (r.cur + r.grain) r.hi

/-- A split: what the victim keeps and what the requester receives (R146). -/
def Range.split (r : Range) : Range × Range :=
  let mid := r.cur + r.grain * ((r.grains + 1) / 2)
  ({ r with hi := mid }, { r with cur := mid })

/-- Deliver the lowest grain of the crew's range to lanes of a band; with an empty range, none. -/
def State.takeGrain (s : State) (bi : Nat) : Option (State × DWord) :=
  let b := s.band bi
  match s.crew b.crew with
  | some c =>
    match c.range with
    | some r =>
      if r.empty then none
      else
        let lo := BitVec.ofNat 64 r.cur
        let s := s.setCrew b.crew { c with range := some { r with cur := r.grainEnd } }
        some (s.setBand bi { s.band bi with glo := lo, ghi := BitVec.ofNat 64 r.grainEnd }, lo)
    | none => none
  | none => none

/-- No work remains: glo and ghi are NOWORK (R167). -/
def State.takeNothing (s : State) (bi : Nat) : State :=
  s.setBand bi { s.band bi with glo := NOWORK, ghi := NOWORK }

/-- Write pair(D) in lanes in the cycle in which they resume (R151). -/
def Band.putTaken (b : Band) (now k : Nat) (m : BitVec 32) (d : Reg) (v : DWord) : Band :=
  (b.writeLanes now k m (.g d) fun _ => (v.setWidth 32).setWidth 64).writeLanes now k m (.g (d + 1))
    fun _ => (v >>> 32).setWidth 32 |>.setWidth 64

/-! ## Pushes -/

/-- The spill entries of a launch on a die (R169). -/
def Launch.spillOn (l : Launch) (die : Nat) : Nat := (l.spill.filter fun e => e.1 == die).length

/-- Push a task at the owner end of a core's deque; a full deque first moves its oldest entry to the
die's distributor. None while that launch's spill area is full (R169). -/
def State.pushTask (s : State) (core : Nat) (t : Task) : Option State :=
  let c := s.core core
  match c.deque with
  | o :: r =>
    if c.deque.length < 64 then some (s.setCore { c with deque := c.deque ++ [t] })
    else
      match s.launch o.launch with
      | some l =>
        if l.spillOn (core / 256) < l.cfg.spill then
          some ((s.setLaunch o.launch { l with spill := l.spill ++ [(core / 256, o)] }).setCore
            { c with deque := r ++ [t] })
        else none
      | none => some (s.setCore { c with deque := r ++ [t] })
  | [] => some (s.setCore { c with deque := [t] })

/-- The lanes and values that a SPAWN pushes: those that are not NOWORK (R169). -/
def spawnTasks (b : Band) (x : Ex) (a : Reg) : List (Nat × DWord) :=
  ((lanesOf x.v).map fun t => (t, b.rg2 x t a)).filter fun p => p.2 != NOWORK

/-- The task of one lane: [v, v + 1) with grain 1; it carries the accesses before its release. -/
def State.taskOf (s : State) (bi t : Nat) (v : DWord) : Task :=
  { launch := ((s.crew (s.band bi).crew).map (·.launch)).getD 0, crew := (s.band bi).crew,
    range := { cur := v.toNat, hi := v.toNat + 1, grain := 1 }, after := s.unperformed bi (laneMask t) }

/-- Push the tasks of all lanes, ascending; none if one of them must wait for room. -/
def State.pushAll (s : State) (bi : Nat) (ps : List (Nat × DWord)) : Option State :=
  ps.foldl (fun r p => r.bind fun s => s.pushTask (s.band bi).core (s.taskOf bi p.1 p.2)) (some s)

/-! ## Work requests (R146, R168, R420) -/

/-- Where a work request can find a task. -/
inductive Source where
  /-- a deque entry of a core, by its place from the thief end -/
  | deque (core i : Nat)
  /-- a split of a crew's range -/
  | split (crew : Nat)
  /-- a spill entry of a die's distributor, by its place in the launch's list -/
  | spilled (i : Nat)
  /-- the lowest stripe of a die's distributor, by its place in the launch's list -/
  | stripe (i : Nat)
  deriving DecidableEq, Repr

/-- The oldest entry of a core's deque for a launch. -/
def State.oldestTask (s : State) (li core : Nat) : List Source :=
  match (s.core core).deque.findIdx? (·.launch == li) with
  | some i => [.deque core i]
  | none => []

/-- Level 1: the newest entry that the crew itself pushed, else the oldest of other crews (R168). -/
def State.ownDeque (s : State) (li ci core : Nat) : List Source :=
  let own := ((s.core core).deque.mapIdx fun i t => (i, t)).filter fun p => p.2.launch == li && p.2.crew == ci
  match own.getLast? with
  | some p => [.deque core p.1]
  | none => s.oldestTask li core

/-- The crews of a launch on some cores whose ranges can be split, those with the most grains. -/
def State.splits (s : State) (li ci : Nat) (on : Nat → Bool) : List Source :=
  let cs := (List.range s.crews.length).filterMap fun j =>
    match s.crew j with
    | some c =>
      if c.running && c.launch == li && j != ci && on c.core then
        match c.range with
        | some r => if 2 ≤ r.grains then some (j, r.grains) else none
        | none => none
      else none
    | none => none
  let best := cs.foldl (fun m p => max m p.2) 0
  (cs.filter fun p => p.2 == best).map fun p => .split p.1

/-- Deque entries on some cores of the package. -/
def State.deques (s : State) (li : Nat) (on : Nat → Bool) : List Source :=
  ((s.cores.filter fun c => on c.id).map fun c => s.oldestTask li c.id).flatten

/-- Levels 1 to 5 of a work request, each with what it offers (R146, R420); the distributor of a die that is to
park gives stripes only to thieves (R441). -/
def State.levels (s : State) (li ci core : Nat) : List (List Source) :=
  let grove (c : Nat) : Bool := c != core && c / 64 == core / 64
  let die (c : Nat) : Bool := c / 64 != core / 64 && c / 256 == core / 256
  let pref (a b : List Source) : List Source := if a.isEmpty then b else a
  let l := s.launch li
  let sp := match l.bind fun l => l.spill.findIdx? fun e => e.1 == core / 256 with
    | some i => [.spilled i]
    | none => []
  let st := match l.bind fun l => l.stripes.findIdx? fun e => e.1 == core / 256 with
    | some i => if (s.die (core / 256)).parkReq then [] else [.stripe i]
    | none => []
  [s.ownDeque li ci core, s.splits li ci (· == core), pref (s.deques li grove) (s.splits li ci grove),
   pref (s.deques li die) (s.splits li ci die), pref sp st]

/-- The release of the push that made an entry has been performed (R169); until then the entry keeps its place and a
request for it waits. -/
def State.sourceReady (s : State) (li : Nat) (src : Source) : Bool :=
  match src with
  | .deque core i => (((s.core core).deque[i]?).map fun t => s.performed t.after).getD true
  | .spilled i => (((s.launch li).bind fun l => l.spill[i]?).map fun e => s.performed e.2.after).getD true
  | _ => true

/-- Give a range to a crew. -/
def State.giveRange (s : State) (ci : Nat) (r : Range) : State :=
  match s.crew ci with
  | some c => s.setCrew ci { c with range := some r }
  | none => s

/-- Take a task from where it is and make it the crew's own range. -/
def State.takeFrom (s : State) (li ci : Nat) (src : Source) : State :=
  match src with
  | .deque core i =>
    let c := s.core core
    match c.deque[i]? with
    | some t => (s.setCore { c with deque := c.deque.eraseIdx i }).giveRange ci t.range
    | none => s
  | .split v =>
    match s.crew v with
    | some c =>
      match c.range with
      | some r => (s.setCrew v { c with range := some r.split.1 }).giveRange ci r.split.2
      | none => s
    | none => s
  | .spilled i =>
    match s.launch li with
    | some l =>
      match l.spill[i]? with
      | some e => (s.setLaunch li { l with spill := l.spill.eraseIdx i }).giveRange ci e.2.range
      | none => s
    | none => s
  | .stripe i =>
    match s.launch li with
    | some l =>
      match l.stripes[i]? with
      | some e => (s.setLaunch li { l with stripes := l.stripes.eraseIdx i }).giveRange ci e.2
      | none => s
    | none => s

/-- The oldest work request of a band: its number, destination and lanes (R167). -/
def Band.takeRequest (b : Band) : Option (Nat × Reg × BitVec 32) :=
  let rs := (List.range 32).filterMap fun t =>
    match (b.lane t).st with
    | .waiting (.take q d) => some (q, d)
    | _ => none
  match rs with
  | [] => none
  | x :: r =>
    let y := r.foldl (fun a z => if z.1 < a.1 then z else a) x
    some (y.1, y.2, b.lanesIn fun st => match st with
      | .waiting (.take q _) => q == y.1
      | _ => false)

/-- Resume the lanes of a work request with a value; a delivered task is an acquire at device scope
(R169). -/
def State.resumeTake (s : State) (bi : Nat) (d : Reg) (m : BitVec 32) (v : DWord) : State :=
  let b := s.band bi
  { (s.setBand bi ((b.wake m).putTaken s.cycle s.free m d v)).dropL1 b.core with free := s.free + 1 }

/-- Serve a work request at the first level that yields a task; `choice` picks among equals. A range
that the crew has received meanwhile comes first. -/
def State.serveTake (s : State) (bi choice : Nat) : State :=
  let b := s.band bi
  match if ((s.launchOf b).map (·.paused)).getD false then none else b.takeRequest, s.crew b.crew with
  | some (_, d, m), some c =>
    match s.takeGrain bi with
    | some (s', v) => s'.resumeTake bi d m v
    | none =>
      match (s.levels c.launch b.crew c.core).find? fun l => !l.isEmpty with
      | some l =>
        let src := l.getD (choice % l.length) (.split b.crew)
        if s.sourceReady c.launch src then
          match (s.takeFrom c.launch b.crew src).takeGrain bi with
          | some (s', v) => s'.resumeTake bi d m v
          | none => s
        else s
      | none => s
  | _, _ => s

/-! ## No work (R167, R327, R422) -/

/-- The waiting TAKEs of a band find NOWORK. -/
def State.resumeNoWork (s : State) (bi : Nat) : Nat → State
  | 0 => s
  | n + 1 =>
    match (s.band bi).takeRequest with
    | some (_, d, m) =>
      let b := ((s.band bi).wake m).putTaken s.cycle s.free m d NOWORK
      State.resumeNoWork { (s.setBand bi b).takeNothing bi with free := s.free + 1 } bi n
    | none => s

/-- The running crews of a launch, by index. -/
def State.crewsOf (s : State) (li : Nat) : List Nat :=
  (List.range s.crews.length).filter fun ci =>
    ((s.crew ci).map fun c => c.running && c.launch == li).getD false

/-- No work remains in a launch: its TAKEs find NOWORK. -/
def State.noMoreWork (s : State) (li : Nat) : State :=
  match s.launch li with
  | some l =>
    (s.crewsOf li).foldl (fun s ci => match s.crew ci with
      | some c => c.bands.foldl (fun s bi => s.resumeNoWork bi 32) s
      | none => s) (s.setLaunch li { l with noWork := true })
  | none => s

/-- The grains of a launch that no TAKE has delivered are withdrawn, those of a killed crew that is to be relaunched among
them (R327, R378). -/
def State.withdrawGrains (s : State) (li : Nat) : State :=
  match s.launch li with
  | some l =>
    let s : State := s.setLaunch li { l with stripes := [], spill := [] }
    let cs : List Core := s.cores.map fun c => { c with deque := c.deque.filter fun t => t.launch != li }
    let s : State := { s with cores := cs }
    let ks : List Crew := s.crews.map fun c => if c.launch == li then { c with range := none } else c
    State.noMoreWork { s with crews := ks } li
  | none => s

end Sys2Proof.Machine
end

