-- ==== Sys2Proof/Machine/Coop.lean ====
section
/-!
DEFINITION. Words of majors 0x30 to 0x35 (R150 to R175, R269 to R273): votes, exchange, barriers,
register holding, tasks, remote enqueue and barrier objects.
-/

namespace Sys2Proof.Machine

/-! ## Exchange among the lanes of a band (R157 to R160) -/

/-- What a lane votes. -/
def voteOf (b : Band) (x : Ex) (na : Bool) (pa : PReg) (t : Nat) : Bool := b.rp x t pa ^^ na

def execVoteAll (h : Hdr) (pd : PReg) (na : Bool) (pa : PReg) (s : State) :
    Host.Outcome State Fault Refusal :=
  .next (plainWord (.voteAll h pd na pa) (fun x s =>
    s.putP x 4 pd fun _ => (lanesOf x.v).all (voteOf s.me x na pa)) s)

def execVoteAny (h : Hdr) (pd : PReg) (na : Bool) (pa : PReg) (s : State) :
    Host.Outcome State Fault Refusal :=
  .next (plainWord (.voteAny h pd na pa) (fun x s =>
    s.putP x 4 pd fun _ => (lanesOf x.v).any (voteOf s.me x na pa)) s)

def execVoteBallot (h : Hdr) (d : SReg) (na : Bool) (pa : PReg) (s : State) :
    Host.Outcome State Fault Refusal :=
  .next (plainWord (.voteBallot h d na pa) (fun x s =>
    s.putU x 4 d (maskOf fun t => bit x.v t && voteOf s.me x na pa t)) s)

def execRdfl (h : Hdr) (d : SReg) (a : Reg) (s : State) : Host.Outcome State Fault Refusal :=
  .next (plainWord (.rdfl h d a) (fun x s => s.putU x 4 d (s.me.rg x x.low a)) s)

/-- A shuffle: lane t reads lane j(t, c) if that is in V, else itself (R160). -/
def shuffle (i : Instr) (d a : Reg) (b : Src) (j : Nat → Nat → Int) (s : State) :
    Host.Outcome State Fault Refusal :=
  .next (plainWord i (fun x s => s.putG x 4 d fun t =>
    let k := j t (s.me.src x t b).toNat
    if decide (0 ≤ k) && decide (k < 32) && bit x.v k.toNat then s.me.rg x k.toNat a
    else s.me.rg x t a) s)

def execShflIdx (h : Hdr) (d a : Reg) (b : Src) (s : State) : Host.Outcome State Fault Refusal :=
  shuffle (.shflIdx h d a b) d a b (fun _ c => (c % 32 : Nat)) s

def execShflUp (h : Hdr) (d a : Reg) (b : Src) (s : State) : Host.Outcome State Fault Refusal :=
  shuffle (.shflUp h d a b) d a b (fun t c => (t : Int) - c) s

def execShflDown (h : Hdr) (d a : Reg) (b : Src) (s : State) : Host.Outcome State Fault Refusal :=
  shuffle (.shflDown h d a b) d a b (fun t c => (t : Int) + c) s

def execShflXor (h : Hdr) (d a : Reg) (b : Src) (s : State) : Host.Outcome State Fault Refusal :=
  shuffle (.shflXor h d a b) d a b (fun t c => ((t ^^^ (c % 32) : Nat) : Int)) s

/-! ## Barriers (R162 to R164) -/

def execBar (h : Hdr) (s : State) : Host.Outcome State Fault Refusal :=
  .next (plainWord (.bar h) (fun x s =>
    (s.setMe (s.me.wait x x.v fun _ => .crewBar)).crewBarrier s.me.crew) s)

/-- GRP and ROOT of a group word (R163). -/
def grpOf (w : Word) : Nat := bits w.toNat 0 8
def rootOf (w : Word) : Nat := bits w.toNat 8 12

/-- The group that a word names, if the band's crew is a member (R163). -/
def State.groupFor (s : State) (b : Band) (w : Word) : Option (Nat × Group) :=
  match s.crew b.crew with
  | some c =>
    match s.launch c.launch with
    | some l => (l.groups.find? fun g => g.index == grpOf w && g.members.contains c.num).map
        fun g => (c.launch, g)
    | none => none
  | none => none

/-- Code 0x01 for a group that the crew is not in; for BCAST also for a root beyond %ncrew. -/
def groupTrap (u : SReg) (root : Bool) (s : State) (x : Ex) : Option Trap :=
  let b := s.me
  let w := b.ru x u
  let ncrew := ((s.launchOf b).map (·.image.crews)).getD 0
  if (s.groupFor b w).isNone || (root && decide (ncrew ≤ rootOf w)) then
    some (syncTrap 0x01 0 0 x.pc)
  else none

/-- Arrive at the barrier of a group. -/
def State.arriveGroup (s : State) (x : Ex) (u : SReg) (w : Nat → Wait) : State :=
  let b := s.me
  let s' := s.setMe (b.wait x x.v w)
  match s.groupFor b (b.ru x u) with
  | some (li, g) => s'.groupBarrier li g
  | none => s'

def execGbar (h : Hdr) (u : SReg) (s : State) : Host.Outcome State Fault Refusal :=
  .next (runWord (.gbar h u) (allLanes (groupTrap u false))
    (fun x s => s.arriveGroup x u fun _ => .groupBar (grpOf (s.me.ru x u))) s)

def execBcast (h : Hdr) (d a : Reg) (u : SReg) (s : State) : Host.Outcome State Fault Refusal :=
  .next (runWord (.bcast h d a u) (allLanes (groupTrap u true))
    (fun x s => s.arriveGroup x u fun t =>
      .bcast (grpOf (s.me.ru x u)) (rootOf (s.me.ru x u)) d (s.me.rg x t a)) s)

/-! ## Register holding (R165, R166) -/

/-- A request for more granules, granted at once if it can be (R141). -/
def execGrow (h : Hdr) (k : BitVec 3) (s : State) : Host.Outcome State Fault Refusal :=
  .next (plainWord (.grow h k) (fun x s =>
    let b := s.me
    let n := k.toNat + 1
    if n ≤ b.gran then s
    else
      let c := s.core b.core
      ((s.setMe { b with block := some (.grow n x.set x.pc) }).setCore { c with growQ := c.growQ ++ [s.cur] }).growGrants
        b.core) s)

/-- A register lies in a granule at or above `n`. -/
def RegName.above (n : Nat) : RegName → Bool
  | .g r => decide (8 * n ≤ r.toNat)
  | _ => false

/-- Granules go back to the core; pending writes to their registers are discarded (R166). -/
def execShrink (h : Hdr) (k : BitVec 3) (s : State) : Host.Outcome State Fault Refusal :=
  .next (plainWord (.shrink h k) (fun _ s =>
    let b := s.me
    let n := k.toNat + 1
    if b.gran ≤ n then s
    else
      let c := s.core b.core
      ((s.setMe { b with
        gran := n
        absentGran := b.absentGran &&& BitVec.ofNat 8 (2 ^ n - 1)
        saved := b.saved.filter fun e => decide (e.1 < n)
        unsettled := b.unsettled.filter fun e => !e.reg.above n
        inFlight := b.inFlight.filter fun e => !e.reg.above n }).setCore
        { c with free := c.free + (b.gran - n) }).growGrants b.core) s)

/-! ## Tasks (R167 to R169) -/

/-- TAKE: the lowest grain of the crew's range; else NOWORK if the launch is quiescent, else a work
request, for which the lanes of V wait. -/
def State.take (s : State) (x : Ex) (d : Reg) : State :=
  let bi := s.cur
  match if ((s.launchOf s.me).map (·.paused)).getD false then none else s.takeGrain bi with
  | some (s', v) => s'.setMe (s'.me.putTaken x.now x.k x.v d v)
  | none =>
    if ((s.launchOf s.me).map fun l => l.noWork || l.paused).getD false then
      let s' := s.takeNothing bi
      s'.setMe (s'.me.putTaken x.now x.k x.v d NOWORK)
    else
      let f := s.fresh
      f.2.setMe (f.2.me.wait x x.v fun _ => .take f.1 d)

def execTake (h : Hdr) (d : Reg) (s : State) : Host.Outcome State Fault Refusal :=
  .next (plainWord (.take h d) (fun x s => s.take x d) s)

/-- Code 0x01 in a lane whose value is NOWORK (R169). -/
def spawnTrap (a : Reg) (s : State) (x : Ex) (t : Nat) : Option Trap :=
  if s.me.rg2 x t a = NOWORK then some (syncTrap 0x01 0 0 x.pc) else none

/-- SPAWN waits, with no effect, while the spill area has no room (R169). -/
def execSpawn (h : Hdr) (a : Reg) (s : State) : Host.Outcome State Fault Refusal :=
  let x := s.ex h
  if (preciseTraps s x (.spawn h a)).isEmpty && (s.pushAll s.cur (spawnTasks s.me x a)).isNone then
    .next s
  else
    .next (runWord (.spawn h a) (spawnTrap a)
      (fun x s => (s.pushAll s.cur (spawnTasks s.me x a)).getD s) s)

/-! ## Remote enqueue (R171 to R174) -/

/-- Fields of a destination descriptor (R171). -/
def reqNode (d : DWord) : Nat := bits d.toNat 44 20
def reqDie (d : DWord) : Nat := bits d.toNat 40 4
def reqKind (d : DWord) : Nat := bits d.toNat 38 2
def reqRing (d : DWord) : Nat := bits d.toNat 30 8

/-- A destination that the lane can check itself (R173). -/
def reqTrap (a : Reg) (s : State) (x : Ex) (t : Nat) : Option Trap :=
  let d := s.me.rg2 x t a
  if 8 < reqDie d ∨ reqKind d ≠ 0 ∨ bits d.toNat 0 30 ≠ 0 ∨ s.boot.nnode ≤ reqNode d then
    some (syncTrap 0x19 0 d x.pc)
  else none

/-- A lane holds a reserved slot for a destination (R172). -/
def Band.hasSlot (b : Band) (t : Nat) (d : DWord) : Bool := b.slots.contains (t, d)

/-- The lanes of V, but for those that trap, with their destinations. -/
def reqLanes (s : State) (x : Ex) (a : Reg) : List (Nat × DWord) :=
  ((lanesOf x.v).filter fun t => (reqTrap a s x t).isNone).map fun t => (t, s.me.rg2 x t a)

/-- Ask for the slots that lanes do not hold. -/
def State.askSlots (s : State) (ls : List (Nat × DWord)) : State :=
  ls.foldl (fun s p =>
    if s.me.hasSlot p.1 p.2 || s.slotReqs.any fun r => r.band == s.cur && r.lane == p.1 then s
    else
      let f := s.fresh
      { f.2 with slotReqs := f.2.slotReqs ++ [{ id := f.1, band := s.cur, lane := p.1, desc := p.2 }] }) s

/-- Send the entries: the payload in the low bytes, zeros above (R172). -/
def State.sendReqs (s : State) (x : Ex) (ls : List (Nat × DWord)) (d : Reg) (sz : Size) (sb : Flag) :
    State :=
  let b := s.me
  let s := s.setMe { b.setBusy sb .coop with slots := b.slots.filter fun p => !ls.contains p }
  ls.foldl (fun s p =>
    let f := s.fresh
    let data := b.rgBytes x p.1 d sz.regs
    { f.2 with reqs := f.2.reqs ++
        [{ id := f.1, band := s.cur, lane := p.1, word := x.pc, ctx := s.ctxOf b, desc := p.2,
           payload := data ++ List.replicate (16 - data.length) 0, flag := sb, result := none }] }) s

/-- REQ issues once every lane of V holds a slot; until then it asks for those that are missing. -/
def execReq (h : Hdr) (d a : Reg) (sb : Flag) (sz : Size) (s : State) :
    Host.Outcome State Fault Refusal :=
  let i : Instr := .req h d a sb sz
  let x := s.ex h
  let ls := reqLanes s x a
  if (preciseTraps s x i).isEmpty && ls.any fun p => !s.me.hasSlot p.1 p.2 then .next (s.askSlots ls)
  else
    .next (runWord i (reqTrap a) (fun x s => s.sendReqs x (reqLanes s x a) d sz sb) s)

/-! ## Barrier objects (R269 to R273) -/

/-- The object that an address names: its bytes, or a trap (R269, R218). -/
def objReach (s : State) (x : Ex) (t : Nat) (a : Reg) (write : Bool) : Reach :=
  reach s s.me t .scr ((s.me.rg x t a).setWidth 64) 8 write true

/-- The first byte of an object, where its address passes the checks. -/
def objAt (s : State) (x : Ex) (t : Nat) (a : Reg) (write : Bool) : Option Nat :=
  match objReach s x t a write with
  | .locs (.scr n :: _) => some n
  | _ => none

/-- The traps of an address (R218). -/
def objTrap (s : State) (x : Ex) (t : Nat) (a : Reg) (write : Bool) : Option Trap :=
  match objReach s x t a write with
  | .trap c => some (syncTrap c 0 ((s.me.rg x t a).setWidth 64) x.pc)
  | _ => none

/-- The object as the lane finds it: the lane's earlier accesses have been performed (R23, R273). -/
def State.settleObj (s : State) (t : Nat) : State :=
  if s.accesses.isEmpty then s else s.settleLanes s.cur (laneMask t)

/-- Code 0x0F of a broken object (R376). -/
def brkTrap (write : Bool) (a : Reg) (s : State) (x : Ex) (t : Nat) : Option Trap :=
  match objTrap s x t a write with
  | some q => some q
  | none =>
    match objAt s x t a write with
    | some n =>
      if objBrk ((s.settleObj t).object n) then
        some (syncTrap 0x0F 0 ((s.me.rg x t a).setWidth 64) x.pc)
      else none
    | none => none

/-- Every lane that waits on an object resumes with code 0x0F (R270). -/
def State.trapWaiters (s : State) (n : Nat) : State :=
  ((List.range s.bands.length).filter fun bi => !s.crewSaved (s.band bi).crew).foldl (fun s bi =>
    (List.range 32).foldl (fun s t =>
      match ((s.band bi).lane t).st with
      | .waiting (.bowait m va _) => if m == n then s.failWaiter bi t va else s
      | _ => s) s) s

/-- A count outside 1 to 65,535, then the address (R271). -/
def boinitTrap (a b : Reg) (s : State) (x : Ex) : Option Trap :=
  let c := (s.me.rg x x.low b).toNat
  if c = 0 ∨ 65535 < c then some (syncTrap 0x01 0 0 x.pc) else objTrap s x x.low a true

/-- A word that uses the grove window makes its crew a gang (R394). -/
def Band.touchGrove (b : Band) (va : Word) : Band := if va.getLsbD 31 then { b with gang := true } else b

/-- BOINIT: once per issue, with the lowest lane of V (R270, R271). -/
def execBoinit (h : Hdr) (a b : Reg) (s : State) : Host.Outcome State Fault Refusal :=
  .next (runWord (.boinit h a b) (allLanes (boinitTrap a b)) (fun x s =>
    let c := (s.me.rg x x.low b).toNat
    match objAt s x x.low a true with
    | some n =>
      let s1 := ((s.settleObj x.low).trapWaiters n).putObject n (c * 2 ^ 16 + c)
      s1.setMe (s1.me.touchGrove (s.me.rg x x.low a))
    | none => s) s)

/-- One lane's arrival: its token in g[D], 4 cycles after issue (R151, R271). -/
def State.arriveLane (s : State) (x : Ex) (d a : Reg) (t : Nat) : State :=
  match objAt s x t a true with
  | some n =>
    let s1 := s.settleObj t
    let o := s1.object n
    let ids := s1.unperformed s1.cur (laneMask t)
    let s2 := s1.putObject n (objArrive o)
    let b := (s2.me.touchGrove (s.me.rg x t a)).writeLanes (x.now + 4) x.k (laneMask t) (.g d)
      fun _ => BitVec.ofNat 64 (objGen o)
    { s2.setMe b with arrivals := if ids.isEmpty then s2.arrivals else s2.arrivals ++ [(n, ids)] }
  | none => s

/-- The addresses are read before any token is written. -/
def execBoarrive (h : Hdr) (d a : Reg) (s : State) : Host.Outcome State Fault Refusal :=
  .next (runWord (.boarrive h d a) (brkTrap true a) (fun x s =>
    (lanesOf x.v).foldl (fun r t => r.arriveLane x d a t) s) s)

/-- The lane waits while GEN is its token (R271). -/
def State.waitLane (s : State) (x : Ex) (a b : Reg) (t : Nat) : State :=
  match objAt s x t a false with
  | some n =>
    let s1 := s.settleObj t
    let va := s.me.rg x t a
    let tok := (s.me.rg x t b).setWidth 16
    let s1 := s1.setMe (s1.me.touchGrove va)
    if objGen (s1.object n) = tok.toNat ∨ s1.objReleased n = false then
      s1.setMe (s1.me.wait x (laneMask t) fun _ => .bowait n va tok)
    else s1.dropL1 s1.me.core
  | none => s

def execBowait (h : Hdr) (a b : Reg) (s : State) : Host.Outcome State Fault Refusal :=
  .next (runWord (.bowait h a b) (brkTrap false a) (fun x s =>
    (lanesOf x.v).foldl (fun r t => r.waitLane x a b t) s) s)

end Sys2Proof.Machine
end

