-- ==== Sys2Proof/Machine/Fetch.lean ====
section
/-!
DEFINITION. What a band would issue next: the selection of R131, entries into packets (R14), the
fetch of a word (R446), the packet checks of R25, the waits of R15 to R17, and the order of pending
traps (R363). `issueBand` then issues through a function that gives words their meaning.
-/

namespace Sys2Proof.Machine

/-! ## System registers that take effect at a packet entry (R154) -/

/-- Apply one write of a system register to the band's own registers. -/
def Band.applySys (b : Band) (w : SysWrite) : Band :=
  let v := w.vals.headD 0
  let v32 := v.setWidth 32
  match w.num with
  | 0x100 => { b with check := v32 &&& 1 }
  | 0x102 => { b with fpctl := ((b.fpctl &&& 0xFE00) &&& ~~~v32) ||| (v32 &&& 0x3F) }
  | 0x200 => { b with segScr := v &&& 0x81FFFFFFFFFFFFFF }
  | 0x201 => { b with segStk := v &&& 0x81FFFFFFFFFFFFFF }
  | 0x202 => { b with segGrv := v &&& 0x81FFFFFFFFFFFFFF }
  | 0x203 => { b with segWs := v &&& 0x81FFFFFFFFFFFFFF }
  | 0x204 => { b with stkArea := v }
  | 0x205 => { b with ptroot := v &&& 0x000FFFFFFFFFF000 }
  | 0x206 => { b with tvec := v &&& 0x81FFFFFFFFFFFFFF }
  | 0x114 => b.mapLanes w.lanes fun t l => { l with trapPc := w.vals.getD t 0 }
  | _ => b

/-- A write that acts at the issue which enters the packet: FPCTL clears what is set by then (R117), and registers
of the core (R397, R402). -/
def SysWrite.atEntry (w : SysWrite) : Bool := w.num == 0x102 || (decide (0x207 ≤ w.num) && decide (w.num ≤ 0x20B))

/-- Apply the writes that a packet entry makes effective, but for those that act at its issue. -/
def Band.applySysAll (b : Band) : Band :=
  { (b.sysPend.filter fun w => !w.atEntry).foldl Band.applySys b with sysPend := b.sysPend.filter (·.atEntry) }

/-- A write of TRCTL: one whose PER lies outside 10 to 26 changes nothing (R397). -/
def Core.putTrctl (c : Core) (v : Word) : Core :=
  if 10 ≤ bits v.toNat 20 5 ∧ bits v.toNat 20 5 ≤ 26 then { c with trctl := v &&& 0xC1FF0000 } else c

/-- The physical address of the transect area of a core, under the tables of the context that stands there
(R397, R399). -/
def State.trArea (s : State) (core : Nat) : Option Nat := s.paOf (s.core core).l1ctx (s.core core).trbuf

/-- Cycles between records (R397). -/
def Core.interval (c : Core) : Nat := 2 ^ bits c.trUsed.toNat 20 5

/-- NREC obeys its rule (R399). -/
def nrecOk (n : Nat) : Bool := decide (4 ≤ n) && decide (n ≤ 65536) && (List.range 17).any fun i => n == 2 ^ i

/-- A quarter of the package. -/
def State.quarterAt (s : State) (n : Nat) : Quarter := (s.core (n / 4)).quarters.toArray.getD (n % 4) .blank
def State.setQuarterAt (s : State) (n : Nat) (x : Quarter) : State := s.setQuarter (n / 4) (n % 4) x

/-- A transect interval begins: the counters are 0, and BINS and NREC are read (R399). -/
def State.beginInterval (s : State) (core q : Nat) : State :=
  let c := s.core core
  let x := c.quarters.toArray.getD q .blank
  let now := (s.localClock (core / 256)).toNat
  let area := s.trArea core
  let bounds := match area with
    | some a => (List.range 8).map fun n => (s.mem.readLE (a + 16 * n) 8, s.mem.readLE (a + 16 * n + 8) 8)
    | none => []
  let nrec := match area with
    | some a => s.mem.readLE (a + 0x84) 4
    | none => 0
  s.setQuarter core q { x with transect :=
    { Transect.blank with pointer := x.transect.pointer, sampled := x.transect.sampled, bounds := bounds,
                          nrec := if nrecOk nrec then nrec else 0,
                          start := now / c.interval * c.interval } }

/-- A write of a core's register, by SWR or DBGSET (R397, R402); the trace follows TRCTL from the next cycle on. -/
def State.putCoreReg (s : State) (core num : Nat) (v : DWord) : State :=
  let c := s.core core
  match num with
  | 0x207 => s.setCore (c.putTrctl (v.setWidth 32))
  | 0x208 => s.setCore { c with trbuf := v &&& ~~~0xFFF }
  | 0x209 => s.setCore { c with racea := c.racea &&& ~~~(v &&& 0xC000000000000000) }
  | 0x20B => if s.debug = 2 then s.setCore { c with dbgctl := v.setWidth 32 &&& 3 } else s
  | _ => s

/-- A band of a context has written a core's register: TRCTL makes the trace that context's (R443). -/
def State.traceBy (s : State) (core num ctx : Nat) : State :=
  if num = 0x207 then s.setCore { s.core core with trCtx := ctx } else s

/-! ## The next word -/

/-- A fetched packet word with its place. -/
structure Slot where
  pc : DWord
  w : Nat
  lbit : Bool
  lit : Option Word
  deriving DecidableEq, Repr

/-- What a band would do at its next issue. -/
inductive Go where
  /-- lanes that a trap return has sent to an address that breaks R11 (R366) -/
  | badPc (lanes : BitVec 32)
  /-- a fetch fault with its code, or a page that is not present (R446) -/
  | fetch (code : Byte)
  | page
  /-- take the pending traps (R363) -/
  | entry
  /-- the region ends, and its held stores are performed before what ends it (R250) -/
  | close
  /-- a REQ asks for the slots that its lanes lack (R172) -/
  | ask (i : Instr)
  /-- a check of R51 fails -/
  | illegal (n : Nat)
  | one (i : Instr)
  | two (i j : Instr)
  deriving DecidableEq, Repr

/-- Nothing, or something at the earliest cycle. -/
inductive Decision where
  | no
  | go (cycle : Nat) (g : Go) (entering lbit ybit : Bool)
  deriving DecidableEq, Repr

/-- The band issues through a fall-through within the packet of its last issue (R14). -/
def Band.fallsThrough (b : Band) : Bool :=
  b.issued && b.pc == b.nextPc && b.issueSet == b.lastSet && slotOf b.pc != 1

/-- Prepare a band for its next issue: reports, selection, and the system-register writes of a packet entry. A word
that waits for a page has issued, so that its lanes are not masked (R445). -/
def State.prepared (s : State) (bi : Nat) : Band :=
  let b := s.band bi
  if b.paged.isSome then b
  else
    let b := s.select b.takeReports
    if b.fallsThrough then b else b.applySysAll

/-- Lanes of the issue set that a trap return has sent to an address which breaks R11 (R366), and those that any
transfer has sent to a slot that turns out to be a literal. DESIGN CHOICE (log entry 123): R11 checks the L bit of a
target whose page is not present when the page is, at the target. -/
def Band.badLanes (b : Band) (lbit : Bool) : BitVec 32 :=
  match targetTrap b b.pc lbit with
  | none => 0
  | some c => maskOf fun t => bit b.issueSet t && ((b.lane t).returned || c == 0x02)

/-- The raw words of a packet: control word and slots 1 to 3. -/
def State.packetWords (s : State) (pa : Nat) : Nat × Nat × Nat × Nat :=
  let base := pa / 16 * 16
  (s.mem.readLE base 4, s.mem.readLE (base + 4) 4, s.mem.readLE (base + 8) 4, s.mem.readLE (base + 12) 4)

/-- The word of a slot. -/
def slotWord (p : Nat × Nat × Nat × Nat) (k : Nat) : Nat :=
  match k with
  | 1 => p.2.1
  | 2 => p.2.2.1
  | _ => p.2.2.2

/-- The literal that slot 2 can read (R48). -/
def slotLit (p : Nat × Nat × Nat × Nat) (k : Nat) : Option Word :=
  if k = 2 ∧ ctlL p.1 = true then some (BitVec.ofNat 32 p.2.2.2) else none

/-- Decode the word of a slot. -/
def decodeSlot (p : Nat × Nat × Nat × Nat) (k : Nat) : Except Nat Instr :=
  decode (BitVec.ofNat 32 (slotWord p k)) (slotLit p k)

/-- C of a word (R16). -/
def chained (w : Nat) : Bool := bits w 31 1 == 1

/-- The distance field of a slot (R13). -/
def distOf (c k : Nat) : Nat :=
  match k with
  | 1 => ctlD1 c
  | 2 => ctlD2 c
  | _ => ctlD3 c

/-- Two words both write a register, a predicate or a flag (R16). -/
def sameDest (p : Nat × Nat × Nat × Nat) (k : Nat) : Bool :=
  match decodeSlot p k, decodeSlot p (k + 1) with
  | .ok i, .ok j =>
    (dstsOf i).any (fun r => (dstsOf j).contains r) ||
      (flagOf i != 15 && flagOf i == flagOf j)
  | _, _ => false

/-- The word of a slot is chained to a word that R16 lets it be chained to: slots 1 and 2, or 2 and 3 (R49). -/
def chains (p : Nat × Nat × Nat × Nat) (k : Nat) : Bool := chained (slotWord p k) && (k == 1 || (k == 2 && !ctlL p.1))

/-- Two majors go to one pipe (R18); a reserved major goes to none. -/
def samePipe (m n : Nat) : Bool := hasPipe m && hasPipe n && pipeOf m == pipeOf n

/-- A chain of slot k to the next breaks R16. -/
def badChain (p : Nat × Nat × Nat × Nat) (k : Nat) : Bool :=
  let w := slotWord p k
  chained w &&
    (!chains p k || distOf p.1 (k + 1) != 0 || samePipe (bits w 21 6) (bits (slotWord p (k + 1)) 21 6) || sameDest p k)

/-- A packet-level error, seen from an entry slot (R16, R17, R25). -/
def packetError (p : Nat × Nat × Nat × Nat) (k : Nat) : Bool :=
  let c := p.1
  bits c 0 1 == 1 || (decide (12 ≤ ctlW2 c) && decide (ctlW2 c ≤ 14)) ||
    (!ctlL c && decide (12 ≤ ctlW3 c) && decide (ctlW3 c ≤ 14)) ||
    ([1, 2, 3].any fun j => decide (k ≤ j) && !(j == 3 && ctlL c) && badChain p j)

/-- The flag that a slot waits on is busy (R17). -/
def Band.slotWaits (b : Band) (c k : Nat) : Bool :=
  match k with
  | 1 => (List.range 12).any fun i => bits (ctlWM c) i 1 == 1 && b.busy i
  | 2 => b.busy (ctlW2 c)
  | _ => b.busy (ctlW3 c)

/-- A SHRINK that releases granules waits on every flag (R166). -/
def Band.shrinks (b : Band) (i : Instr) : Bool :=
  match i with
  | .shrink _ k => decide (k.toNat + 1 < b.gran)
  | _ => false

/-- A word waits on its own flag (R17), SHRINK on every flag (R166). -/
def Band.wordWaits (b : Band) (i : Instr) : Bool := b.busy (flagOf i).toNat || (b.shrinks i && b.anyBusy)

/-- The granules marked absent of which a word names a register, or to which it resolves (R142, R393). -/
def Band.needsGranules (b : Band) (x : Ex) (i : Instr) : List Nat :=
  if b.absentGran = 0 then []
  else
    let names := srcsOf i ++ dstsOf i ++ ((lanesOf x.set).map fun t =>
      b.readsIn x t i ++ b.writesIn x t i).flatten
    names.filterMap fun r => match r with
      | .g n => if b.allocated n.toNat && b.isAbsent n.toNat then some (n.toNat / 8) else none
      | _ => none

/-- The guard of a word reads true in some lane of the issue set. -/
def Band.someLane (b : Band) (now k : Nat) (i : Instr) : Bool :=
  b.guarded now k i.hdr b.issueSet != 0

/-- A REQ waits for the slots that its lanes have asked for (R172). -/
def State.reqWaits (s : State) (bi : Nat) (b : Band) (i : Instr) : Bool :=
  match i with
  | .req .. => (lanesOf (b.guarded s.cycle s.free i.hdr b.issueSet)).any fun t =>
      s.slotReqs.any fun r => r.band == bi && r.lane == t
  | _ => false

/-- A REQ has lanes without a slot, and nothing else stops it, so that it asks for them before it issues (R172). -/
def State.reqAsks (s : State) (bi : Nat) (b : Band) (i : Instr) : Bool :=
  match i with
  | .req _ _ a _ _ =>
    let s' : State := { s.setBand bi b with cur := bi }
    let x := s'.ex i.hdr
    (preciseTraps s' x i).isEmpty && (reqLanes s' x a).any fun p => !b.hasSlot p.1 p.2
  | _ => false

/-- A SPAWN waits for room in the spill area (R169). -/
def State.spawnWaits (s : State) (bi : Nat) (b : Band) (i : Instr) : Bool :=
  match i with
  | .spawn _ a =>
    let x : Ex := { pc := b.pc, set := b.issueSet, v := b.guarded s.cycle s.free i.hdr b.issueSet,
                    now := s.cycle, k := s.free, lbit := false }
    (s.pushAll bi (spawnTasks b x a)).isNone
  | _ => false

/-- A KSET waits while a command that entered earlier is to act on its register: an MMA, a RELS or an MXREST (R189,
R199). -/
def State.ksetWaits (s : State) (b : Band) (i : Instr) : Bool :=
  match i with
  | .kset _ k _ _ => (s.core b.core).seq.any fun q => match q.op with
    | .mma j _ _ => j == k
    | .rels m => q.crew == b.crew && m.getLsbD k.toNat
    | .mxrest _ _ held => q.crew == b.crew && held.contains k.toNat
    | _ => false
  | _ => false

/-- The earliest cycle of an issue (R15). -/
def Band.earliest (b : Band) (now c k : Nat) : Nat :=
  if b.issued then max now (b.lastIssue + max (distOf c k) 1) else now

/-- The band may issue at all: it is not stopped, parked or blocked (R149), and the stores of a region that has ended
are performed (R250). -/
def State.mayIssue (s : State) (b : Band) : Bool :=
  !b.stopped && b.block.isNone && !(s.quarterOf b).stopped && !s.closes b

/-- The words that stand next: one, or a chained pair. DESIGN CHOICE (log entry 112): where both words of a pair fail
a check of R51, the checks of their encodings come first, the first word's before the second's; of three chained words
the first two are a pair, and the third issues alone in a later cycle. -/
def nextWords (p : Nat × Nat × Nat × Nat) (k : Nat) : Go :=
  match decodeSlot p k with
  | .error n => .illegal n
  | .ok i =>
    if chains p k then
      match decodeSlot p (k + 1) with
      | .error n => .illegal n
      | .ok j => .two i j
    else .one i

/-- A decision takes an issue of the quarter. -/
def Go.issues : Go → Bool
  | .entry | .close | .ask _ => false
  | _ => true

/-- The instructions of a decision. -/
def Go.instrs : Go → List Instr
  | .one i => [i]
  | .two i j => [i, j]
  | _ => []

/-- Take the pending traps of a band, once its region has ended (R363, R364). -/
def Band.entryGo (b : Band) : Go := if b.rgnOpen && !b.held.isEmpty then .close else .entry

/-- A word on a barrier object issues once the earlier accesses of its lanes have been performed, so that each
operation finds what they left, and an arrival, a release, carries them (R242, R271, R273). DEDUCED (log entry
124): the spec has an arrival order them and names no instant. -/
def State.objectWaits (s : State) (bi : Nat) (set : BitVec 32) (i : Instr) : Bool :=
  match i with
  | .boinit .. | .boarrive .. | .bowait .. => !(s.unperformed bi set).isEmpty
  | _ => false

/-- A word of a decision holds the band back: a flag, a granule that is absent, a slot, room for tasks, an MMA, or
accesses before a word on a barrier object (R17, R142, R166, R169, R172, R199, R273). -/
def State.heldUp (s : State) (bi : Nat) (b : Band) (x : Ex) (i : Instr) : Bool :=
  b.wordWaits i || !(b.needsGranules x i).isEmpty || s.reqWaits bi b i || s.spawnWaits bi b i || s.ksetWaits b i ||
    s.objectWaits bi x.set i

/-- The decision for the words at the next slot of a packet that has been fetched. -/
def State.decideWords (s : State) (bi : Nat) (b : Band) (p : Nat × Nat × Nat × Nat) : Decision :=
  let k := slotOf b.pc
  let c := p.1
  let x : Ex := { pc := b.pc, set := b.issueSet, v := 0, now := s.cycle, k := s.free, lbit := false }
  let ent := !b.fallsThrough
  let bad := ent && packetError p k
  let g := if bad then .illegal 1 else nextWords p k
  let ends := g.instrs.any fun i => endsRegion i && b.someLane s.cycle s.free i
  if b.paged.isSome then .go s.cycle g ent (ctlL c) (ctlY c)
  else if b.mustTake ends then .go s.cycle b.entryGo false false false
  else if b.slotWaits c k || (!bad && chains p k && b.slotWaits c (k + 1)) then .no
  else if g.instrs.any (s.heldUp bi b x) then .no
  else
    match g.instrs.find? (s.reqAsks bi b) with
    | some i => .go s.cycle (.ask i) ent (ctlL c) (ctlY c)
    | none =>
      let at_ := b.earliest s.cycle c k
      if ends && b.rgnOpen && !b.held.isEmpty then .go at_ .close ent (ctlL c) (ctlY c)
      else .go at_ g ent (ctlL c) (ctlY c)

/-- The decision for a prepared band at a cycle (R25, R51, R131, R137, R149, R363). -/
def State.decision (s : State) (bi : Nat) (b : Band) : Decision :=
  if !s.mayIssue b then .no
  else if b.issueSet = 0 then
    if b.trapPending then .go s.cycle b.entryGo false false false else .no
  else
    let fetched := fetchPa s b b.pc
    let lbit := match fetched with
      | .ok pa => ctlL (s.packetWords pa).1
      | .error _ => false
    let bad := b.badLanes lbit
    if bad != 0 then
      if b.mustTake false then .go s.cycle b.entryGo false false false
      else .go (b.earliest s.cycle 0 1) (.badPc bad) true false false
    else
      match fetched with
      | .error e =>
        if b.mustTake false then .go s.cycle b.entryGo false false false
        else .go (b.earliest s.cycle 0 1) (match e with
          | some c => .fetch c
          | none => .page) true false false
      | .ok pa => s.decideWords bi b (s.packetWords pa)

/-! ## Issue -/

/-- Take one code in some lanes of the issue set, precisely (R25, R360, R446). -/
def State.trapLanes (s : State) (bi : Nat) (m : BitVec 32) (code : Byte) (info : Nat) (addr : DWord) : State :=
  let b := s.band bi
  s.takePrecise bi b.pc b.pc ((lanesOf m).map fun t => (t, syncTrap code info addr b.pc))

/-- Take one code in every lane of the issue set. -/
def State.trapAll (s : State) (bi : Nat) (code : Byte) (info : Nat) (addr : DWord) : State :=
  s.trapLanes bi (s.band bi).issueSet code info addr

/-- PTROOT is the context's (R225): a write that a band makes effective reaches all bands of the context. -/
def State.syncRoot (s : State) (bi : Nat) (b : Band) : State :=
  if b.ptroot = (s.band bi).ptroot then s
  else
    let ctx := s.ctxOf b
    let cs : List Ctx := s.ctxs.map fun c => if c.id == ctx then { c with ptroot := b.ptroot } else c
    let bs : List Band := s.bands.map fun y => if s.ctxOf y == ctx then { y with ptroot := b.ptroot } else y
    { s with ctxs := cs, bands := bs }

/-- At an issue that enters a packet the remaining writes of system registers act: FPCTL is cleared before what is
set in the same cycle (R107, R117, R154). -/
def State.enterPacket (s : State) (bi cycle : Nat) : State :=
  let b := s.band bi
  let b1 := { (b.sysPend.filter fun w => w.num == 0x102).foldl Band.applySys (b.settle (cycle - 1)) with sysPend := [] }
  (b.sysPend.filter fun w => w.num != 0x102).foldl (fun s w =>
    (s.putCoreReg b.core w.num (w.vals.headD 0)).traceBy b.core w.num (s.ctxOf b)) (s.setBand bi b1)

/-- The bookkeeping of an issue: the cycle, the last issue of band and quarter, and the word that falls through (R14,
R15, R137). A word that has waited for a page issued before (R445). -/
def State.beginIssue (s : State) (bi cycle : Nat) (b : Band) (next : DWord) : State :=
  let s := s.syncRoot bi b
  let s : State := { s.setBand bi b with cycle := cycle, cur := bi }
  if b.paged.isSome then s
  else
    let s := if b.fallsThrough then s else s.enterPacket bi cycle
    let b := { (s.band bi).settle cycle with lastIssue := cycle, lastSet := b.issueSet, nextPc := next, issued := true }
    (s.setBand bi b).setQuarter b.core b.quarter { s.quarterOf b with last := b.slot, lastIssue := cycle, issued := true }

/-- After a single step the quarter stops again (R397). -/
def State.stepDone (s : State) (bi : Nat) : State :=
  let b := s.band bi
  if (s.quarterOf b).stepping then s.stopQuarter b.core b.quarter else s

/-- The band waits at the word that has just been tried: parked after an abort, or for a page. -/
def State.stays (s : State) : Bool :=
  match s.me.block with
  | some .parked | some .page => true
  | _ => false

/-- A rotation event after an issue, if one falls there (R132): a band that waits at its word has not left the
packet. -/
def State.endIssue (s : State) (bi : Nat) (set : BitVec 32) (ybit last : Bool) : State :=
  let b := s.band bi
  let b := if s.stays then b else { b with paged := none, pageCode := none }
  let leaves := ybit && ((last && b.nextPc != 0 && !s.stays) || s.latch.moved != 0)
  let b := if s.latch.rot || leaves then b.rotate set (s.select b.takeReports) else b
  State.stepDone { s.setBand bi b with latch := .blank } bi

/-! ## Transect counting (R398) -/

/-- Add to entry `i` of a list of 32-bit counters, which saturate. -/
def addAt (l : List Nat) (i n : Nat) : List Nat := l.mapIdx fun j v => if j = i then min (v + n) (2 ^ 32 - 1) else v

/-- The class of a lane position when a word issues: ACTIVE, DIVERGED, PREDOFF, ABSENT. -/
def Band.laneClass (b : Band) (set v : BitVec 32) (t : Nat) : Nat :=
  if !(b.lane t).live then 3 else if !bit set t then 1 else if bit v t then 0 else 2

/-- The first bin whose range holds an address. -/
def Transect.binOf (x : Transect) (pc : DWord) : Option Nat :=
  x.bounds.findIdx? fun p => decide (p.1 ≤ pc.toNat) && decide (pc.toNat < p.2)

/-- Count the classes of a word's 32 positions. -/
def Transect.word (x : Transect) (pc : DWord) (classes : List Nat) : Transect :=
  let add (l : List Nat) : List Nat := classes.foldl (fun l c => addAt l c 1) l
  match x.binOf pc with
  | some n => { x with bins := x.bins.mapIdx fun i l => if i = n then add l else l }
  | none => { x with unbinned := add x.unbinned }

/-- Count a cycle in which the quarter issued nothing: 32 IDLE positions, unbinned. -/
def Transect.idle (x : Transect) : Transect := { x with unbinned := addAt x.unbinned 4 32 }

/-- A core's trace runs: not on a parked die, nor in standby (R443). -/
def State.traceRuns (s : State) (core : Nat) : Bool := !(s.die (core / 256)).parked && decide (s.power ≠ .standby)

/-- Transect counting is on: EN, where the trace runs (R397). -/
def State.traces (s : State) (core : Nat) : Bool := (s.core core).trUsed.getLsbD 31 && s.traceRuns core

/-- The trace of a core takes in the bands of a context: in production-locked only those of the context whose band set
it (R443). -/
def State.sees (s : State) (core ctx : Nat) : Bool := decide (s.security ≠ .locked) || (s.core core).trCtx == ctx

/-- Count an issue: each of its words. -/
def State.countWords (s : State) (b : Band) (ws : List (DWord × BitVec 32)) : State :=
  if s.traces b.core && s.sees b.core (s.ctxOf b) && b.paged.isNone then
    let q := s.quarterOf b
    let x := ws.foldl (fun (x : Transect) w => x.word w.1 ((List.range 32).map (b.laneClass b.issueSet w.2))) q.transect
    s.setQuarter b.core b.quarter { q with transect := x }
  else s

/-- Count the issue of one word. -/
def State.countIssue (s : State) (bi : Nat) (i : Instr) (pc : DWord) : State :=
  s.countWords (s.band bi) [(pc, (s.band bi).guarded s.cycle s.free i.hdr (s.band bi).issueSet)]

/-- The lanes of the issue set for which the guard field of a raw word reads true. -/
def Band.rawGuard (b : Band) (now k w : Nat) : BitVec 32 :=
  b.guarded now k { chain := false, gneg := bits w 30 1 == 1, gp := BitVec.ofNat 3 (bits w 27 3) } b.issueSet

/-- The word stands last among the executed slots of its packet. -/
def lastSlot (pc : DWord) (lbit : Bool) : Bool := slotOf pc == 3 || (slotOf pc == 2 && lbit)

/-- The traps of a word of a chained pair but those of TRAP and BKPT (R444). -/
def pairOwn (s : State) (l : Latch) (i : Instr) : List (Nat × Trap) :=
  let s' := { s with latch := l }
  (ownTraps s' (s'.ex i.hdr) i).filter fun p => !p.2.software

/-- The precise traps of a chained pair, which keep both words from taking effect and are taken at the first word
(R444): R51 for both, then the precise traps of either. The second word is tested with the operands that it would read:
those of the state `s1` in which the first has acted, if it can. DESIGN CHOICE (log entry 112): TRAPORIG of a check of R51
is the first word, whichever word fails. -/
def pairTraps (s s1 : State) (l1 l2 : Latch) (i j : Instr) : List (Nat × Trap) :=
  let b := s.me
  match check51 i b l1.pc, check51 j b l1.pc with
  | some q, _ => (lanesOf b.issueSet).map fun t => (t, q)
  | none, some q => (lanesOf b.issueSet).map fun t => (t, q)
  | none, none =>
    let t1 := pairOwn s l1 i
    (t1 ++ pairOwn (if t1.isEmpty then s1 else s) l2 j).foldl
      (fun acc p => if acc.any fun q => q.1 == p.1 then acc else acc ++ [p]) []

/-- TRAP and BKPT. -/
def isTrapWord : Instr → Bool
  | .trap .. | .bkpt .. => true
  | _ => false

/-- Go on with a state if an outcome has one. -/
def thenDo (o : Host.Outcome State Fault Refusal) (f : State → Host.Outcome State Fault Refusal) :
    Host.Outcome State Fault Refusal :=
  match o with
  | .next s => f s
  | .fault r => .fault r
  | .refused r => .refused r

/-- The lanes of a set that no deferred trap has masked. -/
def State.alive (s : State) (set : BitVec 32) : BitVec 32 :=
  set &&& ~~~maskOf fun t => decide ((s.me.lane t).st = .waiting .trap)

/-- A pair waits as a whole for what its second word waits for, a page or bytes that cannot be read yet: `s` is the
state before it, and the word has been tried from `s1` to `s2` (R445). -/
def State.pairWaits (s s1 s2 : State) (l : Latch) (set : BitVec 32) : State :=
  let x : Ex := { pc := l.pc, set := set, v := set, now := s.cycle, k := l.k, lbit := l.lbit }
  s.awaitPage x (if s1.faults.length < s2.faults.length then s2.faults.getLast?.map (·.va) else none)

/-- Issue a chained pair: the words act one after the other for the same issue set, with choices of their own (R16,
R444); TRAP and BKPT act after their partner. -/
def issuePair (run : Instr → State → Host.Outcome State Fault Refusal) (i j : Instr) (pc : DWord)
    (lbit ybit : Bool) (s : State) : Host.Outcome State Fault Refusal :=
  let bi := s.cur
  let b := s.me
  let set := b.issueSet
  let next := nextPc pc lbit
  let l1 : Latch := { Latch.blank with pc := pc, lbit := lbit, pair := 1, lanes := set, k := s.free }
  let l2 : Latch := { l1 with pc := next, pair := 2, k := s.free + 1 }
  let s0 := { s with free := s.free + 2 }
  let swap := isTrapWord i
  thenDo (if swap then .next s0 else run i { s0 with latch := l1 }) fun s1 =>
    let v (s : State) (l : Latch) (i : Instr) : BitVec 32 := ({ s with latch := l }.ex i.hdr).v
    let count (t : State) : State := t.countWords b [(pc, v s0 l1 i), (next, v s1 l2 j)]
    match pairTraps s0 s1 l1 l2 i j with
    | t :: ts => .next (count ((s0.takePrecise bi pc pc (t :: ts)).tickFree.endIssue bi set ybit false))
    | [] =>
      if s1.stays then .next (count (s1.endIssue bi set ybit false))
      else
        let after (s : State) (l : Latch) : State :=
          { s with latch := { l with lanes := s.alive set, moved := s.latch.moved, rot := s.latch.rot } }
        thenDo (run j (if swap then { s0 with latch := l2 } else after s1 l2)) fun s2 =>
          if decide (s2.me.block = some .page) then
            .next (count ((s0.pairWaits s1 s2 l1 set).endIssue bi set ybit false))
          else if swap && !s2.stays then
            thenDo (run i (after s2 { l1 with pair := 3 })) fun s3 =>
              .next (count (s3.endIssue bi set ybit (lastSlot next lbit)))
          else .next (count (s2.endIssue bi set ybit (lastSlot next lbit)))

/-- Carry out a decision for a band. -/
def issueGo (run : Instr → State → Host.Outcome State Fault Refusal) (bi cycle : Nat) (b : Band) (g : Go)
    (lbit ybit : Bool) (s : State) : Host.Outcome State Fault Refusal :=
  let pc := b.pc
  let set := b.issueSet
  match g with
  | .entry => .next ((s.setBand bi b).enterHandler bi)
  | .close => .next (State.endRegion { s.setBand bi b with cycle := cycle } bi)
  | .ask i => thenDo (run i { s.setBand bi b with cur := bi }) fun s' => .next { s' with latch := .blank }
  | .badPc m => .next ((((s.beginIssue bi cycle b 0).countWords b [(pc, set)]).trapLanes bi m 0x02 0 pc).stepDone bi)
  | .fetch c => .next ((((s.beginIssue bi cycle b 0).countWords b [(pc, set)]).trapAll bi c 0 pc).stepDone bi)
  | .page => .next ((s.setBand bi { b with block := some .page }).addFault bi pc .fetch)
  | .illegal n =>
    let w := match fetchPa s b pc with
      | .ok pa => slotWord (s.packetWords pa) (slotOf pc)
      | .error _ => 0
    .next ((((s.beginIssue bi cycle b 0).countWords b [(pc, b.rawGuard cycle s.free w)]).trapAll bi 0x01 n 0).stepDone bi)
  | .one i =>
    let s := (s.beginIssue bi cycle b (nextPc pc lbit)).countIssue bi i pc
    let l : Latch := { Latch.blank with pc := pc, lbit := lbit }
    thenDo (run i { s with latch := l }) fun s' => .next (s'.endIssue bi set ybit (lastSlot pc lbit))
  | .two i j =>
    issuePair run i j pc lbit ybit (s.beginIssue bi cycle b (nextPc (nextPc pc lbit) lbit))

/-! ## Which band -/

/-- The earliest thing a band can do, with the band as prepared. -/
def State.candidate (s : State) (bi : Nat) : Option (Nat × Nat × Band × Go × Bool × Bool) :=
  let b := s.prepared bi
  let q := s.quarterOf b
  match s.decision bi b with
  | .no => none
  | .go c g _ l y =>
    some (bi, if !g.issues || b.paged.isSome || !q.issued then c else max c (q.lastIssue + 1), b, g, l, y)

/-- The first of the candidates of a quarter in the order of R137: least cycle, then the next slot
after the one that issued last. -/
def better (last : Nat) (x y : Nat × Nat × Band × Go × Bool × Bool) : Bool :=
  let d (z : Nat × Nat × Band × Go × Bool × Bool) : Nat := (z.2.2.1.slot + 8 - last - 1) % 8
  decide (x.2.1 < y.2.1) || (x.2.1 == y.2.1 && decide (d x < d y))

/-- The best of a list. -/
def bestOf (last : Nat) : List (Nat × Nat × Band × Go × Bool × Bool) →
    Option (Nat × Nat × Band × Go × Bool × Bool)
  | [] => none
  | x :: r => some (r.foldl (fun a y => if better last y a then y else a) x)

/-- The bands of a quarter that have not ended. -/
def State.bandsOf (s : State) (core q : Nat) : List Nat :=
  (List.range s.bands.length).filter fun bi =>
    (s.band bi).core == core && (s.band bi).quarter == q && !(s.band bi).ended

/-- The candidate of a quarter. -/
def State.quarterCandidate (s : State) (core q : Nat) :
    Option (Nat × Nat × Band × Go × Bool × Bool) :=
  bestOf ((s.core core).quarters.toArray.getD q .blank).last ((s.bandsOf core q).filterMap s.candidate)

/-- The quarters that hold bands, each once, in the order of their first bands. -/
def State.quarters (s : State) : List (Nat × Nat) :=
  (((List.range s.bands.length).filter fun bi => !(s.band bi).ended).map fun bi =>
    ((s.band bi).core, (s.band bi).quarter)).eraseDups

/-- The candidate of the package: the least cycle. -/
def State.nextCandidate (s : State) : Option (Nat × Nat × Band × Go × Bool × Bool) :=
  match s.quarters.filterMap fun q => s.quarterCandidate q.1 q.2 with
  | [] => none
  | x :: r => some (r.foldl (fun a y => if y.2.1 < a.2.1 then y else a) x)

end Sys2Proof.Machine
end

