-- ==== Sys2Proof/Machine/Shapes.lean ====
section
/-!
DEFINITION. Shape records (R293 to R297), runs of bytes that commands read and write (R197), leaf-coded
buffers (R303, R304), and tiles in memory and in scratchpad (R110, R111, R297).
-/

namespace Sys2Proof.Machine

/-! ## Runs of bytes -/

/-- Why a transfer cannot go on: a trap code with its address, a page that is not present, sectors
that are lacking on a die (R227), or bytes that cannot be read yet. -/
inductive Halt where
  | trap (code : Byte) (va : DWord)
  | absent (va : DWord)
  /-- the blocks that a write reaches, on whose die sectors are lacking, and its address -/
  | sectors (die : Nat) (blks : List Nat) (va : DWord)
  /-- a bank under refresh, or a block with a write that waits, which a read waits for (R222, R227) -/
  | busy
  deriving DecidableEq, Repr

/-- What a word that reads operands waits for: a page, or nothing that has an address. -/
def Halt.waits : Halt → Option (Option DWord)
  | .absent va => some (some va)
  | .sectors .. | .busy => some none
  | .trap .. => none

/-- Move a place by a signed number of bytes. -/
def Place.add (p : Place) (d : Int) : Place :=
  let off (o : Nat) (f : Nat → Place) : Place :=
    if (o : Int) + d < 0 then .aperture else f ((o : Int) + d).toNat
  match p with
  | .global va => .global (va + BitVec.ofInt 64 d)
  | .scr o => off o .scr
  | .grove g => off g fun x => if x < 2 ^ 24 then .grove x else .aperture
  | .stack o => off o .stack
  | .ws o => off o .ws
  | .aperture => .aperture

/-- The bytes of a run of virtual addresses under a root. -/
def runVa (s : State) (root va : DWord) (n : Nat) (write : Bool) : Except Halt (List Loc) :=
  (pageRuns va (n / 65536 + 2) n).foldl (fun r p => r.bind fun l =>
    if !canonical p.1 then .error (.trap 0x0A p.1)
    else
      match translate s.mem root p.1 with
      | .unmapped => .error (.trap 0x0A p.1)
      | .absent => .error (.absent p.1)
      | .ok pa w _ _ =>
        if write && !w then .error (.trap 0x09 p.1)
        else .ok (l ++ (List.range p.2).map fun i => .mem (pa + i))) (.ok [])

/-- What R218 finds at an address, as a result of a transfer. -/
def Reach.toExcept (va : DWord) : Reach → Except Halt (List Loc)
  | .locs l => .ok l
  | .trap c => .error (.trap c va)
  | .absent va => .error (.absent va)

/-- The bytes of a run at a place, as a lane of a band reaches them; `va` is the address as given
(R218). -/
def runBand (s : State) (b : Band) (t : Nat) (va : DWord) (p : Place) (n : Nat) (write : Bool) :
    Except Halt (List Loc) :=
  let go := (reachPlace s b t p n write false).toExcept va
  match p with
  | .global va => runVa s b.ptroot va n write
  | .ws o => if segLen b.segWs < o + n then .error (.trap 0x07 va) else go
  | .stack o => if segLen b.segStk < o + n then .error (.trap 0x07 va) else go
  | _ => go

/-- The bytes of a run that an engine of a die reaches for a context: global memory and the weight
store (R305, R310). -/
def runEngine (s : State) (ctx die : Nat) (va : DWord) (p : Place) (n : Nat) (write : Bool) :
    Except Halt (List Loc) :=
  match p with
  | .global va => runVa s (s.rootOf ctx) va n write
  | .ws o =>
    if write then .error (.trap 0x15 va)
    else
      match s.ctx ctx with
      | some c =>
        if c.wsLen < o + n then .error (.trap 0x07 va)
        else .ok ((List.range n).map fun i => .ws (die * 2 ^ 28 + c.wsBase + o + i))
      | none => .error (.trap 0x07 va)
  | _ => .error (.trap 0x07 va)

/-- Bytes read at their places. -/
def State.readLocs (s : State) (l : List Loc) : List Byte := l.map s.readLoc

/-- A read of these bytes waits: for the refresh of a bank (R222), or behind a write that waits for sectors (R227). -/
def State.readBusy (s : State) (l : List Loc) : Bool :=
  l.any s.bankBusy || s.blocked (l.filterMap fun x => match x with
    | .mem a => some (a / 256)
    | _ => none)

/-- Bytes that a unit reads at their places. -/
def State.readUnit (s : State) (l : List Loc) : Except Halt (List Byte) :=
  if s.readBusy l then .error .busy else .ok (s.readLocs l)

/-- The leaf entries of the pages of a run of virtual addresses (R228). -/
def ptesVa (s : State) (root va : DWord) (n : Nat) : List Nat :=
  (pageRuns va (n / 65536 + 2) n).filterMap fun p => match translate s.mem root p.1 with
    | .ok _ _ _ e => some e
    | _ => none

/-- The leaf entries of the pages of a run at a place, as a lane of a band reaches it. -/
def ptesBand (s : State) (b : Band) (t : Nat) (p : Place) (n : Nat) : List Nat :=
  match p with
  | .global va => ptesVa s b.ptroot va n
  | .stack o => ((List.range ((n + 3) / 4)).map fun i => ptesVa s b.ptroot (stackVa b t (o + 4 * i)) 4).flatten
  | _ => []

/-- The same for an engine of a context. -/
def ptesEngine (s : State) (ctx : Nat) (p : Place) (n : Nat) : List Nat :=
  match p with
  | .global va => ptesVa s (s.rootOf ctx) va n
  | _ => []

/-- Cut a list of bytes into pieces of 64 with their offsets. -/
def cut64 (off : Int) : Nat → List Byte → List (Int × List Byte)
  | 0, _ => []
  | _, [] => []
  | k + 1, l => (off, l.take 64) :: cut64 (off + 64) k (l.drop 64)

def cutAll (off : Int) (l : List Byte) : List (Int × List Byte) := cut64 off l.length l

/-- How the writes of a command end. -/
inductive Written where
  | done (s : State)
  | absent (va : DWord)
  /-- sectors are lacking on a die for these blocks of a write at an address (R227) -/
  | wait (die : Nat) (blks : List Nat) (va : DWord)
  /-- bytes that cannot be read yet (R222, R227) -/
  | busy
  | fault (code : Byte) (va : DWord) (s : State)
  deriving DecidableEq, Repr

/-- The writes of a command as a result. -/
def Written.toExcept : Written → Except Halt State
  | .done s => .ok s
  | .absent va => .error (.absent va)
  | .wait d l va => .error (.sectors d l va)
  | .busy => .error .busy
  | .fault c va _ => .error (.trap c va)

/-- The address in global memory of a place, or an offset. -/
def Place.addr : Place → DWord
  | .global va => va
  | .scr o | .grove o | .stack o | .ws o => BitVec.ofNat 64 o
  | .aperture => 0

/-- Where a run of a command's writes stands: its address, its bytes, or why they cannot be reached, and the leaf
entries of its pages. -/
structure RunAt where
  va : DWord
  locs : Except Halt (List Loc)
  ptes : List Nat

/-- Write runs in order; the first one that must wait for sectors stops them, and its address and bytes are the
answer. -/
def State.writeAll (s : State) (w : Writer) :
    List ((DWord × List Loc) × List Nat × List Byte) → Except (DWord × List Loc) State
  | [] => .ok s
  | (l, p, v) :: r =>
    match ((s.clearRcl p).clearShadow l.2).writeRuns w l.2.length l.2 v with
    | some s' => s'.writeAll w r
    | none => .error l

/-- The die of the first byte in memory of some bytes. -/
def dieOfLocs (l : List Loc) : Nat :=
  (l.findSome? fun x => match x with
    | .mem a => some (dieOfPa a)
    | _ => none).getD 0

/-- The blocks of some bytes in memory. -/
def blocksOfLocs (l : List Loc) : List Nat := (l.filterMap fun x => match x with
  | .mem a => some (a / 256)
  | _ => none).eraseDups

/-- The writes of a command at offsets from a place, in order. A fault leaves each 64-byte piece either
written or unchanged, and which one is open (R197). -/
def State.writeOut (s : State) (w : Writer) (at_ : Int → Nat → RunAt) (ps : List (Int × List Byte)) : Written :=
  let rs := (ps.map fun p => cutAll p.1 p.2).flatten.map fun p => (at_ p.1 p.2.length, p.2)
  match rs.findSome? fun r => match r.1.locs with
    | .error (.absent va) => some va
    | _ => none with
  | some va => .absent va
  | none =>
    match rs.findSome? fun r => match r.1.locs with
      | .error (.trap c va) => some (c, va)
      | _ => none with
    | some (c, va) =>
      let some_ := (rs.mapIdx fun i r => (i, r)).filterMap fun r => match r.2.1.locs with
        | .ok l => if Config.pick s.free (2 ^ 40 + r.1) then some ((r.2.1.va, l), r.2.1.ptes, r.2.2) else none
        | .error _ => none
      match s.writeAll w some_ with
      | .ok s' => .fault c va { s' with free := s.free + 1 }
      | .error _ => .fault c va { s with free := s.free + 1 }
    | none =>
      let ls := rs.filterMap fun r => match r.1.locs with
        | .ok l => some ((r.1.va, l), r.1.ptes, r.2)
        | .error _ => none
      match s.writeAll w ls with
      | .ok s' => .done s'
      | .error l => .wait (dieOfLocs l.2) (blocksOfLocs l.2) l.1

/-! ## Shape records -/

/-- The 64 bytes of a record and the fields that commands use (R294, R295). -/
abbrev ShapeRec := List Byte

def rCtl (r : ShapeRec) : Nat := field r 0 4
def rFmt (r : ShapeRec) : Fmt := Fmt.ofCode (BitVec.ofNat 4 (bits (rCtl r) 0 4))
def rTight (r : ShapeRec) : Bool := bits (rCtl r) 7 1 == 1
def rSk (r : ShapeRec) : Nat := bits (rCtl r) 8 2
def rGs (r : ShapeRec) : Nat := bits (rCtl r) 10 2
def rCodec (r : ShapeRec) : Nat := bits (rCtl r) 12 2
def rExp (r : ShapeRec) : Nat := bits (rCtl r) 14 2
def rId (r : ShapeRec) : Nat := bits (rCtl r) 16 12
def rExt (r : ShapeRec) (d : Nat) : Nat :=
  match d with
  | 0 => field r 0x04 4
  | 1 => field r 0x08 4
  | 2 => field r 0x18 4
  | 3 => field r 0x1C 4
  | _ => field r 0x30 4
def rSpitch (r : ShapeRec) : Nat := field r 0x0C 4
def rStr (r : ShapeRec) (d : Nat) : Int :=
  match d with
  | 1 => signed (field r 0x10 8) 64
  | 2 => signed (field r 0x20 8) 64
  | 3 => signed (field r 0x28 8) 64
  | _ => signed (field r 0x38 8) 64
def rScb (r : ShapeRec) : Int := signed (field r 0x34 4) 32

/-- Bits of an element, 6-bit formats counted as 8 (R297). -/
def slotWidth (f : Fmt) : Nat := if f.width = 6 then 8 else f.width

/-- Group size in elements (R295). -/
def rGroup (r : ShapeRec) : Nat :=
  if rSk r = 1 then (if rGs r = 0 then 32 else 16) else 32 * 2 ^ rGs r

/-- Row length in scratchpad (R297). -/
def rRowScr (r : ShapeRec) : Nat := (rExt r 0 * slotWidth (rFmt r) + 7) / 8

/-- Row length in memory (R297). -/
def rRowMem (r : ShapeRec) : Nat := if rTight r then rExt r 0 * 6 / 8 else rRowScr r

/-- Bytes of one scale (R297). -/
def rScaleBytes (r : ShapeRec) : Nat :=
  match rSk r with
  | 1 => 1
  | 2 => 2
  | 3 => 4
  | _ => 0

/-- Scales of a row (R297). -/
def rRowScales (r : ShapeRec) : Nat := if rSk r = 0 then 0 else rExt r 0 / rGroup r

/-- Bytes of the scales of a tile. -/
def rTileScales (r : ShapeRec) : Nat := rExt r 1 * rRowScales r * rScaleBytes r

/-- Bytes of a tile with its scales in scratchpad. -/
def rTileScr (r : ShapeRec) : Nat := rExt r 1 * rSpitch r + rTileScales r

/-- The formats that group scales apply to (R112). -/
def Fmt.hasGroup : Fmt → Bool
  | .i8 | .i4 | .d8 | .e4m3 | .e5m2 | .e2m3 | .e3m2 | .e2m1 => true
  | _ => false

/-- SK, FMT and GS form a pairing of R112. -/
def rScaleOk (r : ShapeRec) : Bool :=
  match rSk r with
  | 0 => rGs r == 0
  | 1 => (rFmt r).hasScale && decide (rGs r ≤ 1) && rExt r 0 % rGroup r == 0
  | _ => Fmt.hasGroup (rFmt r) && rExt r 0 % rGroup r == 0

/-- A record is usable under an id (R296). -/
def usable (r : ShapeRec) (id : Nat) : Bool :=
  bits (rCtl r) 28 4 == 0 && bits (rCtl r) 4 3 == 0 && rId r == id && bits (rCtl r) 0 4 != 15 &&
    decide (rCodec r ≤ 1) && (!rTight r || ((rFmt r).width == 6 && rExt r 0 % 4 == 0)) && rScaleOk r &&
    decide (rRowScr r ≤ rSpitch r) && rSpitch r % 16 == 0 &&
    [0, 1, 2, 3, 4].all fun d => decide (1 ≤ rExt r d)

/-- Offset of a tile from the base, or none outside the tensor (R297). -/
def tileOff (r : ShapeRec) (t : Nat) : Option Int :=
  let i2 := t % rExt r 2
  let i3 := t / rExt r 2 % rExt r 3
  let i4 := t / (rExt r 2 * rExt r 3)
  let term (d i : Nat) : Int := if rExt r d = 1 then 0 else (i : Int) * rStr r d
  if rExt r 4 ≤ i4 then none else some (term 2 i2 + term 3 i3 + term 4 i4)

/-- Stride between rows in memory: not used with one row (R296). -/
def rPitch (r : ShapeRec) : Int := if rExt r 1 = 1 then 0 else rStr r 1

/-- Read a record of a context's shape table (R293): none for an id that no image has installed. -/
def State.shapeRec (s : State) (ctx id : Nat) : Except Halt (Option ShapeRec) :=
  match s.ctx ctx with
  | none => .ok none
  | some c =>
    if c.shapes.any fun x => x.1 == id then
      ((runVa s c.ptroot (c.shtab + BitVec.ofNat 64 (64 * id)) 64 false).bind s.readUnit).map some
    else .ok none

/-! ## Leaf-coded buffers -/

/-- The header of a leaf-coded buffer suits a record (R303). -/
def leafHeader (h : List Byte) (r : ShapeRec) : Bool :=
  field h 0 4 == 0x4C464231 && bits (field h 4 1) 2 6 == 0 && bits (field h 4 1) 0 2 == rExp r &&
    zeros h 5 59

/-- Decode the slot of a leaf tile (R300, R303). -/
def leafSlot (e : List Byte) : Except Halt (List Byte) :=
  if 160 < field e 2 2 then .error (.trap 0x12 0)
  else
    match leafDecode e with
    | some v => .ok v
    | none => .error (.trap 0x12 0)

/-- Bytes of a leaf-coded buffer, by offset into its decoded bytes (R297, R303). `rd` reads encoded
bytes. -/
def leafRead (rd : Int → Nat → Except Halt (List Byte)) (r : ShapeRec) (off : Int) (n : Nat) :
    Except Halt (List Byte) :=
  if off < 0 then .error (.trap 0x12 0)
  else
    (rd 0 64).bind fun h =>
      if !leafHeader h r then .error (.trap 0x12 0)
      else if n = 0 then .ok []
      else
        let o := off.toNat
        let j0 := o / 256
        let cnt := (o + n - 1) / 256 - j0 + 1
        ((List.range cnt).foldl (fun (a : Except Halt (List Byte)) i => a.bind fun acc =>
          (rd (64 + 160 * ((j0 + i : Nat) : Int)) 160).bind fun e => (leafSlot e).map (acc ++ ·))
            (.ok [])).map fun l => (l.drop (o % 256)).take n

/-- Read bytes of a tensor at an offset, through its codec (R304). -/
def tensorRead (rd : Int → Nat → Except Halt (List Byte)) (r : ShapeRec) (off : Int) (n : Nat) :
    Except Halt (List Byte) :=
  if rCodec r = 1 then leafRead rd r off n else rd off n

/-! ## Rows -/

/-- Tight 6-bit elements to padded bytes (R111). -/
def padRow (v : List Byte) (n : Nat) : List Byte :=
  let x := leNat v
  (List.range n).map fun i => BitVec.ofNat 8 (bits x (6 * i) 6)

/-- Padded bytes to tight 6-bit elements (R111). -/
def tightRow (v : List Byte) (n : Nat) : List Byte :=
  leBytes (packBits 6 ((v.take n).map (·.toNat))) (n * 6 / 8)

/-- Padded bytes as an engine writes them: bits [7:6] are 0 (R111). -/
def cleanRow (r : ShapeRec) (v : List Byte) : List Byte :=
  if (rFmt r).width = 6 then v.map (· &&& 0x3F) else v

/-- A row as it lies in scratchpad from its bytes in memory. -/
def rowIn (r : ShapeRec) (v : List Byte) : List Byte :=
  if rTight r then padRow v (rExt r 0) else cleanRow r v

/-- A row as it lies in memory from its bytes in scratchpad. -/
def rowOut (r : ShapeRec) (v : List Byte) : List Byte :=
  if rTight r then tightRow v (rExt r 0) else cleanRow r v

/-- The rows of a tile, in scratchpad form, and its scale bytes. -/
structure TileData where
  rows : List (List Byte)
  scales : List Byte
  deriving DecidableEq, Repr

/-- Collect results in order. -/
def collect {α : Type} : List (Except Halt α) → Except Halt (List α)
  | [] => .ok []
  | x :: r => x.bind fun v => (collect r).map (v :: ·)

/-- Read a tile of a tensor in memory (R297, R307); a tile outside the tensor is a decode error (R308). -/
def readTile (rd : Int → Nat → Except Halt (List Byte)) (r : ShapeRec) (t : Nat) :
    Except Halt TileData :=
  match tileOff r t with
  | none => .error (.trap 0x12 0)
  | some o =>
    (collect ((List.range (rExt r 1)).map fun i =>
      (tensorRead rd r (o + (i : Int) * rPitch r) (rRowMem r)).map (rowIn r))).bind fun rows =>
        (if rSk r = 0 then .ok [] else tensorRead rd r (o + rScb r) (rTileScales r)).map fun sc =>
          { rows := rows, scales := sc }

/-- The writes of a tile into memory, by offset from the base (R297, R307). -/
def tileWrites (r : ShapeRec) (t : Nat) (d : TileData) : Except Halt (List (Int × List Byte)) :=
  match tileOff r t with
  | none => .error (.trap 0x12 0)
  | some o =>
    .ok ((d.rows.mapIdx fun i v => (o + (i : Int) * rPitch r, rowOut r v)) ++
      if rSk r = 0 then [] else [(o + rScb r, d.scales)])

/-- Element `c` of a row in scratchpad form (R110). -/
def rowElem (f : Fmt) (row : List Byte) (c : Nat) : Nat :=
  let w := slotWidth f
  let x := field row (c * w / 8) ((w + 7) / 8)
  bits x (c * w % 8) f.width

/-- A row in scratchpad form from its elements (R110, R111). -/
def rowOf (f : Fmt) (es : List Nat) : List Byte :=
  leBytes (packBits (slotWidth f) (es.map (· % 2 ^ f.width))) ((es.length * slotWidth f + 7) / 8)

end Sys2Proof.Machine
end

