-- ==== Sys2Proof/Machine/Matrix.lean ====
section
/-!
DEFINITION. The matrix unit (chapter 10): claiming and releasing slots, convergence registers, the
matrix sequencer, transfers between slots, accumulators and memory, and the multiply.
-/

namespace Sys2Proof.Machine

/-! ## State of a core -/

def Core.tile (c : Core) (n : Nat) : Tile := c.tiles.toArray.getD n .blank
def Core.setTile (c : Core) (n : Nat) (x : Tile) : Core := { c with tiles := c.tiles.setIfInBounds n x }
def Core.acc (c : Core) (n : Nat) : Acc := c.accs.toArray.getD n .blank
def Core.setAcc (c : Core) (n : Nat) (x : Acc) : Core := { c with accs := c.accs.setIfInBounds n x }
def Core.setOwner (c : Core) (n : Nat) (o : Option Nat) : Core := { c with owners := c.owners.setIfInBounds n o }

/-- The core of the band that issues. -/
def State.myCore (s : State) : Core := s.core s.me.core

/-- The crew of the band that issues holds a slot, and with it kN and, for even N, a(N/2) (R182). -/
def State.holds (s : State) (n : Nat) : Bool := s.myCore.owner n == some s.me.crew

/-- The slots of a mask. -/
def slotsOf (m : BitVec 16) : List Nat := (List.range 16).filter fun n => m.getLsbD n

/-- The slots that a crew holds. -/
def Core.heldBy (c : Core) (ci : Nat) : List Nat := (List.range 16).filter fun n => c.owner n == some ci

/-- Bytes as storage of a slot or an accumulator. -/
def imageOf (l : List Byte) : Memory := ((l.mapIdx fun i b => (i, b)).filter fun c => c.2 != 0)

/-- Bytes that are not specified. -/
def State.freeBytes (s : State) (key n : Nat) : List Byte :=
  (List.range n).map fun i => Config.freeByte s.free (key * 2 ^ 16 + i)

/-! ## Tags (R186) -/

def tagFmt (t : Word) : Fmt := Fmt.ofCode (BitVec.ofNat 4 (bits t.toNat 0 4))
def tagV (t : Word) : Bool := t.getLsbD 5
def tagSk (t : Word) : Nat := bits t.toNat 6 2
def tagBlk (t : Word) : Nat := bits t.toNat 8 1

/-- The formats that a slot can hold (R186). -/
def Fmt.slots : Fmt → Bool
  | .f16 | .bf16 | .e4m3 | .e5m2 | .e2m3 | .e3m2 | .e2m1 | .i8 | .i4 | .d8 => true
  | _ => false

/-- The formats that an E8M0 block scale can go with (R112, R186). -/
def Fmt.blocked : Fmt → Bool
  | .e4m3 | .e5m2 | .e2m3 | .e3m2 | .e2m1 | .i8 | .i4 => true
  | _ => false

/-- A tag follows R186. -/
def tagOk (t : Word) : Bool :=
  bits t.toNat 9 23 == 0 && !t.getLsbD 4 && decide (tagSk t ≤ 1) && (tagSk t == 1 || tagBlk t == 0) &&
    (!tagV t || (Fmt.slots (tagFmt t) && (tagSk t == 0 || Fmt.blocked (tagFmt t))))

/-- The tag that a record gives a slot (R195). -/
def tagOfRec (r : ShapeRec) : Word :=
  BitVec.ofNat 32 (bits (rCtl r) 0 4 + 2 ^ 5 + rSk r * 2 ^ 6 +
    (if rSk r = 1 ∧ rGroup r = 16 then 2 ^ 8 else 0))

/-- K of a format (R184). -/
def chunkK (f : Fmt) : Nat := 512 / slotWidth f

/-! ## The sequencer (R189) -/

/-- A slot, an accumulator or a convergence register that a command names; 40 stands for the draw
unit. -/
def resSlot (n : Nat) : Nat := n
def resAcc (n : Nat) : Nat := 16 + n
def resConv (n : Nat) : Nat := 24 + n

/-- What is tied to a slot (R182). -/
def resTied (n : Nat) : List Nat := [resSlot n, resConv n] ++ if n % 2 = 0 then [resAcc (n / 2)] else []

/-- What a command names. -/
def SeqOp.touches : SeqOp → List Nat
  | .ldt os .. | .stt os .. | .segrd os _ => [resSlot os.toNat]
  | .accz a | .accld a .. | .accst a .. => [resAcc a.toNat]
  | .mxsave _ _ held _ | .mxrest _ _ held => (held.map resTied).flatten
  | .rels m => ((slotsOf m).map resTied).flatten
  | .mma k g _ => [resConv k.toNat, resAcc g.acc.toNat, resSlot g.oa.toNat, resSlot g.ob.toNat]
  | .draw _ _ a _ => [40, resAcc a.toNat]
  | .accept _ p q' _ _ => [40, resAcc p.toNat, resAcc q'.toNat]

/-- No earlier command names the same state. -/
def Core.atTurn (c : Core) (q : SeqCmd) : Bool :=
  (c.seq.takeWhile fun e => e.id != q.id).all fun e => e.op.touches.all fun r => !q.op.touches.contains r

/-- SUB of a command (R65). -/
def SeqOp.sub : SeqOp → Nat
  | .ldt .. => 0x04
  | .stt .. => 0x05
  | .accz _ => 0x08
  | .accld .. => 0x09
  | .accst .. => 0x0A
  | .mxsave .. => 0x0C
  | .mxrest .. => 0x0D
  | .rels _ => 0x01
  | .mma _ g _ => mmaSub g.ta g.tb
  | .draw .. => 0x10
  | .accept .. => 0x11
  | .segrd .. => 0

/-- Remove a command. -/
def State.dropSeq (s : State) (core id : Nat) : State :=
  let c := s.core core
  s.setCore { c with seq := c.seq.filter fun q => q.id != id }

/-- A word enters the sequencer (R189). -/
def State.enter (s : State) (x : Ex) (f : Flag) (op : SeqOp) : State :=
  let n := s.fresh
  let b := s.me
  let c := n.2.core b.core
  (n.2.setCore { c with seq := c.seq ++ [{ id := n.1, crew := b.crew, band := s.cur, lanes := x.v,
                                            word := x.pc, flag := f, op := op }] }).setMe
    (b.setBusy f .matrix)

/-- What an MXSAVE records of a convergence register follows the commands that entered before it (R189, R204). -/
def Core.recordConv (c : Core) (ci n : Nat) (x : Conv) : Core :=
  { c with seq := c.seq.map fun q => match q.op with
    | .mxsave va p held cs =>
      if q.crew == ci then { q with op := .mxsave va p held (cs.map fun e => if e.1 == n then (n, x) else e) } else q
    | _ => q }

/-- A slot released by a command that entered before an MXSAVE or an MXREST is not held for it (R189, R204). -/
def Core.recordRelease (c : Core) (ci n : Nat) : Core :=
  { c with seq := c.seq.map fun q => match q.op with
    | .mxsave va p held cs => if q.crew == ci then { q with op := .mxsave va p (held.filter (· != n)) cs } else q
    | .mxrest va p held => if q.crew == ci then { q with op := .mxrest va p (held.filter (· != n)) } else q
    | _ => q }

/-- RELS takes effect (R193). -/
def State.release (s : State) (core ci : Nat) (m : BitVec 16) : State :=
  (slotsOf m).foldl (fun s n =>
    let c := s.core core
    let x := c.conv n
    if c.owner n == some ci then
      (s.setCore (((c.setConv n .blank).setOwner n none).recordRelease ci n)).failSigners ci n x.sub
    else s) s

/-- The effect of a command that nothing delays. -/
def State.promptOne (s : State) (core : Nat) (q : SeqCmd) : State :=
  match q.op with
  | .accz a => (s.setCore ((s.core core).setAcc a.toNat .blank)).dropSeq core q.id
  | .rels m => (s.release core q.crew m).dropSeq core q.id
  | _ => s

/-- Carry out ACCZ and RELS commands whose turn has come. -/
def State.promptSeq (s : State) (core : Nat) : State :=
  (s.core core).seq.foldl (fun s q =>
    if q.op.prompt && s.seqRuns q && (s.core core).atTurn q then s.promptOne core q else s) s

/-! ## Traps at issue (R190) -/

/-- The checks at issue: code 0x10, then the address and its alignment. -/
def mxTrap (bad : Bool) (sub align : Nat) (a : Reg) (s : State) (x : Ex) : Option Trap :=
  let va := s.me.rg2 x x.low a
  if bad then some (syncTrap 0x10 sub 0 x.pc)
  else if !canonical va then some (syncTrap 0x0A 0 va x.pc)
  else if va.toNat % align != 0 then some (syncTrap 0x06 0 va x.pc)
  else none

/-! ## Claiming and releasing (R192, R193) -/

/-- The slot has no owner, and no command that entered earlier is left on what a grant of it resets (R183,
R189, R192). -/
def Core.slotFree (c : Core) (n : Nat) : Bool :=
  (c.owner n).isNone && !c.seq.any fun q => q.op.touches.any fun r => (resTied n).contains r

/-- Every slot of a mask is free. -/
def Core.slotsFree (c : Core) (m : BitVec 16) : Bool := (slotsOf m).all c.slotFree

/-- Grant the slots of a mask to a crew, reset as R183 states. -/
def Core.grant (c : Core) (ci : Nat) (m : BitVec 16) : Core :=
  (slotsOf m).foldl (fun c n =>
    let c := ((c.setTile n .blank).setConv n .blank).setOwner n (some ci)
    if n % 2 = 0 then c.setAcc (n / 2) .blank else c) c

def claimTrap (s : State) (x : Ex) : Option Trap :=
  if (s.myCore.heldBy s.me.crew).isEmpty then none else some (syncTrap 0x10 0 0 x.pc)

def execClaim (h : Hdr) (mask : BitVec 16) (s : State) : Host.Outcome State Fault Refusal :=
  .next (runWord (.claim h mask) (allLanes claimTrap) (fun x s =>
    let c := s.myCore
    if c.claimQ.isEmpty && c.slotsFree mask then s.setCore (c.grant s.me.crew mask)
    else
      (s.setCore { c with claimQ := c.claimQ ++ [s.cur] }).setMe
        { s.me with block := some (.claim mask x.v x.pc) }) s)

/-- The oldest waiting CLAIM of a core is granted, or gives up its place because its crew now holds a
slot (R192). -/
def State.claimNext (s : State) (core : Nat) : State :=
  let c := s.core core
  match c.claimQ with
  | [] => s
  | bi :: r =>
    let b := s.band bi
    match b.block with
    | some (.claim m lanes word) =>
      if !(c.heldBy b.crew).isEmpty then
        (s.setCore { c with claimQ := r }).setBand bi
          { ((lanesOf lanes).foldl (fun b t =>
              if (b.lane t).live then b.raise t word (syncTrap 0x10 0 0 word) else b) b) with block := none }
      else if c.slotsFree m then
        (s.setCore { c.grant b.crew m with claimQ := r }).setBand bi { b with block := none }
      else s
    | _ => s.setCore { c with claimQ := r }

def execClaimGrant (core : Nat) (s : State) : Host.Outcome State Fault Refusal := .next (s.claimNext core)

def relsTrap (m : BitVec 16) (s : State) (x : Ex) : Option Trap :=
  if (slotsOf m).all s.holds then none else some (syncTrap 0x10 1 0 x.pc)

def execRels (h : Hdr) (mask : BitVec 16) (s : State) : Host.Outcome State Fault Refusal :=
  .next (runWord (.rels h mask) (allLanes (relsTrap mask)) (fun x s =>
    (s.enter x 15 (.rels mask)).promptSeq s.me.core) s)

/-! ## Convergence registers (R199, R200) -/

/-- The live lanes of a crew named by a band mask and a lane mask, as (band number, lane). -/
def State.members (s : State) (ci bands lanes : Nat) : List (Nat × Nat) :=
  match s.crew ci with
  | some c =>
    (c.bands.map fun bi =>
      let b := s.band bi
      if bits bands b.num 1 == 1 then
        ((List.range 32).filter fun t => bits lanes t 1 == 1 && (b.lane t).live).map fun t => (b.num, t)
      else []).flatten
  | none => []

/-- The set that KSET declares. -/
def ksetSet (s : State) (x : Ex) (a b : SReg) : List (Nat × Nat) :=
  s.members s.me.crew (bits (s.me.ru x a).toNat 0 16) (s.me.ru x b).toNat

def ksetTrap (k : BitVec 4) (a b : SReg) (s : State) (x : Ex) : Option Trap :=
  let v := s.myCore.conv k.toNat
  if !s.holds k.toNat || bits (s.me.ru x a).toNat 16 16 != 0 || (ksetSet s x a b).isEmpty ||
      (decide (v.st = .armed) && !v.signed.isEmpty) then
    some (syncTrap 0x10 2 0 x.pc)
  else none

def execKset (h : Hdr) (k : BitVec 4) (a b : SReg) (s : State) : Host.Outcome State Fault Refusal :=
  .next (runWord (.kset h k a b) (allLanes (ksetTrap k a b)) (fun x s =>
    s.setCore (s.myCore.setConv k.toNat
      { st := .armed, declared := ksetSet s x a b, signed := [], sig := none })) s)

/-- How the lanes of an MMA sign, in ascending order: the register, the lanes that trap, and whether a
lane broke the register (R200). -/
structure Signing where
  conv : Conv
  traps : List Nat
  broken : Bool
  deriving DecidableEq, Repr

/-- One lane signs. -/
def Signing.lane (g : MmaSig) (held : Bool) (num : Nat) (w : Signing) (t : Nat) : Signing :=
  let c := w.conv
  if !held || c.st != .armed || !c.declared.contains (num, t) then { w with traps := w.traps ++ [t] }
  else if c.sig.isSome && c.sig != some g then
    { conv := { c with st := .broken, signed := [], sig := none }, traps := w.traps ++ [t], broken := true }
  else { w with conv := { c with sig := some g, signed := c.signed ++ [(num, t)] } }

/-- The signing of an MMA by the lanes of a mask. -/
def State.signing (s : State) (k : Nat) (g : MmaSig) (lanes : BitVec 32) : Signing :=
  let held := s.holds k && s.holds g.oa.toNat && s.holds g.ob.toNat && s.holds (2 * g.acc.toNat)
  (lanesOf lanes).foldl (Signing.lane g held s.me.num)
    { conv := s.myCore.conv k, traps := [], broken := false }

/-- Every declared member has signed. -/
def Conv.complete (c : Conv) : Bool :=
  decide (c.st = .armed) && !c.declared.isEmpty && c.declared.all c.signed.contains

/-- The lanes that have signed wait; a complete register enters the MMA (R200). -/
def State.sign (s : State) (x : Ex) (k : BitVec 4) (g : MmaSig) (w : Signing) : State :=
  let s1 := s.setMe (s.me.wait x x.v fun _ => .mma k)
  let c := s.myCore
  if w.broken then s1
  else if w.conv.complete then
    (s1.setCore (c.setConv k.toNat { w.conv with signed := [], sig := none })).enter { x with v := 0 } 15
      (.mma k g (ftzOf (s.me.fpBy x.now)))
  else s1.setCore (c.setConv k.toNat w.conv)

def execMma (h : Hdr) (ta tb : Bool) (k : BitVec 4) (acc : BitVec 3) (oa ob : BitVec 4) (s : State) :
    Host.Outcome State Fault Refusal :=
  let i : Instr := .mma h ta tb k acc oa ob
  let g : MmaSig := { ta := ta, tb := tb, acc := acc, oa := oa, ob := ob }
  let x := s.ex h
  let w := s.signing k.toNat g x.v
  let ok := (preciseTraps s x i).isEmpty
  let s1 := runWord i (fun _ x t =>
      if w.traps.contains t then some (syncTrap 0x10 (mmaSub ta tb) 0 x.pc) else none)
    (fun x s => s.sign x k g w) s
  .next (if ok && w.broken then s1.breakConv s.me.core k.toNat else s1)

/-! ## The multiply (R185, R187, R201, R202, R114) -/

/-- An element of a slot in its row or column view (R184). -/
def Tile.elem (x : Tile) (f : Fmt) (column : Bool) (r c : Nat) : Nat :=
  let w := slotWidth f
  let o := (if column then 4 * w * r else 64 * r) + c * w / 8
  bits (x.data.readLE o ((w + 7) / 8)) (c * w % 8) f.width

/-- The value of element k of outer index i, with its block scale (R113, R187). -/
def Tile.value (x : Tile) (ftz column : Bool) (i k : Nat) : Fp :=
  let f := tagFmt x.tag
  let v := f.val ftz (if column then x.elem f true k i else x.elem f false i k)
  if tagSk x.tag = 1 then
    let blk := if tagBlk x.tag = 1 then 16 else 32
    let c := (x.scale.read (i * (chunkK f / blk) + k / blk)).toNat
    if c = 0xFF then Fp.qnan else v.mul (Fp.pow2 ((c : Int) - 127))
  else v

/-- The class of a format in R201. -/
def Fmt.mmaClass : Fmt → Nat
  | .f16 | .bf16 => 1
  | .e4m3 | .e5m2 | .e2m3 | .e3m2 | .i8 => 2
  | .d8 => 3
  | .e2m1 | .i4 => 4
  | _ => 0

/-- The accumulator state that a pairing calls for, or none outside R201. -/
def pairing (a b : Word) : Option AccSt :=
  let fa := tagFmt a
  let fb := tagFmt b
  let plain := tagSk a == 0 && tagSk b == 0
  match Fmt.mmaClass fa, Fmt.mmaClass fb with
  | 1, 1 => some .f
  | 2, 2 => some (if fa = .i8 ∧ fb = .i8 ∧ plain = true then .i else .f)
  | 3, 2 | 2, 3 | 3, 3 => some .f
  | 4, 4 => some (if fa = .i4 ∧ fb = .i4 ∧ plain = true then .i else .f)
  | _, _ => none

/-- Element (i, j) of an accumulator: bits as held, zero in the Z state (R188). -/
def Acc.elem (x : Acc) (i j : Nat) : Nat := if x.st = .z then 0 else x.data.readLE (128 * i + 4 * j) 4

/-- A chunk: the exact sum of its products, NaN and infinities as R114 says; products that are all −0 sum to −0
(R109). -/
def chunkSum : List Fp → Fp
  | [] => Fp.zero
  | p :: ps => ps.foldl Fp.add p

/-- One output of an MMA in FP32 (R114). -/
def mmaF (ftz : Bool) (v : Nat) (chunks : List (List Fp)) : Nat :=
  chunks.foldl (fun v ps =>
    let w := (fF32.round .rne ftz (chunkSum ps)).1
    (fF32.round .rne ftz ((fF32.val ftz v).add (fF32.val ftz w))).1) v

/-- One output of an MMA in i32 (R114). -/
def mmaI (v : Nat) (chunks : List (List Fp)) : Nat :=
  let f := chunks.foldl (fun (v : Int) ps =>
    satInt (v + (chunkSum ps).units 0) (-2147483648) 2147483647) (signed v 32)
  Fmt.i32.intCode f

/-- The accumulator after an MMA on two tiles (R201, R202). -/
def mmaAcc (g : MmaSig) (ftz : Bool) (a b : Tile) (st : AccSt) (x : Acc) : Acc :=
  let fa := tagFmt a.tag
  let k := chunkK fa
  let c := if Fmt.mmaClass fa = 1 then 8 else 32
  let av := ((List.range 32).map fun i => ((List.range k).map fun kk => a.value ftz g.ta i kk).toArray).toArray
  let bv := ((List.range 32).map fun j => ((List.range k).map fun kk => b.value ftz g.tb j kk).toArray).toArray
  let row (v : Array (Array Fp)) (i : Nat) : Array Fp := v.getD i #[]
  let out (i j : Nat) : Nat :=
    let chunks := (List.range (k / c)).map fun q => (List.range c).map fun kk =>
      ((row av i).getD (q * c + kk) Fp.zero).mul ((row bv j).getD (q * c + kk) Fp.zero)
    if st = .i then mmaI (x.elem i j) chunks else mmaF ftz (x.elem i j) chunks
  { st := st, data := imageOf (((List.range 32).map fun i =>
      ((List.range 32).map fun j => leBytes (out i j) 4).flatten).flatten) }

/-- The checks of an MMA at its entry (R202): the accumulator state it gives, or none. -/
def Core.mmaState (c : Core) (g : MmaSig) : Option AccSt :=
  let ta := (c.tile g.oa.toNat).tag
  let tb := (c.tile g.ob.toNat).tag
  let x := c.acc g.acc.toNat
  if tagV ta && tagV tb then
    match pairing ta tb with
    | some .i => if x.st = .f then none else some .i
    | some .f => if x.st = .i then none else some .f
    | _ => none
  else none

/-- The sequencer checks an entered MMA, computes it, and resumes or traps its signers (R200, R202). -/
def State.checkMma (s : State) (core : Nat) (q : SeqCmd) (k : BitVec 4) (g : MmaSig) (ftz : Bool) : State :=
  let c := s.core core
  match c.mmaState g with
  | some st =>
    let x := mmaAcc g ftz (c.tile g.oa.toNat) (c.tile g.ob.toNat) st (c.acc g.acc.toNat)
    ((s.setCore (c.setAcc g.acc.toNat x)).mapCrew q.crew fun _ b =>
      b.wake (b.lanesIn fun l => decide (l = .waiting (.mma k)))).dropSeq core q.id
  | none =>
    let v := c.conv k.toNat
    let broken : Conv := { v with st := .broken, signed := [], sig := none }
    ((s.setCore ((c.setConv k.toNat broken).recordConv q.crew k.toNat broken)).failSigners q.crew
      k.toNat (mmaSub g.ta g.tb)).dropSeq core q.id

/-- The oldest MMA of a core whose turn has come. -/
def State.nextMma (s : State) (core : Nat) : Option (SeqCmd × BitVec 4 × MmaSig × Bool) :=
  (s.core core).seq.findSome? fun q => match q.op with
    | .mma k g ftz => if s.seqRuns q && (s.core core).atTurn q then some (q, k, g, ftz) else none
    | _ => none

def execMmaCheck (core : Nat) (s : State) : Host.Outcome State Fault Refusal :=
  .next (match s.nextMma core with
    | some (q, k, g, ftz) => (s.checkMma core q k g ftz).promptSeq core
    | none => s)

/-! ## Transfers (R194 to R198) -/

/-- A record is usable for LDT, or for STT: each 6-bit element takes a padded byte (R194). -/
def usableTile (r : ShapeRec) (id : Nat) (store : Bool) : Bool :=
  usable r id && Fmt.slots (rFmt r) && rExt r 0 == chunkK (rFmt r) && rExt r 1 == 32 &&
    !rTight r && decide (rStr r 1 % 16 = 0) && rExt r 2 == 1 && rExt r 3 == 1 && rExt r 4 == 1 &&
    decide (rSk r ≤ 1) && (rCodec r == 0 || (!store && rExp r == 3))

/-- The record that a tile word names, if its slot is held (R194). -/
def tileRec (os : BitVec 4) (shape : BitVec 12) (s : State) : Except Halt (Option ShapeRec) :=
  if s.holds os.toNat then s.shapeRec (s.ctxOf s.me) shape.toNat else .ok none

/-- The record cannot be read yet. -/
def shapePage (os : BitVec 4) (shape : BitVec 12) (s : State) (_ : Ex) : Option (Option DWord) :=
  match tileRec os shape s with
  | .error h => h.waits
  | _ => none

/-- The usable record of a tile word. -/
def tileShape (os : BitVec 4) (shape : BitVec 12) (store : Bool) (s : State) : Option ShapeRec :=
  match tileRec os shape s with
  | .ok (some r) => if usableTile r shape.toNat store then some r else none
  | _ => none

/-- LDT and STT at issue. -/
def tileWord (i : Instr) (store : Bool) (sub : Nat) (sb : Flag) (os : BitVec 4) (a : Reg)
    (shape : BitVec 12) (s : State) : State :=
  pagedWord i (shapePage os shape)
    (allLanes fun s x => mxTrap (tileShape os shape store s).isNone sub 16 a s x)
    (fun x s =>
      let va := s.me.rg2 x x.low a
      let p := resolve s s.me .gen va
      let r := (tileShape os shape store s).getD []
      (s.touchPlace p).enter x sb (if store then .stt os va p r else .ldt os va p r)) s

def execLdt (h : Hdr) (sb : Flag) (os : BitVec 4) (a : Reg) (shape : BitVec 12) (s : State) :
    Host.Outcome State Fault Refusal :=
  .next (tileWord (.ldt h sb os a shape) false 0x04 sb os a shape s)

def execStt (h : Hdr) (sb : Flag) (os : BitVec 4) (a : Reg) (shape : BitVec 12) (s : State) :
    Host.Outcome State Fault Refusal :=
  .next (tileWord (.stt h sb os a shape) true 0x05 sb os a shape s)

/-- A word of an accumulator at issue. -/
def accWord (i : Instr) (sub align : Nat) (sb : Flag) (held : State → Bool) (a : Reg)
    (op : State → DWord → Place → SeqOp) (s : State) : State :=
  runWord i (allLanes fun s x => mxTrap (!held s) sub align a s x) (fun x s =>
    let va := s.me.rg2 x x.low a
    let p := resolve s s.me .gen va
    (s.touchPlace p).enter x sb (op s va p)) s

/-- The accumulator is held. -/
def holdsAcc (acc : BitVec 3) (s : State) : Bool := s.holds (2 * acc.toNat)

def execAccz (h : Hdr) (acc : BitVec 3) (s : State) : Host.Outcome State Fault Refusal :=
  .next (runWord (.accz h acc)
    (allLanes fun s x => if holdsAcc acc s then none else some (syncTrap 0x10 8 0 x.pc))
    (fun x s => (s.enter x 15 (.accz acc)).promptSeq s.me.core) s)

def execAccld (h : Hdr) (sb : Flag) (acc : BitVec 3) (a : Reg) (s : State) :
    Host.Outcome State Fault Refusal :=
  .next (accWord (.accld h sb acc a) 0x09 128 sb (holdsAcc acc) a (fun _ va p => .accld acc va p) s)

/-- ACCST with its conversion. -/
def accstWord (i : Instr) (cv : Nat) (sb : Flag) (acc : BitVec 3) (a : Reg) (s : State) : State :=
  accWord i 0x0A 128 sb (holdsAcc acc) a
    (fun s va p => .accst acc va p cv (ftzOf (s.me.fpBy s.cycle))) s

def execAccst (h : Hdr) (sb : Flag) (acc : BitVec 3) (a : Reg) (s : State) :
    Host.Outcome State Fault Refusal :=
  .next (accstWord (.accst h sb acc a) 0 sb acc a s)

def execAccstBf16 (h : Hdr) (sb : Flag) (acc : BitVec 3) (a : Reg) (s : State) :
    Host.Outcome State Fault Refusal :=
  .next (accstWord (.accstBf16 h sb acc a) 1 sb acc a s)

def execAccstF16 (h : Hdr) (sb : Flag) (acc : BitVec 3) (a : Reg) (s : State) :
    Host.Outcome State Fault Refusal :=
  .next (accstWord (.accstF16 h sb acc a) 2 sb acc a s)

/-- The slots that the crew of the band that issues holds. -/
def State.myHeld (s : State) : List Nat := s.myCore.heldBy s.me.crew

def execMxsave (h : Hdr) (sb : Flag) (a : Reg) (s : State) : Host.Outcome State Fault Refusal :=
  .next (accWord (.mxsave h sb a) 0x0C 256 sb (fun _ => true) a (fun s va p =>
    .mxsave va p s.myHeld (s.myHeld.map fun n => (n, s.myCore.conv n))) s)

def execMxrest (h : Hdr) (sb : Flag) (a : Reg) (s : State) : Host.Outcome State Fault Refusal :=
  .next (accWord (.mxrest h sb a) 0x0D 256 sb (fun _ => true) a (fun s va p => .mxrest va p s.myHeld) s)

/-! ## Transfers as they are performed -/

/-- Bytes of a transfer at an offset from its address, as loads of the lowest lane (R191). -/
def State.seqRead (s : State) (q : SeqCmd) (va : DWord) (p : Place) (o : Int) (n : Nat) :
    Except Halt (List Byte) :=
  let b := s.band q.band
  (runBand s b (lowest q.lanes) va (p.add o) n false).bind fun l =>
    if s.readBusy l then .error .busy else .ok (l.map (s.readPlain b.core s.free))

/-- Writes of a transfer at offsets from its address, by an engine thread of the lowest lane. -/
def State.seqWrite (s : State) (q : SeqCmd) (va : DWord) (p : Place) (ps : List (Int × List Byte)) : Written :=
  let b := s.band q.band
  let t := lowest q.lanes
  s.writeOut (s.laneWriter q.band t q.word true)
    (fun o n => ⟨va + BitVec.ofInt 64 o, runBand s b t va (p.add o) n true, ptesBand s b t (p.add o) n⟩) ps

/-- A state after a transfer that reads, or how the transfer fails: the target is then as R197 says. -/
def loaded (r : Except Halt State) (failed : State) : Written :=
  match r with
  | .ok s => .done s
  | .error (.absent va) => .absent va
  | .error (.sectors d l va) => .wait d l va
  | .error .busy => .busy
  | .error (.trap c va) => .fault c va { failed with free := failed.free + 1 }

/-- Address reported for a code: the address operand for a decode error (R355). -/
def haltAddr (va : DWord) : Halt → Halt
  | .trap 0x12 _ => .trap 0x12 va
  | x => x

/-- A failed LDT leaves its slot with contents that are not specified, and a tag of 0 (R186, R197). -/
def State.ldtFailed (s : State) (core os : Nat) : State :=
  s.setCore ((s.core core).setTile os
    { data := imageOf (s.freeBytes 1 2048), scale := imageOf (s.freeBytes 2 256), tag := 0 })

/-- A failed ACCLD leaves its accumulator with contents that are not specified, in state U (R197). -/
def State.accldFailed (s : State) (core acc : Nat) : State :=
  s.setCore ((s.core core).setAcc acc { st := .u, data := imageOf (s.freeBytes 3 4096) })

/-- LDT (R195). -/
def State.doLdt (s : State) (q : SeqCmd) (core : Nat) (os : Nat) (va : DWord) (p : Place) (r : ShapeRec) :
    Written :=
  let rd := s.seqRead q va p
  let rows := collect ((List.range 32).map fun i => tensorRead rd r ((i : Int) * rStr r 1) 64)
  let res := rows.bind fun rows =>
    (if rSk r = 1 then tensorRead rd r (rScb r) (rTileScales r) else .ok []).map fun sc =>
      s.setCore ((s.core core).setTile os
        { data := imageOf rows.flatten,
          scale := if rSk r = 1 then imageOf sc else ((s.core core).tile os).scale, tag := tagOfRec r })
  loaded (match res with
    | .ok s => .ok s
    | .error e => .error (haltAddr va e)) (s.ldtFailed core os)

/-- Bytes of storage of a slot or an accumulator. -/
def bytesOf (m : Memory) (n : Nat) : List Byte := m.readN 0 n

/-- A row of a slot as STT writes it: bits 7 and 6 of a padded byte are 0 (R111). -/
def Tile.row (t : Tile) (r : Nat) : List Byte :=
  (t.data.readN (64 * r) 64).map fun v => if (tagFmt t.tag).width = 6 then v &&& 0x3F else v

/-- STT (R196). DESIGN CHOICE (log entry 125): a 6-bit format and an 8-bit one differ in element width, and the scale
bytes are as many as the record has (R184, R196). -/
def State.doStt (s : State) (q : SeqCmd) (core : Nat) (os : Nat) (va : DWord) (p : Place) (r : ShapeRec) :
    Written :=
  let t := (s.core core).tile os
  if !tagV t.tag || (tagFmt t.tag).width != (rFmt r).width then .fault 0x10 0 s
  else
    s.seqWrite q va p (((List.range 32).map fun (i : Nat) => ((i : Int) * rStr r 1, t.row i)) ++
      if tagSk t.tag = 1 ∧ rSk r = 1 then [(rScb r, bytesOf t.scale (rTileScales r))] else [])

/-- ACCLD (R198). -/
def State.doAccld (s : State) (q : SeqCmd) (core acc : Nat) (va : DWord) (p : Place) : Written :=
  loaded ((s.seqRead q va p 0 4096).map fun l => s.setCore ((s.core core).setAcc acc { st := .u, data := imageOf l }))
    (s.accldFailed core acc)

/-- The bytes of an ACCST (R198, R115). -/
def accBytes (x : Acc) (cv : Nat) (ftz : Bool) : List Byte :=
  ((List.range 1024).map fun e =>
    let v := x.elem (e / 32) (e % 32)
    match cv with
    | 0 => leBytes v 4
    | 1 => leBytes (fBf16.round .rne ftz (fF32.val false v)).1 2
    | _ => leBytes (fF16.round .rne ftz (fF32.val false v)).1 2).flatten

/-- ACCST (R198). -/
def State.doAccst (s : State) (q : SeqCmd) (core acc : Nat) (va : DWord) (p : Place) (cv : Nat) (ftz : Bool) :
    Written :=
  let x := (s.core core).acc acc
  if cv != 0 && decide (x.st = .i) then .fault 0x10 0 s else s.seqWrite q va p [(0, accBytes x cv ftz)]

/-! ## The image of R205 -/

def AccSt.code : AccSt → Nat
  | .z => 0
  | .u => 1
  | .f => 2
  | .i => 3

def AccSt.ofCode (n : Nat) : AccSt :=
  match n with
  | 0 => .z
  | 1 => .u
  | 2 => .f
  | _ => .i

def ConvSt.code : ConvSt → Nat
  | .free => 0
  | .armed => 1
  | .broken => 2

/-- A set of small numbers as a mask. -/
def maskNat (l : List Nat) : Nat := (l.eraseDups.map fun n => 2 ^ n).sum

/-- KREGS of a convergence register: the smallest product of masks that holds its declared set. -/
def Conv.word (c : Conv) : Nat :=
  maskNat (c.declared.map (·.2)) + maskNat (c.declared.map (·.1)) * 2 ^ 32 + c.st.code * 2 ^ 48

/-- A convergence register among those that an MXSAVE has taken. -/
def convAt (cs : List (Nat × Conv)) (n : Nat) : Conv := ((cs.find? fun e => e.1 == n).map (·.2)).getD .blank

/-- The header of the image of a crew: what it held at entry, with its convergence registers as they stood then
(R205). -/
def Core.mxHeader (c : Core) (held : List Nat) (cs : List (Nat × Conv)) : List Byte :=
  let has (n : Nat) : Bool := held.contains n
  leBytes 0x4D585331 4 ++ leBytes (maskNat held) 2 ++
  leBytes (((List.range 8).map fun n => if has (2 * n) then (c.acc n).st.code * 4 ^ n else 0).sum) 2 ++
  leBytes 0 8 ++
  ((List.range 16).map fun n => leBytes (if has n then (c.tile n).tag.toNat else 0) 4).flatten ++
  ((List.range 16).map fun n => leBytes (if has n then (convAt cs n).word else 0) 8).flatten ++
  List.replicate 48 0

/-- The pieces of the image that MXSAVE writes (R204). -/
def Core.mxImage (c : Core) (held : List Nat) (cs : List (Nat × Conv)) : List (Nat × List Byte) :=
  (0, c.mxHeader held cs) ::
  (held.map fun n => (0x100 + 0x900 * n, bytesOf (c.tile n).data 2048 ++ bytesOf (c.tile n).scale 256)) ++
  ((held.filter fun n => n % 2 == 0).map fun n =>
    (0x9100 + 0x1000 * (n / 2),
      if (c.acc (n / 2)).st = .z then List.replicate 4096 0 else bytesOf (c.acc (n / 2)).data 4096))

/-- MXSAVE (R204). -/
def State.doMxsave (s : State) (q : SeqCmd) (core : Nat) (va : DWord) (p : Place) (held : List Nat)
    (cs : List (Nat × Conv)) : Written :=
  s.seqWrite q va p (((s.core core).mxImage held cs).map fun e => ((e.1 : Int), e.2))

/-- The slots that a header names. -/
def mxHeld (h : List Byte) : List Nat := slotsOf (BitVec.ofNat 16 (field h 4 2))
def mxTag (h : List Byte) (n : Nat) : Word := BitVec.ofNat 32 (field h (0x10 + 4 * n) 4)
def mxKreg (h : List Byte) (n : Nat) : Nat := field h (0x50 + 8 * n) 8

/-- The checks of MXREST on a header (R204). DESIGN CHOICE (log entry 126): a state of 3 in KREGS fails them. -/
def mxOk (h : List Byte) (held : List Nat) : Bool :=
  field h 0 4 == 0x4D585331 && zeros h 8 8 && zeros h 0xD0 48 &&
    ((List.range 16).all fun n => tagOk (mxTag h n) && bits (mxKreg h n) 50 14 == 0 &&
      bits (mxKreg h n) 48 2 != 3) &&
    (mxHeld h).all held.contains

/-- What MXREST reads of the image. -/
structure MxImage where
  header : List Byte
  slots : List (Nat × List Byte)
  accs : List (Nat × List Byte)
  deriving DecidableEq, Repr

/-- Restore what an image holds; the conditions of its header stand. -/
def State.mxRestore (s : State) (core ci : Nat) (m : MxImage) : State :=
  let h := m.header
  let s1 := m.slots.foldl (fun s e => s.setCore ((s.core core).setTile e.1
    { data := imageOf (e.2.take 2048), scale := imageOf (e.2.drop 2048), tag := mxTag h e.1 })) s
  let s2 := m.accs.foldl (fun s e => s.setCore ((s.core core).setAcc e.1
    { st := .ofCode (bits (field h 6 2) (2 * e.1) 2), data := imageOf e.2 })) s1
  (mxHeld h).foldl (fun s n =>
    let k := mxKreg h n
    let st : ConvSt := match bits k 48 2 with
      | 0 => .free
      | 1 => .armed
      | _ => .broken
    let x := (s.core core).conv n
    let y : Conv := { st := st, declared := s.members ci (bits k 32 16) (bits k 0 32), signed := [], sig := none }
    (s.setCore (((s.core core).setConv n y).recordConv ci n y)).failSigners ci n x.sub) s2

/-- A failed MXREST leaves its targets with contents that are not specified (R197). DESIGN CHOICE (log entry 126):
these are the slots and accumulators that the header names, and each kN is unchanged. -/
def State.mxFailed (s : State) (core : Nat) (h : List Byte) : State :=
  (mxHeld h).foldl (fun s n =>
    let c := (s.core core).setTile n
      { data := imageOf (s.freeBytes (4 + n) 2048), scale := imageOf (s.freeBytes (20 + n) 256), tag := 0 }
    s.setCore (if n % 2 = 0 then c.setAcc (n / 2) { st := .u, data := imageOf (s.freeBytes (36 + n) 4096) }
      else c)) s

/-- MXREST (R204). DESIGN CHOICE (log entry 126): a fault met while the header is read leaves every target unchanged. -/
def State.doMxrest (s : State) (q : SeqCmd) (core : Nat) (va : DWord) (p : Place) (held : List Nat) : Written :=
  match s.seqRead q va p 0 256 with
  | .error (.absent a) => .absent a
  | .error (.sectors d l va) => .wait d l va
  | .error .busy => .busy
  | .error (.trap c a) => .fault c a s
  | .ok h =>
    if !mxOk h held then .fault 0x10 0 s
    else
      let slots := collect ((mxHeld h).map fun (n : Nat) =>
        (s.seqRead q va p (0x100 + 0x900 * (n : Int)) 0x900).map fun l => (n, l))
      let accs := collect (((mxHeld h).filter fun n => n % 2 == 0).map fun (n : Nat) =>
        (s.seqRead q va p (0x9100 + 0x1000 * (n / 2 : Nat)) 0x1000).map fun l => (n / 2, l))
      loaded (slots.bind fun sl => accs.map fun ac =>
        s.mxRestore core q.crew { header := h, slots := sl, accs := ac }) (s.mxFailed core h)

/-- What a transfer that a fault reply ends leaves of its target (R197, R372). -/
def State.seqFailed (s : State) (core : Nat) (q : SeqCmd) : State :=
  let s1 := match q.op with
    | .ldt os .. => s.ldtFailed core os.toNat
    | .accld a .. => s.accldFailed core a.toNat
    | .mxrest va p held =>
      match s.seqRead q va p 0 256 with
      | .ok h => if mxOk h held then s.mxFailed core h else s
      | .error _ => s
    | _ => s
  { s1 with free := s1.free + 1 }

/-- Perform a transfer. -/
def State.doTransfer (s : State) (q : SeqCmd) (core : Nat) : Written :=
  match q.op with
  | .ldt os va p r => s.doLdt q core os.toNat va p r
  | .stt os va p r => s.doStt q core os.toNat va p r
  | .accld a va p => s.doAccld q core a.toNat va p
  | .accst a va p cv ftz => s.doAccst q core a.toNat va p cv ftz
  | .mxsave va p held cs => s.doMxsave q core va p held cs
  | .mxrest va p held => s.doMxrest q core va p held
  | _ => .done s

/-- A command of an engine or of the sequencer waits for a page (R197, R371). -/
def State.enginePage (s : State) (bi id : Nat) (va : DWord) : State :=
  if s.faults.any fun f => f.kind == .engine id then s else s.addFault bi va (.engine id)

/-- The command waits for the reply to a fault record. -/
def State.pageWaits (s : State) (id : Nat) : Bool := s.faults.any fun f => f.kind == .engine id

/-- A command of the sequencer fails with a code: its lanes receive it, its flag becomes done (R197). -/
def State.failSeq (s : State) (core : Nat) (q : SeqCmd) (code : Byte) (va : DWord) : State :=
  let info := if code = 0x10 then q.op.sub else 0
  (((s.dropSeq core q.id).unwait q.id).reportAll q.band q.lanes (asyncTrap code info va q.word)).finishHeld
    q (some code)

/-- Go on with a transfer of the sequencer. -/
def State.transferGo (s : State) (core : Nat) (q : SeqCmd) : State :=
  let s0 := (s.unblock q.id).passLines (s.band q.band).core
  match s0.doTransfer q core with
  | .done s' => State.finishHeld { (s'.dropSeq core q.id).unwait q.id with free := s'.free + 1 } q none
  | .absent va => s.enginePage q.band q.id va
  | .wait die l va => s0.waitAt die q.id l va
  | .busy => s
  | .fault c va s' => s'.failSeq core q c va

/-- The oldest transfer of a core that can be performed: its turn has come, no earlier access of its lane
is left (R23, R191), and it waits for no page. -/
def State.nextTransfer (s : State) (core : Nat) : Option SeqCmd :=
  let c := s.core core
  c.seq.find? fun q => q.op.isTransfer && s.seqRuns q && c.atTurn q && s.clear q.band (laneMask (lowest q.lanes)) q.id &&
    !s.pageWaits q.id

def execMatrixTransferComplete (core : Nat) (s : State) : Host.Outcome State Fault Refusal :=
  .next (match s.nextTransfer core with
    | some q => (s.transferGo core q).promptSeq core
    | none => s)

end Sys2Proof.Machine
end

