-- ==== Sys2Proof/Machine/Launch.lean ====
section
/-!
DEFINITION. Launches and crews as they start: kernel images (R41 to R43, R148), shape installation
(R293), launch settings (R435, R436), ranges dealt to the distributors (R419), room on a core (R138,
R139), the state of a starting crew (R24, R136, R212, R213, R219), and the end of a launch (R143, R254).
-/

namespace Sys2Proof.Machine

/-- A crew of the launch is saved. -/
def State.launchSaved (s : State) (li : Nat) : Bool :=
  s.queues.any fun q => q.saved.any fun x => ((s.crew x.crew).map (·.launch)) == some li

/-! ## Memory of a context, as a command processor reaches it -/

/-- Bytes at global addresses of a context. -/
def State.ctxRead (s : State) (ctx : Nat) (va : DWord) (n : Nat) : Except Halt (List Byte) :=
  (runVa s (s.rootOf ctx) va n false).bind s.readUnit

/-- Write bytes at global addresses of a context. -/
def State.ctxWrite (s : State) (w : Writer) (va : DWord) (v : List Byte) : Except Halt State :=
  (s.writeOut w (fun o n =>
    ⟨va + BitVec.ofInt 64 o, runVa s (s.rootOf w.ctx) (va + BitVec.ofInt 64 o) n true, ptesVa s (s.rootOf w.ctx) (va + BitVec.ofInt 64 o) n⟩)
    [(0, v)]).toExcept

/-! ## Images (R41 to R43) -/

/-- What a loader reads of an image. -/
structure ImageInfo where
  image : Image
  shapes : List ShapeRec
  groups : List Group
  deriving DecidableEq, Repr

/-- Offset and length of the parts that are present, in the order of R42. -/
def imageParts (h : List Byte) : List (Nat × Nat) :=
  [(field h 0x18 8, field h 0x14 4)] ++
  (if field h 0x0E 2 = 0 then [] else [(field h 0x20 8, 64 * field h 0x0E 2)]) ++
  (if field h 0x3C 2 = 0 then [] else [(field h 0x28 8, 528 * field h 0x3C 2)]) ++
  (if field h 0x38 4 = 0 then [] else [(field h 0x30 8, field h 0x38 4)])

/-- Each part begins where R43 allows and after the one before it. -/
def partsOk : Nat → List (Nat × Nat) → Bool
  | _, [] => true
  | lo, p :: r => decide (lo ≤ p.1) && p.1 % 64 == 0 && decide (p.1 + p.2 ≤ 2 ^ 32) && partsOk (p.1 + p.2) r

/-- The checks of an image descriptor (R41, R43). -/
def imageOk (h : List Byte) : Bool :=
  let gran := field h 0x08 1
  let bands := field h 0x0A 1
  let crews := field h 0x0C 2
  field h 0 4 == 0x4A4C4B31 && field h 4 2 == 1 && bits (field h 6 2) 2 14 == 0 &&
    decide (1 ≤ gran) && decide (gran ≤ 8) && decide (gran ≤ field h 0x09 1) && decide (field h 0x09 1 ≤ 8) &&
    decide (1 ≤ bands) && decide (bands ≤ 16) && field h 0x0B 1 == 0 && decide (crews ≤ 4096) &&
    ((bits (field h 6 2) 1 1 == 1) == (crews != 0)) && field h 0x14 4 % 16 == 0 && field h 0x3E 2 == 0 &&
    (field h 0x0E 2 != 0 || field h 0x20 8 == 0) && (field h 0x3C 2 != 0 || field h 0x28 8 == 0) &&
    (field h 0x38 4 != 0 || field h 0x30 8 == 0) && partsOk 0x40 (imageParts h) &&
    (crews != 0 || field h 0x3C 2 == 0)

/-- One entry of the group table (R148). -/
def groupOf (e : List Byte) : Group :=
  { index := field e 0 2, gen := 0, members := (List.range 4096).filter fun c =>
      bits (field e (0x10 + c / 8) 1) (c % 8) 1 == 1 }

/-- The checks of a group table (R148). -/
def groupsOk (crews : Nat) (es : List (List Byte)) : Bool :=
  let gs := es.map groupOf
  (gs.zip es).all (fun p => decide (p.1.index ≤ 255) && field p.2 2 2 == p.1.members.length &&
    !p.1.members.isEmpty && zeros p.2 4 12 && p.1.members.all fun c => decide (c < crews)) &&
    ((gs.zip (gs.drop 1)).all fun p => decide (p.1.index < p.2.index)) &&
    (List.range crews).all fun c => decide ((gs.filter fun g => g.members.contains c).length ≤ 4)

/-- The image at an address; none if a loader must reject it (R43). DESIGN CHOICE (log entry 111): the descriptor and
the shape and group tables are read, and a code or data page that cannot be reached is found by those who use it. -/
def State.readImage (s : State) (ctx : Nat) (addr : DWord) : Except Halt (Option ImageInfo) :=
  let rd (off n : Nat) : Except Halt (List Byte) := s.ctxRead ctx (addr + BitVec.ofNat 64 off) n
  (rd 0 64).bind fun h =>
    if !imageOk h then .ok none
    else
      (collect ((List.range (field h 0x0E 2)).map fun i => rd (field h 0x20 8 + 64 * i) 64)).bind fun shapes =>
        (collect ((List.range (field h 0x3C 2)).map fun i => rd (field h 0x28 8 + 528 * i) 528)).bind fun es =>
          if !groupsOk (field h 0x0C 2) es then .ok none
          else
            .ok (some
              { image :=
                  { addr := addr, entry := addr + BitVec.ofNat 64 (field h 0x18 8 + 4), gran := field h 0x08 1,
                    peak := field h 0x09 1, bands := field h 0x0A 1, scratch := (field h 0x10 4 + 1023) / 1024 * 1024,
                    idempotent := bits (field h 6 2) 0 1 == 1,
                    dataBase := addr + BitVec.ofNat 64 (field h 0x30 8), crews := field h 0x0C 2, race := false },
                shapes := shapes, groups := es.map groupOf })

/-! ## Shape installation (R293) -/

/-- What a launch made goes on: the launch itself, its crews, the engine threads that its lanes forked, and the sprouts
that it caused (R293). -/
def State.launchUser (s : State) (li : Nat) : Bool :=
  let ours (bi : Nat) : Bool := ((s.crew (s.band bi).crew).map (·.launch)) == some li
  ((s.launch li).map fun l => !l.ended).getD false || s.launchSaved li ||
    s.crews.any (fun c => c.launch == li && (c.running || c.killed)) ||
    s.engines.any (fun e => ours e.issuer.band) || s.links.any (fun c => ours c.issuer.band) ||
    s.nodes.any (fun n => ours n.by_.band) || s.watchOps.any (fun o => ours o.band) ||
    s.sprouts.any (fun p => p.launch == some li) || s.launches.any fun x => x.parent == some li && !x.ended

/-- The images of the running users of a context: launches, watches, and maps with links. -/
def State.runningImages (s : State) (ctx : Nat) : List DWord :=
  ((s.launches.mapIdx fun li l => (li, l)).filterMap fun e =>
    if e.2.ctx == ctx && s.launchUser e.1 then some e.2.image.addr else none) ++
  ((s.watches.filter fun w => w.ctx == ctx).map (·.image.addr)) ++
  ((s.passes.filter fun p => p.ctx == ctx).map (·.repk))

/-- Install one record; the id of a clash otherwise. -/
def State.installShape (s : State) (c : Ctx) (img : DWord) (r : ShapeRec) : Except Halt (Except Nat State) :=
  let id := rId r
  let at_ := c.shtab + BitVec.ofNat 64 (64 * id)
  let mine := c.shapes.filter fun x => x.1 == id
  let put (keep : List (Nat × DWord)) (s : State) : State := s.setCtx { c with shapes := keep ++ [(id, img)] }
  (s.ctxRead c.id at_ 64).bind fun old =>
    if !mine.isEmpty && old == r then .ok (.ok (put c.shapes s))
    else if mine.any fun x => (s.runningImages c.id).contains x.2 then .ok (.error id)
    else
      (s.ctxWrite (cpWriter 0 c.id false) at_ r).map fun s' =>
        .ok (put (c.shapes.filter fun x => x.1 != id) s')

/-- Install the records of an image in ascending order. -/
def State.installShapes (s : State) (ctx : Nat) (img : DWord) : List ShapeRec → Except Halt (Except Nat State)
  | [] => .ok (.ok s)
  | r :: rs =>
    match s.ctx ctx with
    | none => .ok (.ok s)
    | some c =>
      (s.installShape c img r).bind fun x => match x with
        | .error id => .ok (.error id)
        | .ok s' => s'.installShapes ctx img rs

/-- What installing an image's records meets: nothing, a clash (R293), or why a record cannot be read or written. -/
def State.shapeFate (s : State) (ctx : Nat) (img : DWord) (rs : List ShapeRec) : Option (Option Halt) :=
  match s.installShapes ctx img rs with
  | .ok (.ok _) => none
  | .ok (.error _) => some none
  | .error h => some (some h)

/-! ## Settings (R212, R435) -/

/-- A window address: a multiple of 1 MiB, canonical (R212). -/
def windowOk (a : DWord) : Bool := bits a.toNat 0 20 == 0 && canonical a

/-- The settings in a launch descriptor, or none if one is outside its range. -/
def cfgOf (d : List Byte) : Option LaunchCfg :=
  let lfl := field d 0x29 1
  let w (o : Nat) : DWord := BitVec.ofNat 64 (field d o 8)
  let stkLen := field d 0x34 4
  if bits lfl 6 2 == 0 && bits (field d 0x2A 1) 6 2 == 0 && field d 0x2B 1 == 0 && bits (field d 0x2C 2) 9 7 == 0 &&
      stkLen % 256 == 0 && decide (stkLen ≤ 2 ^ 28) && field d 0x38 8 % 256 == 0 && field d 0x40 8 % 256 == 0 &&
      windowOk (w 0x48) && windowOk (w 0x50) && windowOk (w 0x58) && windowOk (w 0x60) && zeros d 0x68 24 &&
      (stkLen == 0 || w 0x50 != 0) then
    some
      { fpc := BitVec.ofNat 6 (field d 0x2A 1), race := bits lfl 0 1 == 1, priv := bits lfl 1 1 == 1,
        dies := BitVec.ofNat 9 (field d 0x2C 2),
        stripe := if field d 0x2E 2 = 0 then 64 else field d 0x2E 2,
        spill := if field d 0x30 4 = 0 then 4096 else field d 0x30 4,
        stkLen := stkLen, stkBase := w 0x38, stkStride := w 0x40, scrW := w 0x48, stkW := w 0x50,
        grvW := w 0x58, wsW := w 0x60 }
  else none

/-- The stack areas of an image's crews do not meet (R435). -/
def LaunchCfg.strideOk (c : LaunchCfg) (bands : Nat) : Bool := decide (32 * c.stkLen * bands ≤ c.stkStride.toNat)

/-- The dies of a launch, ascending (R419, R435). -/
def LaunchCfg.dieList (c : LaunchCfg) : List Nat :=
  if c.dies = 0 then List.range 9 else (List.range 9).filter fun d => c.dies.getLsbD d

/-! ## A launch begins (R143, R419) -/

/-- Cut a range into stripes. -/
def cutStripes (size grain : Nat) : Nat → Nat → Nat → List Range
  | 0, _, _ => []
  | n + 1, lo, hi =>
    if hi ≤ lo then []
    else { cur := lo, hi := min (lo + size) hi, grain := grain } :: cutStripes size grain n (lo + size) hi

/-- The stripes of a root range with their dies (R419). -/
def dealStripes (dies : List Nat) (stripe grain lo hi : Nat) : List (Nat × Range) :=
  let size := stripe * grain
  (cutStripes size grain ((hi - lo) / max size 1 + 1) lo hi).mapIdx fun i r =>
    (dies.getD (i % max dies.length 1) 0, r)

/-- What a launch needs beyond its context. -/
structure LaunchReq where
  info : ImageInfo
  cfg : LaunchCfg
  args : List Word
  nthr : Nat
  lo : Nat
  hi : Nat
  grain : Nat
  deriving DecidableEq, Repr

/-- The record of a launch. -/
def LaunchReq.launch (r : LaunchReq) (ctx queue : Nat) (origin : Origin) (tvec : DWord) (parent : Option Nat) :
    Launch :=
  let resident := r.info.image.crews != 0
  { ctx := ctx, queue := queue, origin := origin, image := { r.info.image with race := r.cfg.race }, cfg := r.cfg, tvec := tvec,
    args := r.args, nthr := r.nthr, grain := if resident then 1 else r.grain, groups := r.info.groups,
    parent := parent, toPlace := if resident then List.range r.info.image.crews else [],
    stripes := if resident then [] else dealStripes r.cfg.dieList r.cfg.stripe r.grain r.lo r.hi,
    spill := [], noWork := false, paused := false, ended := false }

/-- Begin a launch; its index, and the state with it. -/
def State.beginLaunch (s : State) (r : LaunchReq) (ctx queue : Nat) (origin : Origin) (parent : Option Nat) :
    Nat × State :=
  let tvec := ((s.ctx ctx).map (·.tvec)).getD 0
  (s.launches.length, { s with launches := s.launches ++ [r.launch ctx queue origin tvec parent] })

/-! ## Room on a core (R138 to R140) -/

/-- The crews that hold resources of a core. -/
def State.crewsOn (s : State) (core : Nat) : List Crew := s.crews.filter fun c => c.running && c.core == core

/-- Band slots of a quarter that are taken. -/
def State.slotsTaken (s : State) (core q : Nat) : List Nat :=
  ((s.crewsOn core).map fun c => c.bands.filterMap fun bi =>
    let b := s.band bi
    if b.quarter = q then some b.slot else none).flatten

/-- Band slots of a quarter that are free, ascending. -/
def State.slotsFree (s : State) (core q : Nat) : List Nat :=
  let t := s.slotsTaken core q
  (List.range 8).filter fun n => !t.contains n

/-- Bands of a crew that fall into a quarter. -/
def bandsIn (q0 bands q : Nat) : Nat := ((List.range bands).filter fun i => (q0 + i) % 4 == q).length

/-- The quarter of band 0, which the core chooses (R138): of those that fit, the first that leaves the free slots
spread most evenly, so that as many crews as possible find room (log entry 38). -/
def State.quarterFor (s : State) (core bands : Nat) : Option Nat :=
  let free (q : Nat) : Nat := (s.slotsFree core q).length
  let fits (q0 : Nat) : Bool := (List.range 4).all fun q => decide (bandsIn q0 bands q ≤ free q)
  let spread (q0 : Nat) : Nat := ((List.range 4).map fun q => (free q - bandsIn q0 bands q) ^ 2).sum
  match (List.range 4).filter fits with
  | [] => none
  | q :: r => some (r.foldl (fun a x => if spread x < spread a then x else a) q)

/-- A core that runs a launch with race checking (R402). -/
def State.raceCore (s : State) (core : Nat) : Bool :=
  (s.crewsOn core).any fun c => ((s.launch c.launch).map (·.image.race)).getD false

/-- The lowest free run of scratchpad, in units of 1 KiB (R138); race checking leaves the lower half (R402). -/
def State.scratchFor (s : State) (core n : Nat) (race : Bool) : Option Nat :=
  let used := (s.crewsOn core).map fun c => (c.scrOff / 1024, (c.scrLen + 1023) / 1024)
  let top := if race || s.raceCore core then 128 else 256
  ((List.range 257).find? fun o => decide (o + n ≤ top) &&
    (!race || used.all fun u => decide (u.1 + u.2 ≤ 128)) && used.all fun u => decide (o + n ≤ u.1) || decide (u.1 + u.2 ≤ o) || decide (u.2 = 0) || decide (n = 0)).map
      (1024 * ·)

/-- Where a crew of an image would stand on a core: quarter of band 0 and scratchpad offset. -/
def State.roomFor (s : State) (core : Nat) (im : Image) : Option (Nat × Nat) :=
  if im.gran * im.bands ≤ (s.core core).free then
    match s.quarterFor core im.bands, s.scratchFor core (im.scratch / 1024) im.race with
    | some q, some o => some (q, o)
    | _, _ => none
  else none

/-- The cores of a die that are not harvested. -/
def State.dieCores (s : State) (die : Nat) : List Nat :=
  ((List.range 256).map (die * 256 + ·)).filter fun c => !s.boot.harvested.contains c

/-- The scheduler may place a crew on a die: not on one that is to park, and on a parked one only when no
other die of the launch has room (R441). -/
def State.diePlaces (s : State) (dies : List Nat) (im : Image) (die : Nat) : Bool :=
  let d := s.die die
  let awake (x : Nat) : Bool := !(s.die x).parked && !(s.die x).parkReq
  dies.contains die && (awake die ||
    (d.parked && !(dies.filter awake).any fun x => (s.dieCores x).any fun c => (s.roomFor c im).isSome))

/-! ## A crew starts (R24, R136, R212, R213, R219) -/

/-- A segment register for a window (R212). -/
def segReg (base : DWord) (len : Nat) : DWord :=
  if base = 0 ∨ len < 256 then 0
  else BitVec.ofNat 64 (2 ^ 63 + bits base.toNat 20 37 * 2 ^ 20 + (len / 256 - 1) % 2 ^ 20)

/-- A lane that starts (R24). -/
def Lane.start (present : Bool) (pc : DWord) : Lane :=
  { Lane.blank with st := if present then .eligible else .absent, pc := pc }

/-- A band that starts (R136). -/
def startBand (l : Launch) (c : Ctx) (ci : Nat) (cr : Crew) (num quarter slot : Nat) : Band :=
  { Band.blank with
    crew := ci, num := num, core := cr.core, quarter := quarter, slot := slot
    lanes := Vector.ofFn fun (i : Fin 32) => Lane.start (decide (num * 32 + i.val < l.nthr)) l.image.entry
    s := Vector.ofFn fun (i : Fin 32) => l.args.getD i.val 0
    fpctl := l.cfg.fpc.setWidth 32, gran := l.image.gran
    segScr := segReg l.cfg.scrW cr.scrLen, segStk := segReg l.cfg.stkW l.cfg.stkLen
    segGrv := segReg l.cfg.grvW (2 ^ 24), segWs := segReg l.cfg.wsW c.wsLen
    stkArea := l.cfg.stkBase + BitVec.ofNat 64 (cr.num * l.cfg.stkStride.toNat)
    grvSelf := BitVec.ofNat 32 (cr.core % 64 * 2 ^ 18 + cr.scrOff)
    tvec := l.tvec, ptroot := c.ptroot, priv := l.cfg.priv }

/-- The slots that the bands of a crew take, band by band: quarter and slot. -/
def State.slotsFor (s : State) (core q0 bands : Nat) : List (Nat × Nat) :=
  (List.range bands).map fun i =>
    let q := (q0 + i) % 4
    (q, (s.slotsFree core q).getD (i / 4) 0)

/-- Sprouts, repair crews and crews of graph launch nodes: the family of R436. -/
def CrewKind.family : CrewKind → Bool
  | .sprout _ | .repair _ | .graph _ => true
  | _ => false

/-- The lowest number that no running crew holds: of the launch, or of the family in the context (R152). -/
def State.freeNum (s : State) (li ctx : Nat) (k : CrewKind) : Nat :=
  let mine (c : Crew) : Bool :=
    if k.family then c.kind.family && ((s.launch c.launch).map (·.ctx)).getD 0 == ctx else c.launch == li
  let nums := (s.crews.filter fun c => c.running && mine c).map (·.num)
  ((List.range (nums.length + 1)).find? fun n => !nums.contains n).getD 0

/-- Start a crew at a place that has room: every band in one cycle (R139). Its scratchpad reads as zero,
and no line that its core holds from before can be seen (R219, R254, R396). -/
def State.startCrew (s : State) (li core : Nat) (kind : CrewKind) (num depth : Nat) (at_ : Nat × Nat) :
    State :=
  match s.launch li with
  | none => s
  | some l =>
    match s.ctx l.ctx with
    | none => s
    | some c =>
      let ci := s.crews.length
      let b0 := s.bands.length
      let cr : Crew :=
        { launch := li, kind := kind, num := num, core := core, q0 := at_.1,
          bands := (List.range l.image.bands).map (b0 + ·), nband := l.image.bands, nthr := l.nthr,
          scrOff := at_.2, scrLen := l.image.scratch, barGen := 0, range := none,
          groups := (l.groups.filter fun g => g.members.contains num && l.image.crews != 0).map (·.index),
          running := true, killed := false, depth := depth }
      let bs := (s.slotsFor core at_.1 l.image.bands).mapIdx fun i q => startBand l c ci cr i q.1 q.2
      let k := s.core core
      let d := s.die (core / 256)
      ({ s with
          bands := s.bands ++ bs, crews := s.crews ++ [cr],
          scr := s.scr.zero (core * 2 ^ 18 + at_.2) l.image.scratch }.setCore
        { k with free := k.free - l.image.gran * l.image.bands, l1 := [], l1ctx := l.ctx,
                 shadow := k.shadow.filter fun e =>
                   decide (4 * e.1 < at_.2) || decide (at_.2 + l.image.scratch ≤ 4 * e.1) }).setDie (core / 256)
        { d with parked := false }

/-! ## What a launch still holds (R143, R144) -/

/-- The launch holds a grain that no TAKE has delivered; the ranges of saved crews count. -/
def State.holdsGrain (s : State) (li : Nat) : Bool :=
  match s.launch li with
  | none => false
  | some l =>
    !l.noWork && (!l.stripes.isEmpty || !l.spill.isEmpty ||
      s.cores.any (fun c => c.deque.any fun t => t.launch == li) ||
      (List.range s.crews.length).any fun ci => ((s.crew ci).map fun c =>
        c.launch == li && (c.killed || (c.running || s.crewSaved ci) && match c.range with
          | some r => !r.empty
          | none => false)).getD false)

/-- The launch of a context may start crews. -/
def State.launchRuns (s : State) (l : Launch) : Bool := !l.ended && !l.paused && s.workRuns l

/-- Crews that a core still has room for, one after another. -/
def State.capacity (s : State) (core : Nat) (li : Nat) (im : Image) : Nat → Nat
  | 0 => 0
  | n + 1 =>
    match s.roomFor core im with
    | some p => 1 + (s.startCrew li core .resident 0 0 p).capacity core li im n
    | none => 0

/-- Place the crews of a resident launch on cores, in the order of both; none if one finds no room. -/
def State.placeAll (s : State) (li : Nat) (im : Image) : Nat → List Nat → List Nat → Option State
  | _, _, [] => some s
  | 0, _, _ => none
  | _, [], _ => none
  | n + 1, core :: cs, num :: nums =>
    match s.roomFor core im with
    | some p => (s.startCrew li core .resident num 0 p).placeAll li im n (core :: cs) nums
    | none => s.placeAll li im n cs (num :: nums)

/-- The package with nothing resident on any core, to tell whether a launch could ever be placed (R143). -/
def State.emptied (s : State) : State := { s with crews := [], bands := [], cores := [] }

/-- The cores of a launch, from one on (R143): those of its dies that are not harvested. -/
def State.launchCores (s : State) (l : Launch) (core : Nat) : List Nat :=
  let all := (l.cfg.dieList.map s.dieCores).flatten
  (all.filter fun c => decide (core ≤ c)) ++ all.filter fun c => decide (c < core)

/-- The given cores could hold every crew at once with no other work on them (R143). -/
def State.placeable (s : State) (li : Nat) : Bool :=
  match s.launch li with
  | some l =>
    let cs := s.launchCores l 0
    (s.emptied.placeAll li l.image (cs.length + l.image.crews) cs (List.range l.image.crews)).isSome
  | none => false

/-- Cores in the order in which the scheduler tries them: none of a die that is to park, and those of parked dies only
once no other has room (R441). -/
def State.awakeFirst (s : State) (cs : List Nat) : List Nat :=
  let open_ := cs.filter fun c => !(s.die (c / 256)).parkReq
  open_.filter (fun c => !(s.die (c / 256)).parked) ++ open_.filter fun c => (s.die (c / 256)).parked

/-- A crew of a launch starts on a core with room, or a resident launch with all its crews
at once, from this core on (R139, R143). -/
def State.crewStart (s : State) (li core : Nat) : State :=
  match s.launch li with
  | none => s
  | some l =>
    if !s.launchRuns l then s
    else if l.image.crews != 0 then
      if l.toPlace.isEmpty then s
      else
        let cs := s.awakeFirst (s.launchCores l core)
        match s.placeAll li l.image (cs.length + l.toPlace.length) cs l.toPlace with
        | some s' => s'.setLaunch li { l with toPlace := [] }
        | none => s
    else if s.holdsGrain li && s.diePlaces l.cfg.dieList l.image (core / 256) &&
        (s.dieCores (core / 256)).contains core then
      match s.roomFor core l.image with
      | some p =>
        let k : CrewKind := match l.origin with
          | .cmd .. => .range
          | .sprout h => .sprout h
          | .repair p => .repair p
          | .graph n => .graph n
        s.startCrew li core k (s.freeNum li l.ctx k) 0 p
      | none => s
    else s

/-! ## The end of a launch (R143, R254) -/

/-- The launch ends only when its grains have been delivered: a range launch, and no resident one or sprout (R143,
R284). -/
def Launch.deals (l : Launch) : Bool := l.image.crews == 0 && !l.noWork

/-- Everything that a launch made has ended: its grains, its crews and what they forked, and the sprouts
that its writes caused. -/
def State.launchOver (s : State) (li : Nat) : Bool :=
  match s.launch li with
  | none => false
  | some l =>
    !l.ended && l.toPlace.isEmpty && !(l.deals && s.holdsGrain li) &&
      (s.crews.all fun c => c.launch != li || !(c.running || c.killed)) &&
      !s.launchSaved li &&
      (s.sprouts.all fun p => p.launch != some li) &&
      s.launches.all fun x => x.parent != some li || x.ended

/-- A launch ends, and tasks of it that no TAKE has delivered go with it. -/
def State.endLaunch (s : State) (li : Nat) : State :=
  match s.launch li with
  | some l =>
    let cs : List Core := s.cores.map fun c => { c with deque := c.deque.filter fun t => t.launch != li }
    State.setLaunch { s with cores := cs } li { l with ended := true, spill := [] }
  | none => s

/-- The lowest core of a launch's dies on which a crew finds room. -/
def State.coreFor (s : State) (dies : List Nat) (im : Image) : Option Nat :=
  ((dies.filter fun d => s.diePlaces dies im d).map s.dieCores).flatten.find? fun c => (s.roomFor c im).isSome

end Sys2Proof.Machine
end

