-- ==== Sys2Proof/Machine/Engines.lean ====
section
/-!
DEFINITION. Stream engines, transforms and the dependence graph (R305 to R316): the checks at issue, the
ring protocol, the transforms, and the walker that starts nodes and signals their successors.
-/

namespace Sys2Proof.Machine

/-! ## Operands in memory (R445) -/

/-- The bytes that a word reads at its issue in a lane. -/
def State.opLocs (s : State) (bi t : Nat) (va : DWord) (n : Nat) : Except Halt (List Loc) :=
  runBand s (s.band bi) t va (resolve s (s.band bi) .gen va) n false

/-- Bytes that a word reads at its issue in the lowest lane of V, after every earlier access of the lanes of V (R23,
R251); it waits while one of those cannot be performed. -/
def State.opRead (s : State) (bi : Nat) (v : BitVec 32) (va : DWord) (n : Nat) : Except Halt (List Byte) :=
  (s.opLocs bi (lowest v) va n).bind fun l =>
    let s' := s.settleLanes bi v
    if !(s'.unperformed bi v).isEmpty || s'.readBusy l then .error .busy
    else .ok (l.map (s'.readPlain (s.band bi).core s'.free))

/-- A check that ends in a code with its address. -/
def need (ok : Bool) (code : Byte) (va : DWord) : Except Halt Unit :=
  if ok then .ok () else .error (.trap code va)

/-- The deferred trap of checks at issue, in every lane of V (R308, R445). -/
def checkTrap {α : Type} (f : State → Ex → Except Halt α) (s : State) (x : Ex) : Option Trap :=
  match f s x with
  | .error (.trap c va) => some (syncTrap c 0 va x.pc)
  | _ => none

/-- What the checks wait for (R445). -/
def checkPage {α : Type} (f : State → Ex → Except Halt α) (s : State) (x : Ex) : Option (Option DWord) :=
  match f s x with
  | .error h => h.waits
  | .ok _ => none

/-- A usable record of a context, or code 0x12 at the descriptor (R296). -/
def State.engineShape (s : State) (ctx id : Nat) (da : DWord) : Except Halt ShapeRec :=
  match s.shapeRec ctx id with
  | .ok (some r) => if usable r id then .ok r else .error (.trap 0x12 da)
  | .ok none => .error (.trap 0x12 da)
  | .error (.trap _ _) => .error (.trap 0x12 da)
  | .error h => .error h

/-- The descriptor of an engine word: canonical, aligned to 16, and its bytes. -/
def State.descRead (s : State) (bi : Nat) (v : BitVec 32) (da : DWord) (n : Nat) : Except Halt (List Byte) := do
  need (canonical da) 0x0A da
  need (da.toNat % 16 == 0) 0x06 da
  s.opRead bi v da n

/-- A base that an engine can reach: global memory or the weight store (R305). -/
def enginePlace (s : State) (b : Band) (va : DWord) : Except Halt Place := do
  need (canonical va) 0x0A va
  match resolveGeneric s b va with
  | .global a => pure (.global a)
  | .ws o => pure (.ws o)
  | _ => .error (.trap 0x07 va)

/-- A run of scratchpad lies in the allocation it names (R216, R219). -/
def scrRunOk (s : State) (b : Band) (a : Word) (n : Nat) : Bool :=
  match resolveScr s b a with
  | .scr o => decide (o + n ≤ (s.allocOf b).2)
  | .grove g => s.crews.any fun c => c.running && c.core == groveCore b g && decide (c.scrOff ≤ bits g 0 18) &&
      decide (bits g 0 18 + n ≤ c.scrOff + c.scrLen) && ((s.launch c.launch).map (·.ctx)).getD 0 == s.ctxOf b
  | _ => false

/-- Fork an engine thread (R251): a command of the engines, with its flag busy. -/
def State.fork (s : State) (x : Ex) (sb : Flag) (da : DWord) (op : EngOp) : State :=
  let f := s.fresh
  let b := s.me
  { f.2.setMe (b.setBusy sb .engine) with
    engines := f.2.engines ++
      [{ id := f.1, ctx := s.ctxOf b, node := none, desc := da, core := b.core, crew := b.crew, op := op,
         issuer := { band := s.cur, lanes := x.v, word := x.pc, flag := sb, depth := s.depthOf b } }] }

/-! ## STRM (R305 to R309) -/

/-- The descriptor address of an engine word. -/
def descOf (a : Reg) (s : State) (x : Ex) : DWord := s.me.rg2 x x.low a

/-- A word has read its descriptor: the earlier accesses of its lanes are performed, no older line of the L1 is left,
and a descriptor behind the grove window makes the crew a gang (R23, R244, R251, R394). -/
def State.readDesc (s : State) (x : Ex) (da : DWord) : State :=
  let s1 := s.settleLanes s.cur x.v
  let s2 := s1.passLines s1.me.core
  s2.touchPlace (resolve s2 s2.me .gen da)

/-- The checks of STRM at issue in the order of R308, and its command. -/
def strmOp (isIn : Bool) (a b : Reg) (shape : BitVec 12) (s : State) (x : Ex) : Except Halt EngOp := do
  let B := s.me
  let da := descOf a s x
  let r ← s.engineShape (s.ctxOf B) shape.toNat da
  need (isIn || rCodec r == 0) 0x12 da
  let d ← s.descRead s.cur x.v da 32
  let maddr := BitVec.ofNat 64 (field d 0 8)
  let ring := BitVec.ofNat 32 (field d 0x08 4)
  let ctrl := BitVec.ofNat 32 (field d 0x0C 4)
  let nslot := field d 0x10 2
  let slotb := field d 0x14 4
  need (canonical maddr) 0x0A maddr
  need (ring.toNat % 16 == 0) 0x06 (ring.setWidth 64)
  need (ctrl.toNat % 16 == 0) 0x06 (ctrl.setWidth 64)
  let base ← enginePlace s B maddr
  need (scrRunOk s B ring (nslot * slotb)) 0x07 (ring.setWidth 64)
  need (scrRunOk s B ctrl 16) 0x07 (ctrl.setWidth 64)
  need (decide (1 ≤ nslot) && decide (nslot ≤ 256) && field d 0x12 2 == 0 && field d 0x1C 4 == 0 &&
    slotb % 16 == 0 && decide (rTileScr r ≤ slotb)) 0x12 da
  need (isIn || (match base with
    | .ws _ => false
    | _ => true)) 0x15 maddr
  pure (.strm isIn base ring ctrl nslot slotb (field d 0x18 4) (B.rg x x.low b).toNat 0 r)

/-- The scratchpad addresses of a stream: its ring and its control block. -/
def EngOp.scrWords : EngOp → List Word
  | .strm _ _ r c .. => [r, c]
  | .xform .. => []

/-- STRM forks its engine thread; with no tile its flag is done at once (R307). -/
def strmWord (i : Instr) (isIn : Bool) (sb : Flag) (a b : Reg) (shape : BitVec 12) (s : State) : State :=
  pagedWord i (checkPage (strmOp isIn a b shape)) (allLanes (checkTrap (strmOp isIn a b shape)))
    (fun x s =>
      match strmOp isIn a b shape s x with
      | .ok op =>
        let s1 := s.readDesc x (descOf a s x)
        let s2 := op.scrWords.foldl (fun s w => s.touchPlace (resolveScr s s.me w)) s1
        if (s.me.rg x x.low b) = 0 then s2 else s2.fork x sb (descOf a s x) op
      | .error _ => s) s

def execStrmIn (h : Hdr) (sb : Flag) (a b : Reg) (shape : BitVec 12) (s : State) :
    Host.Outcome State Fault Refusal :=
  .next (strmWord (.strmIn h sb a b shape) true sb a b shape s)

def execStrmOut (h : Hdr) (sb : Flag) (a b : Reg) (shape : BitVec 12) (s : State) :
    Host.Outcome State Fault Refusal :=
  .next (strmWord (.strmOut h sb a b shape) false sb a b shape s)

/-! ## Engine commands -/

def State.findEngine (s : State) (id : Nat) : Option EngCmd := s.engines.find? (·.id == id)

def State.dropEngine (s : State) (id : Nat) : State :=
  { s with engines := s.engines.filter fun e => e.id != id }.unwait id

def State.setEngineOp (s : State) (id : Nat) (op : EngOp) : State :=
  { s with engines := s.engines.map fun e => if e.id == id then { e with op := op } else e }

/-- The agent of an engine's writes (R282, R283). -/
def EngCmd.writer (e : EngCmd) (s : State) : Writer :=
  { s.laneWriter e.issuer.band (lowest e.issuer.lanes) e.issuer.word true with depth := e.issuer.depth }

/-- The engine may act: what its lanes did before has been performed, it waits for no page, and the queue
of its context runs; an engine of a parked die stands still (R251, R386, R440). -/
def State.engineReady (s : State) (e : EngCmd) : Bool :=
  (e.node.isSome || s.clear e.issuer.band e.issuer.lanes e.id) && !s.pageWaits e.id &&
    s.unitRuns e.issuer.band && !s.dieParked e.core


/-- Address reported with a code: the descriptor for a decode error (R355). -/
def EngCmd.trapAddr (e : EngCmd) (code : Byte) (va : DWord) : DWord := if code = 0x12 then e.desc else va

/-- Bytes of scratchpad that a ring or a control block names. -/
def scrLocs (s : State) (b : Band) (a : Word) (off n : Nat) (write : Bool) : Except Halt (List Loc) :=
  let p := (resolveScr s b a).add off
  (reachPlace s b 0 p n write false).toExcept (a.setWidth 64)

/-- The byte of scratchpad at which a stream's control block lies. -/
def EngCmd.ctrlAt (e : EngCmd) (s : State) : Option Loc :=
  match e.op with
  | .strm _ _ _ c .. => match scrLocs s (s.band e.issuer.band) c 0 1 false with
    | .ok l => l.head?
    | .error _ => none
  | .xform .. => none

/-- An earlier STRM of the band uses the same control block, by whichever address (R309). -/
def State.ringBusy (s : State) (e : EngCmd) : Bool :=
  (s.engines.takeWhile fun y => y.id != e.id).any fun y =>
    y.issuer.band == e.issuer.band && (y.ctrlAt s).isSome && y.ctrlAt s == e.ctrlAt s

/-- An engine thread has ended, and joins its issuer: what the lanes' core read before is read again (R251). -/
def State.joined (s : State) (b : Issuer) (id : Nat) : State :=
  (s.dropL1 (s.band b.band).core).finish b.band id b.flag

/-- Write scratchpad bytes for an engine; their words are no longer checked for races (R402). -/
def State.scrWrite (s : State) (b : Band) (l : List Loc) (v : List Byte) : State :=
  (s.writeLocs l v).clearShadow l

/-- The command's lanes receive a code, and its flag becomes done. -/
def State.failIssuer (s : State) (e : EngCmd) (code : Byte) (va : DWord) : State :=
  ((s.dropEngine e.id).reportAll e.issuer.band e.issuer.lanes
    (asyncTrap code 0 (e.trapAddr code va) e.issuer.word)).joined e.issuer e.id

/-- A stream ends on a failure: its code goes into ERR (R308). -/
def State.failStream (s : State) (e : EngCmd) (ctrl : Word) (code : Byte) (va : DWord) : State :=
  let b := s.band e.issuer.band
  let s1 := match scrLocs s b ctrl 8 4 true with
    | .ok l => s.scrWrite b l (leBytes code.toNat 4)
    | .error _ => s
  s1.failIssuer e code va

/-- FILLED or FREED advances by an atomic release (R306). -/
def State.advanceCounter (s : State) (e : EngCmd) (ctrl : Word) (off v : Nat) : State :=
  let b := s.band e.issuer.band
  match scrLocs s b ctrl off 4 true with
  | .ok l => s.scrWrite b l (leBytes (v + 1) 4)
  | .error _ => s

/-- The stream has moved a tile; after the last its flag is done. -/
def State.streamNext (s : State) (e : EngCmd) : State :=
  match e.op with
  | .strm isIn base ring ctrl nslot slotb first n i r =>
    if i + 1 < n then s.setEngineOp e.id (.strm isIn base ring ctrl nslot slotb first n (i + 1) r)
    else (s.dropEngine e.id).joined e.issuer e.id
  | _ => s

/-- The writes of a tile into its slot (R297). -/
def slotWrites (r : ShapeRec) (d : TileData) : List (Nat × List Byte) :=
  (d.rows.mapIdx fun i v => (i * rSpitch r, v)) ++
    if rSk r = 0 then [] else [(rExt r 1 * rSpitch r, d.scales)]

/-- Reading at offsets from a base, for an engine. -/
def State.engineRead (s : State) (e : EngCmd) (base : Place) (o : Int) (n : Nat) : Except Halt (List Byte) :=
  (runEngine s e.ctx (e.core / 256) 0 (base.add o) n false).bind s.readUnit

/-- Writing at offsets from a base, for an engine. -/
def State.engineWrite (s : State) (e : EngCmd) (base : Place) (ps : List (Int × List Byte)) : Written :=
  s.writeOut (e.writer s)
    (fun o n => ⟨(base.add o).addr, runEngine s e.ctx (e.core / 256) 0 (base.add o) n true, ptesEngine s e.ctx (base.add o) n⟩) ps

/-- A Halt while a stream moves its tile. -/
def State.streamHalt (s : State) (e : EngCmd) (ctrl : Word) : Halt → State
  | .absent va => s.enginePage e.issuer.band e.id va
  | .sectors d l va => s.waitAt d e.id l va
  | .busy => s
  | .trap c va => s.failStream e ctrl c va

/-- Move one tile into a ring (R307). -/
def State.streamIn (s : State) (e : EngCmd) (base : Place) (ring ctrl : Word) (slot slotb t : Nat)
    (r : ShapeRec) (filled : Nat) : State :=
  let b := s.band e.issuer.band
  match readTile (s.engineRead e base) r t with
  | .error h => s.streamHalt e ctrl h
  | .ok d =>
    match collect ((slotWrites r d).map fun w =>
        (scrLocs s b ring (slot * slotb + w.1) w.2.length true).map fun l => (l, w.2)) with
    | .error h => s.streamHalt e ctrl h
    | .ok ws =>
      ((ws.foldl (fun s w => s.scrWrite b w.1 w.2) s).advanceCounter e ctrl 0 filled).streamNext e

/-- Move one tile out of a ring (R307). -/
def State.streamOut (s : State) (e : EngCmd) (base : Place) (ring ctrl : Word) (slot slotb t : Nat)
    (r : ShapeRec) (freed : Nat) : State :=
  let b := s.band e.issuer.band
  let rd (off n : Nat) : Except Halt (List Byte) :=
    (scrLocs s b ring (slot * slotb + off) n false).map s.readLocs
  let tile : Except Halt TileData := do
    let rows ← collect ((List.range (rExt r 1)).map fun i => rd (i * rSpitch r) (rRowScr r))
    let sc ← if rSk r = 0 then pure [] else rd (rExt r 1 * rSpitch r) (rTileScales r)
    pure { rows := rows, scales := sc }
  match tile.bind (tileWrites r t) with
  | .error h => s.streamHalt e ctrl h
  | .ok ws =>
    match s.engineWrite e base ws with
    | .done s' => (s'.advanceCounter e ctrl 4 freed).streamNext e
    | .absent va => s.streamHalt e ctrl (.absent va)
    | .wait die l va => s.streamHalt e ctrl (.sectors die l va)
    | .busy => s
    | .fault c va s' => s'.failStream e ctrl c va

/-- STREAM_TILE: a stream moves one tile once its ring lets it (R306, R307). -/
def State.streamTile (s : State) (e : EngCmd) : State :=
  match e.op with
  | .strm isIn base ring ctrl nslot slotb first _ i r =>
    if !s.engineReady e || s.ringBusy e then s
    else
      let s := s.unblock e.id
      let b := s.band e.issuer.band
      match (scrLocs s b ctrl 0 8 false).map s.readLocs with
      | .error h => s.streamHalt e ctrl h
      | .ok v =>
        let filled := field v 0 4
        let freed := field v 4 4
        let t := first + i
        if isIn then
          if (filled + 2 ^ 32 - freed) % 2 ^ 32 < nslot then
            s.streamIn e base ring ctrl (filled % nslot) slotb t r filled
          else s
        else if filled = freed then s
        else s.streamOut e base ring ctrl (freed % nslot) slotb t r freed
  | _ => s

def execStreamTile (id : Nat) (s : State) : Host.Outcome State Fault Refusal :=
  .next (match s.findEngine id with
    | some e => s.streamTile e
    | none => s)

/-! ## Transforms (R310 to R312) -/

/-- What R311 requires of the two records for a transform. -/
def xformOk (xop : Byte) (a b : ShapeRec) : Bool :=
  let same := rExt a 0 == rExt b 0 && rExt a 1 == rExt b 1
  let wide := (rFmt a).width == (rFmt b).width
  match xop.toNat with
  | 0 => same && rCodec b == 0 && wide
  | 1 => same && rCodec b == 0
  | 2 => same && rCodec b == 0 && decide (2 ≤ rSk a) && [Fmt.f32, .bf16, .f16].contains (rFmt b)
  | 3 => same && rCodec b == 0 && [Fmt.f32, .bf16, .f16].contains (rFmt a) && Fmt.blocked (rFmt b) && rSk b == 1
  | 4 => same && rCodec a == 0 && rCodec b == 1 && decide (rStr b 1 = rRowMem b) && wide &&
      rExt b 1 * rRowMem b % 256 == 0
  | 5 => rCodec b == 0 && wide && [8, 16, 32].contains (rFmt a).width && rExt b 0 == rExt a 1 && rExt b 1 == rExt a 0
  | _ => false

/-- The rows of a tile without its scales, in scratchpad form (R297). -/
def readRows (rd : Int → Nat → Except Halt (List Byte)) (r : ShapeRec) (t : Nat) :
    Except Halt (List (List Byte)) :=
  match tileOff r t with
  | none => .error (.trap 0x12 0)
  | some o =>
    collect ((List.range (rExt r 1)).map fun i =>
      (tensorRead rd r (o + (i : Int) * rPitch r) (rRowMem r)).map (rowIn r))

/-- Elements of a row in scratchpad form. -/
def rowElems (r : ShapeRec) (row : List Byte) : List Nat :=
  (List.range (rExt r 0)).map fun c => rowElem (rFmt r) row c

/-- Convert the elements of a row by a function on values. -/
def mapRow (a b : ShapeRec) (ftz : Bool) (f : Nat → Fp → Fp) (row : List Byte) : List Byte :=
  rowOf (rFmt b) ((rowElems a row).mapIdx fun c e =>
    ((rFmt b).enc .rne ftz (f c ((rFmt a).val ftz e))).1)

/-- The value of group scale `k` of a row (R113). -/
def groupScale (a : ShapeRec) (ftz : Bool) (sc : List Byte) (row k : Nat) : Fp :=
  let n := rScaleBytes a
  let c := field sc ((row * rRowScales a + k) * n) n
  if rSk a = 2 then Fmt.bf16.val ftz c else Fmt.f32.val ftz c

/-- The largest magnitude of a block; a NaN among its elements makes it NaN (R311). -/
def blockMax (vs : List Fp) : Fp :=
  if vs.any Fp.isNan then Fp.qnan
  else vs.foldl (fun a v => let m := if v.isNeg then v.neg else v; if a.lt m then m else a) Fp.zero

/-- Quantise one block: its scale byte and its elements (R311). -/
def quantBlock (f : Fmt) (ftz : Bool) (vs : List Fp) : Nat × List Nat :=
  let m := blockMax vs
  let c := (blockScale f m).1
  if (c = 0 && m.isZero) || c = 0xFF then (c, vs.map fun _ => 0)
  else (c, vs.map fun v => (f.enc .rne ftz (v.scale (127 - (c : Int)))).1)

/-- Quantise a row: its scale bytes and the row (R311). -/
def quantRow (a b : ShapeRec) (ftz : Bool) (row : List Byte) : List Byte × List Byte :=
  let vs := (rowElems a row).map ((rFmt a).val ftz)
  let n := rGroup b
  let bl := (List.range (rExt b 0 / n)).map fun k => quantBlock (rFmt b) ftz ((vs.drop (k * n)).take n)
  (bl.map fun p => BitVec.ofNat 8 p.1, rowOf (rFmt b) ((bl.map (·.2)).flatten))

/-- The writes of a leaf encode: slots in order, up to the first tile that does not fit (R312). -/
def leafWrites (r : ShapeRec) (j : Nat) : Nat → List Byte → List (Int × List Byte) × Option Halt
  | 0, _ => ([], none)
  | n + 1, l =>
    let e := leafEncode (l.take 256)
    if 160 < e.length then ([], some (.trap 0x12 0))
    else
      let rest := leafWrites r (j + 1) n (l.drop 256)
      (((64 + 160 * j : Nat) : Int), e ++ List.replicate (160 - e.length) 0) :: rest.1 |> fun ws => (ws, rest.2)

/-- The header of a leaf-coded buffer (R303). -/
def leafHead (r : ShapeRec) : List Byte := leBytes 0x4C464231 4 ++ leBytes (rExp r) 1 ++ List.replicate 59 0

/-- Writes of rows of a destination tile, by offset from its base. -/
def rowWrites (b : ShapeRec) (t : Nat) (rows : List (List Byte)) : Except Halt (List (Int × List Byte)) :=
  match tileOff b t with
  | none => .error (.trap 0x12 0)
  | some o => .ok (rows.mapIdx fun i v => (o + (i : Int) * rPitch b, rowOut b v))

/-- One tile of a transform: the writes it makes, and how it ends after them (R311, R312). -/
def xformTile (rd : Int → Nat → Except Halt (List Byte)) (a b : ShapeRec) (xop : Byte) (ftz : Bool) (t : Nat) :
    Except Halt (List (Int × List Byte) × Option Halt) :=
  let plain (rows : List (List Byte)) := (rowWrites b t rows).map fun ws => (ws, (none : Option Halt))
  match xop.toNat with
  | 0 => (readRows rd a t).bind plain
  | 1 => (readRows rd a t).bind fun rows => plain (rows.map (mapRow a b ftz fun _ v => v))
  | 2 => (readTile rd a t).bind fun d => plain (d.rows.mapIdx fun i row =>
      mapRow a b ftz (fun c v => v.mul (groupScale a ftz d.scales i (c / rGroup a))) row)
  | 3 => (readRows rd a t).bind fun rows =>
      let q := rows.map (quantRow a b ftz)
      (rowWrites b t (q.map (·.2))).map fun ws =>
        (ws ++ [((tileOff b t).getD 0 + rScb b, (q.map (·.1)).flatten)], none)
  | 4 => (readRows rd a t).bind fun rows =>
      match tileOff b t with
      | some o =>
        let v := (rows.map (rowOut b)).flatten
        if o < 0 ∨ o % 256 ≠ 0 then .error (.trap 0x12 0)
        else
          let w := leafWrites b (o.toNat / 256) (v.length / 256) v
          .ok ((0, leafHead b) :: w.1, w.2)
      | none => .error (.trap 0x12 0)
  | _ => (readRows rd a t).bind fun rows =>
      plain ((List.range (rExt b 1)).map fun i =>
        rowOf (rFmt b) ((List.range (rExt b 0)).map fun c => rowElem (rFmt a) (rows.getD c []) i))

/-- A descriptor's fields obey its table (R310). -/
def xformFields (d : List Byte) : Bool :=
  bits (field d 0x10 2) 12 4 == 0 && field d 0x12 2 == 0 && field d 0x1C 4 == 0

/-- The two records of a transform and R311's requirements, else code 0x12 (R312). -/
def State.xformShapes (s : State) (ctx : Nat) (d : List Byte) (dst : ShapeRec) (xop : Byte) (da : DWord) :
    Except Halt ShapeRec := do
  need (xformFields d) 0x12 da
  let src ← s.engineShape ctx (bits (field d 0x10 2) 0 12) da
  need (xformOk xop src dst) 0x12 da
  pure src

/-- The barrier object that an XFORM names (R269, R310). -/
def xformObject (s : State) (b : Band) (v : Word) : Except Halt (Option Nat) :=
  if v = 0xFFFFFFFF then .ok none
  else do
    need (v.toNat % 8 == 0) 0x06 (v.setWidth 64)
    match reachPlace s b 0 (resolveScr s b v) 8 true true with
    | .locs (.scr n :: _) => pure (some n)
    | _ => .error (.trap 0x07 (v.setWidth 64))

/-- The checks of XFORM at issue (R312), and its command. -/
def xformOp (a b : Reg) (shape : BitVec 12) (xop : Byte) (s : State) (x : Ex) : Except Halt EngOp := do
  let B := s.me
  let da := descOf a s x
  let dst ← s.engineShape (s.ctxOf B) shape.toNat da
  let d ← s.descRead s.cur x.v da 32
  let srcA := BitVec.ofNat 64 (field d 0 8)
  let dstA := BitVec.ofNat 64 (field d 8 8)
  need (canonical srcA) 0x0A srcA
  need (canonical dstA) 0x0A dstA
  need ((B.rg x x.low b) = 0xFFFFFFFF || (B.rg x x.low b).toNat % 8 == 0) 0x06 ((B.rg x x.low b).setWidth 64)
  let ps ← enginePlace s B srcA
  let pd ← enginePlace s B dstA
  let bo ← xformObject s B (B.rg x x.low b)
  let src ← s.xformShapes (s.ctxOf B) d dst xop da
  need (match pd with
    | .ws _ => false
    | _ => true) 0x15 dstA
  pure (.xform ps pd src dst xop (field d 0x14 4) (field d 0x18 4) bo (ftzOf (B.fpBy x.now)))

def execXform (h : Hdr) (sb : Flag) (a b : Reg) (shape : BitVec 12) (xop : Byte) (s : State) :
    Host.Outcome State Fault Refusal :=
  .next (pagedWord (.xform h sb a b shape xop) (checkPage (xformOp a b shape xop))
    (allLanes (checkTrap (xformOp a b shape xop)))
    (fun x s =>
      match xformOp a b shape xop s x with
      | .ok op =>
        let s1 := (s.readDesc x (descOf a s x)).fork x sb (descOf a s x) op
        s1.setMe (s1.me.touchGrove (if s.me.rg x x.low b = 0xFFFFFFFF then 0 else s.me.rg x x.low b))
      | .error _ => s) s)

/-- A node's run has a result. -/
def State.setNode (s : State) (id : Nat) (f : NodeRun → NodeRun) : State :=
  { s with nodes := s.nodes.map fun n => if n.id == id then f n else n }

/-- A transform ends: its flag, its barrier object and its node (R272, R312, R315). -/
def State.xformEnd (s : State) (e : EngCmd) (bo : Option Nat) (r : Option (Byte × DWord)) : State :=
  match e.node with
  | some id => (s.dropEngine e.id).setNode id fun n =>
      { n with result := some (match r with
        | none => .done
        | some (c, _) => .failed c) }
  | none =>
    let s1 := match bo with
      | some a => s.engineArrive a r.isNone
      | none => s
    match r with
    | none => (s1.dropEngine e.id).joined e.issuer e.id
    | some (c, va) => s1.failIssuer e c va

/-- Transform tile after tile; a wait keeps the tiles that are left. -/
def State.xformRun (s : State) (e : EngCmd) (src dst : Place) (a b : ShapeRec) (xop : Byte) (bo : Option Nat)
    (ftz : Bool) : Nat → Nat → State
  | 0, _ => s.xformEnd e bo none
  | n + 1, first =>
    let left (s : State) : State := s.setEngineOp e.id (.xform src dst a b xop (n + 1) first bo ftz)
    let halt (s : State) : Halt → State
      | .absent va => (left s).enginePage e.issuer.band e.id va
      | .sectors d l va => (left s).waitAt d e.id l va
      | .busy => left s
      | .trap c va => s.xformEnd e bo (some (c, va))
    match xformTile (s.engineRead e src) a b xop ftz first with
    | .error h => halt s h
    | .ok (ws, last) =>
      match s.engineWrite e dst ws with
      | .done s' =>
        match last with
        | some h => halt s' h
        | none => s'.xformRun e src dst a b xop bo ftz n (first + 1)
      | .absent va => halt s (.absent va)
      | .wait die l va => halt s (.sectors die l va)
      | .busy => halt s .busy
      | .fault c va s' => halt s' (.trap c va)

/-- XFORM_COMPLETE: a transform moves its tiles and ends (R312). -/
def State.xformGo (s : State) (e : EngCmd) : State :=
  match e.op with
  | .xform src dst a b xop nt first bo ftz =>
    if s.engineReady e then (s.unblock e.id).xformRun e src dst a b xop bo ftz nt first else s
  | _ => s

def execXformComplete (id : Nat) (s : State) : Host.Outcome State Fault Refusal :=
  .next (match s.findEngine id with
    | some e => s.xformGo e
    | none => s)

/-! ## The dependence graph (R313 to R316) -/

/-- The 128 bytes of a node. -/
def State.nodeRead (s : State) (ctx : Nat) (a : DWord) : Except Halt (List Byte) := s.ctxRead ctx a 128

/-- KIND, NSUCC and the reserved fields obey R313. -/
def nodeOk (n : List Byte) : Bool :=
  let kind := field n 0 1
  let succ := field n 1 1
  decide (kind ≤ 2) && decide (succ ≤ 8) && zeros n 8 8 && zeros n (0x40 + 8 * succ) (64 - 8 * succ) &&
    (match kind with
      | 0 => zeros n 0x10 48
      | 1 => bits (field n 0x30 2) 12 4 == 0 && zeros n 0x33 13
      | _ => zeros n 0x3C 4)

/-- The transform of a node (R313): its addresses are global. -/
def State.nodeXform (s : State) (ctx : Nat) (a : DWord) (n : List Byte) : Except Halt EngOp := do
  let d := sub n 0x10 32
  let xop := BitVec.ofNat 8 (field n 0x32 1)
  let dst ← s.engineShape ctx (bits (field n 0x30 2) 0 12) a
  let src ← s.xformShapes ctx d dst xop a
  need (canonical (BitVec.ofNat 64 (field d 0 8)) && canonical (BitVec.ofNat 64 (field d 8 8))) 0x12 a
  pure (.xform (.global (BitVec.ofNat 64 (field d 0 8))) (.global (BitVec.ofNat 64 (field d 8 8))) src dst xop
    (field d 0x14 4) (field d 0x18 4) none false)

/-- The launch of a node (R143, R313, R436), or none if its body fails a check. -/
def State.nodeLaunch (s : State) (ctx : Nat) (n : List Byte) : Except Halt (Option LaunchReq) := do
  let kimg := BitVec.ofNat 64 (field n 0x10 8)
  let argp := BitVec.ofNat 64 (field n 0x30 8)
  let narg := field n 0x38 4
  let lo := field n 0x18 8
  let hi := field n 0x20 8
  let grain := field n 0x28 4
  let nthr := field n 0x2C 4
  if kimg.toNat % 64 != 0 || decide (hi < lo) || grain == 0 || decide (32 < narg) || argp.toNat % 4 != 0 then pure none
  else
    match ← s.readImage ctx kimg with
    | none => pure none
    | some info =>
      if info.image.crews != 0 || decide (32 * info.image.bands < nthr) then pure none
      else
        let args ← s.ctxRead ctx argp (4 * narg)
        let cfg := ((s.ctx ctx).map (·.deflt)).getD .blank
        pure (some
          { info := info, cfg := { cfg with priv := false }, lo := lo, hi := hi, grain := grain,
            args := (List.range narg).map fun i => BitVec.ofNat 32 (field args (4 * i) 4),
            nthr := if nthr = 0 then 32 * info.image.bands else nthr })

/-- STATUS and ERR of a node (R313). -/
def State.nodeStatus (s : State) (ctx : Nat) (a : DWord) (st : Nat) (err : Byte) : State :=
  s.hwWrite ctx (a + 2) [BitVec.ofNat 8 st, err]

/-- A node cannot run: STATUS 3 with a code (R315). -/
def State.nodeFails (s : State) (r : NodeRun) (code : Byte) : State :=
  (s.nodeStatus r.ctx r.addr 3 code).setNode r.id fun n =>
    { n with started := true, result := some (.failed code) }

/-- Start a node (R315); it stays as it is while a page is not present, or a write lacks sectors. -/
def State.nodeStart (s : State) (r : NodeRun) : State :=
  let s := s.unblock r.id
  let halt : Halt → State
    | .absent va => s.enginePage r.by_.band r.id va
    | .sectors d l va => s.waitAt d r.id l va
    | .busy => s
    | .trap c _ => s.nodeFails r c
  match s.nodeRead r.ctx r.addr with
  | .error h => halt h
  | .ok n =>
    let run (s : State) : State := s.nodeStatus r.ctx r.addr 1 0
    if bits (field n 2 1) 7 1 == 1 then
      (s.nodeStatus r.ctx r.addr 4 0).setNode r.id fun n => { n with started := true, result := some .skipped }
    else if !nodeOk n then s.nodeFails r 0x12
    else
      match field n 0 1 with
      | 0 => (run s).setNode r.id fun n => { n with started := true, result := some .done }
      | 1 =>
        match s.nodeXform r.ctx r.addr n with
        | .error h => halt h
        | .ok op =>
          let f := (run s).fresh
          let e : EngCmd :=
            { id := f.1, ctx := r.ctx, issuer := r.by_, node := some r.id, desc := r.addr,
              core := (s.band r.by_.band).core, crew := (s.band r.by_.band).crew, op := op }
          State.setNode { f.2 with engines := f.2.engines ++ [e] } r.id fun n => { n with started := true }
      | _ =>
        match s.nodeLaunch r.ctx n with
        | .error h => halt h
        | .ok none => s.nodeFails r 0x12
        | .ok (some q) =>
          match s.installShapes r.ctx q.info.image.addr q.info.shapes with
          | .error h => halt h
          | .ok (.error id) =>
            (s.nodeFails r 0x12).post [⟨r.ctx, 9, (s.band r.by_.band).core / 256, id, q.info.image.addr⟩]
          | .ok (.ok s1) =>
            let l := (run s1).beginLaunch q r.ctx r.queue (.graph r.id) none
            (l.2.unwait r.id).setNode r.id fun n => { n with started := true, launch := some l.1 }

/-- Start every node whose start is due (R316). -/
def State.startNodes (s : State) : State :=
  (s.nodes.filter fun r => !r.started).foldl (fun s r =>
    if !s.pageWaits r.id && s.unitRuns r.by_.band then s.nodeStart r else s) s

/-- PRED's place: decrement it unless it is 0, an RMW that watches are checked against (R280); the old value, and the
state after (R314). -/
def State.signal (s : State) (w : Writer) (a : DWord) : Option (Nat × State) :=
  match (runVa s (s.rootOf w.ctx) (a + 4) 4 false).map s.readLocs with
  | .ok v =>
    let p := leNat v
    some (p, if p = 0 then s else s.hwWriteBy w (a + 4) (leBytes (p - 1) 4))
  | .error _ => none

/-- The agent of a node's RMWs: an engine thread of the lane whose GNODE led to it (R282, R315). -/
def State.nodeWriter (s : State) (r : NodeRun) : Writer :=
  { s.laneWriter r.by_.band (lowest r.by_.lanes) r.by_.word true with ctx := r.ctx, depth := r.by_.depth, book := true }

/-- A node is to be started. -/
def State.addNode (s : State) (ctx queue : Nat) (a : DWord) (by_ : Issuer) (flag : Option (Nat × Flag)) :
    State :=
  let f := s.fresh
  { f.2 with nodes := f.2.nodes ++
      [{ id := f.1, ctx := ctx, addr := a, queue := queue, by_ := by_, flag := flag, launch := none,
         started := false, result := none }] }

/-- The walker takes one successor (R315); a failure is reported as an event. -/
def State.signalSucc (s : State) (r : NodeRun) (skip : Bool) (a : DWord) : State :=
  let s1 :=
    if skip then
      match (runVa s (s.rootOf r.ctx) (a + 2) 1 false).map s.readLocs with
      | .ok v => s.hwWrite r.ctx (a + 2) [v.headD 0 ||| 0x80]
      | .error _ => s
    else s
  match s1.signal (s.nodeWriter r) a with
  | none => s1
  | some (p, s2) =>
    if p = 0 then (s2.nodeStatus r.ctx a 3 0x12).post [⟨r.ctx, 3, (s.band r.by_.band).core / 256, 0x12, a⟩]
    else if p = 1 then s2.addNode r.ctx r.queue a r.by_ none
    else s2

/-- The first page of the node's record and successors that is not present. -/
def State.succAbsent (s : State) (ctx : Nat) (as : List DWord) : Option DWord :=
  as.find? fun a => decide (translate s.mem (s.rootOf ctx) a = .absent)

/-- A successor cannot be read yet. -/
def State.succBusy (s : State) (ctx : Nat) (as : List DWord) : Bool :=
  as.any fun a => decide (s.ctxRead ctx a 8 = .error .busy)

/-- How a node's run has ended, if it has (R313, R315). -/
def State.nodeResult (s : State) (r : NodeRun) : Option NodeEnd :=
  match r.result with
  | some x => some x
  | none =>
    match r.launch with
    | some li => if s.launchOver li then some .done else none
    | none => none

/-- A node has ended, with these successors: its STATUS, its events, GNODE's flag, and the walker's signals (R314,
R315). -/
def State.nodeEnds (s : State) (r : NodeRun) (x : NodeEnd) (succ : List DWord) : State :=
  let die := (s.band r.by_.band).core / 256
  let s1 := match r.launch with
    | some li => s.endLaunch li
    | none => s
  let s2 := { s1 with nodes := s1.nodes.filter fun n => n.id != r.id }.unwait r.id
  let s3 := match x with
    | .done => s2.nodeStatus r.ctx r.addr 2 0
    | .failed c => (s2.nodeStatus r.ctx r.addr 3 c).post [⟨r.ctx, 3, die, c.toNat, r.addr⟩]
    | .skipped => s2.post [⟨r.ctx, 4, die, 0, r.addr⟩]
  let s4 := match r.flag with
    | some (bi, f) => (s3.dropL1 (s3.band bi).core).finish bi r.id f
    | none => s3
  (succ.foldl (fun s a => s.signalSucc r (x != .done) a) s4).startNodes

/-- GRAPH_NODE_COMPLETE: a node has ended, and the walker signals its successors (R315); of a node that can no longer
be read it finds none. -/
def State.nodeComplete (s : State) (r : NodeRun) : State :=
  match s.nodeResult r with
  | none => s
  | some x =>
    match s.nodeRead r.ctx r.addr with
    | .ok n =>
      let succ := (List.range (min 8 (field n 1 1))).map fun i => BitVec.ofNat 64 (field n (0x40 + 8 * i) 8)
      match s.succAbsent r.ctx succ with
      | some va => s.enginePage r.by_.band r.id va
      | none => if s.succBusy r.ctx succ then s else s.nodeEnds r x succ
    | .error (.absent va) => s.enginePage r.by_.band r.id va
    | .error (.trap ..) => s.nodeEnds r x []
    | .error _ => s

def execGraphNodeComplete (id : Nat) (s : State) : Host.Outcome State Fault Refusal :=
  .next (match s.nodes.find? (·.id == id) with
    | some r => if s.pageWaits r.id then s else s.nodeComplete r
    | none => s)

/-- The checks of GNODE at issue, and PRED as it reads it (R314, R445). -/
def gnodePred (a : Reg) (s : State) (x : Ex) : Except Halt Nat := do
  let va := descOf a s x
  need (canonical va) 0x0A va
  need (va.toNat % 128 == 0) 0x06 va
  let p := resolve s s.me .gen va
  let l ← (reachPlace s s.me x.low (p.add 4) 4 true true).toExcept (va + 4)
  need (match p with
    | .global _ => true
    | _ => false) 0x07 va
  let s' := s.settleLanes s.cur x.v
  let v ← if (s'.unperformed s.cur x.v).isEmpty then (s'.readUnit l).map leNat else .error .busy
  need (v != 0) 0x12 va
  pure v

/-- The decrement is performed at issue, after the earlier accesses of its lanes, of which none is left (R251, R314,
R316). -/
def State.gnode (s : State) (x : Ex) (sb : Flag) (va : DWord) (p : Nat) : State :=
  let ctx := s.ctxOf s.me
  let s1 := s.settleLanes s.cur x.v
  let s1 := match s1.paOf ctx (va + 4) with
    | some pa => s1.dropLine s1.me.core false pa
    | none => s1
  let w := { s1.laneWriter s1.cur x.low x.pc true with book := true }
  let s2 := s1.hwWriteBy w (va + 4) (leBytes (p - 1) 4)
  if p = 1 then
    let by_ : Issuer := { band := s.cur, lanes := x.v, word := x.pc, flag := sb, depth := s.depthOf s.me }
    ((s2.setMe (s2.me.setBusy sb .engine)).addNode ctx (((s.launchOf s.me).map (·.queue)).getD 0) va by_
      (some (s.cur, sb))).startNodes
  else s2

def execGnode (h : Hdr) (sb : Flag) (a : Reg) (s : State) : Host.Outcome State Fault Refusal :=
  .next (pagedWord (.gnode h sb a) (checkPage (gnodePred a)) (allLanes (checkTrap (gnodePred a)))
    (fun x s =>
      match gnodePred a s x with
      | .ok p => s.gnode x sb (descOf a s x) p
      | .error _ => s) s)

/-! ## A fault service that answers with a code (R372) -/

/-- An engine command fails with a code (R197, R308, R312). -/
def State.failEngine (s : State) (e : EngCmd) (code : Byte) (va : DWord) : State :=
  match e.op with
  | .strm _ _ _ ctrl .. => s.failStream e ctrl code va
  | .xform _ _ _ _ _ _ _ bo _ => s.xformEnd e bo (some (code, va))

end Sys2Proof.Machine
end

