-- ==== Sys2Proof/Machine/Link.lean ====
section
/-!
DEFINITION. The link unit (R317 to R339): context maps and their versions, LINK, UNLINK and SEGRD, and the
repair passes that a change of a map schedules.
-/

namespace Sys2Proof.Machine

/-! ## How a command ends -/

/-- Why a command of the link unit cannot go on: as any transfer, or with a cause of R331. -/
inductive LinkErr where
  | halt (h : Halt)
  | cause (n : Nat)
  deriving DecidableEq, Repr

def liftHalt {α : Type} (x : Except Halt α) : Except LinkErr α :=
  match x with
  | .ok v => .ok v
  | .error h => .error (.halt h)

/-- A check with its cause (R331). -/
def linkNeed (ok : Bool) (cause : Nat) : Except LinkErr Unit :=
  if ok then .ok () else .error (.cause cause)

/-! ## Map headers (R320) -/

def mMaxl (h : List Byte) : Nat := field h 0x04 2
def mNlayer (h : List Byte) : Nat := field h 0x06 1
def mNkv (h : List Byte) : Nat := field h 0x08 2
def mHd (h : List Byte) : Nat := field h 0x0A 2
def mRdim (h : List Byte) : Nat := field h 0x0C 2
def mRgrain (h : List Byte) : Nat := field h 0x0E 2
def mRotoff (h : List Byte) : Nat := field h 0x10 8
def mRotn (h : List Byte) : Nat := field h 0x18 4
def mRepk (h : List Byte) : DWord := BitVec.ofNat 64 (field h 0x20 8)
def mSegdir (h : List Byte) : DWord := BitVec.ofNat 64 (field h 0x28 8)
def mNseg (h : List Byte) : Nat := field h 0x30 4
def mCur (h : List Byte) : Nat := field h 0x38 1
def mVer (h : List Byte) : Nat := field h 0x3C 4
def mNlink (h : List Byte) (b : Nat) : Nat := field h (0x50 + 2 * b) 2
def mNextlid (h : List Byte) : Nat := field h 0x58 4

/-- The fields of a header obey R320. -/
def mapFieldsOk (va : DWord) (h : List Byte) : Bool :=
  va.toNat % 128 == 0 && field h 0 4 == 0x434D5031 && decide (1 ≤ mMaxl h) && decide (mMaxl h ≤ 1024) &&
    decide (1 ≤ mNlayer h) && field h 7 1 == 0 && decide (1 ≤ mNkv h) && decide (mNkv h ≤ 256) &&
    mHd h % 2 == 0 && decide (2 ≤ mHd h) && decide (mHd h ≤ 512) && mRdim h % 2 == 0 && decide (2 ≤ mRdim h) &&
    decide (mRdim h ≤ mHd h) && decide (1 ≤ mRgrain h) && mRotoff h % 8 == 0 && decide (1 ≤ mRotn h) &&
    decide (mRotoff h + 4 * mRdim h * mRotn h ≤ 2 ^ 28) && field h 0x1C 4 == 0 &&
    (mRepk h).toNat % 64 == 0 && (mSegdir h).toNat % 64 == 0 && field h 0x34 4 == 0 && decide (mCur h ≤ 3) &&
    zeros h 0x39 3 && zeros h 0x5C 36

/-- The repair kernel passes the checks that R277 makes of a handler's image. -/
def State.readKernel (s : State) (ctx : Nat) (a : DWord) : Except Halt (Option ImageInfo) :=
  if a.toNat % 64 != 0 then .ok none
  else (s.readImage ctx a).map fun i => match i with
    | some i => if i.image.crews == 0 && i.groups.isEmpty then some i else none
    | none => none

/-- Read a map's header and check it, its rotation table against the context's partition too (R221): cause 1 (R331). -/
def State.readMap (s : State) (ctx : Nat) (va : DWord) : Except LinkErr (List Byte) := do
  let h ← liftHalt (s.ctxRead ctx va 128)
  linkNeed (mapFieldsOk va h && decide (mRotoff h + 4 * mRdim h * mRotn h ≤ ((s.ctx ctx).map (·.wsLen)).getD 0)) 1
  let i ← liftHalt (s.readKernel ctx (mRepk h))
  linkNeed i.isSome 1
  pure h

/-! ## Links (R321) -/

structure LinkRec where
  sid : Nat
  base : Nat
  vlo : Nat
  vhi : Nat
  psig : Nat
  lid : Nat
  ova : DWord
  h : Nat
  deriving DecidableEq, Repr

def linkOf (r : List Byte) : LinkRec :=
  { sid := field r 0 4, base := field r 4 4, vlo := field r 8 4, vhi := field r 12 4, psig := field r 16 4,
    lid := field r 20 4, ova := BitVec.ofNat 64 (field r 24 8), h := field r 32 1 }

def LinkRec.bytes (l : LinkRec) : List Byte :=
  leBytes l.sid 4 ++ leBytes l.base 4 ++ leBytes l.vlo 4 ++ leBytes l.vhi 4 ++ leBytes l.psig 4 ++
    leBytes l.lid 4 ++ leBytes l.ova.toNat 8 ++ leBytes l.h 1 ++ List.replicate 31 0

/-- Bank `b` of a map. -/
def bankVa (va : DWord) (h : List Byte) (b : Nat) : DWord := va + BitVec.ofNat 64 (128 + 64 * mMaxl h * b)

/-- The links of bank `b`. -/
def State.readBank (s : State) (ctx : Nat) (va : DWord) (h : List Byte) (b : Nat) : Except Halt (List LinkRec) :=
  (s.ctxRead ctx (bankVa va h b) (64 * mNlink h b)).map fun v =>
    (List.range (mNlink h b)).map fun i => linkOf (sub v (64 * i) 64)

/-- Change a link's signature (R323). -/
def LinkRec.bump (l : LinkRec) : LinkRec := { l with psig := (l.psig + 1) % 2 ^ 32 }

/-! ## Segments (R317, R318) -/

/-- A segment that a command may use: its directory entry and its shape records. -/
structure Seg where
  e : List Byte
  ks : ShapeRec
  vs : ShapeRec
  deriving DecidableEq, Repr

def Seg.ntok (g : Seg) : Nat := field g.e 0x0C 4
def Seg.thr (g : Seg) : Nat := field g.e 0x0A 1
def Seg.score (g : Seg) : DWord := BitVec.ofNat 64 (field g.e 0x18 8)
def Seg.ltab (g : Seg) : DWord := BitVec.ofNat 64 (field g.e 0x20 8)

/-- A record for K or V of a segment (R318), else cause 4. -/
def State.segShape (s : State) (ctx id hd ntok : Nat) : Except LinkErr ShapeRec :=
  match s.shapeRec ctx id with
  | .error (.absent va) => .error (.halt (.absent va))
  | .error .busy => .error (.halt .busy)
  | .ok (some r) =>
    if usable r id && rExt r 0 == hd && decide (ntok ≤ rExt r 1 * rExt r 2 * rExt r 3 * rExt r 4) && rSk r == 0 &&
        [Fmt.f32, .f16, .bf16, .e4m3, .e5m2].contains (rFmt r) then .ok r
    else .error (.cause 4)
  | _ => .error (.cause 4)

/-- Read a segment's entry under causes 2 to 4 (R331). -/
def State.readSeg (s : State) (ctx : Nat) (m : List Byte) (sid : Nat) : Except LinkErr Seg := do
  linkNeed (decide (sid < mNseg m)) 2
  let e ← liftHalt (s.ctxRead ctx (mSegdir m + BitVec.ofNat 64 (64 * sid)) 64)
  let fl := field e 5 1
  linkNeed (field e 0 4 == sid && bits fl 0 1 == 1 && bits fl 3 5 == 0 && field e 0x0B 1 == 0 &&
    zeros e 0x28 24) 2
  linkNeed (bits fl 2 1 == 0) 3
  linkNeed (field e 4 1 == mNlayer m && field e 6 2 == mNkv m && field e 8 2 == mHd m) 4
  let ks ← s.segShape ctx (field e 0x10 2) (mHd m) (field e 0x0C 4)
  let vs ← s.segShape ctx (field e 0x12 2) (mHd m) (field e 0x0C 4)
  pure { e := e, ks := ks, vs := vs }

/-- The selection set of a link, ascending (R324). -/
def State.selection (s : State) (ctx : Nat) (g : Seg) (vlo vhi h : Nat) : Except Halt (List Nat) :=
  let js := (List.range (vhi - vlo)).map (vlo + ·)
  if g.thr = 255 then .ok (js.filter fun j => decide (j < h))
  else
    (s.ctxRead ctx (g.score + BitVec.ofNat 64 vlo) (vhi - vlo)).map fun v =>
      js.filter fun j => decide (j < h) || decide (g.thr ≤ (v.getD (j - vlo) 0).toNat)

/-! ## Overlays (R325) -/

/-- Row bytes rounded up to 16. -/
def rowUp (r : ShapeRec) : Nat := (rRowMem r + 15) / 16 * 16

/-- IO: where the rows of an overlay begin. -/
def overlayRows (nsel : Nat) : Nat := 64 + 256 * ((4 * nsel + 255) / 256)

/-- Bytes that an overlay needs. -/
def overlayBytes (m : List Byte) (g : Seg) (nsel : Nat) : Nat :=
  overlayRows nsel + (mNlayer m - 1) * mNkv m * nsel * (rowUp g.ks + rowUp g.vs)

/-- The header of an overlay and its index list as LINK writes them (R329). -/
def overlayHead (lid : Nat) (sel : List Nat) : List Byte :=
  leBytes 0 8 ++ leBytes sel.length 4 ++ leBytes lid 4 ++ List.replicate 48 0 ++
    (sel.map fun j => leBytes j 4).flatten

/-! ## Writes of the link unit -/

/-- Every byte of these writes can be reached. -/
def State.writable (s : State) (ctx : Nat) (ws : List (DWord × List Byte)) : Except Halt Unit :=
  ws.foldl (fun r w => r.bind fun _ => (runVa s (s.rootOf ctx) w.1 w.2.length true).map fun _ => ()) (.ok ())

/-- A run of bookkeeping bytes, at once or not at all: what lacks sectors is the answer (R227). -/
def State.bookAt (s : State) (ctx : Nat) (r : RunAt) (v : List Byte) : Except Halt State :=
  r.locs.bind fun l =>
    match (s.clearRcl r.ptes).putRuns ctx l.length l v with
    | some s' => .ok s'
    | none => .error (.sectors (dieOfLocs l) (blocksOfLocs l) r.va)

/-- Bookkeeping writes of a publication, all of them at once or none (R227, R322). -/
def State.bookNow (s : State) (ctx : Nat) (ws : List (DWord × List Byte)) : Except Halt State :=
  ws.foldl (fun r w => r.bind fun s => s.bookAt ctx
    ⟨w.1, runVa s (s.rootOf ctx) w.1 w.2.length true, ptesVa s (s.rootOf ctx) w.1 w.2.length⟩ w.2) (.ok s)

/-- Bookkeeping writes (R227). -/
def State.hwWrites (s : State) (ctx : Nat) (ws : List (DWord × List Byte)) : State :=
  ws.foldl (fun s w => s.hwWrite ctx w.1 w.2) s

/-- The writes that publish a list in bank `b` (R322): the bank, then the header. -/
def publishWrites (va : DWord) (h : List Byte) (b : Nat) (links : List LinkRec) (isLink : Bool) :
    List (DWord × List Byte) :=
  let ver := (mVer h + 1) % 2 ^ 32
  let at_ (o : Nat) : DWord := va + BitVec.ofNat 64 o
  [(bankVa va h b, (links.map LinkRec.bytes).flatten), (at_ 0x38, leBytes b 1), (at_ 0x3C, leBytes ver 4),
   (at_ (0x40 + 4 * b), leBytes ver 4), (at_ (0x50 + 2 * b), leBytes links.length 2)] ++
    if isLink then [(at_ 0x58, leBytes (mNextlid h + 1) 4)] else []

/-! ## Commands -/

def State.findLink (s : State) (id : Nat) : Option LinkCmd := s.links.find? (·.id == id)

def State.setLink (s : State) (id : Nat) (f : LinkCmd → LinkCmd) : State :=
  { s with links := s.links.map fun c => if c.id == id then f c else c }

/-- A command is gone, with the entries that it has in the matrix sequencer (R336). -/
def State.dropLink (s : State) (c : LinkCmd) : State :=
  let s := { s with links := s.links.filter fun e => e.id != c.id }.unwait c.id
  let k := s.core c.core
  let mine (q : SeqCmd) : Bool := match q.op with
    | .segrd _ id => id == c.id
    | _ => false
  if k.seq.any mine then (s.setCore { k with seq := k.seq.filter fun q => !mine q }).promptSeq c.core else s

/-- The command's flag becomes done, and joins it (R251, R338). -/
def State.endLink (s : State) (c : LinkCmd) : State := (s.dropLink c).joined c.issuer c.id

/-- Bytes of a descriptor, as its generic address names them for the issuing lane. -/
def State.linkDesc (s : State) (c : LinkCmd) (n : Nat) : Except Halt (List Byte) :=
  let b := s.band c.issuer.band
  (runBand s b (lowest c.issuer.lanes) c.desc (resolve s b .gen c.desc) n false).bind s.readUnit

/-- Write fields of a descriptor, in memory as bookkeeping writes that wait for sectors (R227, R331). -/
def State.linkPut (s : State) (c : LinkCmd) (ps : List (Nat × List Byte)) : Except Halt State :=
  let b := s.band c.issuer.band
  let p := resolve s b .gen c.desc
  ps.foldl (fun r w => r.bind fun s =>
    let va := c.desc + BitVec.ofNat 64 w.1
    let t := lowest c.issuer.lanes
    let l := runBand s b t va (p.add w.1) w.2.length true
    match p, l with
    | .scr _, .ok l | .grove _, .ok l => .ok (s.scrWrite b l w.2)
    | _, l => s.bookAt c.ctx ⟨va, l, ptesBand s b t (p.add w.1) w.2.length⟩ w.2) (.ok s)

/-- The command fails with a code: its lanes receive it and its flag becomes done (R331). -/
def State.failLink (s : State) (c : LinkCmd) (code : Byte) (info : Nat) (va : DWord) : State :=
  ((s.dropLink c).reportAll c.issuer.band c.issuer.lanes (asyncTrap code info va c.issuer.word)).joined c.issuer c.id

/-- Where a command's descriptor has ERR. -/
def LinkOp.errOff : LinkOp → Nat
  | .link _ => 0x30
  | .unlink _ => 0x10
  | .segrd .. => 0x2D

/-- A command stops: at a page, for sectors or bytes that cannot be read yet, or with a fault; a decode error reports
the descriptor (R331, R355). -/
def State.linkStop (s : State) (c : LinkCmd) : Halt → State
  | .absent va => s.enginePage c.issuer.band c.id va
  | .sectors d l va => s.waitAt d c.id l va
  | .busy => s
  | .trap code va => s.failLink c code 0 (if code = 0x12 then c.desc else va)

/-- A command stops, or fails with a cause (R331). -/
def State.linkHalt (s : State) (c : LinkCmd) : LinkErr → State
  | .halt h => s.linkStop c h
  | .cause n =>
    match s.linkPut c [(c.op.errOff, leBytes n 1)] with
    | .ok s' => s'.failLink c 0x11 n c.desc
    | .error h => s.linkStop c h

/-- The map that a command names, where its descriptor can be read. -/
def State.mapOf (s : State) (c : LinkCmd) : Option DWord :=
  match c.op with
  | .segrd _ d _ _ _ => some (BitVec.ofNat 64 (field d 0 8))
  | _ => match s.linkDesc c 8 with
    | .ok v => some (BitVec.ofNat 64 (leNat v))
    | .error _ => none

/-- An earlier command of the band that names the same map, or whose map cannot be read yet, has not been performed
(R322). -/
def State.mapBusy (s : State) (c : LinkCmd) : Bool :=
  (s.links.takeWhile fun y => y.id != c.id).any fun y =>
    y.issuer.band == c.issuer.band && y.published.isNone && ((s.mapOf y).isNone || s.mapOf y == s.mapOf c)

/-- The command may act (R251, R322). -/
def State.linkReady (s : State) (c : LinkCmd) : Bool :=
  s.clear c.issuer.band c.issuer.lanes c.id && !s.pageWaits c.id && !s.mapBusy c && s.unitRuns c.issuer.band

/-- Some SEGRD holds bank `b` of a map (R322). -/
def State.bankHeld (s : State) (ctx : Nat) (va : DWord) (b : Nat) : Bool :=
  s.links.any fun c => c.ctx == ctx && s.mapOf c == some va && (c.held.map (·.1)) == some b

/-- The bank is free. -/
def State.bankFree (s : State) (ctx : Nat) (va : DWord) (h : List Byte) (b : Nat) : Bool :=
  decide (b < 4) && b != mCur h && !s.bankHeld ctx va b

/-- A bank of the map that a command names is free: its LINK or UNLINK waits for one before its checks (R329, R330). -/
def State.linkBank (s : State) (c : LinkCmd) (b : Nat) : Except LinkErr Bool := do
  let d ← liftHalt (s.linkDesc c 8)
  let map := BitVec.ofNat 64 (leNat d)
  let h ← liftHalt (s.ctxRead c.ctx map 128)
  pure (s.bankFree c.ctx map h b)

/-! ## Repair passes (R326, R327) -/

def State.setPass (s : State) (id : Nat) (f : Pass → Pass) : State :=
  { s with passes := s.passes.map fun p => if p.id == id then f p else p }

/-- A crew of these launches still runs, is to be relaunched, or has been saved. -/
def State.crewsLeft (s : State) (ls : List Nat) : Bool :=
  s.crews.any (fun c => (c.running || c.killed) && ls.contains c.launch) ||
    s.queues.any fun q => q.saved.any fun x => ((s.crew x.crew).map fun c => ls.contains c.launch).getD false

/-- Every crew of a superseded pass of a link has ended. -/
def State.oldCrewsEnded (s : State) (ctx : Nat) (map : DWord) (lid : Nat) : Bool :=
  s.passes.all fun p => !(p.ctx == ctx && p.map == map && p.lid == lid && decide (p.st = .superseded)) ||
    !s.crewsLeft p.launches

/-- Withdraw a pass (R327). -/
def State.withdrawPass (s : State) (p : Pass) : State :=
  let s := p.launches.foldl State.withdrawGrains s
  s.setPass p.id fun p => { p with st := .superseded }

/-- The passes of one link that are not superseded. -/
def State.livePasses (s : State) (ctx : Nat) (map : DWord) (lid : Nat) : List Pass :=
  s.passes.filter fun p => p.ctx == ctx && p.map == map && p.lid == lid && p.st != .superseded

/-- A new pass of a link waits for its start. -/
def State.addPass (s : State) (c : LinkCmd) (map repk : DWord) (l : LinkRec) : State :=
  let f := s.fresh
  { f.2 with passes := f.2.passes ++
      [{ id := f.1, ctx := c.ctx, die := c.die, queue := ((s.launchOf (s.band c.issuer.band)).map (·.queue)).getD 0,
         map := map, lid := l.lid, psig := l.psig, repk := repk, st := .waiting 0, launches := [] }] }

/-- The STATE byte of a stale overlay (R327). -/
def LinkRec.staleBytes (l : LinkRec) : List (DWord × List Byte) := if l.ova = 0 then [] else [(l.ova + 5, [3])]

/-- The links of which a change supersedes the passes: it alters their signature or removes them (R327). -/
def staleLinks (old new : List LinkRec) : List LinkRec :=
  old.filter fun l => !new.any fun x => x.lid == l.lid && x.psig == l.psig

/-- Withdraw what passes of a link are under way, and mark its overlay stale (R327). -/
def State.staleLink (s : State) (ctx : Nat) (map : DWord) (l : LinkRec) : State :=
  let s1 := (s.livePasses ctx map l.lid).foldl State.withdrawPass s
  s1.hwWrites ctx l.staleBytes

/-- A published change supersedes the passes of the links that it alters or removes (R327). -/
def State.supersede (s : State) (c : LinkCmd) (map repk : DWord) (old new : List LinkRec) : State :=
  old.foldl (fun (s : State) (l : LinkRec) =>
    match new.find? fun x => x.lid == l.lid with
    | some x => if x.psig = l.psig then s else (s.staleLink c.ctx map l).addPass c map repk x
    | none => s.staleLink c.ctx map l) s

/-- The nine argument words of a repair launch (R326). -/
def repairArgs (p : Pass) (l : LinkRec) (layer nsel : Nat) : List Word :=
  [p.map.setWidth 32, (p.map >>> 32).setWidth 32, l.ova.setWidth 32, (l.ova >>> 32).setWidth 32,
   BitVec.ofNat 32 l.lid, BitVec.ofNat 32 layer, BitVec.ofNat 32 p.psig, BitVec.ofNat 32 nsel,
   BitVec.ofNat 32 l.sid]

/-- What a pass reads of its map: the header, its link and whether that has a predecessor, and NSEL. -/
def State.passLink (s : State) (p : Pass) : Except Halt (List Byte × Option (LinkRec × Bool × Nat)) := do
  let h ← s.ctxRead p.ctx p.map 128
  let ls ← s.readBank p.ctx p.map h (mCur h)
  match ls.findIdx? fun l => l.lid == p.lid with
  | none => pure (h, none)
  | some i =>
    let l := ls.getD i (linkOf [])
    let nsel ← if l.ova = 0 then pure 0 else (s.ctxRead p.ctx (l.ova + 8) 4).map leNat
    pure (h, some (l, i != 0, nsel))

/-- Change a launch. -/
def State.mapLaunch (s : State) (li : Nat) (f : Launch → Launch) : State :=
  match s.launch li with
  | some l => s.setLaunch li (f l)
  | none => s

/-- Launch a layer of a pass; no grain of it is delivered while its queue stops (R386): the package, or none if its kernel cannot be launched. -/
def State.launchLayer (s : State) (p : Pass) (h : List Byte) (l : LinkRec) (layer nsel : Nat) :
    Except Halt (Option State) :=
  (s.readKernel p.ctx (mRepk h)).map fun i => i.map fun info =>
    let cfg := ((s.ctx p.ctx).map (·.deflt)).getD .blank
    let q : LaunchReq :=
      { info := info, cfg := { cfg with priv := false, dies := BitVec.ofNat 9 (2 ^ p.die) }, lo := 0, hi := nsel,
        grain := mRgrain h, args := repairArgs p l layer nsel, nthr := 32 * info.image.bands }
    let s := s.setDie p.die { s.die p.die with parked := false }
    let b := s.beginLaunch q p.ctx p.queue (.repair p.id) none
    let stops := ((s.queue p.queue).map fun x => decide (x.st ≠ .mapped)).getD false
    (b.2.mapLaunch b.1 fun l => { l with paused := stops }).setPass p.id fun p => { p with st := .running layer, launches := p.launches ++ [b.1] }

/-- A pass waits for a page, or stays as it is on another fault. -/
def State.passHalt (s : State) (p : Pass) : Halt → State
  | .absent va =>
    let f := s.fresh
    { f.2 with faults := f.2.faults ++
        [{ id := f.1, ctx := p.ctx, band := 2 ^ 32, core := p.die * 256, va := va, kind := .engine p.id,
           placed := false }] }
  | .sectors .. | .busy | .trap .. => s

/-- A SEGRD holds a version in which the link's signature is below this one (R327). -/
def State.oldReader (s : State) (p : Pass) (h : List Byte) : Bool :=
  s.links.any fun c => c.ctx == p.ctx && s.mapOf c == some p.map && match c.held with
    | some (b, _) => match s.readBank p.ctx p.map h b with
      | .ok ls => ls.any fun l => l.lid == p.lid && decide (l.psig < p.psig)
      | .error _ => true
    | none => false

/-- Start a pass (R327): its header, and layer 1 if tokens of it are to be repaired. -/
def State.passBegin (s : State) (p : Pass) : State :=
  match s.passLink p with
  | .error e => s.passHalt p e
  | .ok (_, none) => s
  | .ok (h, some (l, pred, nsel)) =>
    if s.oldReader p h || !s.oldCrewsEnded p.ctx p.map p.lid then s
    else
      let go := pred && decide (0 < nsel) && decide (2 ≤ mNlayer h)
      let head := [(l.ova, leBytes p.psig 4 ++ [0, if go then 1 else 0]), (l.ova + 8, leBytes nsel 4)]
      if l.ova = 0 then s.setPass p.id fun p => { p with st := .complete }
      else
        match s.writable p.ctx head with
        | .error e => s.passHalt p e
        | .ok _ =>
          if go then
            match s.launchLayer p h l 1 nsel with
            | .ok (some s') => s'.hwWrites p.ctx head
            | .ok none => s
            | .error e => s.passHalt p e
          else (s.hwWrites p.ctx head).setPass p.id fun p => { p with st := .complete }

/-- Launch the next layer of a pass whose last layer has committed. -/
def State.passNext (s : State) (p : Pass) (layer : Nat) : State :=
  match s.passLink p with
  | .ok (h, some (l, _, nsel)) =>
    match s.launchLayer p h l layer nsel with
    | .ok (some s') => s'
    | .ok none => s
    | .error e => s.passHalt p e
  | .ok (_, none) => s
  | .error e => s.passHalt p e

def State.findPass (s : State) (id : Nat) : Option Pass := s.passes.find? (·.id == id)

/-- REPAIR_PASS_START: a pass that waits starts once it may. -/
def State.passStart (s : State) (p : Pass) : State :=
  if s.pageWaits p.id then s
  else
    match p.st with
    | .waiting 0 => s.passBegin p
    | .waiting n => s.passNext p n
    | _ => s

def execRepairPassStart (pass : Nat) (s : State) : Host.Outcome State Fault Refusal :=
  .next (match s.findPass pass with
    | some p => s.passStart p
    | none => s)

/-- The writes of a layer commit: CL, and STATE 2 with the last layer (R327). -/
def commitBytes (layer nlayer : Nat) : List Byte :=
  [BitVec.ofNat 8 layer, if layer + 1 = nlayer then 2 else 1]

/-- REPAIR_LAYER_COMMIT: the launch of a layer has ended (R327). A superseded pass commits nothing. -/
def State.layerCommit (s : State) (p : Pass) : State :=
  match p.launches.getLast? with
  | none => s
  | some li =>
    if !s.launchOver li || s.pageWaits p.id then s
    else
      match p.st with
      | .superseded => s.endLaunch li
      | .running n =>
        match s.passLink p with
        | .error e => s.passHalt p e
        | .ok (_, none) => s.endLaunch li
        | .ok (h, some (l, _, _)) =>
          let ws := [(l.ova + 4, commitBytes n (mNlayer h))]
          match s.writable p.ctx ws with
          | .error e => s.passHalt p e
          | .ok _ =>
            let s1 := (s.endLaunch li).hwWrites p.ctx ws
            if n + 1 = mNlayer h then s1.setPass p.id fun p => { p with st := .complete }
            else (s1.setPass p.id fun p => { p with st := .waiting (n + 1) }).passNext p (n + 1)
      | _ => s

def execRepairLayerCommit (pass : Nat) (s : State) : Host.Outcome State Fault Refusal :=
  .next (match s.findPass pass with
    | some p => s.layerCommit p
    | none => s)

/-- Superseded passes are forgotten once their crews and launches have ended. -/
def State.prunePasses (s : State) : State :=
  let gone (p : Pass) : Bool := decide (p.st = .superseded) && !s.crewsLeft p.launches &&
    p.launches.all fun li => ((s.launch li).map (·.ended)).getD true
  if s.passes.any gone then { s with passes := s.passes.filter fun p => !gone p } else s

/-! ## LINK (R328, R329) -/

/-- The deferred traps of a link-unit word at issue (R331); in handler mode code 0x1B comes first. -/
def linkTrap (a : Reg) (s : State) (x : Ex) : Option Trap :=
  let da := s.me.rg2 x x.low a
  if !canonical da then some (syncTrap 0x0A 0 da x.pc)
  else if da.toNat % 16 != 0 then some (syncTrap 0x06 0 da x.pc)
  else none

/-- Fork a command of the die's link unit. -/
def State.forkLink (s : State) (x : Ex) (sb : Flag) (da : DWord) (op : LinkOp) : Nat × State :=
  let s := s.touchPlace (resolve s s.me .gen da)
  let f := s.fresh
  let b := s.me
  (f.1, { f.2.setMe (b.setBusy sb .engine) with
    links := f.2.links ++
      [{ id := f.1, die := b.core / 256, ctx := s.ctxOf b, core := b.core, crew := b.crew, desc := da, op := op,
         published := none, held := none, strictOver := false,
         issuer := { band := s.cur, lanes := x.v, word := x.pc, flag := sb, depth := s.depthOf b } }] })

def execLink (h : Hdr) (sb : Flag) (a b : Reg) (s : State) : Host.Outcome State Fault Refusal :=
  .next (runWord (.link h sb a b) (allLanes (linkTrap a))
    (fun x s => (s.forkLink x sb (s.me.rg2 x x.low a) (.link ((s.me.rg x x.low b).setWidth 8))).2) s)

/-- What LINK does once its checks have passed. -/
structure LinkPlan where
  map : DWord
  hdr : List Byte
  old : List LinkRec
  new : List LinkRec
  /-- overlay header and index list -/
  ovl : List (DWord × List Byte)
  rec_ : Option LinkRec
  deriving DecidableEq, Repr

/-- The base of a new link (R329); none below 0. -/
def linkBase (auto : Bool) (given vlo k : Nat) (old : List LinkRec) : Int :=
  if auto then
    if k = 0 then 0 - (vlo : Int)
    else
      let p := old.getD (k - 1) (linkOf [])
      (p.base : Int) + p.vhi - vlo
  else given

/-- The map has no running user (R293). -/
def State.mapIdle (s : State) (ctx : Nat) (map : DWord) : Bool :=
  s.passes.all fun p => p.ctx != ctx || p.map != map

/-- The checks of LINK in their order (R331), and its change. -/
def State.linkPlan (s : State) (c : LinkCmd) (h : Byte) : Except LinkErr LinkPlan := do
  let d ← liftHalt (s.linkDesc c 64)
  let map := BitVec.ofNat 64 (field d 0 8)
  let m ← s.readMap c.ctx map
  let g ← s.readSeg c.ctx m (field d 8 4)
  let im ← liftHalt (s.readKernel c.ctx (mRepk m))
  linkNeed (match im with
    | some i => !s.mapIdle c.ctx map || decide (s.shapeFate c.ctx i.image.addr i.shapes ≠ some none)
    | none => false) 4
  let old ← liftHalt (s.readBank c.ctx map m (mCur m))
  let idx := field d 0x0C 2
  let vlo := field d 0x14 4
  let vhi := field d 0x18 4
  linkNeed (idx == 0xFFFF || decide (idx ≤ old.length)) 7
  let k := if idx = 0xFFFF then old.length else idx
  let base := linkBase (bits (field d 0x0E 2) 0 1 == 1) (field d 0x10 4) vlo k old
  linkNeed (decide (vlo < vhi) && decide (vhi ≤ g.ntok) && decide (0 ≤ base) &&
    decide (base + vhi ≤ (mRotn m : Int))) 5
  linkNeed (decide (old.length < mMaxl m)) 6
  linkNeed (bits (field d 0x0E 2) 1 15 == 0 && zeros d 0x31 15) 7
  let sel ← liftHalt (s.selection c.ctx g vlo vhi h.toNat)
  let ova := BitVec.ofNat 64 (field d 0x20 8)
  linkNeed (if ova = 0 then sel.isEmpty
    else ova.toNat % 256 == 0 && decide (overlayBytes m g sel.length ≤ field d 0x1C 4)) 8
  let l : LinkRec :=
    { sid := field d 8 4, base := base.toNat, vlo := vlo, vhi := vhi, psig := 1, lid := mNextlid m, ova := ova,
      h := h.toNat }
  pure { map := map, hdr := m, old := old, new := old.take k ++ l :: (old.drop k).map LinkRec.bump,
         ovl := if ova = 0 then [] else [(ova, overlayHead l.lid sel)], rec_ := some l }

/-- The plan of a command is carried out in bank `b`, once every place that it writes can be reached and has its sectors:
the publication is one access (R322). -/
def State.publish (s : State) (c : LinkCmd) (b : Nat) (p : LinkPlan) (out : List (Nat × List Byte)) :
    Except Halt State := do
  let ws := p.ovl ++ publishWrites p.map p.hdr b p.new p.rec_.isSome
  s.writable c.ctx (ws ++ ((staleLinks p.old p.new).map LinkRec.staleBytes).flatten)
  let s1 ← s.linkPut c out
  let s2 ← s1.bookNow c.ctx ws
  pure (s2.supersede c p.map (mRepk p.hdr) p.old p.new)

/-- Install the repair kernel's records at a LINK that makes its map a running user (R293). -/
def State.linkShapes (s : State) (c : LinkCmd) (p : LinkPlan) : Except LinkErr State :=
  if s.mapIdle c.ctx p.map then
    match s.readKernel c.ctx (mRepk p.hdr) with
    | .ok (some i) =>
      match s.installShapes c.ctx i.image.addr i.shapes with
      | .ok (.ok s') => .ok s'
      | .ok (.error _) => .error (.cause 4)
      | .error h => .error (.halt h)
    | .ok none => .error (.cause 1)
    | .error h => .error (.halt h)
  else .ok s

/-- LINK_PUBLISH: once bank `b` is free, check, write and publish, and start a pass (R329). -/
def State.linkPublish (s : State) (c : LinkCmd) (h : Byte) (b : Nat) : State :=
  let s := s.unblock c.id
  if !s.linkReady c then s
  else
    match s.linkBank c b with
    | .error e => s.linkHalt c e
    | .ok false => s
    | .ok true =>
      match s.linkPlan c h with
      | .error e => s.linkHalt c e
      | .ok p =>
        match s.linkShapes c p with
        | .error e => s.linkHalt c e
        | .ok s0 =>
          let ver := (mVer p.hdr + 1) % 2 ^ 32
          match s0.publish c b p [(0x28, leBytes (mNextlid p.hdr) 4), (0x2C, leBytes ver 4), (0x30, [0])] with
          | .error e => s.linkHalt c (.halt e)
          | .ok s1 =>
            let s2 := match p.rec_ with
              | some l => s1.addPass c p.map (mRepk p.hdr) l
              | none => s1
            let s3 := match s2.passes.getLast? with
              | some q => s2.passStart q
              | none => s2
            s3.endLink c

def execLinkPublish (id bank : Nat) (s : State) : Host.Outcome State Fault Refusal :=
  .next (match s.findLink id with
    | some c => match c.op with
      | .link h => s.linkPublish c h bank
      | _ => s
    | none => s)

/-! ## UNLINK (R330) -/

def execUnlink (h : Hdr) (sb : Flag) (a : Reg) (s : State) : Host.Outcome State Fault Refusal :=
  .next (runWord (.unlink h sb a) (allLanes (linkTrap a))
    (fun x s => (s.forkLink x sb (s.me.rg2 x x.low a) (.unlink false)).2) s)

def execUnlinkCmp (h : Hdr) (sb : Flag) (a : Reg) (s : State) : Host.Outcome State Fault Refusal :=
  .next (runWord (.unlinkCmp h sb a) (allLanes (linkTrap a))
    (fun x s => (s.forkLink x sb (s.me.rg2 x x.low a) (.unlink true)).2) s)

/-- The checks of UNLINK in the order of R331, and its change with the LID that it removes. -/
def State.unlinkPlan (s : State) (c : LinkCmd) (cmp : Bool) : Except LinkErr (LinkPlan × Nat) := do
  let d ← liftHalt (s.linkDesc c 32)
  let map := BitVec.ofNat 64 (field d 0 8)
  let m ← s.readMap c.ctx map
  let lid := field d 8 4
  let old ← liftHalt (s.readBank c.ctx map m (mCur m))
  let k := old.findIdx? fun l => l.lid == lid
  let x := (k.bind fun k => old[k]?).getD (linkOf [])
  let later := match k with
    | some k => old.drop (k + 1)
    | none => []
  let n := x.vhi - x.vlo
  linkNeed (!cmp || later.all fun l => decide (n ≤ l.base)) 5
  linkNeed (zeros d 0x11 15) 7
  linkNeed k.isSome 9
  let move (l : LinkRec) : LinkRec := if cmp then { l.bump with base := l.base - n } else l.bump
  pure ({ map := map, hdr := m, old := old, new := old.take (k.getD 0) ++ later.map move, ovl := [],
          rec_ := none }, lid)

/-- UNLINK_PUBLISH: once bank `b` is free, remove the link and publish (R330). -/
def State.unlinkPublish (s : State) (c : LinkCmd) (cmp : Bool) (b : Nat) : State :=
  let s := s.unblock c.id
  if c.published.isSome || !s.linkReady c then s
  else
    match s.linkBank c b with
    | .error e => s.linkHalt c e
    | .ok false => s
    | .ok true =>
      match s.unlinkPlan c cmp with
      | .error e => s.linkHalt c e
      | .ok (p, lid) =>
        let ver := (mVer p.hdr + 1) % 2 ^ 32
        match s.publish c b p [(0x0C, leBytes ver 4), (0x10, [0])] with
        | .error e => s.linkHalt c (.halt e)
        | .ok s1 => (s1.unwait c.id).setLink c.id fun c => { c with published := some (lid, p.map) }

def execUnlinkPublish (id bank : Nat) (s : State) : Host.Outcome State Fault Refusal :=
  .next (match s.findLink id with
    | some c => match c.op with
      | .unlink cmp => s.unlinkPublish c cmp bank
      | _ => s
    | none => s)

/-- Some SEGRD holds a version that contains a link (R330). -/
def State.linkHeld (s : State) (ctx : Nat) (map : DWord) (lid : Nat) : Bool :=
  s.links.any fun c => c.ctx == ctx && s.mapOf c == some map && match c.held, s.ctxRead ctx map 128 with
    | some (b, _), .ok h => match s.readBank ctx map h b with
      | .ok ls => ls.any fun l => l.lid == lid
      | .error _ => true
    | some _, .error _ => true
    | none, _ => false

/-- UNLINK_COMPLETE: what the removed link's pass and its readers held is gone (R330). -/
def State.unlinkComplete (s : State) (c : LinkCmd) : State :=
  match c.published with
  | some (lid, map) =>
    if s.oldCrewsEnded c.ctx map lid && !s.linkHeld c.ctx map lid then s.endLink c else s
  | none => s

def execUnlinkComplete (id : Nat) (s : State) : Host.Outcome State Fault Refusal :=
  .next (match s.findLink id with
    | some c => s.unlinkComplete c
    | none => s)

/-! ## SEGRD (R332 to R336) -/

/-- A record as SEGRD reads it at issue: one that is not usable has no bytes. -/
def State.readShape (s : State) (ctx id : Nat) : Except Halt ShapeRec :=
  match s.shapeRec ctx id with
  | .ok (some r) => .ok (if usable r id then r else [])
  | .error (.absent va) => .error (.absent va)
  | .error .busy => .error .busy
  | _ => .ok []

/-- The checks of SEGRD at issue, and its descriptor with the records of its destinations (R331, R336,
R445). -/
def segrdOp (rw : Bool) (a : Reg) (s : State) (x : Ex) : Except Halt LinkOp := do
  let B := s.me
  let d ← s.descRead s.cur x.v (descOf a s x) 64
  let kd ← s.readShape (s.ctxOf B) (field d 0x14 2)
  let vd ← s.readShape (s.ctxOf B) (field d 0x16 2)
  pure (.segrd rw d kd vd (ftzOf (B.fpBy x.now)))

/-- The slots that a SEGRD with DK = 1 fills, each once; other bits of KDST and VDST are checked later. -/
def segrdSlots (d : List Byte) : List (BitVec 4) :=
  if field d 0x12 1 = 1 then
    [BitVec.ofNat 4 (field d 0x18 4), BitVec.ofNat 4 (field d 0x1C 4)].eraseDups
  else []

/-- The deferred trap of SEGRD: of its checks, or code 0x10 for a slot that the crew does not hold (R336). -/
def segrdTrap (rw : Bool) (sub : Nat) (a : Reg) (s : State) (x : Ex) : Option Trap :=
  match checkTrap (segrdOp rw a) s x with
  | some q => some q
  | none =>
    match segrdOp rw a s x with
    | .ok (.segrd _ d _ _ _) =>
      if (segrdSlots d).all fun n => s.holds n.toNat then none else some (syncTrap 0x10 sub 0 x.pc)
    | _ => none

/-- The scratchpad addresses to which a SEGRD delivers (R332). -/
def LinkOp.dests : LinkOp → List Word
  | .segrd _ d _ _ _ =>
    let at_ (o : Nat) : Word := BitVec.ofNat 32 (field d o 4)
    (if field d 0x12 1 = 1 then [] else [at_ 0x18, at_ 0x1C]) ++ if at_ 0x20 = 0xFFFFFFFF then [] else [at_ 0x20]
  | _ => []

/-- SEGRD forks its command, and enters the matrix sequencer for its slots. -/
def segrdWord (i : Instr) (rw : Bool) (sub : Nat) (sb : Flag) (a : Reg) (s : State) : State :=
  pagedWord i (checkPage (segrdOp rw a)) (allLanes (segrdTrap rw sub a))
    (fun x s =>
      match segrdOp rw a s x with
      | .ok op =>
        let s1 := op.dests.foldl (fun s a => s.touchPlace (resolveScr s s.me a)) (s.readDesc x (descOf a s x))
        let f := s1.forkLink x sb (descOf a s x) op
        match op with
        | .segrd _ d _ _ _ => (segrdSlots d).foldl (fun s n => s.enter x 15 (.segrd n f.1)) f.2
        | _ => f.2
      | .error _ => s) s

def execSegrd (h : Hdr) (sb : Flag) (a : Reg) (s : State) : Host.Outcome State Fault Refusal :=
  .next (segrdWord (.segrd h sb a) false 0x10 sb a s)

def execSegrdRw (h : Hdr) (sb : Flag) (a : Reg) (s : State) : Host.Outcome State Fault Refusal :=
  .next (segrdWord (.segrdRw h sb a) true 0x11 sb a s)

/-- The SEGRD's entries in the sequencer have all reached their turn (R189, R336). -/
def Core.segrdTurn (k : Core) (id : Nat) : Bool :=
  k.seq.all fun q => match q.op with
    | .segrd _ c => c != id || k.atTurn q
    | _ => true

/-- The requirements on a destination record (R332, R336). -/
def segrdShape (r : ShapeRec) (dk hd : Nat) : Bool :=
  !r.isEmpty && rSk r == 0 && rCodec r == 0 && !rTight r &&
    (if dk = 0 then [Fmt.f32, .bf16, .f16].contains (rFmt r) && rExt r 0 == hd
      else [Fmt.bf16, .f16].contains (rFmt r))

/-- The fields of a SEGRD descriptor obey R332 and R336: cause 10. -/
def segrdOk (m d : List Byte) (kd vd : ShapeRec) : Bool :=
  let dk := field d 0x12 1
  let nq := field d 0x0C 4
  let posa := field d 0x20 4
  decide (1 ≤ nq) && decide (nq ≤ 65536) && (dk != 1 || decide (nq ≤ 32)) &&
    decide (field d 0x10 1 < mNlayer m) && decide (field d 0x11 1 < mNkv m) && decide (dk ≤ 1) &&
    field d 0x13 1 == 0 && segrdShape kd dk (mHd m) && segrdShape vd dk (mHd m) &&
    (if dk = 1 then decide (field d 0x18 4 < 16) && decide (field d 0x1C 4 < 16)
      else field d 0x18 4 % 16 == 0 && field d 0x1C 4 % 16 == 0) &&
    (posa == 0xFFFFFFFF || posa % 4 == 0) &&
    (if dk = 1 then field d 0x24 2 % 32 == 0 else field d 0x24 2 == 0) && field d 0x26 2 == 0 && zeros d 0x2E 18

/-- A link that a read touches, with its segment and selection. -/
structure Touched where
  l : LinkRec
  seg : Seg
  sel : List Nat
  deriving DecidableEq, Repr

/-- The token of each context index from Q0 on: its link and local position, or none past the end (R333). -/
def tokensFrom (ls : List LinkRec) (q0 nq : Nat) : List (Option (LinkRec × Nat)) :=
  (List.range nq).map fun n =>
    (ls.foldl (fun (r : Nat × Option (LinkRec × Nat)) l =>
      match r.2 with
      | some _ => r
      | none =>
        let len := l.vhi - l.vlo
        if r.1 < len then (0, some (l, l.vlo + r.1)) else (r.1 - len, none)) (q0 + n, none)).2

/-- The links that a read touches, in order. -/
def touchedLinks (ts : List (Option (LinkRec × Nat))) : List LinkRec :=
  (ts.filterMap fun t => t.map (·.1)).eraseDups

/-- Read the segments that the links name (causes 2 to 4), with their selection sets. -/
def State.readTouched (s : State) (ctx : Nat) (m : List Byte) : List LinkRec → Except LinkErr (List Touched)
  | [] => .ok []
  | l :: r => do
    let g ← s.readSeg ctx m l.sid
    let sel ← liftHalt (s.selection ctx g l.vlo l.vhi l.h)
    let rest ← s.readTouched ctx m r
    pure ({ l := l, seg := g, sel := sel } :: rest)

/-- The header of a link's overlay: PSIG, CL and STATE. -/
def State.overlayState (s : State) (ctx : Nat) (t : Touched) : Except Halt (Nat × Nat × Nat) :=
  (s.ctxRead ctx t.l.ova 6).map fun v => (field v 0 4, field v 4 1, field v 5 1)

/-- CLs of a touched link (R334). -/
def State.committed (s : State) (ctx : Nat) (t : Touched) : Except Halt Nat :=
  if t.sel.isEmpty then .ok 0
  else (s.overlayState ctx t).map fun o => if o.1 = t.l.psig then o.2.1 else 0

/-- What a strict read does now (R334). -/
inductive Strict where
  | go
  | wait
  | superseded
  deriving DecidableEq, Repr

/-- The condition of a strict read for one link: `cur` holds the links of the current version. -/
def State.strictOne (s : State) (ctx layer : Nat) (cur : List LinkRec) (t : Touched) : Except Halt Strict :=
  if t.sel.isEmpty then .ok .go
  else (s.overlayState ctx t).map fun o =>
    if o.1 = t.l.psig ∧ (layer ≤ o.2.1 ∨ o.2.2 = 0) then .go
    else if cur.any fun l => l.lid == t.l.lid && l.psig == t.l.psig then .wait
    else .superseded

/-- The condition of a strict read for all its links. -/
def State.strict (s : State) (ctx layer : Nat) (cur : List LinkRec) (ts : List Touched) : Except Halt Strict :=
  ts.foldl (fun r t => r.bind fun a => (s.strictOne ctx layer cur t).map fun b =>
    match a, b with
    | .superseded, _ | _, .superseded => .superseded
    | .wait, _ | _, .wait => .wait
    | _, _ => .go) (.ok .go)

/-- A row of a segment as its elements (R318). -/
def State.segRowOf (s : State) (ctx : Nat) (m : List Byte) (t : Touched) (layer head j : Nat) (isK : Bool) :
    Except Halt (List Byte) := do
  let r := if isK then t.seg.ks else t.seg.vs
  let lt ← s.ctxRead ctx (t.seg.ltab + BitVec.ofNat 64 (16 * (layer * mNkv m + head))) 16
  let a := BitVec.ofNat 64 (field lt (if isK then 0 else 8) 8)
  match tileOff r (j / rExt r 1) with
  | none => .error (.trap 0x12 a)
  | some o =>
    tensorRead (fun o n => s.ctxRead ctx (a + BitVec.ofInt 64 o) n) r
      (o + ((j % rExt r 1 : Nat) : Int) * rPitch r) (rRowMem r)

/-- The offset of an overlay row from OVA (R325): of selected token `n`. -/
def overlayOff (m : List Byte) (t : Touched) (layer head n : Nat) (isK : Bool) : Nat :=
  let rk := rowUp t.seg.ks
  let rv := rowUp t.seg.vs
  let ns := t.sel.length
  let base := overlayRows ns + ((layer - 1) * mNkv m + head) * ns * (rk + rv)
  if isK then base + n * rk else base + ns * rk + n * rv

/-- The elements of a row of K or V of a token, from its overlay or its segment (R334). -/
def State.segRow (s : State) (ctx : Nat) (m : List Byte) (t : Touched) (cls layer head j : Nat) (isK : Bool) :
    Except Halt (List Nat) :=
  let r := if isK then t.seg.ks else t.seg.vs
  let src := match t.sel.findIdx? (· == j) with
    | some n =>
      if 1 ≤ layer ∧ layer ≤ cls then
        s.ctxRead ctx (t.l.ova + BitVec.ofNat 64 (overlayOff m t layer head n isK)) (rRowMem r)
      else s.segRowOf ctx m t layer head j isK
    | none => s.segRowOf ctx m t layer head j isK
  src.map fun v => (List.range (rExt r 0)).map fun c => rowElem (rFmt r) v c

/-- A K row, rotated by its position (R335): `cs` holds the table's cosine and sine for each pair. -/
def rotated (src dst : Fmt) (ftz : Bool) (rdim : Nat) (k : List Nat) (cs : List (Fp × Fp)) : List Nat :=
  let v (i : Nat) : Fp := src.val ftz (k.getD i 0)
  (List.range k.length).map fun d =>
    let x := v (d / 2 * 2)
    let y := v (d / 2 * 2 + 1)
    let c := cs.getD (d / 2) (Fp.zero, Fp.zero)
    let e := if rdim ≤ d then v d
      else if d % 2 = 0 then (x.mul c.1).add (y.mul c.2).neg
      else (x.mul c.2).add (y.mul c.1)
    (dst.enc .rne ftz e).1

/-- The table entries of a position (R335). -/
def State.rotEntries (s : State) (c : LinkCmd) (m : List Byte) (p : Nat) : Except Halt (List (Fp × Fp)) :=
  let off := mRotoff m + 8 * (p * (mRdim m / 2))
  ((runEngine s c.ctx c.die 0 (.ws off) (4 * mRdim m) false).bind s.readUnit).map fun v =>
    (List.range (mRdim m / 2)).map fun i =>
      (fF32.val false (field v (8 * i) 4), fF32.val false (field v (8 * i + 4) 4))

/-- The destination rows of a read: K, V and the position of each (R333 to R335). -/
def State.segRows (s : State) (c : LinkCmd) (m d : List Byte) (kd vd : ShapeRec) (ftz : Bool)
    (ts : List Touched) (cls : List Nat) (toks : List (Option (LinkRec × Nat))) :
    Except Halt (List (List Nat × List Nat × Nat)) :=
  let hd := mHd m
  let layer := field d 0x10 1
  let head := field d 0x11 1
  collect (toks.map fun tk => match tk with
    | none => .ok (List.replicate hd 0, List.replicate hd 0, 0xFFFFFFFF)
    | some (l, j) => do
      let i := (ts.findIdx? fun t => t.l == l).getD 0
      match ts[i]? with
      | none => pure (List.replicate hd 0, List.replicate hd 0, 0xFFFFFFFF)
      | some t =>
        let k ← s.segRow c.ctx m t (cls.getD i 0) layer head j true
        let v ← s.segRow c.ctx m t (cls.getD i 0) layer head j false
        let cs ← s.rotEntries c m (l.base + j)
        pure (rotated (rFmt t.seg.ks) (rFmt kd) ftz (mRdim m) k cs,
          v.map fun e => ((rFmt vd).enc .rne ftz ((rFmt t.seg.vs).val ftz e)).1, (l.base + j) % 2 ^ 32))

/-- The bytes of a slot that a SEGRD fills (R336). -/
def slotBytes (dlo : Nat) (rows : List (List Nat)) : List Byte :=
  ((List.range 32).map fun n => ((List.range 32).map fun e =>
    leBytes ((rows.getD n []).getD (dlo + e) 0) 2).flatten).flatten

/-- Write a slot with its tag (R336). -/
def State.putSlot (s : State) (core n : Nat) (r : ShapeRec) (dlo : Nat) (rows : List (List Nat)) : State :=
  let k := s.core core
  s.setCore (k.setTile n { data := imageOf (slotBytes dlo rows), scale := (k.tile n).scale,
                           tag := BitVec.ofNat 32 (bits (rCtl r) 0 4 + 2 ^ 5) })

/-- The scratchpad writes of a read: each place with its bytes. -/
def segWrites (s : State) (b : Band) (d : List Byte) (kd vd : ShapeRec)
    (rows : List (List Nat × List Nat × Nat)) : Except Halt (List (List Loc × List Byte)) := do
  let dst (o : Nat) : Word := BitVec.ofNat 32 (field d o 4)
  let put (a : Word) (off : Nat) (v : List Byte) : Except Halt (List Loc × List Byte) :=
    (scrLocs s b a off v.length true).map fun l => (l, v)
  let ks ← if field d 0x12 1 = 1 then pure []
    else collect (rows.mapIdx fun n r => put (dst 0x18) (n * rSpitch kd) (rowOf (rFmt kd) r.1))
  let vs ← if field d 0x12 1 = 1 then pure []
    else collect (rows.mapIdx fun n r => put (dst 0x1C) (n * rSpitch vd) (rowOf (rFmt vd) r.2.1))
  let ps ← if dst 0x20 = 0xFFFFFFFF then pure []
    else collect (rows.mapIdx fun n r => put (dst 0x20) (4 * n) (leBytes r.2.2 4))
  pure (ks ++ vs ++ ps)

/-- What a SEGRD has found of its map: the header, the tokens of its rows and the links that they touch. -/
structure SegPrep where
  hdr : List Byte
  toks : List (Option (LinkRec × Nat))
  ts : List Touched
  deriving DecidableEq, Repr

/-- The checks of a SEGRD that holds bank `bank` of its map, in the order of R333: the map, the segments, the
descriptor and the destinations. -/
def State.segPrep (s : State) (c : LinkCmd) (d : List Byte) (kd vd : ShapeRec) (bank : Nat) :
    Except LinkErr SegPrep := do
  let map := BitVec.ofNat 64 (field d 0 8)
  let m ← s.readMap c.ctx map
  let ls ← liftHalt (s.readBank c.ctx map m bank)
  let nq := min (field d 0x0C 4) 65536
  let toks := tokensFrom ls (field d 8 4) nq
  let ts ← s.readTouched c.ctx m (touchedLinks toks)
  linkNeed (segrdOk m d kd vd) 10
  let row := List.replicate (mHd m) 0
  let _ ← liftHalt (segWrites s (s.band c.issuer.band) d kd vd (List.replicate nq (row, row, 0)))
  pure { hdr := m, toks := toks, ts := ts }

/-- Whether a SEGRD waits: a strict read whose wait is not over yet (R334). -/
def State.segWait (s : State) (c : LinkCmd) (rw : Bool) (d : List Byte) (p : SegPrep) : Except LinkErr Strict :=
  if rw && field d 0x10 1 != 0 && !c.strictOver then do
    let cur ← liftHalt (s.readBank c.ctx (BitVec.ofNat 64 (field d 0 8)) p.hdr (mCur p.hdr))
    liftHalt (s.strict c.ctx (field d 0x10 1) cur p.ts)
  else pure .go

/-- The rows of a SEGRD and its writes (R334, R335). -/
def State.segFind (s : State) (c : LinkCmd) (d : List Byte) (kd vd : ShapeRec) (ftz : Bool) (p : SegPrep) :
    Except LinkErr (List (List Nat × List Nat × Nat) × List (List Loc × List Byte)) := do
  let cls ← liftHalt (collect (p.ts.map (s.committed c.ctx)))
  let rows ← liftHalt (s.segRows c p.hdr d kd vd ftz p.ts cls p.toks)
  let ws ← liftHalt (segWrites s (s.band c.issuer.band) d kd vd rows)
  pure (rows, ws)

/-- Deliver the rows of a read. -/
def State.segDeliver (s : State) (c : LinkCmd) (d : List Byte) (kd vd : ShapeRec)
    (rows : List (List Nat × List Nat × Nat)) (ws : List (List Loc × List Byte)) : State :=
  let b := s.band c.issuer.band
  let s1 := ws.foldl (fun s w => s.scrWrite b w.1 w.2) s
  if field d 0x12 1 = 1 then
    let dlo := field d 0x24 2
    (s1.putSlot c.core (field d 0x18 4) kd dlo (rows.map (·.1))).putSlot c.core (field d 0x1C 4) vd dlo
      (rows.map (·.2.1))
  else s1

/-- SEGRD_READ: capture the current version (R333), then read once nothing delays the command. -/
def State.segrdRead (s : State) (c : LinkCmd) (rw : Bool) (d : List Byte) (kd vd : ShapeRec) (ftz : Bool) :
    State :=
  let s := s.unblock c.id
  if !s.linkReady c || !(s.core c.core).segrdTurn c.id then s
  else
    let cap : Except LinkErr (Nat × Nat) := match c.held with
      | some x => .ok x
      | none => (s.readMap c.ctx (BitVec.ofNat 64 (field d 0 8))).map fun m => (mCur m, mVer m)
    match cap with
    | .error e => s.linkHalt c e
    | .ok (bank, ver) =>
      let s0 := s.setLink c.id fun c => { c with held := some (bank, ver) }
      let out (st : Nat) : List (Nat × List Byte) := [(0x28, leBytes ver 4), (0x2C, [BitVec.ofNat 8 st, 0])]
      match s0.segPrep c d kd vd bank with
      | .error e => s0.linkHalt c e
      | .ok p =>
        match s0.segWait c rw d p with
        | .error e => s0.linkHalt c e
        | .ok .wait => s0
        | .ok .superseded =>
          match s0.linkPut c (out 1) with
          | .ok s1 => s1.endLink c
          | .error e => s0.linkHalt c (.halt e)
        | .ok .go =>
          let s1 := s0.setLink c.id fun c => { c with strictOver := true }
          match s1.segFind c d kd vd ftz p with
          | .error e => s1.linkHalt c e
          | .ok (rows, ws) =>
            match s1.linkPut c (out 0) with
            | .ok s2 => (s2.segDeliver c d kd vd rows ws).endLink c
            | .error e => s1.linkHalt c (.halt e)

/-- A command that waits for sectors is tried again, with each bank in turn (R331). -/
def State.linkRetry (s : State) (c : LinkCmd) : State :=
  let try_ (f : State → Nat → State) : State := (List.range 4).foldl (fun s b =>
    match s.findLink c.id with
    | some x => if x.published.isSome then s else f s b
    | none => s) s
  match c.op with
  | .link h => try_ fun s b => s.linkPublish c h b
  | .unlink cmp => try_ fun s b => s.unlinkPublish c cmp b
  | .segrd rw d kd vd ftz => s.segrdRead c rw d kd vd ftz

def execSegrdRead (id : Nat) (s : State) : Host.Outcome State Fault Refusal :=
  .next (match s.findLink id with
    | some c => match c.op with
      | .segrd rw d kd vd ftz => s.segrdRead c rw d kd vd ftz
      | _ => s
    | none => s)

end Sys2Proof.Machine
end

