-- ==== Sys2Proof/Machine/Watch.lean ====
section
/-!
DEFINITION. Watches and sprouts (R274 to R288): the checks of WATCH, its handle, the removal by UNWATCH,
and the start of a queued sprout. The checks of writes stand in Perform.lean.
-/

namespace Sys2Proof.Machine

/-! ## Slices (R223, R274) -/

/-- The home slice of a line of memory, die · 4 + slice: fixed for the part, and not specified (R223). Host
memory is homed on die 4. -/
def homeSlice (line : Nat) : Nat :=
  (if dieOfPa (128 * line) = 15 then 4 else dieOfPa (128 * line)) * 4 + Config.choose (2 ^ 60) line % 4

/-- The slices that are home to a line of a range. -/
def homeSlices (pa n : Nat) : List Nat :=
  if n = 0 then []
  else ((List.range ((pa + n - 1) / 128 - pa / 128 + 1)).map fun i => homeSlice (pa / 128 + i)).eraseDups

/-- Entries of a slice's watch table that are taken. -/
def State.sliceUse (s : State) (sl : Nat) : Nat :=
  (s.watches.filter fun w => !w.removed && w.slices.contains sl).length

/-- The budget sum of a grove (R278). -/
def State.groveBudget (s : State) (g : Nat) : Nat :=
  ((s.watches.filter fun w => w.grove == g).map fun w => w.budget + 1).sum

/-! ## WATCH (R276 to R278) -/

/-- The scope of a watch. -/
def watchScope (n : Nat) : Scope :=
  match n with
  | 2 => .grove
  | 3 => .die
  | 4 => .device
  | _ => .system

/-- The fields of a watch descriptor obey R276. -/
def watchFields (d : List Byte) (bands : Nat) : Bool :=
  let base := field d 0 8
  let len := field d 8 4
  let ctl := field d 0x0C 1
  let g := if bits ctl 2 1 = 1 then 8 else 4
  base % g == 0 && len % g == 0 && decide (4 ≤ len) && decide (len ≤ 65536) && decide (base % 65536 + len ≤ 65536) &&
    bits ctl 0 2 != 3 && decide (2 ≤ bits ctl 4 3) && decide (bits ctl 4 3 ≤ 5) && bits ctl 7 1 == 0 &&
    decide (1 ≤ field d 0x0E 1) && decide (field d 0x0E 1 ≤ 16) && decide (1 ≤ field d 0x18 4) &&
    decide (field d 0x18 4 ≤ 32 * bands) && field d 0x1C 4 == 0 && zeros d 0x28 8

/-- The handler's image of a watch; none if it is not valid (R277). A fault of its read is the word's own (R43). -/
def State.handlerImage (s : State) (ctx : Nat) (a : DWord) : Except Halt (Option ImageInfo) :=
  if a.toNat % 64 != 0 then .ok none
  else
    (s.readImage ctx a).map fun r => r.filter fun i => i.image.crews == 0 && i.groups.isEmpty

/-- The watch that a descriptor describes, before its range is bound. -/
def watchOf (ctx core desc : Nat) (d : List Byte) (im : Image) : Watch :=
  let ctl := field d 0x0C 1
  { handle := 0, ctx := ctx, grove := core / 64, desc := desc, base := BitVec.ofNat 64 (field d 0 8),
    len := field d 8 4, pa := 0, mode := bits ctl 0 2, wide := bits ctl 2 1 == 1, uns := bits ctl 3 1 == 1,
    scope := watchScope (bits ctl 4 3), budget := field d 0x0D 1, maxd := field d 0x0E 1, image := im,
    nthr := field d 0x18 4, arg := BitVec.ofNat 64 (field d 0x20 8), st := 1, out := 0, removed := false,
    slices := [] }

/-- The checks of WATCH at issue (R277, R278, R445): the watch, and the shapes of its handler. -/
def watchCheck (a : Reg) (s : State) (x : Ex) : Except Halt (Watch × ImageInfo) := do
  let B := s.me
  let ctx := s.ctxOf B
  let da := descOf a s x
  need (da.toNat % 16 == 0) 0x06 da
  let d ← s.descRead s.cur x.v da 48
  let pa ← match resolveGeneric s B da with
    | .global va => match translate s.mem B.ptroot va with
      | .ok pa _ _ _ => pure pa
      | _ => .error (.trap 0x0A da)
    | _ => .error (.trap 0x14 da)
  match ← s.handlerImage ctx (BitVec.ofNat 64 (field d 0x10 8)) with
  | none => .error (.trap 0x14 da)
  | some i =>
    need (watchFields d i.image.bands) 0x14 da
    need (decide (s.shapeFate ctx i.image.addr i.shapes ≠ some none)) 0x14 da
    let base := BitVec.ofNat 64 (field d 0 8)
    need (canonical base) 0x0A base
    need (decide (translate s.mem B.ptroot base ≠ .unmapped)) 0x0A base
    pure (watchOf ctx B.core pa d i.image, i)

/-- WATCH forks an engine thread that arms its entries (R286). -/
def State.forkWatch (s : State) (x : Ex) (sb : Flag) (d : Reg) (w : Option Watch) (handle : Nat)
    (shapes : List ShapeRec) (desc : DWord) : State :=
  let f := s.fresh
  let b := f.2.me.setBusy sb .engine
  let b := if w.isSome then b.fly f.1 .engine x.v [.g d] else b
  { f.2.setMe b with watchOps := f.2.watchOps ++
      [{ id := f.1, band := s.cur, lanes := x.v, word := x.pc, d := d, flag := sb, arm := w, handle := handle,
         shapes := shapes, desc := desc }] }

def execWatch (h : Hdr) (sb : Flag) (a d : Reg) (s : State) : Host.Outcome State Fault Refusal :=
  .next (pagedWord (.watch h sb a d) (checkPage (watchCheck a)) (allLanes (checkTrap (watchCheck a)))
    (fun x s =>
      match watchCheck a s x with
      | .ok (w, i) => (s.readDesc x (descOf a s x)).forkWatch x sb d (some w) 0 i.shapes (descOf a s x)
      | .error _ => s) s)

/-- A new handle: nonzero, bit 31 clear, and valid nowhere in the context. Which one is not specified (R278). -/
def State.newHandle (s : State) (ctx : Nat) : Nat :=
  let used := (s.watches.filter fun w => w.ctx == ctx).map (·.handle)
  let h0 := Config.choose s.free (2 ^ 31) % (2 ^ 31 - 1)
  (((List.range (used.length + 1)).map fun i => (h0 + i) % (2 ^ 31 - 1) + 1).find? fun h => !used.contains h).getD 1

/-- The operation is over: its result in every lane of V, and its flag. -/
def State.endWatchOp (s : State) (o : WatchOp) (h : Option Nat) : State :=
  let s := { s with watchOps := s.watchOps.filter fun e => e.id != o.id }
  let s := match h with
    | some v => s.deliver o.band
        { id := o.id, word := o.word, flag := o.flag, kind := 5, uni := false, dreg := o.d.toNat, va := 0,
          lanes := (lanesOf o.lanes).map fun t => (t, [BitVec.ofNat 32 v]) }
    | none => s
  s.finish o.band o.id o.flag

/-- An operation writes STATE, and is over once that has been written: the write may wait for a sector (R227, R278,
R279). -/
def State.endAfterState (s : State) (o : WatchOp) (h : Option Nat) (put : State → State) : State :=
  let s1 := put s
  if s1.books.any fun b => b.id == s.nextId then
    { s1 with watchOps := s1.watchOps.map fun x => if x.id == o.id then { x with book := some (s.nextId, h) } else x }
  else s1.endWatchOp o h

/-- A WATCH fails with a code, which its lanes take later; its flag becomes done (R251, R286). -/
def State.failWatch (s : State) (o : WatchOp) (code : Byte) (va : DWord) : State :=
  (({ s with watchOps := s.watchOps.filter fun e => e.id != o.id }.unwait o.id).reportAll o.band o.lanes
    (asyncTrap code 0 va o.word)).finish o.band o.id o.flag

/-- The entries of a watch are armed: its handler's records are installed, and a clash fails it (R274, R278, R293). -/
def State.armEntries (s : State) (o : WatchOp) (w : Watch) (pa : Nat) (sl : List Nat) : State :=
  match s.installShapes w.ctx w.image.addr o.shapes with
  | .ok (.ok s1) =>
    let h := s1.newHandle w.ctx
    let w := { w with handle := h, pa := pa, slices := sl }
    ({ s1 with watches := s1.watches ++ [w], free := s1.free + 1 }.unwait o.id).endAfterState o (some h) fun s => s.setWatchState w 1
  | .ok (.error _) => s.failWatch o 0x14 0
  | .error (.absent va) => s.enginePage o.band o.id va
  | .error (.sectors d l va) => s.waitAt d o.id l va
  | .error .busy => s
  | .error (.trap c va) => s.failWatch o c va

/-- Arm a watch on its range (R274, R278), or answer why it is not armed: nothing is then installed. -/
def State.armWatch (s : State) (o : WatchOp) (w : Watch) (pa : Nat) : State :=
  let sl := homeSlices pa w.len
  if sl.any fun x => decide (64 ≤ s.sliceUse x) then (s.unwait o.id).endWatchOp o (some 0x80000001)
  else if 256 < s.groveBudget w.grove + w.budget + 1 then (s.unwait o.id).endWatchOp o (some 0x80000002)
  else (s.unblock o.id).armEntries o w pa sl

/-- Remove a watch (R279): it stays while its sprouts have not all ended. -/
def State.unwatch (s : State) (ctx handle : Nat) : State :=
  match s.watches.find? fun w => w.handle == handle && w.ctx == ctx && !w.removed with
  | none => s
  | some w =>
    let s := s.setWatchState w 0
    let ws : List Watch := s.watches.map fun y =>
      if y.handle == handle && y.ctx == ctx then { y with removed := true } else y
    { s with watches := ws.filter fun y => !(y.removed && y.out == 0) }

/-- An operation of the watch hardware goes on once the accesses before it have been performed (R286). -/
def State.watchGo (s : State) (o : WatchOp) : State :=
  if !s.clear o.band o.lanes o.id || s.pageWaits o.id then s
  else
    match o.book, o.arm with
    | some (b, h), _ => if s.books.any fun x => x.id == b then s else s.endWatchOp o h
    | none, none => s.endAfterState o none fun s => s.unwatch (s.ctxOf (s.band o.band)) o.handle
    | none, some w =>
      match translate s.mem (s.rootOf w.ctx) w.base with
      | .ok pa _ _ _ => s.armWatch o w pa
      | .absent => s.enginePage o.band o.id w.base
      | .unmapped => s.failWatch o 0x0A w.base

/-- WATCH_COMPLETE. -/
def execWatchComplete (id : Nat) (s : State) : Host.Outcome State Fault Refusal :=
  .next (match s.watchOps.find? (·.id == id) with
    | some o => s.watchGo o
    | none => s)

/-! ## UNWATCH (R279) -/

/-- The watch that a handle names in the band's context. -/
def State.watchOfHandle (s : State) (ctx : Nat) (h : Word) : Option Watch :=
  s.watches.find? fun w => w.handle == h.toNat && w.ctx == ctx && !w.removed

def unwatchTrap (a : Reg) (s : State) (x : Ex) : Option Trap :=
  match s.watchOfHandle (s.ctxOf s.me) (s.me.rg x x.low a) with
  | some _ => none
  | none => some (syncTrap 0x14 0 0 x.pc)

/-- UNWATCH: with nothing before it left to perform it completes at once (R286). -/
def execUnwatch (h : Hdr) (sb : Flag) (a : Reg) (s : State) : Host.Outcome State Fault Refusal :=
  .next (runWord (.unwatch h sb a) (allLanes (unwatchTrap a))
    (fun x s =>
      let s1 := s.forkWatch x sb 0 none (s.me.rg x x.low a).toNat [] 0
      match s1.watchOps.getLast? with
      | some o => s1.watchGo o
      | none => s1) s)

/-- UNWATCHes that wait for earlier writes end as soon as these have been performed. -/
def State.unwatches (s : State) : State :=
  (s.watchOps.filter fun o => o.arm.isNone).foldl State.watchGo s

/-! ## Sprouts (R284) -/

/-- The twelve argument words of a sprout. -/
def sproutArgs (w : Watch) (p : Sprout) : List Word :=
  let hi (v : DWord) : Word := (v >>> 32).setWidth 32
  [w.arg.setWidth 32, hi w.arg, p.va.setWidth 32, hi p.va, p.old.setWidth 32, hi p.old, p.new.setWidth 32,
   hi p.new, p.writer, BitVec.ofNat 32 p.count, BitVec.ofNat 32 p.depth, BitVec.ofNat 32 w.handle]

/-- A context runs: neither stopped nor halted, with a mapped queue (R284, R379, R386). -/
def State.ctxRuns (s : State) (ctx : Nat) : Bool :=
  match s.ctx ctx with
  | some c => c.stoppedBy.isNone && !c.halted && s.queues.any fun q => q.ctx == ctx && decide (q.st = .mapped)
  | none => false

/-- The queue to which work of a context that no launch made belongs: its lowest mapped one. -/
def State.mappedQueue (s : State) (ctx : Nat) : Nat :=
  ((s.queues.find? fun q => q.ctx == ctx && decide (q.st = .mapped)).map (·.id)).getD 0

/-- The queue of a sprout: that of the launch whose lane issued the triggering write (R381). -/
def State.sproutQueue (s : State) (p : Sprout) : Nat :=
  ((p.launch.bind s.launch).map (·.queue)).getD (s.mappedQueue p.ctx)

/-- SPROUT_START: the oldest sprout of a grove starts on a core of it, on a die where the context's default settings let
crews run and which is not to park (R284, R436, R441). Its launch has no range, so
its TAKEs find NOWORK. -/
def State.sproutStart (s : State) (grove core : Nat) : State :=
  match s.sprouts.find? (·.grove == grove) with
  | none => s
  | some p =>
    match s.watches.find? fun w => w.handle == p.watch && w.ctx == p.ctx with
    | none => s
    | some w =>
      if !s.ctxRuns p.ctx || core / 64 != grove || s.boot.harvested.contains core then s
      else
        let cfg := ((s.ctx p.ctx).map (·.deflt)).getD .blank
        match if cfg.dieList.contains (core / 256) && !(s.die (core / 256)).parkReq then
            s.roomFor core { w.image with race := cfg.race } else none with
        | none => s
        | some at_ =>
          let q : LaunchReq :=
            { info := { image := w.image, shapes := [], groups := [] }, cfg := { cfg with priv := false }, lo := 0,
              hi := 0, grain := 1, args := sproutArgs w p, nthr := w.nthr }
          let b := { s with sprouts := s.sprouts.erase p }.beginLaunch q p.ctx (s.sproutQueue p)
            (.sprout w.handle) p.launch
          let s1 := match b.2.launch b.1 with
            | some l => b.2.setLaunch b.1 { l with noWork := true }
            | none => b.2
          s1.startCrew b.1 core (.sprout w.handle) (s1.freeNum b.1 p.ctx (.sprout w.handle)) p.depth at_

def execSproutStart (grove core : Nat) (s : State) : Host.Outcome State Fault Refusal :=
  .next (s.sproutStart grove core)

end Sys2Proof.Machine
end

