-- ==== Sys2Proof/Machine/System.lean ====
section
/-!
DEFINITION. System registers (R152 to R154, R397, R402, R425), the return from the handler (R366) and the
invalidation of translations (R380).
-/

namespace Sys2Proof.Machine

/-! ## What SRD reads -/

/-- POOLST of a die (R229): STATE, STAGE and RESV. -/
def Die.poolst (d : Die) : Word :=
  let st := if d.reserve ≤ systemFloor then 2 else if d.stage = 0 ∨ 4 ≤ d.stage then 0 else 1
  let stage := if 4 ≤ d.stage then 0 else d.stage
  BitVec.ofNat 32 (st * 2 ^ 30 + stage * 2 ^ 28 + d.reserve / 2048)

/-- WSREF of a die at a cycle (R222). A refresh under way ends no later than 512 cycles after its start,
8,192 cycles before the next. -/
def Die.wsref (d : Die) (now : Nat) : Word :=
  if d.refBusy then
    BitVec.ofNat 32 (2 ^ 31 + d.refBank * 2 ^ 24 + max 1 (min 512 (512 + d.refNext - 8192 - now)))
  else BitVec.ofNat 32 (d.refBank * 2 ^ 24 + min 8191 (d.refNext - now) * 2 ^ 10)

/-- %grpa and %grpb: the groups of a crew in ascending index (R152). -/
def groupWord (gs : List Nat) (i : Nat) : Word :=
  BitVec.ofNat 32 (gs.getD i 0xFFFF + gs.getD (i + 1) 0xFFFF * 2 ^ 16)

/-- The system values of a band (R152), but for those that are read per lane. DESIGN CHOICE (log entry 133): %lo and %hi
of a crew that owns no range, as before its first task (R144), read 0. -/
def State.sysValue (s : State) (b : Band) (num : Nat) : DWord :=
  let cr := s.crew b.crew
  let l := s.launchOf b
  let n (v : Nat) : DWord := BitVec.ofNat 64 v
  let rng := if ((l.map (·.image.crews)).getD 0) = 0 then cr.bind (·.range) else none
  match num with
  | 0x002 => n b.num
  | 0x003 => n ((cr.map (·.nband)).getD 0)
  | 0x004 => n ((cr.map (·.nthr)).getD 0)
  | 0x005 => n ((cr.map (·.num)).getD 0)
  | 0x006 => n ((l.map (·.image.crews)).getD 0)
  | 0x007 => n ((l.map (·.args.length)).getD 0)
  | 0x008 => n (b.core % 256)
  | 0x009 => n (b.core % 256 / 64)
  | 0x00A => n (b.core / 256)
  | 0x00B => n b.quarter
  | 0x00C => n (s.boot.node % 2 ^ 20)
  | 0x00D => (groupWord ((cr.map (·.groups)).getD []) 0).setWidth 64
  | 0x00E => (groupWord ((cr.map (·.groups)).getD []) 2).setWidth 64
  | 0x010 => n ((rng.map (·.cur)).getD 0)
  | 0x011 => n ((rng.map (·.hi)).getD 0)
  | 0x012 => n ((l.map (·.grain)).getD 0)
  | 0x013 => b.glo
  | 0x014 => b.ghi
  | 0x015 => (l.map (·.image.dataBase)).getD 0
  | 0x016 => s.localClock (b.core / 256)
  | _ => 0

/-- DBGCTL as it reads: 0 outside invasive halt (R397). -/
def State.dbgctlOf (s : State) (core : Nat) : Word := if s.debug = 2 then (s.core core).dbgctl else 0

/-- FPCTL as an SRD finds it: conditions of words whose results are not yet written, those of major 0x2A among them,
are set or not (R117). -/
def State.fpctlNow (s : State) (x : Ex) : Word :=
  s.sfus.foldl (fun v o => if o.band == s.cur && Config.pick x.k (pickKey 3 (o.id % 32) (.s (BitVec.ofNat 5 (o.id / 32)))) then v ||| o.conds else v)
    (s.me.readFpctl x.now x.k)

/-- The value of a system register or value in a lane (R68, R153). -/
def State.sysRead (s : State) (x : Ex) (t num : Nat) : DWord :=
  let b := s.me
  let l := b.lane t
  let c := s.core b.core
  let d := s.die (b.core / 256)
  let w (v : Word) : DWord := v.setWidth 64
  match num with
  | 0x000 => BitVec.ofNat 64 (b.num * 32 + t)
  | 0x001 => BitVec.ofNat 64 t
  | 0x100 => w b.check
  | 0x101 => w (d.wsref x.now)
  | 0x102 => w (s.fpctlNow x)
  | 0x103 => w d.poolst
  | 0x105 => w b.grvSelf
  | 0x107 => w b.drst
  | 0x110 => b.rgnPc
  | 0x111 => w b.rgncnt
  | 0x112 => w b.trapLane
  | 0x113 => w l.trapCode
  | 0x114 => l.trapPc
  | 0x115 => l.trapAddr
  | 0x116 => l.trapOrig
  | 0x117 => w d.rqerr
  | 0x200 => b.segScr
  | 0x201 => b.segStk
  | 0x202 => b.segGrv
  | 0x203 => b.segWs
  | 0x204 => b.stkArea
  | 0x205 => b.ptroot
  | 0x206 => b.tvec
  | 0x207 => w c.trctl
  | 0x208 => c.trbuf
  | 0x209 => c.racea
  | 0x20A => c.racepc
  | 0x20B => w (s.dbgctlOf b.core)
  | n => s.sysValue b n

/-- What a read does beyond its result: RQERR is cleared (R425), and a crew that reads GRVSELF is marked
(R394). -/
def State.sysTouch (s : State) (num : Nat) : State :=
  let b := s.me
  match num with
  | 0x105 => s.setMe { b with gang := true }
  | 0x117 => s.setDie (b.core / 256) { s.die (b.core / 256) with rqerr := 0 }
  | _ => s

/-- SRD writes its result 4 cycles after issue (R153). -/
def execSrd (h : Hdr) (d : Reg) (sys : BitVec 10) (s : State) : Host.Outcome State Fault Refusal :=
  .next (plainWord (.srd h d sys)
    (fun x s =>
      let v (t : Nat) : DWord := s.sysRead x t sys.toNat
      (if sys64 sys then s.putG2 x 4 d v else s.putG x 4 d fun t => (v t).setWidth 32).sysTouch sys.toNat) s)

/-! ## What SWR writes -/

/-- SWR (R154): a register changes with the first packet that starts after it; TRAPPC is held per lane, and a write
outside handler mode has no effect. -/
def State.swr (s : State) (x : Ex) (a : Reg) (sys : BitVec 10) : State :=
  let b := s.me
  let num := sys.toNat
  let v (t : Nat) : DWord := if sys64 sys then b.rg2 x t a else (b.rg x t a).setWidth 64
  if num = 0x114 then
    if b.handler then
      s.setMe { b with sysPend := b.sysPend ++
        [{ num := num, lanes := x.v, vals := (List.range 32).map v }] }
    else s
  else s.setMe { b with sysPend := b.sysPend ++ [{ num := num, lanes := x.v, vals := [v x.low] }] }

def execSwr (h : Hdr) (a : Reg) (sys : BitVec 10) (s : State) : Host.Outcome State Fault Refusal :=
  .next (plainWord (.swr h a sys) (fun x s => s.swr x a sys) s)

/-! ## TRET (R366) -/

/-- The lanes of V wait at the TRET; with the last live lane of TRAPLANE all return. -/
def State.tret (s : State) (x : Ex) : State :=
  let t := (s.setMe (s.me.wait x x.v fun _ => .tret)).trets s.cur
  if t.me.handler then t
  -- the trap return transfers control, so that the band has left the packet (R50, R132)
  else { t with latch := { t.latch with moved := t.latch.moved ||| s.me.trapLane } }

def execTret (h : Hdr) (s : State) : Host.Outcome State Fault Refusal :=
  .next (plainWord (.tret h) (fun x s => s.tret x) s)

/-! ## TLBINV (R380) -/

def tlbTrap (a : Reg) (s : State) (x : Ex) : Option Trap :=
  let va := s.me.rg2 x x.low a
  if canonical va then none else some (syncTrap 0x0A 0 va x.pc)

def execTlbinv (h : Hdr) (sb : Flag) (a : Reg) (s : State) : Host.Outcome State Fault Refusal :=
  .next (runWord (.tlbinv h sb a) (allLanes (tlbTrap a))
    (fun x s =>
      let f := s.fresh
      { f.2.setMe (f.2.me.setBusy sb .engine) with
        tlbs := f.2.tlbs ++ [{ id := f.1, band := s.cur, flag := sb, va := s.me.rg2 x x.low a }] }) s)

/-- An access of a context that was translated before a TLBINV and may lie in the page of its address. -/
def State.tlbUsed (s : State) (o : TlbOp) : Bool :=
  let ctx := s.ctxOf (s.band o.band)
  let hit (va : DWord) : Bool := va.toNat / 2 ^ 21 == o.va.toNat / 2 ^ 21
  let on (b : Band) (t : Nat) (sp : Space) (va : DWord) (n : Nat) : Bool :=
    match resolve s b sp va with
    | .global x => hit x
    | .stack f => (List.range ((n + 3) / 4)).any fun i => hit (stackVa b t (f + 4 * i))
    | _ => false
  (s.accesses.any fun a => decide (a.id < o.id) && s.ctxOf (s.band a.band) == ctx &&
    a.parts.any fun p => !p.done && !p.absent && on (s.band a.band) p.lane a.sp p.va p.locs.length) ||
  -- stores that regions hold, issued before (R250)
  s.bands.any fun b => s.ctxOf b == ctx && b.held.any fun h => decide (h.id ≤ o.id) && on b h.lane h.sp h.va h.bytes.length

/-- TLBINV_COMPLETE: every access that used a dropped copy has been performed. -/
def execTlbinvComplete (id : Nat) (s : State) : Host.Outcome State Fault Refusal :=
  .next (match s.tlbs.find? (·.id == id) with
    | some o =>
      if s.tlbUsed o then s
      else { s with tlbs := s.tlbs.filter fun e => e.id != id }.finish o.band id o.flag
    | none => s)

end Sys2Proof.Machine
end

