-- ==== Sys2Proof/Machine/Events.lean ====
section
/-!
DEFINITION. What the units beside the lanes do on their own: loads and stores as they are performed (R99),
register granules (R141, R142, R393), work requests between distributors (R146, R421, R422), remote enqueue
(R172 to R174, R424), pending traps (R362, R363), weight-store refresh (R222), and trace (R398 to R401).
-/

namespace Sys2Proof.Machine

/-! ## Loads and stores (R99, R260) -/

/-- LOAD_COMPLETE: the oldest load of a band returns. -/
def execLoadComplete (band : Nat) (s : State) : Host.Outcome State Fault Refusal :=
  .next (match s.oldestLoad band with
    | some a => if a.kind.isLoad then s.perform a.id else s
    | none => s)

/-- STORE_PERFORMED: a store or a read-modify-write is performed; the destinations of one band are written in
the order of issue (R260). -/
def execStorePerformed (id : Nat) (s : State) : Host.Outcome State Fault Refusal :=
  .next (match s.findAccess id with
    | some a =>
      if a.kind.isLoad || (a.kind.hasDest && (s.oldestLoad a.band).map (·.id) != some id) then s else s.perform id
    | none => s)

/-! ## Register granules (R141, R142, R383, R393) -/

def execGrowGrant (core : Nat) (s : State) : Host.Outcome State Fault Refusal := .next (s.growGrant core)

/-- The 1 KiB of granule `i` of a band: g(8i + k) of lane l at 128k + 4l (R383). -/
def Band.granuleBytes (b : Band) (i : Nat) : List Byte :=
  ((List.range 8).map fun k => ((List.range 32).map fun t =>
    leBytes ((b.lane t).get (.g (BitVec.ofNat 6 (8 * i + k)))).toNat 4).flatten).flatten

/-- Fill granule `i` from its 1 KiB. -/
def Band.putGranule (b : Band) (i : Nat) (v : List Byte) : Band :=
  { b.mapLanes (BitVec.allOnes 32) fun t l =>
      (List.range 8).foldl (fun l k =>
        l.put (.g (BitVec.ofNat 6 (8 * i + k))) (BitVec.ofNat 64 (field v (128 * k + 4 * t) 4))) l with
    absentGran := b.absentGran &&& ~~~BitVec.ofNat 8 (2 ^ i), saved := b.saved.filter fun e => e.1 != i }

/-- The queue of a band's launch (R381). -/
def State.bandQueue (s : State) (bi : Nat) : Nat := ((s.launchOf (s.band bi)).map (·.queue)).getD 0

/-- The 64 bytes of a queue's descriptor (R382). -/
def State.qdesc (s : State) (q : Nat) : List Byte := s.mem.readN (s.boot.qtab + 64 * q) 64

/-- The record of a band's slot in the spill area of its queue (R383). -/
def State.spillRecord (s : State) (bi : Nat) : DWord :=
  let b := s.band bi
  BitVec.ofNat 64 (field (s.qdesc (s.bandQueue bi)) 0x28 8) +
    BitVec.ofNat 64 (8192 * (b.core * 32 + (b.quarter * 8 + b.slot)))

/-- No lane of the band is eligible, and some lane waits as a predicate says. -/
def State.waitsAt (s : State) (b : Band) (p : Wait → Bool) : Bool :=
  (s.select b).issueSet == 0 && (List.range 32).any fun t => match (b.lane t).st with
    | .waiting w => p w
    | _ => false

/-- A band is stuck, if those of a list are (R142). -/
def State.stuckBy (s : State) (stuck : List Nat) (bi : Nat) : Bool :=
  let b := s.band bi
  let c := s.core b.core
  let mates := stuck.filter fun y => (s.band y).crew == b.crew
  let groups : List Nat := ((s.crew b.crew).map (·.groups)).getD []
  let sameGroup (g y : Nat) : Bool := groups.contains g && ((s.crew (s.band y).crew).map fun c =>
    c.groups.contains g && ((s.crew b.crew).map (·.launch)) == some c.launch).getD false
  let needs (k : BitVec 4) : Bool :=
    let x := c.conv k.toNat
    stuck.any fun y => (s.band y).crew == b.crew && x.declared.any fun m =>
      m.1 == (s.band y).num && !x.signed.contains m
  (match b.block with
    | some (.grow ..) => true
    | _ => false) ||
  s.waitsAt b fun w => match w with
    | .crewBar => !mates.isEmpty
    | .mma k => needs k
    | .groupBar g => stuck.any (sameGroup g)
    | .bcast g .. => stuck.any (sameGroup g)
    | _ => false

/-- The bands of a core that have not ended. -/
def State.coreBands (s : State) (core : Nat) : List Nat :=
  ((List.range 4).map fun q => s.residents core q).flatten

/-- The stuck bands of a core: the least set that R142 gives. -/
def State.stuckSet (s : State) (core : Nat) : List Nat :=
  let bs := s.coreBands core
  bs.foldl (fun st _ => bs.filter (s.stuckBy st)) []

/-- A band comes after another: its crew started later, or its number is higher (R142). -/
def State.younger (s : State) (x y : Nat) : Bool :=
  decide ((s.band y).crew < (s.band x).crew) ||
    ((s.band y).crew == (s.band x).crew && decide ((s.band y).num < (s.band x).num))

/-- Write the granules of a band that are present to records, and mark every granule absent. -/
def State.spillTo (s : State) (bi : Nat) (va : DWord) : State :=
  let b := s.band bi
  let gs := (List.range b.gran).filter fun i => !b.absentGran.getLsbD i
  let s1 := gs.foldl (fun s i => s.hwWrite (s.ctxOf b) (va + BitVec.ofNat 64 (1024 * i)) (b.granuleBytes i)) s
  s1.setBand bi { s1.band bi with
    absentGran := BitVec.ofNat 8 (2 ^ b.gran - 1)
    saved := b.saved ++ gs.map fun i => (i, va + BitVec.ofNat 64 (1024 * i)) }

/-- The number under which the spill of a core waits for a page. -/
def spillId (core : Nat) : Nat := 2 ^ 66 + core

/-- A page of a spill record that is not present, if there is one. -/
def State.spillAbsent (s : State) (bi : Nat) : Option DWord :=
  match runVa s (s.rootOf (s.ctxOf (s.band bi))) (s.spillRecord bi) (1024 * (s.band bi).gran) true with
  | .error (.absent va) => some va
  | _ => none

/-- The registers that results still to come of a band are written to: those of its accesses, of its draws, and of
its lanes that wait in BCAST (R393). -/
def State.targets (s : State) (bi : Nat) : List RegName :=
  let b := s.band bi
  ((s.accesses.filter fun a => a.band == bi).map fun a => a.kind.dests).flatten ++
    (((s.core b.core).seq.filter fun q => q.band == bi).map fun q => match q.op with
      | .draw _ d .. | .accept d .. => gs 2 d
      | _ => []).flatten ++ b.bcastDests

/-- REGISTER_SPILL (R142): with every band of the core stuck, the youngest band blocked in GROW gives up its
granules, once its results are written and the pages of its record are present (R371, R383). -/
def State.registerSpill (s : State) (core : Nat) : State :=
  let bs := s.coreBands core
  let st := s.stuckSet core
  let cand := bs.filter fun bi => (s.core core).growQ.contains bi && !(s.band bi).spilled
  match cand with
  | [] => s
  | x :: r =>
    let bi := r.foldl (fun a y => if s.younger y a then y else a) x
    if bs.all st.contains && (s.band bi).quiet && (s.targets bi).isEmpty then
      match s.spillAbsent bi with
      | some va => s.enginePage bi (spillId core) va
      | none =>
        let n := (s.band bi).occupies
        let s1 := s.spillTo bi (s.spillRecord bi)
        let s2 := s1.setBand bi { s1.band bi with spilled := true }
        let c := s2.core core
        (s2.setCore { c with free := c.free + n }).growGrants core
    else s

def execRegisterSpill (core : Nat) (s : State) : Host.Outcome State Fault Refusal :=
  .next (s.registerSpill core)

/-- The granules that the next word of a band waits for. -/
def State.wantedGranules (s : State) (bi : Nat) : List Nat :=
  let b := s.prepared bi
  match fetchPa s b b.pc with
  | .ok pa =>
    let x : Ex := { pc := b.pc, set := b.issueSet, v := 0, now := s.cycle, k := s.free, lbit := false }
    ((nextWords (s.packetWords pa) (slotOf b.pc)).instrs.map (b.needsGranules x)).flatten
  | .error _ => []

/-- A fault that a fill meets escalates with code 0x1B (R393). -/
def fillTrap (code : Byte) (va : DWord) : Trap := (syncTrap code 0 va 0).nested

/-- A fault of a fill escalates: the region ends, and each lane that waits for the granule records it (R379, R393). -/
def State.fillFails (s : State) (bi : Nat) (code : Byte) (va : DWord) : State :=
  let s := s.endRegion bi
  let b := s.select (s.band bi)
  let q := { fillTrap code va with orig := b.pc }
  (s.setBand bi ((lanesOf b.issueSet).foldl (fun b t => b.raise t b.pc q) b)).escalate bi q

/-- Fill an absent granule from its record (R393). -/
def State.fill (s : State) (bi g : Nat) : State :=
  let b := s.band bi
  match b.saved.find? (·.1 == g) with
  | none => s.setBand bi (b.putGranule g [])
  | some (_, va) =>
    match s.ctxRead (s.ctxOf b) va 1024 with
    | .ok v => (s.setBand bi (b.putGranule g v)).nextLoads bi s.accesses.length
    | .error (.absent a) => if s.faults.any fun f => f.band == bi && f.va == a then s else s.addFault bi a .issue
    | .error (.trap c a) => s.fillFails bi c a
    | .error (.sectors ..) | .error .busy => s

/-- The granules that the targets of a band's results still to come name (R393). -/
def State.targetGranules (s : State) (bi : Nat) : List Nat := (s.band bi).absentIn (s.targets bi)

/-- GRANULE_FILL: a word or a pending access names the granule, and the band holds it (R142, R393). -/
def State.granuleFill (s : State) (bi g : Nat) : State :=
  let b := s.band bi
  if b.spilled || b.stopped || (s.quarterOf b).stopped then s
  else if (s.targetGranules bi).contains g || (s.mayIssue b && (s.wantedGranules bi).contains g) then s.fill bi g
  else s

def execGranuleFill (band granule : Nat) (s : State) : Host.Outcome State Fault Refusal :=
  .next (s.granuleFill band granule)

/-! ## Work requests (R146, R421, R422) -/

def execWorkRequestServed (band choice : Nat) (s : State) : Host.Outcome State Fault Refusal :=
  .next (s.serveTake band choice)

/-- A band of a die whose work request finds nothing at levels 1 to 5. -/
def State.hungry (s : State) (li die : Nat) : Bool :=
  (List.range s.bands.length).any fun bi =>
    let b := s.band bi
    match s.crew b.crew with
    | some c => c.running && c.launch == li && c.core / 256 == die && b.takeRequest.isSome &&
        (s.levels li b.crew c.core).all (·.isEmpty)
    | none => false

/-- The dies that follow one in a list, cyclically. -/
def diesAfter (ds : List Nat) (d : Nat) : List Nat :=
  ds.filter (fun x => decide (d < x)) ++ ds.filter fun x => decide (x < d)

/-- What a victim gives up: its oldest spill entry, or the highest half of its stripes, rounded up (R421). -/
def Launch.give (l : Launch) (thief victim : Nat) : Launch :=
  match l.spill.findIdx? fun e => e.1 == victim with
  | some i =>
    match l.spill[i]? with
    | some e => { l with spill := l.spill.eraseIdx i ++ [(thief, e.2)] }
    | none => l
  | none =>
    let k := (l.stripes.filter fun e => e.1 == victim).length
    let keep := k - (k + 1) / 2
    let top := ((l.stripes.filter fun e => e.1 == victim).drop keep).map (·.2)
    { l with stripes := l.stripes.map fun e => if e.1 == victim && top.contains e.2 then (thief, e.2) else e }

/-- A die's distributor holds something of a launch. -/
def Launch.holds (l : Launch) (die : Nat) : Bool := l.spill.any (·.1 == die) || l.stripes.any (·.1 == die)

/-- STEAL_MESSAGE: the first die after the thief that holds anything gives (R421). -/
def State.steal (s : State) (li thief : Nat) : State :=
  match s.launch li with
  | none => s
  | some l =>
    let ds := l.cfg.dieList
    if !ds.contains thief || l.holds thief || l.paused || !s.hungry li thief then s
    else
      match (diesAfter ds thief).find? l.holds with
      | some v => s.setLaunch li (l.give thief v)
      | none => s

def execStealMessage (launch thief : Nat) (s : State) : Host.Outcome State Fault Refusal :=
  .next (s.steal launch thief)

/-- A lane waits as a quiescent launch requires (R168). -/
def LaneSt.resting : LaneSt → Bool
  | .waiting (.take ..) | .waiting .crewBar | .waiting (.groupBar _) | .waiting (.bcast ..) => true
  | _ => false

/-- The launch is quiescent (R168). -/
def State.quiescent (s : State) (li : Nat) : Bool :=
  let cs := s.crewsOf li
  !s.holdsGrain li && !s.launchSaved li && !cs.isEmpty && cs.all fun ci => match s.crew ci with
    | some c =>
      let live := c.bands.filter fun bi => !(s.band bi).ended
      live.all (fun bi => (List.range 32).all fun t => !((s.band bi).lane t).live || ((s.band bi).lane t).st.resting) &&
        live.any fun bi => (s.band bi).takeRequest.isSome
    | none => false

/-- TERMINATION_ROUND (R422). -/
def execTerminationRound (launch : Nat) (s : State) : Host.Outcome State Fault Refusal :=
  .next (if s.quiescent launch then s.noMoreWork launch else s)

/-! ## Remote enqueue (R172 to R174, R424, R425) -/

/-- The registered ring of a context that a descriptor names (R171, R424). -/
def State.ringOf (s : State) (ctx : Nat) (d : DWord) : Option RecvRing :=
  (s.ctx ctx).bind fun c => c.rings.find? fun r => r.die == reqDie d && r.ring == reqRing d

/-- A descriptor names this module, and the ring of another one. -/
def sameRing (s : State) (d e : DWord) : Bool :=
  reqNode d == s.boot.node && reqDie d == reqDie e && reqRing d == reqRing e

/-- The grants outstanding of a ring: slots that bands of the context hold for it, and entries on their way to it
(R172, R424). -/
def State.grantsOut (s : State) (ctx : Nat) (d : DWord) : Nat :=
  ((s.bands.filter fun b => s.ctxOf b == ctx && !b.ended).map fun b => (b.slots.filter fun p => sameRing s p.2 d).length).sum +
    (s.reqs.filter fun m => m.ctx == ctx && m.result.isNone && sameRing s m.desc d).length

/-- The physical address of a ring's header. -/
def RecvRing.pa (r : RecvRing) : Nat := r.die * 2 ^ 48 + r.header

/-- NENT, HEAD and TAIL of a ring (R424). -/
def State.ringNent (s : State) (r : RecvRing) : Nat := s.mem.readLE (r.pa + 8) 4
def State.ringHead (s : State) (r : RecvRing) : Nat := s.mem.readLE (r.pa + 0x0C) 4
def State.ringTail (s : State) (r : RecvRing) : Nat := s.mem.readLE (r.pa + 0x10) 4

/-- RESERVED_SLOT_GRANT: the destination grants a slot while its ring has room (R424). A destination that is not
registered, or on another module, has no ring here that could be full. -/
def State.slotGrant (s : State) (r : SlotReq) : State :=
  let ctx := s.ctxOf (s.band r.band)
  let give (s : State) : State :=
    let b := s.band r.band
    { s.setBand r.band { b with slots := b.slots ++ [(r.lane, r.desc)] } with
      slotReqs := s.slotReqs.filter fun e => e.id != r.id }
  if reqNode r.desc = s.boot.node then
    match s.ringOf ctx r.desc with
    | some g =>
      if (s.ringTail g + s.grantsOut ctx r.desc + 2 ^ 32 - s.ringHead g) % 2 ^ 32 < s.ringNent g then give s else s
    | none => give s
  else give s

def execReservedSlotGrant (id : Nat) (s : State) : Host.Outcome State Fault Refusal :=
  .next (match s.slotReqs.find? (·.id == id) with
    | some r => s.slotGrant r
    | none => s)

/-- The fate of an entry is known; without a flag nothing more is reported (R174). -/
def State.reqFate (s : State) (m : ReqMsg) (ok : Bool) : State :=
  if m.flag = 15 then { s with reqs := s.reqs.filter fun e => e.id != m.id }
  else { s with reqs := s.reqs.map fun e => if e.id == m.id then { e with result := some ok } else e }

/-- An entry without a ring is dropped: counted in its destination die, where that is of this module, and reported to the
sender's context (R173, R425). -/
def State.reqDrop (s : State) (m : ReqMsg) : State :=
  let d := reqDie m.desc
  let q := s.die d
  let s := if decide (m.flag = 15) && reqNode m.desc == s.boot.node then s.setDie d { q with rqerr := if q.rqerr = 0xFFFFFFFF then q.rqerr else q.rqerr + 1 } else s
  (s.reqFate m false).post [⟨m.ctx, 5, d, reqRing m.desc, m.desc⟩]

/-- An earlier entry of the lane to the same ring has not arrived (R172). -/
def State.reqBehind (s : State) (m : ReqMsg) : Bool :=
  (s.reqs.takeWhile fun e => e.id != m.id).any fun e =>
    e.band == m.band && e.lane == m.lane && e.desc == m.desc && e.result.isNone

/-- An entry is written at the tail of its ring (R424); it carries no depth (R283). -/
def State.reqPut (s : State) (m : ReqMsg) (g : RecvRing) : State :=
  let s := s.unblock m.id
  let w := { s.laneWriter m.band m.lane m.word false with ctx := m.ctx, depth := 0 }
  let tail := s.ringTail g
  let n := s.ringNent g
  let at_ := BitVec.ofNat 64 (s.mem.readLE g.pa 8) + BitVec.ofNat 64 (16 * (if n = 0 then 0 else tail % n))
  match s.ctxWrite w at_ m.payload with
  | .error (.absent va) => s.enginePage m.band m.id va
  | .error (.sectors d l va) => s.waitAt d m.id l va
  | .error .busy => s
  | .error (.trap ..) => s.reqDrop m
  | .ok s1 =>
    match (s1.clearRcl (s1.ptesAt (g.pa + 0x10))).write w (g.pa + 0x10) (leBytes (tail + 1) 4) with
    | none => s.waitAt (dieOfPa g.pa) m.id (blocksOf (g.pa + 0x10) 4) at_
    | some s2 => (s2.unwait m.id).reqFate m true

/-- REMOTE_ENQUEUE_DELIVERY: an entry arrives after its lane's earlier accesses, as a release (R172), and never at a full
ring (R424): one for which a ring registered anew has no room waits (DEDUCED, log entry 131). What becomes
of an entry at another module is not known here. -/
def State.reqDeliver (s : State) (m : ReqMsg) : State :=
  if m.result.isSome || s.reqBehind m || !s.clear m.band (laneMask m.lane) m.id || s.pageWaits m.id then s
  else if reqNode m.desc = s.boot.node then
    match s.ringOf m.ctx m.desc with
    | some g => if (s.ringTail g + 2 ^ 32 - s.ringHead g) % 2 ^ 32 < s.ringNent g then s.reqPut m g else s
    | none => s.reqDrop m
  else
    let ok := Config.pick s.free (2 ^ 41)
    let s := { s with free := s.free + 1 }
    if ok then s.reqFate m true else s.reqDrop m

def execRemoteEnqueueDelivery (id : Nat) (s : State) : Host.Outcome State Fault Refusal :=
  .next (match s.reqs.find? (·.id == id) with
    | some m => s.reqDeliver m
    | none => s)

/-- REQ_ACK: the acknowledgement returns; a refused entry traps its lane, and the last one sets the flag (R173,
R174). -/
def State.reqAck (s : State) (m : ReqMsg) : State :=
  match m.result with
  | none => s
  | some ok =>
    let s1 : State := { s with reqs := s.reqs.filter fun e => e.id != m.id }
    let s2 := if ok then s1 else s1.reportAll m.band (laneMask m.lane) (asyncTrap 0x19 0 m.desc m.word)
    if s2.reqs.any fun e => e.band == m.band && e.flag == m.flag then s2 else s2.finish m.band m.id m.flag

def execReqAck (id : Nat) (s : State) : Host.Outcome State Fault Refusal :=
  .next (match s.reqs.find? (·.id == id) with
    | some m => s.reqAck m
    | none => s)

/-! ## Pending traps (R362, R363) -/

/-- TRAP_ENTRY: the band takes its pending traps as soon as R363 lets it. -/
def State.trapEntry (s : State) (bi : Nat) : State :=
  let b := s.prepared bi
  match s.decision bi b with
  | .go _ .entry .. => (s.setBand bi b).enterHandler bi
  | .go _ .close .. => if b.trapPending then (s.setBand bi b).endRegion bi else s
  | _ => s

def execTrapEntry (band : Nat) (s : State) : Host.Outcome State Fault Refusal := .next (s.trapEntry band)

/-- ASYNC_TRAP_REPORT: a report becomes pending in its lane (R362). -/
def execAsyncTrapReport (band lane : Nat) (s : State) : Host.Outcome State Fault Refusal :=
  .next (s.setBand band ((s.band band).takeReport lane))

/-! ## Weight-store refresh (R222) -/

/-- WS_REFRESH_START: the next bank is refreshed, 8,192 cycles after the one before. -/
def execWsRefreshStart (die : Nat) (s : State) : Host.Outcome State Fault Refusal :=
  let d := s.die die
  .next (if d.refBusy || decide (s.cycle < d.refNext) then s
    else s.setDie die { d with refBusy := true, refNext := d.refNext + 8192 })

/-- WS_REFRESH_END: the reads that wait go on. -/
def execWsRefreshEnd (die : Nat) (s : State) : Host.Outcome State Fault Refusal :=
  let d := s.die die
  .next (if d.refBusy then s.setDie die { d with refBusy := false, refBank := (d.refBank + 1) % 16 } else s)

/-! ## Trace (R398 to R401) -/

/-- A record of a quarter (R399). -/
def transectRecord (core q seq : Nat) (x : Transect) : List Byte :=
  leBytes (core / 256) 1 ++ leBytes (core % 256) 1 ++ leBytes q 1 ++ [0] ++ leBytes seq 4 ++ leBytes x.start 8 ++
    ((List.range 8).map fun n => ((List.range 5).map fun c => leBytes ((x.bins.getD n []).getD c 0) 4).flatten).flatten ++
    ((List.range 5).map fun c => leBytes (x.unbinned.getD c 0) 4).flatten ++
    ((List.range 13).map fun r => leBytes (x.samples.getD r 0) 4).flatten ++ List.replicate 8 0

/-- A sequence number of a die (R400). -/
def State.takeSeq (s : State) (die : Nat) : Nat × State :=
  let d := s.die die
  (d.seq.toNat, s.setDie die { d with seq := d.seq + 1 })

/-- Write a record and advance WR; one whose write faults is dropped, and none is given while it must wait (R227,
R399). -/
def State.putRecord (s : State) (core q : Nat) (x : Transect) : Option State :=
  let c := s.core core
  match s.trArea core with
  | none => some s
  | some a =>
    if x.nrec = 0 then some s
    else
      let wr := s.mem.readLE (a + 0x80) 4
      let n := s.takeSeq (core / 256)
      let w := cpWriter (core / 256) c.l1ctx false
      match n.2.ctxWrite w (c.trbuf + BitVec.ofNat 64 (0x100 + 256 * (wr % x.nrec))) (transectRecord core q n.1 x) with
      | .error (.sectors ..) | .error .busy => none
      | .error _ => some s
      | .ok s1 => (s1.clearRcl (s1.ptesAt (a + 0x80))).write w (a + 0x80) (leBytes (wr + 1) 4)

/-- TRANSECT_INTERVAL_END of a quarter of the package: the oldest record that is still to be written (R399). -/
def State.intervalEnd (s : State) (n : Nat) : State :=
  match (s.quarterAt n).owed with
  | [] => s
  | x :: r =>
    match s.putRecord (n / 4) (n % 4) x with
    | some s' => s'.setQuarterAt n { s'.quarterAt n with owed := r }
    | none => s

def execTransectIntervalEnd (quarter : Nat) (s : State) : Host.Outcome State Fault Refusal :=
  .next (s.intervalEnd quarter)

/-- The pipe of a busy flag counts as stall reason 3 or 4 (R149). -/
def flagReason : Pipe → Nat
  | .matrix | .sfu | .engine => 4
  | _ => 3

/-- The flags that a slot waits on. -/
def slotFlags (c k : Nat) : List Nat :=
  match k with
  | 1 => (List.range 12).filter fun i => bits (ctlWM c) i 1 == 1
  | 2 => [ctlW2 c]
  | _ => [ctlW3 c]

/-- The flags that the next words wait on: those of their slots, their own, and all of them for a SHRINK that releases
granules (R16, R17, R166). -/
def stallFlags (b : Band) (p : Nat × Nat × Nat × Nat) (k : Nat) (is : List Instr) : List Nat :=
  slotFlags p.1 k ++ (if chains p k && (b.fallsThrough || !packetError p k) then slotFlags p.1 (k + 1) else []) ++ is.map (fun i => (flagOf i).toNat) ++
    if is.any b.shrinks then List.range 12 else []

/-- The reason of the first busy flag that the next slot waits on: memory before the others. -/
def Band.flagStall (b : Band) (fs : List Nat) : Option Nat :=
  let rs := fs.filterMap fun i => if b.busy i then (b.flags.toArray.getD i none).map flagReason else none
  if rs.contains 3 then some 3 else if rs.isEmpty then none else some 4

/-- The reason of a band with no eligible lane: what its cursor lane waits for (R149). DESIGN CHOICE (log entry 116):
with a cursor lane that has exited, 11, and with one that waits at a TRET, 6. -/
def Band.idleStall (b : Band) : Nat :=
  match (b.lane b.cursor.toNat).st with
  | .waiting (.mma _) => 5
  | .waiting .trap => 1
  | .waiting _ => 6
  | .held => 7
  | _ => 11

/-- A trap is pending for the band: raised, or reported in a lane that waits (R149, R362). -/
def Band.trapRaised (b : Band) : Bool :=
  !b.handler && (b.trapLane != 0 || (List.range 32).any fun t => (b.lane t).live && !(b.lane t).reports.isEmpty)

/-- The stall reason of a band that has not issued (R149); a pending trap counts while no lane is eligible (R363).
DESIGN CHOICE (log entry 116): the stores of a region that has ended, which are still to be performed, give 3. -/
def State.stallReason (s : State) (bi : Nat) : Nat :=
  let b := s.prepared bi
  if b.stopped || (s.quarterOf b).stopped || (b.trapRaised && b.issueSet == 0) then 1
  else if b.paged.isSome && decide (b.block ≠ some .page) || s.closes b then 3
  else
    match b.block with
    | some .parked => 1
    | some .page => if s.faults.any fun f => f.band == bi && f.kind == .fetch then 1 else 3
    | some (.fence ..) => 3
    | some (.grow ..) => if b.spilled then 2 else 8
    | some (.claim ..) => 10
    | none =>
      if b.issueSet = 0 then b.idleStall
      else
        match fetchPa s b b.pc with
        | .error _ => 11
        | .ok pa =>
          let p := s.packetWords pa
          let k := slotOf b.pc
          let is := (nextWords p k).instrs
          let x : Ex := { pc := b.pc, set := b.issueSet, v := 0, now := s.cycle, k := s.free, lbit := false }
          if is.any fun i => !(b.needsGranules x i).isEmpty then 2
          else
            match b.flagStall (stallFlags b p k is) with
            | some r => r
            | none =>
              if is.any fun i => s.spawnWaits bi b i then 6
              else if s.cycle < b.earliest s.cycle p.1 k then 9
              else if is.any fun i => s.reqWaits bi b i || s.reqAsks bi b i || s.ksetWaits b i ||
                  s.objectWaits bi x.set i then 10
              else 11

/-- What a sample of a band slot counts: a reason, 12 for issued, 13 for an empty slot (R401), and 0, no counter, for a
band that the trace does not take in (R443). -/
def State.sampleOf (s : State) (core q slot : Nat) : Nat :=
  match (s.residents core q).find? fun bi => (s.band bi).slot == slot with
  | none => 13
  | some bi =>
    if !s.sees core (s.ctxOf (s.band bi)) then 0
    else if (s.band bi).issued && (s.band bi).lastIssue == s.cycle then 12 else s.stallReason bi

/-- A quarter has a sample to take in this cycle: SEN, at the die cycles that are multiples of 2^SPER. DESIGN CHOICE (log
entry 130): R401 does not say at which cycles the samples of 2^SPER cycles fall. -/
def State.sampleDue (s : State) (n : Nat) : Bool :=
  let c := s.core (n / 4)
  c.trUsed.getLsbD 30 && s.traceRuns (n / 4) && (s.localClock (n / 4 / 256)).toNat % 2 ^ bits c.trUsed.toNat 16 4 == 0 &&
    (s.quarterAt n).transect.sampled != s.cycle + 1

/-- Sample the slot under the pointer and advance the pointer (R401). -/
def State.takeSample (s : State) (n : Nat) : State :=
  let x := s.quarterAt n
  let r := s.sampleOf (n / 4) (n % 4) x.transect.pointer
  s.setQuarterAt n { x with transect :=
    { x.transect with samples := if r = 0 then x.transect.samples else addAt x.transect.samples (r - 1) 1,
                      pointer := (x.transect.pointer + 1) % 8, sampled := s.cycle + 1 } }

/-- The quarter has issued in this cycle, or nothing of it can. -/
def State.quarterOver (s : State) (n : Nat) : Bool :=
  let x := s.quarterAt n
  (x.issued && x.lastIssue == s.cycle) ||
    match s.quarterCandidate (n / 4) (n % 4) with
    | some c => decide (s.cycle < c.2.1)
    | none => true

/-- STALL_SAMPLE: a sample that is due is taken, once it is settled whether the quarter issues in the cycle (R401). -/
def State.stallSample (s : State) (n : Nat) : State :=
  if s.sampleDue n && s.quarterOver n then s.takeSample n else s

/-! ## The trace and the clock (R398 to R401) -/

/-- Some core traces or samples. -/
def State.tracing (s : State) : Bool :=
  s.cores.any fun c => bits c.trctl.toNat 30 2 != 0 || bits c.trUsed.toNat 30 2 != 0

/-- A quarter at the end of a cycle: a cycle in which it issued nothing is IDLE, and its sample is taken. -/
def State.traceEnd (s : State) (n : Nat) : State :=
  let x := s.quarterAt n
  let s1 := if s.traces (n / 4) && !(x.issued && x.lastIssue == s.cycle) then
      s.setQuarterAt n { x with transect := x.transect.idle } else s
  if s1.sampleDue n then s1.takeSample n else s1

/-- A quarter's interval ends at a multiple of 2^PER: its counters become a record to write, and the next interval
begins (R399). A parked die records nothing (R443). -/
def State.closeInterval (s : State) (n : Nat) : State :=
  let x := s.quarterAt n
  (if s.traces (n / 4) then s.setQuarterAt n { x with owed := x.owed ++ [x.transect] } else s).beginInterval (n / 4) (n % 4)

/-- A core at the begin of a cycle: intervals end by the TRCTL that has counted, then TRCTL as written counts; setting EN
begins an interval (R397, R399). -/
def State.traceBegin (s : State) (core : Nat) : State :=
  let c := s.core core
  let qs := (List.range 4).map fun q => core * 4 + q
  let s1 := if c.trUsed.getLsbD 31 && (s.localClock (core / 256)).toNat % c.interval == 0 then
      qs.foldl State.closeInterval s else s
  let s2 := s1.setCore { s1.core core with trUsed := c.trctl }
  if !c.trUsed.getLsbD 31 && c.trctl.getLsbD 31 then qs.foldl (fun s n => s.beginInterval (n / 4) (n % 4)) s2 else s2

/-- A number of cycles pass while a core traces. -/
def State.tracedCycles (s : State) : Nat → State
  | 0 => s
  | n + 1 =>
    let ids := s.cores.map (·.id)
    let s1 := (ids.map fun c => (List.range 4).map fun q => c * 4 + q).flatten.foldl State.traceEnd s
    (ids.foldl State.traceBegin { s1 with cycle := s1.cycle + 1 }).tracedCycles n

/-- The trace follows the clock up to the cycle of an issue. -/
def State.upTo (s : State) (cycle : Nat) : State := if s.tracing then s.tracedCycles (cycle - s.cycle) else s

def execStallSample (quarter : Nat) (s : State) : Host.Outcome State Fault Refusal :=
  .next (s.stallSample quarter)

end Sys2Proof.Machine
end

