-- ==== Sys2Proof/Machine/Commands.lean ====
section
/-!
DEFINITION. The command processor and the commands of user queues (R382, R434 to R436, R428, R429): how an
entry of a ring is read, started and completed, and what each command does.
-/

namespace Sys2Proof.Machine

/-! ## Entries of a ring -/

/-- The number that stands for the control queue beside the queues 0 to 16,383 (R437). -/
def ctlq : Nat := 16384

/-- The operation that stands for an entry which cannot be read. -/
def opUnread : Nat := 512

/-- An entry as it is read when its command starts: parameters after graph parameters, and whether the
general rules of R434 hold. -/
structure Entry where
  at_ : DWord
  op : Nat
  event : Bool
  ps : List DWord
  ok : Bool
  deriving DecidableEq, Repr

/-- The parameter of a command. -/
def prm (ps : List DWord) (k : Nat) : DWord := ps.getD k 0

/-- Every parameter outside a list is 0 (R434). -/
def unusedZero (ps : List DWord) (used : List Nat) : Bool :=
  (List.range 7).all fun k => used.contains k || prm ps k == 0

/-- The entry in 64 bytes, with the graph parameters of its queue (R344, R434). -/
def entryOf (gp : Option (Vector DWord 64)) (at_ : DWord) (e : List Byte) : Entry :=
  let fl := field e 1 1
  let raw (k : Nat) : DWord := BitVec.ofNat 64 (field e (8 + 8 * k) 8)
  let named (k : Nat) : Bool := bits fl k 1 == 1
  let value (k : Nat) : DWord :=
    if named k then (gp.map fun g => g.toArray.getD (bits (raw k).toNat 0 6) 0).getD 0 else raw k
  { at_ := at_, op := field e 0 1, event := bits fl 7 1 == 1, ps := (List.range 7).map value,
    ok := zeros e 4 4 && (List.range 7).all fun k => !named k || (gp.isSome && decide ((raw k).toNat < 64)) }

/-- Physical address of a queue's descriptor (R382, R437). -/
def State.descPa (s : State) (q : Nat) : Nat := if q = ctlq then s.boot.ctlq else s.boot.qtab + 64 * q

/-- A field of a queue's descriptor. -/
def State.qfield (s : State) (q off n : Nat) : Nat := s.mem.readLE (s.descPa q + off) n

/-- The context of a queue; the control queue has none. -/
def State.queueCtx (s : State) (q : Nat) : Nat := ((s.queue q).map (·.ctx)).getD 0

/-- The command processor writes an H field of a queue (R227, R382). -/
def State.putQ (s : State) (q off n v : Nat) : State := s.cpWrite 0 (s.queueCtx q) (s.descPa q + off) (leBytes v n)

/-- What a queue runs. -/
def State.runningOf (s : State) (q : Nat) : Option Running :=
  if q = ctlq then s.ctlRunning else (s.queue q).bind (·.running)

/-- Change what a queue runs. -/
def State.setRunning (s : State) (q : Nat) (r : Option Running) : State :=
  if q = ctlq then { s with ctlRunning := r }
  else
    match s.queue q with
    | some x => s.setQueue { x with running := r }
    | none => s

/-- The command processor serves the queue: it is mapped, its saved work has been restored, and its context is
not stopped (R379, R384, R392). The control queue is served always once the package has booted (R431, R437). -/
def State.served (s : State) (q : Nat) : Bool :=
  if q = ctlq then s.boot.ok
  else match s.queue q with
  | some x => decide (x.st = .mapped) && x.saved.isEmpty && ((s.ctx x.ctx).map (·.stoppedBy.isNone)).getD false
  | none => false

/-- The address of the next entry: a recorded entry of a GRAPH, or the entry at HEAD (R434). -/
def State.nextAt (s : State) (q : Nat) : Option DWord :=
  match s.runningOf q with
  | some r =>
    match r.entry, r.graph with
    | none, some g => some (g.base + BitVec.ofNat 64 (64 * g.done))
    | _, _ => none
  | none =>
    let head := s.qfield q 0x0C 4
    let n := s.qfield q 0x08 4
    if head = s.qfield q 0x10 4 then none
    else some (BitVec.ofNat 64 (s.qfield q 0 8) + BitVec.ofNat 64 (64 * (if n = 0 then 0 else head % n)))

/-- The command of a queue that waits for a page or for sectors. -/
def State.cmdOf (s : State) (q : Nat) : Option CmdOp := s.cmds.find? (·.queue == q)

/-- Bytes at an address of a command: virtual of the context, or physical for the control queue (R434, R437). -/
def State.cmdRead (s : State) (q : Nat) (va : DWord) (n : Nat) : Except Halt (List Byte) :=
  if q = ctlq then s.readUnit ((List.range n).map fun i => .mem (bits va.toNat 0 52 + i)) else s.ctxRead (s.queueCtx q) va n

/-- What the command processor finds as a queue's next entry. -/
inductive Next where
  | none
  | entry (e : Entry)
  | halt (va : DWord) (h : Halt)
  deriving DecidableEq, Repr

/-- The next entry of a queue that is served; a write of its descriptor that waits for sectors holds back the read
of HEAD (R227). -/
def State.nextEntry (s : State) (q : Nat) : Next :=
  if !s.served q || ((s.cmdOf q).map fun c => s.pageWaits c.id).getD false ||
      s.blocked (blocksOf (s.descPa q) 64) then .none
  else
    match s.nextAt q with
    | none => .none
    | some a =>
      match s.cmdRead q a 64 with
      | .ok e => .entry (entryOf ((s.queue q).map (·.gp)) a e)
      | .error h => .halt a h

/-- No command of the queue waits any more. -/
def State.dropCmd (s : State) (q : Nat) : State :=
  match s.cmdOf q with
  | some c =>
    { s with cmds := s.cmds.filter fun x => x.queue != q, faults := s.faults.filter fun f => f.kind != FaultKind.engine c.id }.unwait c.id
  | none => s

/-- A command starts: HEAD advances past an entry of the ring. -/
def State.startEntry (s : State) (q : Nat) (e : Entry) : State :=
  let s := s.dropCmd q
  let run (g : Option GraphRun) : Running :=
    { entry := some e.at_, op := e.op, event := e.event, params := e.ps, graph := g }
  match s.runningOf q with
  | some r => s.setRunning q (some (run r.graph))
  | none => (s.putQ q 0x0C 4 (s.qfield q 0x0C 4 + 1)).setRunning q (some (run none))

/-- Write STATUS and CODE of an entry, and post its event (R434, R439). -/
def State.entryDone (s : State) (q : Nat) (a : DWord) (event : Bool) (status : Nat) (code : Byte) : State :=
  let v : List Byte := [BitVec.ofNat 8 status, code]
  let s := if q = ctlq then s.cpWrite 0 0 (bits a.toNat 0 52 + 2) v else s.cpRecord 0 (s.queueCtx q) (a + 2) v
  if event then s.post [⟨s.queueCtx q, 7, 0, status + 256 * code.toNat, a⟩] else s

/-- A command completes. A recorded entry that fails ends its GRAPH with its status, and so does the last one
(R434). -/
def State.completeCmd (s : State) (q status : Nat) (code : Byte) : State :=
  match s.runningOf q with
  | none => s
  | some r =>
    let s := s.dropCmd q
    let s := match r.entry with
      | some a => s.entryDone q a r.event status code
      | none => s
    match r.graph with
    | none => s.setRunning q none
    | some g =>
      if status != 1 || decide (g.n ≤ g.done + 1) then
        (s.entryDone q g.entry g.event status code).setRunning q none
      else
        s.setRunning q (some { entry := none, op := 2, event := false, params := [],
                               graph := some { g with done := g.done + 1 } })

/-! ## How a command goes -/

/-- What a command comes to: it completes with a status, goes on later, or meets a page, a lack of sectors or a
fault. -/
inductive Did where
  | done (s : State) (status : Nat)
  | later (s : State)
  | halt (s : State) (h : Halt)

/-- The result of a command that may meet a page, sectors or a fault. -/
def Did.of (s : State) : Except Halt Did → Did
  | .ok d => d
  | .error h => .halt s h

/-- A record of the fault service for a command processor's access (R371). -/
def State.cpFault (s : State) (ctx id : Nat) (va : DWord) : State :=
  let f := s.fresh
  { f.2 with faults := f.2.faults ++
      [{ id := f.1, ctx := ctx, band := 2 ^ 32, core := 0, va := va, kind := .engine id, placed := false }] }

/-- The command of a queue waits; its number. -/
def State.cmdWaits (s : State) (q op : Nat) (ps : List DWord) : Nat × State :=
  match s.cmdOf q with
  | some c => (c.id, s)
  | none =>
    let f := s.fresh
    (f.1, { f.2 with cmds := f.2.cmds ++ [{ id := f.1, queue := q, op := op, params := ps }] })

/-- Carry on with what a command came to; one that meets a fault completes with STATUS 4 (R434). -/
def State.settleCmd (s : State) (q op : Nat) (ps : List DWord) : Did → State
  | .done s' st => s'.completeCmd q st 0
  | .later s' => s'.dropCmd q
  | .halt s' (.trap c _) => s'.completeCmd q 4 c
  | .halt _ (.absent va) =>
    let w := s.cmdWaits q op ps
    w.2.cpFault (s.queueCtx q) w.1 va
  | .halt _ (.sectors d l va) =>
    let w := s.cmdWaits q op ps
    w.2.waitAt d w.1 l va
  | .halt _ .busy => (s.cmdWaits q op ps).2

/-- A command that waits, as the entry that it came from. -/
def CmdOp.entry (c : CmdOp) : Entry := { at_ := 0, op := c.op, event := false, ps := c.params, ok := true }

/-- Start the next entry of a queue if a command's own test takes it, and carry it out; an entry that breaks a
general rule completes with STATUS 3 (R434). One that has started, and waits for neither a page nor sectors, is
tried again. -/
def State.command (s : State) (q : Nat) (takes : Entry → Bool) (go : State → Nat → List DWord → Did) : State :=
  match s.cmdOf q with
  | some c =>
    if s.served q && takes c.entry && !s.pageWaits c.id && s.dies.toList.all fun d => !d.waiting.contains c.id then
      s.settleCmd q c.op c.params (go s q c.params)
    else s
  | none =>
    match s.nextEntry q with
    | .entry e =>
      if takes e then
        let s1 := s.startEntry q e
        if e.ok then s1.settleCmd q e.op e.ps (go s1 q e.ps) else s1.completeCmd q 3 0
      else s
    | _ => s

/-- Complete with STATUS 3 unless a rule holds. -/
def Did.unless (ok : Bool) (s : State) (d : Did) : Did := if ok then d else .done s 3

/-! ## NOP, and entries without a command (R434, R437, R438) -/

def goNop (s : State) (_q : Nat) (ps : List DWord) : Did := .done s (if unusedZero ps [] then 1 else 3)

/-- The operations of each kind of queue. -/
def opKnown (q op : Nat) : Bool :=
  if q = ctlq then op == 0 || (decide (0x40 ≤ op) && decide (op ≤ 0x48)) else decide (op ≤ 0x0B)

/-- CMD_NOP: an entry with OP 0 has no effect; one without a command, or with an item that CTXSET does not
have, completes with STATUS 3, and one that cannot be read with STATUS 4. -/
def State.nop (s : State) (q : Nat) : State :=
  match s.nextEntry q with
  | .none => s
  | .entry e =>
    if e.op = 0 then s.command q (fun e => e.op == 0) goNop
    else if !opKnown q e.op || (q != ctlq && e.op == 0x0B && decide (8 ≤ (prm e.ps 0).toNat)) then
      (s.startEntry q e).completeCmd q 3 0
    else s
  | .halt a (.trap c _) =>
    (s.startEntry q { at_ := a, op := opUnread, event := false, ps := [], ok := false }).completeCmd q 4 c
  | .halt a (.absent _) => s.settleCmd q opUnread [] (.halt s (.absent a))
  | .halt _ _ => s

def execCmdNop (q : Nat) (s : State) : Host.Outcome State Fault Refusal := .next (s.nop q)

/-! ## LAUNCH (R143, R435) -/

/-- The argument words of a launch: those in memory, then the late arguments, low word first. -/
def launchArgs (mem : List Byte) (narg : Nat) (late : List DWord) : List Word :=
  ((List.range narg).map fun i => BitVec.ofNat 32 (field mem (4 * i) 4)) ++
    (late.map fun (v : DWord) => [v.setWidth 32, (v >>> 32).setWidth 32]).flatten

/-- What a launch descriptor and its image give, or none if they break a rule. -/
def State.launchReq (s : State) (ctx : Nat) (ps : List DWord) : Except Halt (Option LaunchReq) := do
  let d ← s.ctxRead ctx (prm ps 0) 128
  let kimg := BitVec.ofNat 64 (field d 0 8)
  let lfl := field d 0x29 1
  let narg := field d 0x28 1
  let nlate := bits lfl 3 3
  let argp := BitVec.ofNat 64 (field d 0x20 8)
  match cfgOf d with
  | none => pure none
  | some cfg =>
    if kimg.toNat % 64 != 0 || decide (32 < narg + 2 * nlate) || decide (4 < nlate) || argp.toNat % 4 != 0 then pure none
    else
      match ← s.readImage ctx kimg with
      | none => pure none
      | some info =>
        let resident := info.image.crews != 0
        let rngp := !resident && bits lfl 2 1 == 1
        let lo := if rngp then (prm ps 1).toNat else field d 0x08 8
        let hi := if rngp then (prm ps 2).toNat else field d 0x10 8
        let nthr := field d 0x1C 4
        let used := [0] ++ (if rngp then [1, 2] else []) ++ (List.range nlate).map (3 + ·)
        if !unusedZero ps used || !cfg.strideOk info.image.bands || decide (32 * info.image.bands < nthr) ||
            (!resident && (decide (hi < lo) || field d 0x18 4 == 0)) ||
            (cfg.priv && !((s.ctx ctx).map (·.priv)).getD false) ||
            (cfg.race && decide (131072 < info.image.scratch)) then pure none
        else
          let mem ← if narg = 0 then pure [] else s.ctxRead ctx argp (4 * narg)
          pure (some
            { info := info, cfg := cfg, args := launchArgs mem narg ((List.range nlate).map fun i => prm ps (3 + i)),
              nthr := if nthr = 0 then 32 * info.image.bands else nthr, lo := lo, hi := hi, grain := field d 0x18 4 })

/-- LAUNCH: the launch begins; it completes when it has ended (R254). -/
def goLaunch (s : State) (q : Nat) (ps : List DWord) : Did :=
  let ctx := s.queueCtx q
  let at_ := ((s.runningOf q).bind (·.entry)).getD 0
  Did.unless ((prm ps 0).toNat % 64 == 0) s
    (match s.launchReq ctx ps with
      | .error h => .halt s h
      | .ok none => .done s 3
      | .ok (some r) =>
        match s.installShapes ctx r.info.image.addr r.info.shapes with
        | .error h => .halt s h
        | .ok (.error id) => .done (s.post [⟨ctx, 9, 0, id, r.info.image.addr⟩]) 3
        | .ok (.ok s1) =>
          let l := s1.beginLaunch r ctx q (.cmd q at_) none
          if r.info.image.crews != 0 && !l.2.placeable l.1 then .done s 2 else .later l.2)

def execLaunch (q : Nat) (s : State) : Host.Outcome State Fault Refusal :=
  .next (s.command q (fun e => e.op == 1) goLaunch)

/-- LAUNCH_END: everything that a launch made has ended, and its LAUNCH completes (R143, R254); the launch of a
sprout, which no command awaits, ends with its own sprouts (log entry 39). -/
def State.launchEnds (s : State) (li : Nat) : State :=
  match s.launch li with
  | some l =>
    match l.origin with
    | .cmd q a =>
      if s.launchOver li && s.served q && ((s.runningOf q).bind (·.entry)) == some a then
        (s.endLaunch li).completeCmd q 1 0
      else s
    | .sprout _ => if s.launchOver li then s.endLaunch li else s
    | _ => s
  | none => s

def execLaunchEnd (launch : Nat) (s : State) : Host.Outcome State Fault Refusal := .next (s.launchEnds launch)

/-! ## GRAPH and GPSET (R434, R344) -/

/-- GRAPH: its recorded entries run as if they stood in the ring; a GRAPH among them is invalid. -/
def goGraph (s : State) (q : Nat) (ps : List DWord) : Did :=
  match s.runningOf q with
  | some r =>
    Did.unless (r.graph.isNone && unusedZero ps [0, 1] && (prm ps 0).toNat % 64 == 0 && decide (1 ≤ (prm ps 1).toNat) &&
        decide ((prm ps 1).toNat ≤ 65536)) s
      (.later (s.setRunning q (some
        { entry := none, op := 2, event := false, params := [],
          graph := some { entry := r.entry.getD 0, event := r.event, base := prm ps 0, done := 0, n := (prm ps 1).toNat } })))
  | none => .later s

def execGraph (q : Nat) (s : State) : Host.Outcome State Fault Refusal :=
  .next (s.command q (fun e => e.op == 2) goGraph)

/-- GPSET: gpN := P1. -/
def goGpset (s : State) (q : Nat) (ps : List DWord) : Did :=
  Did.unless (unusedZero ps [0, 1]) s
    (match s.queue q with
      | some x => .done (s.setQueue { x with gp := x.gp.setIfInBounds (bits (prm ps 0).toNat 0 6) (prm ps 1) }) 1
      | none => .done s 1)

def execGpset (q : Nat) (s : State) : Host.Outcome State Fault Refusal :=
  .next (s.command q (fun e => e.op == 3) goGpset)

/-! ## WAITV and WRITEV -/

/-- WAITV starts. -/
def goWaitv (s : State) (_q : Nat) (ps : List DWord) : Did :=
  Did.unless (unusedZero ps [0, 1] && (prm ps 0).toNat % 4 == 0) s (.later s)

def execWaitv (q : Nat) (s : State) : Host.Outcome State Fault Refusal :=
  .next (s.command q (fun e => e.op == 4) goWaitv)

/-- The command under way of a queue, if it has an operation and waits for no page. -/
def State.under (s : State) (q op : Nat) : Option (List DWord) :=
  if !s.served q || ((s.cmdOf q).map fun c => s.pageWaits c.id).getD false then none
  else
    match s.runningOf q with
    | some r => if r.entry.isSome && r.op == op then some r.params else none
    | none => none

/-- The word that a WAITV awaits has reached its value. -/
def goWaited (s : State) (q : Nat) (ps : List DWord) : Did :=
  match s.cmdRead q (prm ps 0) 4 with
  | .error h => .halt s h
  | .ok v => if bits (prm ps 1).toNat 0 32 ≤ leNat v then .done s 1 else .later s

/-- WAITV_SATISFIED: the word is read with an acquire at system scope, and is at least the value. -/
def State.waitvSatisfied (s : State) (q : Nat) : State :=
  match s.under q 4 with
  | some ps => s.settleCmd q 4 ps (goWaited s q ps)
  | none => s

def execWaitvSatisfied (q : Nat) (s : State) : Host.Outcome State Fault Refusal := .next (s.waitvSatisfied q)

/-- The command processor of die 0 writes for a context (R434). -/
def State.cmdWriter (s : State) (q : Nat) : Writer := cpWriter 0 (s.queueCtx q) false

/-- WRITEV. -/
def goWritev (s : State) (q : Nat) (ps : List DWord) : Did :=
  Did.unless (unusedZero ps [0, 1] && (prm ps 0).toNat % 4 == 0) s
    (match s.ctxWrite (s.cmdWriter q) (prm ps 0) (leBytes (bits (prm ps 1).toNat 0 32) 4) with
      | .ok s1 => .done s1 1
      | .error h => .halt s h)

def execWritev (q : Nat) (s : State) : Host.Outcome State Fault Refusal :=
  .next (s.command q (fun e => e.op == 5) goWritev)

/-! ## COPY -/

/-- COPY starts its engine thread. -/
def goCopy (s : State) (_q : Nat) (ps : List DWord) : Did := Did.unless (unusedZero ps [0, 1, 2]) s (.later s)

def execCopy (q : Nat) (s : State) : Host.Outcome State Fault Refusal :=
  .next (s.command q (fun e => e.op == 6) goCopy)

/-- What a copy leaves at its destination: bytes of the overlap are not specified (R434). -/
def State.copyBytes (s : State) (dst src n : Nat) (v : List Byte) : List Byte :=
  v.mapIdx fun i b => if src ≤ dst + i ∧ dst + i < src + n then Config.freeByte s.free i else b

/-- The bytes of a COPY move. A fault leaves each piece either written or not. -/
def goCopied (s : State) (q : Nat) (ps : List DWord) : Did :=
  let dst := prm ps 0
  let src := prm ps 1
  let n := (prm ps 2).toNat
  let w := s.cmdWriter q
  match s.ctxRead w.ctx src n with
  | .error h => .halt s h
  | .ok v =>
    let s1 : State := { s with free := s.free + 1 }
    match s1.writeOut w (fun o n =>
        ⟨dst + BitVec.ofInt 64 o, runVa s1 (s1.rootOf w.ctx) (dst + BitVec.ofInt 64 o) n true, ptesVa s1 (s1.rootOf w.ctx) (dst + BitVec.ofInt 64 o) n⟩)
        [(0, s.copyBytes dst.toNat src.toNat n v)] with
    | .done s2 => .done s2 1
    | .absent va => .halt s (.absent va)
    | .wait d l va => .halt s (.sectors d l va)
    | .busy => .halt s .busy
    | .fault c va s2 => .halt s2 (.trap c va)

/-- COPY_COMPLETE. -/
def State.copyCompletes (s : State) (q : Nat) : State :=
  match s.under q 6 with
  | some ps => s.settleCmd q 6 ps (goCopied s q ps)
  | none => s

def execCopyComplete (q : Nat) (s : State) : Host.Outcome State Fault Refusal := .next (s.copyCompletes q)

/-! ## WSLOAD (R220, R221) -/

/-- The dies of a mask. -/
def maskDies (v : DWord) : List Nat := (List.range 9).filter fun d => v.getLsbD d

/-- WSLOAD starts. -/
def goWsload (s : State) (q : Nat) (ps : List DWord) : Did :=
  let len := ((s.ctx (s.queueCtx q)).map (·.wsLen)).getD 0
  Did.unless (unusedZero ps [0, 1, 2, 3] && (prm ps 1).toNat % 256 == 0 && (prm ps 2).toNat % 256 == 0 &&
    decide ((prm ps 1).toNat + (prm ps 2).toNat ≤ len)) s (.later s)

def execWsload (q : Nat) (s : State) : Host.Outcome State Fault Refusal :=
  .next (s.command q (fun e => e.op == 7) goWsload)

/-- No band of the die has its weight-store window open (R220). -/
def State.wsClosed (s : State) (die : Nat) : Bool :=
  s.crews.all fun c => !(c.running && c.core / 256 == die) || c.bands.all fun bi =>
    (s.band bi).ended || !segOpen (s.band bi).segWs

/-- The partition is written on each die. -/
def goWsloaded (s : State) (q : Nat) (ps : List DWord) : Did :=
  let base := ((s.ctx (s.queueCtx q)).map (·.wsBase)).getD 0
  match s.ctxRead (s.queueCtx q) (prm ps 0) (prm ps 2).toNat with
  | .error h => .halt s h
  | .ok v =>
    .done ((maskDies (prm ps 3)).foldl (fun (s : State) d =>
      { s with ws := s.ws.writeN (d * 2 ^ 28 + base + (prm ps 1).toNat) v }) s) 1

/-- WSLOAD_COMPLETE: once R220 allows it on each named die. -/
def State.wsloadCompletes (s : State) (q : Nat) : State :=
  match s.under q 7 with
  | some ps => if (maskDies (prm ps 3)).all s.wsClosed then s.settleCmd q 7 ps (goWsloaded s q ps) else s
  | none => s

def execWsloadComplete (q : Nat) (s : State) : Host.Outcome State Fault Refusal := .next (s.wsloadCompletes q)

/-! ## RINGREG (R424) -/

/-- The header of a receive ring obeys R424. -/
def ringHeaderOk (m : Memory) (pa : Nat) : Bool :=
  let n := m.readLE (pa + 8) 4
  m.readLE pa 8 % 16 == 0 && decide (16 ≤ n) && decide (n ≤ 65536) && ((List.range 17).any fun i => n == 2 ^ i) &&
    zeros (m.readN (pa + 0x14) 12) 0 12

/-- RINGREG registers a receive ring, or removes it; entries on their way to a ring that is removed are dropped (R434). -/
def goRingreg (s : State) (q : Nat) (ps : List DWord) : Did :=
  let die := bits (prm ps 0).toNat 0 4
  let ring := bits (prm ps 0).toNat 8 8
  let hdr := (prm ps 1).toNat
  Did.unless (unusedZero ps [0, 1] && decide (die < 9) && hdr % 32 == 0 && decide (hdr < 2 ^ 48) &&
      (hdr == 0 || ringHeaderOk s.mem (die * 2 ^ 48 + hdr))) s
    (match s.ctx (s.queueCtx q) with
      | some c =>
        let rest := c.rings.filter fun r => !(r.die == die && r.ring == ring)
        if hdr = 0 then
          .done ((s.reqs.filter fun m => m.ctx == c.id && m.result.isNone && reqNode m.desc == s.boot.node &&
            reqDie m.desc == die && reqRing m.desc == ring).foldl State.reqDrop (s.setCtx { c with rings := rest })) 1
        else .done (s.setCtx { c with rings := rest ++ [{ die := die, ring := ring, header := hdr }] }) 1
      | none => .done s 1)

def execRingreg (q : Nat) (s : State) : Host.Outcome State Fault Refusal :=
  .next (s.command q (fun e => e.op == 8) goRingreg)

/-! ## Reductions (R428, R429) -/

/-- The pairings of operation and format (R428). -/
def redOk (op fmt : Nat) : Bool :=
  match op with
  | 0 => decide (fmt ≤ 2)
  | 1 => fmt == 3 || fmt == 4
  | 2 | 3 => decide (fmt ≤ 4)
  | 4 => fmt == 0
  | _ => false

/-- REDSET sets up a reduction group. -/
def goRedset (s : State) (q : Nat) (ps : List DWord) : Did :=
  let p2 := (prm ps 2).toNat
  let n := bits p2 0 32
  let op := bits p2 32 3
  let wexp := signed (bits (prm ps 3).toNat 0 8) 8
  Did.unless (unusedZero ps [0, 1, 2, 3] && redOk op (bits p2 36 3) && decide (2 ≤ n) && decide (n ≤ 2 ^ 20) &&
      (if op = 0 then decide (-126 ≤ wexp) && decide (wexp ≤ 127) else prm ps 3 == 0)) s
    (match s.cmdRead q (prm ps 1) (4 * n) with
      | .error h => .halt s h
      | .ok v =>
        let ms := (List.range n).map fun i => field v (4 * i) 4
        if ms.any fun m => decide (786432 ≤ m) then .done s 3
        else
          match s.ctx (s.queueCtx q) with
          | some c =>
            let g : RedGroup :=
              { group := bits (prm ps 0).toNat 0 8, members := ms, op := op, fmt := bits p2 36 3,
                count := bits p2 40 12 + 1, wexp := wexp }
            .done (s.setCtx { c with reds := (c.reds.filter fun x => x.group != g.group) ++ [g] }) 1
          | none => .done s 1)

def execRedset (q : Nat) (s : State) : Host.Outcome State Fault Refusal :=
  .next (s.command q (fun e => e.op == 9) goRedset)

/-- The reduction group that a COLL names. -/
def State.redOf (s : State) (q : Nat) (ps : List DWord) : Option RedGroup :=
  (s.ctx (s.queueCtx q)).bind fun c => c.reds.find? fun g => g.group == bits (prm ps 0).toNat 0 8

/-- COLL starts. -/
def goColl (s : State) (q : Nat) (ps : List DWord) : Did :=
  Did.unless (unusedZero ps [0, 1, 2, 3] && (prm ps 3).toNat % 8 == 0 && (s.redOf q ps).isSome) s (.later s)

def execColl (q : Nat) (s : State) : Host.Outcome State Fault Refusal :=
  .next (s.command q (fun e => e.op == 10) goColl)

/-- The float format of a group. -/
def redSpec (fmt : Nat) : FSpec :=
  match fmt with
  | 1 => fBf16
  | 2 => fF16
  | _ => fF32

/-- Bytes of an element (R434). -/
def RedGroup.size (g : RedGroup) : Nat :=
  if g.op = 4 then 8
  else match g.fmt with
    | 1 | 2 => 2
    | 4 => 8
    | _ => 4

/-- One input of FSUM in units of 2^(WEXP − 100), with OVF and INX (R429). -/
def fsumTerm (wexp : Int) (x : Fp) : Int × Bool × Bool :=
  match x with
  | .fin n m e =>
    let sgn : Int := if n then -1 else 1
    if m = 0 then (0, false, false)
    else if (Fp.fin false m e).lt (Fp.pow2 wexp) then
      let r := roundAt .rne n m e (wexp - 100)
      (sgn * r.1, false, r.2)
    else (sgn * 2 ^ 100, true, false)
  | _ => (0, false, false)

/-- FSUM over the inputs of one element: its code, and the status bits OVF, INX and NAN (R429, R434). -/
def fsum (g : RedGroup) (cs : List Nat) : Nat × Nat :=
  let f := redSpec g.fmt
  let xs := cs.map (f.val false)
  let ts := xs.map (fsumTerm g.wexp)
  let sum := (ts.map (·.1)).sum
  let pos := xs.any fun x => decide (x = .inf false)
  let neg := xs.any fun x => decide (x = .inf true)
  let nan := xs.any (·.isNan) || (pos && neg)
  let v : Fp := if nan then Fp.qnan else if pos then .inf false else if neg then .inf true
    else if sum = 0 then Fp.zero else .fin (decide (sum < 0)) sum.natAbs (g.wexp - 100)
  ((f.round .rne false v).1,
    (if ts.any (·.2.1) then 1 else 0) + (if ts.any (·.2.2) then 2 else 0) + if nan then 4 else 0)

/-- ISUM: the exact sum, saturated once (R429). -/
def isum (n : Nat) (cs : List Nat) : Nat :=
  let v := satInt ((cs.map fun c => signed c n).sum) (-(2 ^ (n - 1) : Int)) (2 ^ (n - 1) - 1)
  (v % (2 ^ n : Int)).toNat

/-- MIN and MAX (R119, R429). -/
def redMinMax (g : RedGroup) (mx : Bool) (cs : List Nat) : Nat :=
  let step (a b : Nat) : Nat :=
    if g.fmt ≤ 2 then ((redSpec g.fmt).fminmax false mx a b).1
    else if mx then aopMax true (8 * g.size) a b else aopMin true (8 * g.size) a b
  match cs with
  | [] => 0
  | c :: r => r.foldl step c

/-- PAIR: the first under the order of R351; the value in the low word and the id in the high one. -/
def redPair (cs : List Nat) : Nat :=
  let first (a b : Nat) : Bool :=
    let x := fF32.val false (bits a 0 32)
    let y := fF32.val false (bits b 0 32)
    y.lt x || (!x.lt y && decide (bits a 32 32 < bits b 32 32))
  match cs with
  | [] => 0
  | c :: r => r.foldl (fun a b => if first b a then b else a) c

/-- The result of one element, with its status bits. -/
def RedGroup.reduce (g : RedGroup) (cs : List Nat) : Nat × Nat :=
  match g.op with
  | 0 => fsum g cs
  | 1 => (isum (8 * g.size) cs, 0)
  | 2 => (redMinMax g false cs, 0)
  | 3 => (redMinMax g true cs, 0)
  | _ => (redPair cs, 0)

/-- The result array and the status word of a reduction over the arrays of all members. -/
def RedGroup.result (g : RedGroup) (arrays : List (List Byte)) : List Byte × Nat :=
  let rs := (List.range g.count).map fun i => g.reduce (arrays.map fun v => field v (g.size * i) g.size)
  ((rs.map fun r => leBytes r.1 g.size).flatten, rs.foldl (fun a r => a ||| r.2) 0)

/-- The result of a COLL reaches this member: the array at P2, then the status word (R434). -/
def goCollResult (others : List (List Byte)) (s : State) (q : Nat) (ps : List DWord) : Did :=
  match s.redOf q ps with
  | none => .done s 3
  | some g =>
    Did.of s do
      let own ← s.cmdRead q (prm ps 1) (g.size * g.count)
      let r := g.result (own :: others)
      let w := s.cmdWriter q
      let s1 ← s.ctxWrite w (prm ps 2) r.1
      let s2 ← s1.ctxWrite w (prm ps 3) (leBytes r.2 8)
      pure (.done s2 1)

/-- COLL_RESULT: `others` are the source arrays of the other members. Arrays that do not fit the group come from a root
whose REDSET parameters differ, and the command completes with STATUS 3 (R434; DESIGN CHOICE, log entry 132). -/
def State.collResult (s : State) (q : Nat) (others : List (List Byte)) : State :=
  match s.under q 10 with
  | some ps =>
    match s.redOf q ps with
    | some g =>
      if others.length + 1 == g.members.length && others.all fun v => v.length == g.size * g.count then
        s.settleCmd q 10 ps (goCollResult others s q ps)
      else s.settleCmd q 10 ps (.done s 3)
    | none => s
  | none => s

def execCollResult (q : Nat) (others : List (List Byte)) (s : State) : Host.Outcome State Fault Refusal :=
  .next (s.collResult q others)

/-! ## CTXSET (R434, R436) -/

/-- An entry that sets an item. -/
def setsItem (n : Nat) (e : Entry) : Bool := e.op == 11 && (prm e.ps 0).toNat == n

/-- Set something of a queue's context. -/
def State.ctxset (s : State) (q : Nat) (ok : Bool) (f : Ctx → Ctx) : Did :=
  Did.unless ok s
    (match s.ctx (s.queueCtx q) with
      | some c => .done (s.setCtx (f c)) 1
      | none => .done s 1)

/-- A TVEC value obeys R359: reserved bits 0, and the entry of an installed handler obeys R11. -/
def tvecOk (v : DWord) : Bool :=
  bits v.toNat 57 6 == 0 && bits v.toNat 0 2 == 0 && (!v.getLsbD 63 || bits v.toNat 2 2 != 0)

def goTvec (s : State) (q : Nat) (ps : List DWord) : Did :=
  s.ctxset q (unusedZero ps [0, 1] && tvecOk (prm ps 1)) fun c => { c with tvec := prm ps 1 }

def execCtxsetTvec (q : Nat) (s : State) : Host.Outcome State Fault Refusal :=
  .next (s.command q (setsItem 0) goTvec)

/-- BALQ of the context on each die of a mask (R230). -/
def goBalq (s : State) (q : Nat) (ps : List DWord) : Did :=
  let v := (prm ps 1).toNat
  Did.unless (unusedZero ps [0, 1, 2] && decide (v < 2 ^ 32)) s
    (.done ((maskDies (prm ps 2)).foldl (fun (s : State) d =>
      { s with mem := s.mem.writeLE (s.acctAt d (s.queueCtx q) + 4) 4 v }) s) 1)

def execCtxsetBalq (q : Nat) (s : State) : Host.Outcome State Fault Refusal :=
  .next (s.command q (setsItem 1) goBalq)

/-- A change of the dump area; the next dump starts with slot 0 (R408). -/
def goDbase (s : State) (q : Nat) (ps : List DWord) : Did :=
  s.ctxset q (unusedZero ps [0, 1] && (prm ps 1).toNat % 4096 == 0) fun c =>
    { c with dbase := prm ps 1, dumpNext := 0 }

def execCtxsetDbase (q : Nat) (s : State) : Host.Outcome State Fault Refusal :=
  .next (s.command q (setsItem 2) goDbase)

def goDslot (s : State) (q : Nat) (ps : List DWord) : Did :=
  let v := (prm ps 1).toNat
  s.ctxset q (unusedZero ps [0, 1] && v % 65536 == 0 && decide (65536 ≤ v) && decide (v ≤ 2 ^ 24)) fun c =>
    { c with dslot := v, dumpNext := 0 }

def execCtxsetDslot (q : Nat) (s : State) : Host.Outcome State Fault Refusal :=
  .next (s.command q (setsItem 3) goDslot)

def goDn (s : State) (q : Nat) (ps : List DWord) : Did :=
  let v := (prm ps 1).toNat
  s.ctxset q (unusedZero ps [0, 1] && decide (v ≤ 4096)) fun c => { c with dn := v, dumpNext := 0 }

def execCtxsetDn (q : Nat) (s : State) : Host.Outcome State Fault Refusal :=
  .next (s.command q (setsItem 4) goDn)

def goLogmax (s : State) (q : Nat) (ps : List DWord) : Did :=
  let v := (prm ps 1).toNat
  s.ctxset q (unusedZero ps [0, 1] && decide (v < 2 ^ 32)) fun c => { c with logMax := v }

def execCtxsetLogmax (q : Nat) (s : State) : Host.Outcome State Fault Refusal :=
  .next (s.command q (setsItem 5) goLogmax)

def goEventRing (s : State) (q : Nat) (ps : List DWord) : Did :=
  s.ctxset q (unusedZero ps [0, 1] && (prm ps 1).toNat % 32 == 0) fun c => { c with eventRing := prm ps 1 }

def execCtxsetEventRing (q : Nat) (s : State) : Host.Outcome State Fault Refusal :=
  .next (s.command q (setsItem 6) goEventRing)

/-- The default launch descriptor is copied (R436). -/
def goDefault (s : State) (q : Nat) (ps : List DWord) : Did :=
  Did.unless (unusedZero ps [0, 1] && (prm ps 1).toNat % 64 == 0) s
    (match s.cmdRead q (prm ps 1) 128 with
      | .error h => .halt s h
      | .ok d =>
        match cfgOf d with
        | none => .done s 3
        | some cfg => s.ctxset q true fun c => { c with deflt := { cfg with priv := false } })

def execCtxsetDefaultLaunch (q : Nat) (s : State) : Host.Outcome State Fault Refusal :=
  .next (s.command q (setsItem 7) goDefault)

/-! ## ACCT (R230, R438) -/

/-- The context that P0 of a control-queue command names. -/
def ctxPrm (ps : List DWord) : Nat := bits (prm ps 0).toNat 0 12

/-- ACCT: the entries of every die go to a physical buffer; with CLEAR each TAKEN becomes 0. -/
def goAcct (s : State) (_q : Nat) (ps : List DWord) : Did :=
  let c := ctxPrm ps
  let pa := bits (prm ps 1).toNat 0 52
  Did.unless (unusedZero ps [0, 1, 2] && (s.ctx c).isSome && decide ((prm ps 1).toNat < 2 ^ 52)) s
    (if !paOk pa then .halt s (.trap 0x0A (prm ps 1))
    else
      match s.write (cpWriter 0 0 false) pa ((List.range 9).map fun d => s.mem.readN (s.acctAt d c) 16).flatten with
      | none => .halt s (.sectors (dieOfPa pa) (blocksOf pa 144) (prm ps 1))
      | some s1 =>
        .done (if (prm ps 2).getLsbD 0 then
          { s1 with mem := (List.range 9).foldl (fun (m : Memory) d => m.writeLE (s1.acctAt d c + 8) 4 0) s1.mem }
        else s1) 1)

def execAcct (s : State) : Host.Outcome State Fault Refusal :=
  .next (s.command ctlq (fun e => e.op == 0x42) goAcct)

/-! ## A command that waited goes on -/

/-- The command of an operation that can wait for a page or for sectors. -/
def goOf (op : Nat) : State → Nat → List DWord → Did :=
  match op with
  | 1 => goLaunch
  | 4 => goWaited
  | 5 => goWritev
  | 6 => goCopied
  | 7 => goWsloaded
  | 9 => goRedset
  | 11 => goDefault
  | 0x42 => goAcct
  | _ => goNop

/-- A command of a queue goes on after a page or sectors have been found; a COLL goes on with its result. -/
def State.cmdRetry (s : State) (c : CmdOp) : State :=
  let s := s.unblock c.id
  if !s.served c.queue then s
  else if c.op = opUnread ∨ c.op = 10 then { s with cmds := s.cmds.filter fun x => x.id != c.id }.unwait c.id
  else s.settleCmd c.queue c.op c.params (goOf c.op s c.queue c.params)

end Sys2Proof.Machine
end

