-- ==== Sys2Proof/Machine/Clearing.lean ====
section
/-!
DEFINITION. The Clearing engine (R226 to R231) and the writes that wait at a memory controller for sectors
(R227, R231, R374), with the writes of the host (R426).
-/

namespace Sys2Proof.Machine

/-! ## Writes of the host -/

/-- The host writes bytes through a context's translations, or for context 0 through the physical aperture
(R426, R437). -/
def State.hostWrite (s : State) (ctx : Nat) (a : DWord) (v : List Byte) : Except Halt State :=
  if ctx = 0 then
    let pa := bits a.toNat 0 52
    if !paOk pa then .error (.trap 0x0A a)
    else
      match (s.clearRcl (s.ptesOver pa v.length)).write (hostWriter 0) pa v with
      | some s' => .ok s'
      | none => .error (.sectors (dieOfPa pa) (blocksOf pa v.length) a)
  else s.ctxWrite (hostWriter ctx) a v

/-- The operation that stands for a write of the host that waits; its queue is 65,536 and its context. -/
def opHost : Nat := 256

/-- The address and the bytes of a waiting write of the host. -/
def CmdOp.hostAddr (c : CmdOp) : DWord := c.params.headD 0
def CmdOp.hostBytes (c : CmdOp) : List Byte := (c.params.drop 1).map fun x => x.setWidth 8

/-- A record of the fault service for an access of the host: it comes from no core (R233). -/
def State.hostFault (s : State) (ctx id : Nat) (va : DWord) : State :=
  let f := s.fresh
  { f.2 with faults := f.2.faults ++
      [{ id := f.1, ctx := ctx, band := 2 ^ 32, core := 15 * 256, va := va, kind := .engine id, placed := false }] }

/-- An access of the host waits; its number. -/
def State.hostWaits (s : State) (ctx : Nat) (a : DWord) (v : List Byte) : Nat × State :=
  let f := s.fresh
  (f.1, { f.2 with cmds := f.2.cmds ++
    [{ id := f.1, queue := 65536 + ctx, op := opHost, params := a :: v.map fun b => b.setWidth 64 }] })

/-- A write of the host waits: a write of a TAIL comes after it (R254). -/
def State.hostPending (s : State) : Bool := s.cmds.any fun c => c.op == opHost && !c.hostBytes.isEmpty

/-- A descriptor obeys R382: its fields are in range, and a context holds its CTX. -/
def State.descOk (s : State) (d : List Byte) : Bool :=
  let n := field d 0x08 4
  let sl := field d 0x17 1
  decide (64 ≤ n) && decide (n ≤ 65536) && ((List.range 17).any fun i => n == 2 ^ i) &&
    (s.ctx (field d 0x14 2)).isSome && bits (field d 0x16 1) 3 5 == 0 && (sl == 0 || (decide (10 ≤ sl) && decide (sl ≤ 30))) &&
    field d 0x18 8 % 4096 == 0 && zeros d 0x22 2 && field d 0x28 8 % 4096 == 0 && field d 0x28 8 != 0 && zeros d 0x30 16

/-- A queue that no work has come from (R344, R382). -/
def Queue.create (id ctx : Nat) : Queue :=
  { id := id, ctx := ctx, st := .idle, slot := none, since := 0, mapped := 0, sliceOver := false, used := 0, heir := none, stops := [], gp := .replicate 64 0,
    running := none, saved := [], log := [] }

/-- The code of a state (R382). -/
def QState.code : QState → Nat
  | .idle => 0
  | .waiting => 1
  | .mapped => 2
  | .stopping => 3
  | .saved => 4

/-- A queue changes its state, in the machine and in its descriptor. -/
def State.setQState (s : State) (x : Queue) (st : QState) : State :=
  (s.setQueue { x with st := st }).putQ x.id 0x20 1 st.code

/-- A doorbell leaves standby (R441), unless the boot holds the package there (R431). -/
def State.leaveStandby (s : State) : State := if s.power = .standby ∧ s.boot.ok = true then { s with power := s.clock } else s

/-- The queue of a descriptor, made at its first doorbell. -/
def State.ensureQueue (s : State) (q ctx : Nat) : State :=
  match s.queue q with
  | some x => if x.ctx = ctx then s else s.setQueue (Queue.create q ctx)
  | none => { s with queues := s.queues ++ [Queue.create q ctx] }

/-- The host has written TAIL of a user queue: an idle queue with commands begins to wait (R384). An invalid
descriptor leaves it idle, and is reported (R382, R439). -/
def State.doorbell (s : State) (q : Nat) : State :=
  let s := s.leaveStandby
  let idle := ((s.queue q).map fun x => decide (x.st = .idle)).getD true
  if !idle || decide (16384 ≤ q) || !s.boot.ok then s
  else
    let d := s.qdesc q
    if !s.descOk d then s.post [⟨field d 0x14 2, 8, 0, q, 0⟩]
    else
      let s1 := s.ensureQueue q (field d 0x14 2)
      match s1.queue q with
      | some x =>
        if field d 0x0C 4 = field d 0x10 4 then s1
        else (s1.setQState { x with since := (s1.localClock 0).toNat } .waiting).putQ q 0x21 1 0xFF
      | none => s1

/-- The queues whose TAIL a physical write touches. -/
def State.tailsTouched (s : State) (pa n : Nat) : List Nat :=
  let first := (pa - s.boot.qtab) / 64
  ((List.range (n / 64 + 2)).map (first + ·)).filter fun q =>
    decide (q < 16384) && decide (pa < s.boot.qtab + 64 * q + 0x14) && decide (s.boot.qtab + 64 * q + 0x10 < pa + n)

/-- A write of the host touches the TAIL of the control queue or of a user queue. -/
def State.ringsBell (s : State) (ctx : Nat) (a : DWord) (v : List Byte) : Bool :=
  let pa := bits a.toNat 0 52
  ctx == 0 && (!(s.tailsTouched pa v.length).isEmpty ||
    (decide (pa < s.boot.ctlq + 0x14) && decide (s.boot.ctlq + 0x10 < pa + v.length)))

/-- The doorbells of a write of the host that has been performed. -/
def State.rung (s : State) (ctx : Nat) (a : DWord) (v : List Byte) : State :=
  if ctx = 0 then (s.tailsTouched (bits a.toNat 0 52) v.length).foldl State.doorbell s else s

/-- Carry on with a write of the host. -/
def State.hostRetry (s : State) (c : CmdOp) : State :=
  let gone (s : State) : State := { s with cmds := s.cmds.filter fun x => x.id != c.id }.unwait c.id
  let s := s.unblock c.id
  match s.hostWrite (c.queue - 65536) c.hostAddr c.hostBytes with
  | .ok s' => (gone s').rung (c.queue - 65536) c.hostAddr c.hostBytes
  | .error (.absent va) => if s.pageWaits c.id then s else s.hostFault (c.queue - 65536) c.id va
  | .error (.sectors d l va) => s.waitAt d c.id l va
  | .error .busy => s
  | .error (.trap ..) => gone s

/-- Accesses of the host go on that wait neither for a page nor for sectors; a write of a TAIL only as the first of
its waiting writes (R254). -/
def State.hostGo (s : State) : State :=
  (s.cmds.filter fun c => c.op == opHost).foldl (fun s c =>
    let first := (s.cmds.find? fun x => x.op == opHost && !x.hostBytes.isEmpty).map (·.id) == some c.id
    if s.pageWaits c.id || (s.dies.toList.any fun d => d.waiting.contains c.id) ||
        (s.ringsBell (c.queue - 65536) c.hostAddr c.hostBytes && !first) then s
    else s.hostRetry c) s

/-! ## Placing a page (R232, R233) -/

/-- The sectors that a run of memory occupies (R226). -/
def State.sectorsIn (s : State) (pa len : Nat) : Nat :=
  ((List.range (len / 256)).map fun i => sectorsAt s.mem (pa / 256 + i)).sum

/-- The leaf entry of a page that is mapped and not present (R225). -/
def State.absentPage (s : State) (ctx : Nat) (va : DWord) : Option PageAt :=
  (s.pages ctx).find? fun p => decide (p.va ≤ va57 va) && decide (va57 va < p.va + p.len) &&
    decide (pteLeaf p.e (p.len == 2 ^ 21) = .absent)

/-- The die with the most free sectors, the lowest among equals (R233). -/
def State.roomiest (s : State) : Nat :=
  (List.range 9).foldl (fun a d => if (s.die a).pool < (s.die d).pool then d else a) 0

/-- The memory in which a page is placed at its first touch by a core; 15 is the host's (R233). -/
def State.placeFor (s : State) (core : Nat) : Nat :=
  let d := core / 256
  if d = 15 then 15 else if (s.die d).poolst.toNat / 2 ^ 30 = 0 then d else s.roomiest

/-- First address and number of the frames of a length in a memory: logical frames lie above the uncompressed
limit and map up to twice the die's 96 GiB (R224, R227, log entry 5). -/
def State.framesOf (s : State) (m len : Nat) : Nat × Nat :=
  let lo := if m = 15 then 0 else (s.boot.uncompressed.getD m 0 + len - 1) / len * len
  (m * 2 ^ 48 + lo, ((if m = 15 then 2 ^ 48 else 2 ^ 37 + 2 ^ 36) - lo) / len)

/-- A frame that no page holds; which of them the fault service takes is open. -/
def State.freeFrame (s : State) (m len : Nat) : Nat :=
  let used := (s.ctxs.map fun c => (s.pages c.id).filterMap fun p => p.frame.map fun f => (f, p.len)).flatten
  let fr := s.framesOf m len
  let start := Config.choose s.free (2 ^ 30 + m)
  let at_ (i : Nat) : Nat := fr.1 + (start + i) % max fr.2 1 * len
  at_ (((List.range (32 * used.length + 1)).find? fun i =>
    used.all fun u => decide (u.1 + u.2 ≤ at_ i) || decide (at_ i + len ≤ u.1)).getD 0)

/-- Place a page: its frame reads as zero, or as the copy of a page that was reclaimed clean, whose bytes take sectors as
other writes do (R227, R228, R232); or the blocks for which it must wait. -/
def State.placePage (s : State) (core : Nat) (p : PageAt) : Except Nat State :=
  let m := s.placeFor core
  let f := s.freeFrame m p.len
  let n := if s.compressed f then s.sectorsIn f p.len else 0
  let d := s.die m
  let s1 : State := (State.setDie { s with mem := s.mem.zero f p.len, free := s.free + 1 } m { d with pool := d.pool + n }).dropFrame f p.len
  let s2 := match s1.copies.find? fun c => c.1 == p.pte with
    | some c => State.putMem { s1 with copies := s1.copies.filter fun c => c.1 != p.pte } p.ctx false f (c.2.readN 0 p.len)
    | none => some s1
  match s2 with
  | some s2 => .ok { s2 with
      mem := s2.mem.writeLE p.pte 8 (p.e - bits p.e 16 36 * 2 ^ 16 + f % 2 ^ 52 / 2 ^ 16 * 2 ^ 16 + 2 ^ 63) }
  | none => .error m

/-- The fault record of a number. -/
def State.findFault (s : State) (id : Nat) : Option FaultRec := s.faults.find? (·.id == id)

/-- FAULT_RECORD: the fault service takes a record and places its page (R233, R371). DEDUCED (log entry 82): where
the page's bytes lack sectors the record waits at the controller, and it is taken again after a refusal. -/
def State.faultRecord (s : State) (id : Nat) : State :=
  match s.findFault id with
  | some f =>
    let taken (s : State) : State :=
      { s with faults := s.faults.map fun (x : FaultRec) => if x.id == id then { x with placed := true } else x }.unwait id
    if f.placed then s
    else
      match s.absentPage f.ctx f.va with
      | some p =>
        match s.placePage f.core p with
        | .ok s1 => taken s1
        | .error die => s.waitAt die id [] f.va
      | none => taken s
  | none => s

/-! ## Writes that wait (R227) -/

/-- The sequencer command of a number, with its core. -/
def State.findSeq (s : State) (id : Nat) : Option (Nat × SeqCmd) :=
  s.cores.findSome? fun c => (c.seq.find? (·.id == id)).map fun q => (c.id, q)

/-- The context of what waits: of a lane's access, of a unit's command, or of a bookkeeping write. -/
def State.waiterCtx (s : State) (id : Nat) : Option Nat :=
  ((s.findAccess id).map fun a => s.ctxOf (s.band a.band)) <|> ((s.findEngine id).map (·.ctx)) <|>
    ((s.findSeq id).map fun q => s.ctxOf (s.band q.2.band)) <|> ((s.findLink id).map (·.ctx)) <|>
    ((s.nodes.find? (·.id == id)).map (·.ctx)) <|>
    ((s.watchOps.find? (·.id == id)).map fun o => s.ctxOf (s.band o.band)) <|>
    ((s.reqs.find? (·.id == id)).map (·.ctx)) <|>
    ((s.cmds.find? (·.id == id)).map fun c => if c.op = opHost then c.queue - 65536 else s.queueCtx c.queue) <|>
    ((s.books.find? (·.id == id)).map (·.ctx)) <|> ((s.findFault id).map (·.ctx))

/-- What waits can be refused: a bookkeeping write, and a command of the link unit, whose writes are such, cannot
(R227, R231). -/
def State.refusable (s : State) (id : Nat) : Bool :=
  !(s.books.any (·.id == id)) && (s.findLink id).isNone && (s.waiterCtx id).isSome

/-- A command of a user queue, or a write of the host, goes on. -/
def State.cmdGo (s : State) (c : CmdOp) : State := if c.op = opHost then s.hostRetry c else s.cmdRetry c

/-- Try what waits once more. -/
def State.retryWrite (s : State) (id : Nat) : State :=
  match s.findAccess id, s.findEngine id, s.findSeq id, s.books.find? (·.id == id) with
  | some _, _, _, _ => s.perform id
  | _, some e, _, _ =>
    (match e.op with
      | .strm .. => s.streamTile e
      | .xform .. => s.xformGo e)
  | _, _, some q, _ => if (s.core q.1).atTurn q.2 then s.transferGo q.1 q.2 else s
  | _, _, _, some b => s.bookRetry b
  | _, _, _, _ =>
    match s.findLink id, s.findFault id with
    | some c, _ => s.linkRetry c
    | _, some f => s.faultRecord f.id
    | _, _ =>
    match s.nodes.find? (fun n => n.id == id && !n.started), s.watchOps.find? (·.id == id), s.reqs.find? (·.id == id),
        s.cmds.find? (·.id == id) with
    | some n, _, _, _ => s.nodeStart n
    | _, some o, _, _ => s.watchGo o
    | _, _, some m, _ => s.reqDeliver m
    | _, _, _, some c => s.cmdGo c
    | _, _, _, _ => s

/-- The oldest write of another context that waits on a die (R228). -/
def State.oldestOther (s : State) (die ctx : Nat) : Option Nat :=
  (s.die die).waiting.find? fun id => match s.waiterCtx id with
    | some c => c != ctx
    | none => false

/-- The sectors of a context's balloon pages serve this write: it is the oldest of another context that waits (R228). -/
def State.markServes (s : State) (die id : Nat) (m : Nat × Nat) : Bool := s.oldestOther die m.1 == some id

/-- Sectors of balloon pages that a write may take. -/
def State.keptFor (s : State) (die id : Nat) : Nat :=
  (((s.die die).marks.filter (s.markServes die id)).map fun (m : Nat × Nat) => m.2).sum

/-- Take sectors from what is kept of some contexts' pages, oldest first. -/
def takeMarks (may : Nat × Nat → Bool) : Nat → List (Nat × Nat) → List (Nat × Nat)
  | _, [] => []
  | n, m :: r =>
    if !may m then m :: takeMarks may n r
    else if n < m.2 then (m.1, m.2 - n) :: r
    else takeMarks may (n - m.2) r

/-- Reclaimed sectors refill the reserve and then the free pool (R229). -/
def Die.refill (d : Die) (n : Nat) : Die :=
  let k := min n (fullReserve - d.reserve)
  { d with reserve := d.reserve + k, pool := d.pool + (n - k) }

/-- With no write left that waits, the sectors kept for one are free. -/
def State.freeMarks (s : State) (die : Nat) : State :=
  let d := s.die die
  if d.waiting.isEmpty && !d.marks.isEmpty then
    s.setDie die (Die.refill { d with marks := [] } (d.marks.map fun m => m.2).sum)
  else s

/-- Perform a write that waits on a die, if its sectors are there: first the kept ones of balloon pages that are to serve
it (R228). -/
def State.serveWrite (s : State) (die id : Nat) : State :=
  match s.waiterCtx id with
  | none => s.retryWrite id
  | some _ =>
    let d := s.die die
    let k := s.keptFor die id
    let s1 := (s.setDie die { d with pool := d.pool + k }).retryWrite id
    let e := s1.die die
    let used := min k (d.pool + k - e.pool)
    (s1.setDie die { e with pool := e.pool - (k - used), marks := takeMarks (s.markServes die id) used e.marks }).freeMarks die

/-- The die at whose controller something waits. -/
def State.waitDie (s : State) (id : Nat) : Option Nat :=
  (List.range 9).find? fun d => (s.die d).waiting.contains id

/-- WAITING_WRITE_PERFORMED: the write takes its sectors and is performed. -/
def State.waitingWrite (s : State) (id : Nat) : State :=
  match s.waitDie id with
  | some d => s.serveWrite d id
  | none => s

def execWaitingWritePerformed (id : Nat) (s : State) : Host.Outcome State Fault Refusal := .next (s.waitingWrite id)

/-! ## Refusal (R231, R374) -/

/-- A refused write counts for its context on the die (R230). -/
def State.countRefused (s : State) (die ctx : Nat) : State := s.acctAdd die ctx 0x0C 1

/-- The number under which the dump of a quarter waits for a page. -/
def dumpId (n : Nat) : Nat := 2 ^ 64 + n

/-- A dump is abandoned: its header says so (R379, R417). -/
def State.abandon (s : State) (r : DumpRun) : State :=
  match s.ctx r.ctx with
  | some c =>
    let va := c.dbase + BitVec.ofNat 64 (r.slot * c.dslot) + 6
    match s.ctxRead r.ctx va 1 with
    | .ok v => s.cpRecord (r.quarter / 4 / 256) r.ctx va [(v.headD 0) ||| 1]
    | .error _ => s
  | none => s

/-- A fault reply with a code abandons the dump that waits for the page. -/
def State.dumpFails (s : State) (id : Nat) : State :=
  s.dumps.foldl (fun (s : State) r =>
    if dumpId r.quarter == id && decide (r.at_ < 9) then
      let s1 := s.abandon r
      { s1 with dumps := s1.dumps.map fun x => if x.quarter == r.quarter && x.ctx == r.ctx then { x with at_ := 9 } else x }
    else s) s

/-- What waits in an engine, the sequencer, the link unit, the walker or a command processor fails with a code
(R197, R308, R312, R315, R331, R434). -/
def State.failUnit (s : State) (id : Nat) (code : Byte) (va : DWord) : State :=
  match s.findEngine id, s.findSeq id, s.findLink id with
  | some e, _, _ => s.failEngine e code va
  | _, some q, _ => (s.seqFailed q.1 q.2).failSeq q.1 q.2 code va
  | _, _, some c => s.failLink c code 0 va
  | _, _, _ =>
    match s.nodes.find? (fun n => n.id == id && !n.started), s.watchOps.find? (·.id == id), s.reqs.find? (·.id == id),
        s.cmds.find? (·.id == id) with
    | some n, _, _, _ => s.nodeFails n code
    | _, some o, _, _ => s.failWatch o code va
    | _, _, some m, _ => s.reqDrop m
    | _, _, _, some c =>
      if c.op = opHost then { s with cmds := s.cmds.filter fun x => x.id != c.id }.unwait c.id
      else if c.op = opUnread then
        match s.nextAt c.queue with
        | some a =>
          ((s.dropCmd c.queue).startEntry c.queue
            { at_ := a, op := opUnread, event := false, ps := [], ok := false }).completeCmd c.queue 4 code
        | none => s
      else s.completeCmd c.queue 4 code
    | _, _, _, _ => s.dumpFails id

/-- A part of an access is refused: the block keeps its bytes, a destination is left unwritten, and its lanes trap
with code 0x0B; an ended band's refusal is reported (R231, R374, R439). -/
def State.refusePart (s : State) (die : Nat) (a : Access) (p : Part) : State :=
  let ctx := s.ctxOf (s.band a.band)
  let s1 := (s.mapAccess a.id (·.markDone p.lane)).countRefused die ctx
  if s1.laneLive a.band p.lane then s1.reportAll a.band (laneMask p.lane ||| a.also) (asyncTrap 0x0B 0 p.va a.word)
  else s1.post [⟨ctx, 2, die, 0, p.va⟩]

/-- The parts of an access that wait on a die are refused in turn; those that need no sectors are performed. -/
def State.refuseAccess (s : State) (die id : Nat) : Nat → State
  | 0 => s
  | n + 1 =>
    match s.findAccess id with
    | none => s
    | some a =>
      match (a.parts.filter (·.pending)).find? fun p => !p.absent with
      | some p =>
        if (s.die die).waiting.contains id && p.die == some die then
          (((s.unwait id).refusePart die a p).perform id).refuseAccess die id n
        else s
      | none => s.retire id

/-- The lanes of an engine or sequencer command that waits have all ended (R231, R362). -/
def State.issuerGone (s : State) (id : Nat) : Bool :=
  let gone (bi : Nat) (m : BitVec 32) : Bool := !(lanesOf m).any fun t => s.laneLive bi t
  match s.findEngine id, s.findSeq id with
  | some e, _ => gone e.issuer.band e.issuer.lanes
  | _, some q => gone q.2.band q.2.lanes
  | _, _ => false

/-- A write that waits on a die at stage 4 is refused; a bookkeeping write goes on waiting (R228, R231). -/
def State.refuse (s : State) (die id : Nat) : State :=
  if !s.refusable id || !(s.die die).waiting.contains id then s
  else if (s.findAccess id).isSome then s.refuseAccess die id 33
  else
    let ctx := (s.waiterCtx id).getD 0
    let s0 := if s.issuerGone id then s.post [⟨ctx, 2, die, 0, s.waitVa id⟩] else s
    let s1 := ((s0.unwait id).countRefused die ctx).failUnit id 0x0B (s.waitVa id)
    match s.cmds.find? (·.id == id) with
    | some c => if c.op = opHost then s1.post [⟨ctx, 2, die, 0, c.hostAddr⟩] else s1
    | none => s1

/-! ## Pages that can be reclaimed (R228) -/

/-- The page holds a line of a watch, so that it is never reclaimed (R275). -/
def State.watched (s : State) (pa len : Nat) : Bool :=
  s.watches.any fun w => !w.removed && decide (w.pa < pa + len) && decide (pa < w.pa + w.len)

/-- A write of a context other than this one waits on the die (R228). -/
def State.othersWait (s : State) (die ctx : Nat) : Bool :=
  (s.die die).waiting.any fun id => match s.waiterCtx id with
    | some c => c != ctx
    | none => false

/-- The stage in which a page of a die may be taken, with its frame and its sectors (R228). -/
def State.pageStage (s : State) (die : Nat) (p : PageAt) : Option (Nat × Nat × Nat) :=
  match p.frame with
  | none => none
  | some f =>
    if dieOfPa f != die || !s.compressed f || s.watched f p.len then none
    else
      let n := s.sectorsIn f p.len
      if n = 0 then none
      else if bits p.e 59 1 = 1 then some (if bits p.e 58 1 = 1 then 1 else 2, f, n)
      else if bits p.e 57 1 = 1 ∧ n ≤ s.mem.readLE (s.acctAt die p.ctx + 4) 4 ∧ s.othersWait die p.ctx = true then
        some (3, f, n)
      else none

/-- Every page of a die that may be taken now, with its stage, frame and sectors. -/
def State.takeable (s : State) (die : Nat) : List (PageAt × Nat × Nat × Nat) :=
  ((s.ctxs.map fun c => s.pages c.id).flatten).filterMap fun p => (s.pageStage die p).map fun x => (p, x)

/-! ## One page (R228 to R230) -/

/-- Accesses that have been checked and not yet performed on a frame that is reclaimed meet a page that is not
present (R228). -/
def State.strand (s : State) (pa len : Nat) : State :=
  let on (p : Part) : Bool := !p.done && !p.absent && p.locs.any fun l => match l with
    | .mem a => decide (pa ≤ a) && decide (a < pa + len)
    | _ => false
  (s.accesses.filter fun a => a.parts.any on).foldl (fun s a =>
    let va := ((a.parts.find? on).map (·.va)).getD 0
    (s.mapAccess a.id fun a => { a with parts := a.parts.map fun p =>
      (if on p then { p with absent := true, locs := [] } else p) }).accessFault a.band a.id va) s

/-- The bytes of a frame by offset. -/
def copyOf (m : Memory) (pa len : Nat) : Memory :=
  (m.filter fun c => decide (pa ≤ c.1) && decide (c.1 < pa + len)).map fun c => (c.1 - pa, c.2)

/-- A page is reclaimed: V := 0, its blocks occupy no sectors, and its context's accounts follow; a page of
stages 1 and 2 has a copy elsewhere, and one of stage 3 loses its contents. -/
def State.reclaim (s : State) (die : Nat) (p : PageAt) (stage f n : Nat) : State :=
  let rest := s.copies.filter fun c => c.1 != p.pte
  let s1 : State := { s with
    copies := if stage = 3 then rest else rest ++ [(p.pte, copyOf s.mem f p.len)]
    mem := (s.mem.zero f p.len).writeLE p.pte 8 (p.e - 2 ^ 63) }
  let s2 := (((s1.acctAdd die p.ctx 0 (-(n : Int))).acctAdd die p.ctx 8 n).strand f p.len).dropFrame f p.len
  let s3 := if stage = 3 then s2.acctAdd die p.ctx 4 (-(n : Int)) else s2
  let d := s3.die die
  s3.setDie die (if stage = 3 then { d with stage := 3, marks := d.marks ++ [(p.ctx, n)] }
    else { d.refill n with stage := stage })

/-- The oldest write of another context that waits on a die is served first (R228). -/
def State.serveOther (s : State) (die ctx : Nat) : State :=
  match s.oldestOther die ctx with
  | some id => s.serveWrite die id
  | none => s

/-- The engine stops when the reserve is full and the pool has reached the high mark (R229). -/
def State.clearingRest (s : State) (die : Nat) : State :=
  let d := s.die die
  if fullReserve ≤ d.reserve ∧ d.highMark ≤ d.pool then s.setDie die { d with stage := 0 } else s

/-- Stage 4: every write that still waits on the die is refused, and the engine stops (R228, R229). -/
def State.stageFour (s : State) (die : Nat) : State :=
  let s1 := (s.die die).waiting.foldl (fun s id => s.serveWrite die id) s
  let s2 := (s1.die die).waiting.foldl (fun s id => s.refuse die id) s1
  (s2.setDie die { s2.die die with stage := 0 }).freeMarks die

/-- CLEARING_PAGE_RECLAIM: the engine of a die takes a page of the first stage that yields one. The order of
pages within a stage is open: the event names the page. -/
def State.clearingStep (s : State) (die ctx : Nat) (va : DWord) : State :=
  let d := s.die die
  if d.stage = 0 then s
  else if fullReserve ≤ d.reserve ∧ d.highMark ≤ d.pool then s.clearingRest die
  else
    let ps := s.takeable die
    match ps with
    | [] => s.stageFour die
    | _ =>
      let stage := ps.foldl (fun a p => min a p.2.1) 3
      match ps.find? fun p => p.2.1 == stage && p.1.ctx == ctx && p.1.va == va57 va with
      | some (p, st, f, n) =>
        let s1 := s.reclaim die p st f n
        ((if st = 3 then s1.serveOther die p.ctx else s1)).clearingRest die
      | none => s

def execClearingPageReclaim (die ctx : Nat) (va : DWord) (s : State) : Host.Outcome State Fault Refusal :=
  .next (s.clearingStep die ctx va)

end Sys2Proof.Machine
end

