-- ==== Sys2Proof/Machine/Control.lean ====
section
/-!
DEFINITION. Control words: majors 0x00 to 0x04 (R86 to R95, R367, R368, R405).
-/

namespace Sys2Proof.Machine

/-! ## No operation, yield and breakpoint -/

def execNop (h : Hdr) (s : State) : Host.Outcome State Fault Refusal :=
  .next (plainWord (.nop h) (fun _ s => s) s)

/-- YIELD is a rotation event (R94, R132). -/
def execYield (h : Hdr) (s : State) : Host.Outcome State Fault Refusal :=
  .next (plainWord (.yield h) (fun _ s => { s with latch := { s.latch with rot := true } }) s)

/-- A BKPT stops its quarter: DBGCTL.HBK reads 1 only under invasive halt (R397, R403). -/
def State.haltsAtBkpt (s : State) : Bool :=
  s.debug == 2 && (s.core s.me.core).dbgctl.getLsbD 0

/-- A BKPT that stops its quarter: the lanes of V wait at it and go on after it, the others of the
issue set stay, and the quarter stops at the cycle of the BKPT's issue (R405). -/
def State.haltAt (s : State) (x : Ex) : State :=
  let next := nextAfter s x
  let b := s.me.mapLanes x.v fun _ l => { l with st := .waiting .bkpt, resume := next, pc := x.pc }
  let s1 := (s.setMe { b with nextPc := 0 }).stopQuarter s.me.core s.me.quarter
  s1.setQuarter s.me.core s.me.quarter { s1.quarterOf s.me with stopCycle := s.localClock (s.me.core / 256) }

/-- Code 0x1A in each lane of V, precisely (R95), or a stop of the quarter (R405). -/
def execBkpt (h : Hdr) (tag : BitVec 16) (s : State) : Host.Outcome State Fault Refusal :=
  let x := s.ex h
  if s.haltsAtBkpt && x.v != 0 then .next (s.haltAt x).tickFree
  else .next (plainWord (.bkpt h tag) (fun _ s => s) s)

/-! ## Transfers of control (R86 to R89) -/

def execBra (h : Hdr) (off : BitVec 21) (s : State) : Host.Outcome State Fault Refusal :=
  .next (plainWord (.bra h off) (fun x s => s.transfer x fun _ => x.pc + 4 * off.signExtend 64) s)

def execBrx (h : Hdr) (a : Reg) (s : State) : Host.Outcome State Fault Refusal :=
  .next (plainWord (.brx h a) (fun x s => s.transfer x fun t => s.me.rg2 x t a) s)

/-- The link is the word that follows in issue order (R53, R87). -/
def execCall (h : Hdr) (d : Reg) (lit : Word) (s : State) : Host.Outcome State Fault Refusal :=
  .next (plainWord (.call h d lit) (fun x s =>
    (s.putG2 x 1 d fun _ => nextPc x.pc x.lbit).transfer x fun _ => x.pc + 4 * lit.signExtend 64) s)

/-- The target is read before the link is written (R86). -/
def execCallx (h : Hdr) (d a : Reg) (s : State) : Host.Outcome State Fault Refusal :=
  .next (plainWord (.callx h d a) (fun x s =>
    (s.putG2 x 1 d fun _ => nextPc x.pc x.lbit).transfer x fun t => s.me.rg2 x t a) s)

/-- RET has the effect of BRX (R89). -/
def execRet (h : Hdr) (a : Reg) (s : State) : Host.Outcome State Fault Refusal :=
  .next (plainWord (.ret h a) (fun x s => s.transfer x fun t => s.me.rg2 x t a) s)

/-! ## Ending a thread (R90) -/

/-- The lanes of a mask end: registers that name them break (R203), and they take part in nothing. -/
def State.exitLanes (s : State) (bi : Nat) (m : BitVec 32) : State :=
  let s := (lanesOf m).foldl (fun s t => s.exitConvs bi t) s
  s.setBand bi ((s.band bi).mapLanes m fun _ l => { l with st := .exited, reports := [] })

def execExit (h : Hdr) (s : State) : Host.Outcome State Fault Refusal :=
  .next (plainWord (.exit h) (fun x s => s.exitLanes s.cur x.v) s)

/-! ## Meeting points (R91, R92) -/

/-- Write m in the lanes of V, 1 cycle after issue (R91). -/
def State.putM (s : State) (x : Ex) (v : Nat → DWord) : State :=
  s.setMe (s.me.writeLanes (x.now + 1) x.k x.v .m v)

def execMeet (h : Hdr) (d : Reg) (lit : Word) (s : State) : Host.Outcome State Fault Refusal :=
  .next (plainWord (.meet h d lit) (fun x s =>
    (s.putG2 x 1 d fun t => s.me.readReg x.now x.k t .m).putM x fun _ =>
      x.pc + 4 * lit.signExtend 64) s)

def execSetm (h : Hdr) (a : Reg) (s : State) : Host.Outcome State Fault Refusal :=
  .next (plainWord (.setm h a) (fun x s => s.putM x fun t => s.me.rg2 x t a) s)

def execGetm (h : Hdr) (d : Reg) (s : State) : Host.Outcome State Fault Refusal :=
  .next (plainWord (.getm h d) (fun x s => s.putG2 x 1 d fun t => s.me.readReg x.now x.k t .m) s)

/-! ## Regions and the software trap -/

/-- V is every live lane of the band (R368). -/
def Band.allLive (b : Band) (v : BitVec 32) : Bool :=
  (List.range 32).all fun t => !(b.lane t).live || bit v t

/-- The open region has ended; a new one opens if every live lane takes part (R368). -/
def execRgn (h : Hdr) (s : State) : Host.Outcome State Fault Refusal :=
  .next (plainWord (.rgn h) (fun x s =>
    let b := s.me
    if !b.handler && b.allLive x.v then
      s.setMe { b with rgnPc := nextPc x.pc x.lbit, rgnOpen := true, rgnAborts := 0 }
    else s) s)

/-- Code 0x18 in each lane of V, precisely, with INFO := tag (R367). -/
def execTrap (h : Hdr) (tag : BitVec 16) (s : State) : Host.Outcome State Fault Refusal :=
  .next (plainWord (.trap h tag) (fun _ s => s) s)

end Sys2Proof.Machine
end

