-- ==== Sys2Proof/Machine/Faults.lean ====
section
/-!
DEFINITION. The fault service (R232, R233, R371, R372, R395, R445, R446) and uncorrectable errors in the
storage of a crew (R234, R377, R378).
-/

namespace Sys2Proof.Machine

/-! ## Records and replies (R233, R371, R372) -/

def execFaultRecord (id : Nat) (s : State) : Host.Outcome State Fault Refusal := .next (s.faultRecord id)

/-- The record is answered. -/
def State.dropFault (s : State) (id : Nat) : State := { s with faults := s.faults.filter fun f => f.id != id }

/-- Bytes of one lane's access. -/
def AccKind.bytes (k : AccKind) (data : List Byte) : Nat :=
  match k with
  | .load _ sz => sz.bytes
  | .uload _ sz => sz.bytes
  | .atom _ _ ty | .cas _ ty | .loadOrd _ ty => ty.bytes
  | .store | .storeOrd => data.length

/-- The access reads and writes its bytes (R217). -/
def AccKind.isRmw : AccKind → Bool
  | .atom .. | .cas .. => true
  | _ => false

/-- What the checks find now at a part that waits for its page. -/
def State.reachPart (s : State) (a : Access) (p : Part) : Reach :=
  reach s (s.band a.band) p.lane a.sp p.va (a.kind.bytes p.data) (!a.kind.isLoad) a.kind.isRmw

/-- Two addresses of a context lie in one page (R225). -/
def State.samePage (s : State) (ctx : Nat) (a b : DWord) : Bool :=
  a.toNat / 65536 == b.toNat / 65536 || (s.pages ctx).any fun p => p.len == 2 ^ 21 &&
    [va57 a, va57 b].all fun v => decide (p.va ≤ v) && decide (v < p.va + p.len)

/-- A lane's part touches the page of an address. -/
def State.partOn (s : State) (a : Access) (p : Part) (va : DWord) : Bool :=
  let b := s.band a.band
  match resolve s b a.sp p.va with
  | .global x => s.samePage (s.ctxOf b) x va
  | .stack o => (List.range ((a.kind.bytes p.data + 3) / 4)).any fun i => s.samePage (s.ctxOf b) (stackVa b p.lane (o + 4 * i)) va
  | _ => false

/-- Change the part of a lane. -/
def State.setPart (s : State) (id t : Nat) (f : Part → Part) : State :=
  s.mapAccess id fun a => { a with parts := a.parts.map fun p => if p.lane == t then f p else p }

/-- One part of an access that waits, after the reply `code` (0 for RESIDENT) for a page. -/
def State.replyPart (s : State) (a : Access) (va : DWord) (code : Byte) (p : Part) : State :=
  if code != 0 && s.partOn a p va then s.failPart a p code
  else
    match s.reachPart a p with
    | .locs l =>
      let b := s.band a.band
      s.setPart a.id p.lane fun p =>
        { p with absent := false, locs := l,
                 ptes := if a.kind.isLoad then [] else ptesOf s b p.lane (resolve s b a.sp p.va) l.length,
                 held := if a.kind.isLoad then l.map b.heldByte else [] }
    | .trap c => s.failPart a p c
    | .absent _ => s

/-- The access of a fault record goes on; parts that wait for another page send a record of their own. -/
def State.replyAccess (s : State) (id : Nat) (va : DWord) (code : Byte) : State :=
  match s.findAccess id with
  | none => s
  | some a =>
    let s1 := (a.parts.filter fun p => p.absent && !p.done).foldl (fun s p => s.replyPart a va code p) s
    match s1.findAccess id with
    | none => s1
    | some a1 =>
      let s2 := match a1.parts.findSome? fun p =>
          if p.absent && !p.done then
            match s1.reachPart a1 p with
            | .absent x => some x
            | _ => none
          else none with
        | some x => if s1.faults.any fun f => f.kind == FaultKind.access id then s1 else s1.accessFault a1.band id x
        | none => s1
      s2.retire id

/-- A parked band becomes ready (R372); what the faulting word's other lanes load is written before it replays
(R259). -/
def State.unpark (s : State) (bi : Nat) (word : DWord) : State :=
  let b := s.band bi
  let ids := (s.accesses.filter fun a => a.band == bi && a.word == word && a.flag == 15 && a.kind.hasDest).map (·.id)
  if b.block = some .parked then s.setBand bi { b with block := if ids.isEmpty then none else some (.fence ids false) } else s

/-- After an abort a code is a trap at RGNPC in the lanes that faulted, and the region is not reopened (R372). -/
def State.abortTrap (s : State) (bi : Nat) (lanes : List (Nat × DWord)) (word : DWord) (code : Byte) : State :=
  let s := s.unpark bi word
  let b := s.band bi
  let tr (va : DWord) : Trap := { code := code, info := 0, async := false, abrt := true, addr := va, orig := word }
  s.setBand bi { lanes.foldl (fun (b : Band) p => if (b.lane p.1).live then b.raise p.1 b.rgnPc (tr p.2) else b) b with
    rgnOpen := false }

/-- A band that waits for a page goes on (R445, R446). -/
def State.unpage (s : State) (bi : Nat) : State :=
  let b := s.band bi
  if b.block = some .page then s.setBand bi { b with block := none } else s

/-- A word at issue waited for a page and is answered with a code, which is a deferred trap of the lanes of V when the
word is tried again (R445). -/
def State.issueCode (s : State) (bi : Nat) (va : DWord) (code : Byte) : State :=
  let s := s.unpage bi
  s.setBand bi { s.band bi with pageCode := some (code, va) }

/-- A reply takes effect: `code` is 0 for RESIDENT. -/
def State.reply (s : State) (f : FaultRec) (code : Byte) : State :=
  match f.kind with
  | .abort lanes word => if code = 0 then s.unpark f.band word else s.abortTrap f.band lanes word code
  | .access id => s.replyAccess id f.va code
  | .fetch => if code = 0 then s.unpage f.band else (s.unpage f.band).trapAll f.band code 0 f.va
  | .issue => if code = 0 then s.unpage f.band else s.issueCode f.band f.va code
  | .engine id =>
    if code != 0 then s.failUnit id code f.va
    else
      match s.cmds.find? (·.id == id) with
      | some c => s.cmdGo c
      | none => s

/-- The page of a record is present. -/
def State.resident (s : State) (f : FaultRec) : Bool :=
  match translate s.mem (s.rootOf f.ctx) f.va with
  | .ok .. => true
  | _ => false

/-- FAULT_REPLY: RESIDENT, which needs the page to be present, or the code 0x09 or 0x0A (R372). For a band of a
saved queue the reply is logged (R395). -/
def State.faultReply (s : State) (id : Nat) (code : Byte) : State :=
  match s.findFault id with
  | none => s
  | some f =>
    let c : Byte := if code = 0x09 ∨ code = 0x0A then code else 0
    if c = 0 ∧ s.resident f = false then s
    else
      match s.savedQueue f.band with
      | some q => (s.dropFault id).logReply q (.reply f.band f.va f.kind c)
      | none => (s.dropFault id).reply f c

def execFaultReply (id : Nat) (code : Byte) (s : State) : Host.Outcome State Fault Refusal := .next (s.faultReply id code)

/-! ## Uncorrectable errors (R377, R378) -/

/-- A band is killed: its lanes exit, its held stores are discarded, and it waits for nothing. -/
def Band.kill (b : Band) : Band :=
  { b.mapLanes (BitVec.allOnes 32) fun _ l => if l.live then { l with st := .exited, reports := [] } else l with
    held := [], rgnOpen := false, block := none, closing := [], paged := none, pageCode := none, trapLane := 0,
    handler := false }

/-- The last grain of a band, as a task (R378). -/
def lastGrain (li ci die grain : Nat) (b : Band) : List (Nat × Task) :=
  if b.glo.toNat < b.ghi.toNat then
    [(die, { launch := li, crew := ci, range := { cur := b.glo.toNat, hi := b.ghi.toNat, grain := grain }, after := [] })]
  else []

/-- Every band of a crew stops, and what the crew holds is freed (R377). -/
def State.killBands (s : State) (ci : Nat) : State :=
  match s.crew ci with
  | none => s
  | some c =>
    let s := s.leaveGrove c ci
    let g := (c.bands.map fun bi => (s.band bi).occupies).sum
    let s1 := c.bands.foldl (fun s bi => s.setBand bi (s.band bi).kill) s
    let mine (f : FaultRec) : Bool := c.bands.contains f.band && (match f.kind with
      | .access _ | .engine _ => false
      | _ => true)
    let s2 : State := { s1 with
      slotReqs := s1.slotReqs.filter fun r => !c.bands.contains r.band
      late := s1.late.filter fun e => !c.bands.contains e.band
      faults := s1.faults.filter fun f => !mine f }
    let k := s2.core c.core
    ((s2.setCore { k with free := k.free + g }).setCrew ci { c with running := false }).releaseMatrix ci

/-- A launch is stopped: every crew of it stops, and code 0x16 is reported (R378, R439). -/
def State.stopLaunch (s : State) (li die : Nat) : State :=
  match s.launch li with
  | none => s
  | some l =>
    let s1 := (s.crewsOf li).foldl State.killBands s
    let cs : List Crew := s1.crews.map fun c => if c.launch == li then { c with killed := false, range := none } else c
    let ks : List Core := s1.cores.map fun c => { c with deque := c.deque.filter fun t => t.launch != li }
    let s2 : State := State.setLaunch { s1 with crews := cs, cores := ks } li
      { l with toPlace := [], stripes := [], spill := [], ended := true }
    let s3 := s2.post [⟨l.ctx, 6, die, 0x16, 0⟩]
    match l.origin with
    | .cmd q a => if (s3.runningOf q).bind (·.entry) == some a then s3.completeCmd q 4 0x16 else s3
    | .sprout h => s3.sproutEnds l.ctx h
    | .graph n => s3.setNode n fun n => { n with result := some (.failed 0x16) }
    | .repair _ => s3

/-- UNCORRECTABLE_ERROR in the storage of a crew: the crew is killed, and its launch stops unless the image is
idempotent. DEDUCED (log entry 113): one that is found while the crew is to be relaunched stops the launch. -/
def State.uncorrectable (s : State) (ci : Nat) : State :=
  match s.crew ci with
  | none => s
  | some c =>
    match s.launch c.launch with
    | none => s
    | some l =>
      if !c.running then (if c.killed then s.stopLaunch c.launch (c.core / 256) else s)
      else if l.image.idempotent then
        let s1 := s.killBands ci
        let gs := (c.bands.map fun bi => lastGrain c.launch ci (c.core / 256) l.grain (s.band bi)).flatten
        let s2 := match s1.crew ci with
          | some c => s1.setCrew ci { c with killed := true }
          | none => s1
        if l.image.crews = 0 ∧ l.noWork = false then s2.setLaunch c.launch { l with spill := l.spill ++ gs } else s2
      else (s.killBands ci).stopLaunch c.launch (c.core / 256)

def execUncorrectableError (crew : Nat) (s : State) : Host.Outcome State Fault Refusal := .next (s.uncorrectable crew)

/-- The crew of a sprout, which stays on its owner grove (R284). -/
def CrewKind.isSprout : CrewKind → Bool
  | .sprout _ => true
  | _ => false

/-- CREW_RELAUNCH: a killed crew starts again where there is room, with its number, its arguments and what was
left of its range (R378). -/
def State.relaunch (s : State) (ci core : Nat) : State :=
  match s.crew ci with
  | none => s
  | some c =>
    match s.launch c.launch with
    | none => s
    | some l =>
      if !c.killed || !s.launchRuns l || !s.diePlaces l.cfg.dieList l.image (core / 256) ||
          !(s.dieCores (core / 256)).contains core || (c.kind.isSprout && core / 64 != c.core / 64) then s
      else
        match s.roomFor core l.image with
        | none => s
        | some p =>
          let n := s.crews.length
          let s1 := s.startCrew c.launch core c.kind c.num c.depth p
          let s2 := s1.setCrew ci { c with killed := false, range := none }
          match s2.crew n with
          | some k => s2.setCrew n { k with range := c.range }
          | none => s2

def execCrewRelaunch (crew core : Nat) (s : State) : Host.Outcome State Fault Refusal := .next (s.relaunch crew core)

end Sys2Proof.Machine
end

