-- ==== Sys2Proof/Machine/Debug.lean ====
section
/-!
DEFINITION. Stops, drain and dumps (R379, R403 to R409), and the images of bands and crews that dumps and save
areas share (R205, R390, R391).
-/

namespace Sys2Proof.Machine

/-! ## The halt broadcast (R404) -/

/-- The bands of a context that stand in a quarter, in ascending slot. -/
def State.bandsIn (s : State) (ctx n : Nat) : List Nat :=
  let rs := (s.residents (n / 4) (n % 4)).filter fun bi => s.ctxOf (s.band bi) == ctx
  ((List.range 8).map fun k => rs.filter fun bi => (s.band bi).slot == k).flatten

/-- The quarters that hold a band of a context. -/
def State.quartersOf (s : State) (ctx : Nat) : List Nat :=
  (((List.range s.bands.length).filter fun bi => !(s.band bi).ended && s.ctxOf (s.band bi) == ctx &&
    ((s.crew (s.band bi).crew).map (·.running)).getD false).map fun bi =>
      (s.band bi).core * 4 + (s.band bi).quarter).eraseDups

/-- HALT_BROADCAST: the broadcast of a stopped context reaches a quarter that holds a band of it, the escalating one
among them, whose other bands take their pending traps then (R363). -/
def State.haltBroadcast (s : State) (ctx n : Nat) : State :=
  if ((s.ctx ctx).bind (·.stoppedBy)).isNone || (s.bandsIn ctx n).isEmpty || (s.quarterAt n).escalated then s
  else
    let s1 := s.stopQuarter (n / 4) (n % 4)
    s1.setQuarterAt n { s1.quarterAt n with escalated := true }

def execHaltBroadcast (ctx quarter : Nat) (s : State) : Host.Outcome State Fault Refusal :=
  .next (s.haltBroadcast ctx quarter)

/-! ## The image of a band (R391) -/

/-- The code of a wait in a band record (R412); a wait for which R412 has none gives 0. -/
def Wait.code (w : Wait) : Nat :=
  match w with
  | .crewBar => 2
  | .groupBar _ => 3
  | .bcast .. => 4
  | .mma _ => 5
  | .bowait .. => 6
  | .trap => 7
  | .tret => 8
  | .take .. | .bkpt => 0

/-- The state of a lane in a band record: [1:0], and the wait in [7:2] (R391, R412). DESIGN CHOICE (log entry 121): a lane
that is eligible but for its band's park or handler, or for a report, counts as waiting, and one with a pending access as
eligible. -/
def Band.laneByte (b : Band) (pending : BitVec 32) (t : Nat) : Byte :=
  let l := b.lane t
  let c (st code : Nat) : Byte := BitVec.ofNat 8 (st + 4 * code)
  match l.st with
  | .absent | .exited => c 3 0
  | .held => c 1 1
  | .waiting w => c 2 w.code
  | .eligible =>
    if b.handler then if bit b.trapLane t then c 0 (if bit pending t then 10 else 0) else c 2 8
    else if b.block = some .parked then c 2 9
    else if !l.reports.isEmpty then c 2 7
    else c 0 (if bit pending t then 10 else 0)

/-- Bytes of a vector of 64-bit values. -/
def dwords (vs : List DWord) : List Byte := (vs.map fun v => leBytes v.toNat 8).flatten

/-- The first destination register of an access; 0 for a store. -/
def AccKind.destReg : AccKind → Nat
  | .load d _ | .atom d .. | .cas d _ | .loadOrd d _ => d.toNat
  | .uload d _ => d.toNat
  | .store | .storeOrd => 0

/-- A pending access of a lane in 32 bytes: its word and its lane, size, target register and flag, its address, and its
data (R387). DESIGN CHOICE (log entry 121): the spec does not give their places; bits [45:0] of the first 8 bytes hold the
word's address over 4, [50:46] the lane, [53:51] the binary logarithm of the size, [59:54] the register, and [63:60] the flag. -/
def pendingBytes (a : Access) (p : Part) : List Byte :=
  leBytes (a.word.toNat / 4 % 2 ^ 46 + p.lane % 32 * 2 ^ 46 + Nat.log2 (a.kind.bytes p.data) % 8 * 2 ^ 51 +
      a.kind.destReg % 64 * 2 ^ 54 + a.flag.toNat * 2 ^ 60) 8 ++ leBytes p.va.toNat 8 ++
    (p.data ++ p.cmp ++ List.replicate 16 0).take 16

/-- The pending accesses of a band, in issue order (R387, R391): those still to be performed, and those whose results
wait for an earlier one. -/
def State.pendingOf (s : State) (bi : Nat) : List (Access × Part) :=
  ((s.accesses.filter (·.band == bi)).map fun a => (a.parts.filter fun p => !p.done || p.got.isSome).map fun p => (a, p)).flatten

/-- The 64 bytes of a band's registers at 0x4C0 (R412). -/
def Band.regBytes (b : Band) : List Byte :=
  leBytes (maskNat ((List.range 12).filter fun f => (b.flags.toArray.getD f none).isSome)) 2 ++ leBytes b.cursor.toNat 1 ++
    leBytes b.gran 1 ++ leBytes b.absentGran.toNat 1 ++ leBytes (if b.handler then 1 else 0) 1 ++ leBytes 0 2 ++
    [b.fpctl, b.check, b.drst, b.rgncnt].flatMap (fun v => leBytes v.toNat 4) ++ dwords [b.rgnPc] ++
    leBytes b.trapLane.toNat 4 ++ leBytes 0 4 ++ dwords [b.glo, b.ghi] ++ leBytes 0 8

/-- The 4 KiB of control state of a band (R391); a lane that is not live has PC 0 and m 0 (R412). -/
def State.bandControl (s : State) (bi : Nat) : List Byte :=
  let b := s.band bi
  let ls := (List.range 32).map b.lane
  let live (f : Lane → DWord) (l : Lane) : DWord := if l.live then f l else 0
  let pending := (s.pendingOf bi).foldl (fun m e => m ||| laneMask e.2.lane) 0
  dwords (ls.map (live (·.pc))) ++ dwords (ls.map (live (·.m))) ++
    (ls.map fun l => (l.x.toList.map fun v => leBytes v.toNat 4).flatten).flatten ++
    (ls.map fun l => l.p &&& 0x7F) ++ ((List.range 32).map (b.laneByte pending)) ++
    (b.s.toList.map fun v => leBytes v.toNat 4).flatten ++ b.regBytes ++
    dwords [b.segScr, b.segStk, b.segGrv, b.segWs, b.stkArea, b.tvec] ++ List.replicate 16 0 ++
    (ls.map fun l => dwords [l.trapPc, l.trapAddr, l.trapOrig] ++ leBytes l.trapCode.toNat 4).flatten ++
    (((s.pendingOf bi).map fun (e : Access × Part) => pendingBytes e.1 e.2).flatten ++ List.replicate 512 0).take 512 ++
    List.replicate 1344 0

/-- A band record of a dump: an absent granule is written as zeros (R409). -/
def State.dumpBand (s : State) (bi : Nat) : List Byte :=
  let b := s.band bi
  s.bandControl bi ++ ((List.range b.gran).map fun i =>
    if b.absentGran.getLsbD i then List.replicate 1024 0 else b.granuleBytes i).flatten

/-! ## The image of a crew -/

/-- What a crew holds beside its bands: its scratchpad, and what it has in the matrix unit. -/
def State.savedOf (s : State) (ci : Nat) (c : Crew) : SavedCrew :=
  let k := s.core c.core
  let held := k.heldBy ci
  { crew := ci, gang := c.bands.any fun bi => (s.band bi).gang, grove := c.core / 64, gidx := c.core % 64,
    scrOff := c.scrOff, scr := copyOf s.scr (c.core * 2 ^ 18 + c.scrOff) c.scrLen,
    tiles := held.map fun n => (n, k.tile n), accs := (held.filter fun n => n % 2 == 0).map fun n => (n / 2, k.acc (n / 2)),
    convs := held.map fun n => (n, k.conv n), seq := k.seq.filter fun q => q.crew == ci }

/-- The image of R205 of a crew, whole; what the crew does not hold is not specified. -/
def State.mxBytes (s : State) (x : SavedCrew) : List Byte :=
  let tile (n : Nat) : Option Tile := (x.tiles.find? (·.1 == n)).map (·.2)
  let acc (n : Nat) : Option Acc := (x.accs.find? (·.1 == n)).map (·.2)
  leBytes 0x4D585331 4 ++ leBytes (maskNat (x.tiles.map (·.1))) 2 ++
    leBytes (((List.range 8).map fun n => ((acc n).map fun a => a.st.code * 4 ^ n).getD 0).sum) 2 ++ leBytes 0 8 ++
    ((List.range 16).map fun n => leBytes (((tile n).map fun t => t.tag.toNat).getD 0) 4).flatten ++
    ((List.range 16).map fun n => leBytes (if (tile n).isSome then (convAt x.convs n).word else 0) 8).flatten ++
    List.replicate 48 0 ++
    ((List.range 16).map fun n => match tile n with
      | some t => bytesOf t.data 2048 ++ bytesOf t.scale 256
      | none => s.freeBytes (60 + n) 2304).flatten ++
    ((List.range 8).map fun n => match acc n with
      | some a => if a.st = .z then List.replicate 4096 0 else bytesOf a.data 4096
      | none => s.freeBytes (80 + n) 4096).flatten

/-- The members of the smallest product of masks that holds a declared set, in the order of R390. -/
def Conv.product (c : Conv) : List (Nat × Nat) :=
  let bs := (List.range 16).filter fun b => c.declared.any fun m => m.1 == b
  let ls := (List.range 32).filter fun l => c.declared.any fun m => m.2 == l
  (bs.map fun b => ls.map fun l => (b, l)).flatten

/-- The signed sets of a crew's convergence registers, 64 bytes each (R390). -/
def SavedCrew.ksig (x : SavedCrew) : List Byte :=
  ((List.range 16).map fun n =>
    let c := convAt x.convs n
    leBytes ((c.product.mapIdx fun i m => if c.signed.contains m then 2 ^ i else 0).sum) 64).flatten

/-- The crews of a context with a band in a quarter. -/
def State.crewsIn (s : State) (ctx n : Nat) : List Nat := ((s.bandsIn ctx n).map fun bi => (s.band bi).crew).eraseDups

/-- The scratchpad section: a head and the allocation of each crew (R409). -/
def State.dumpScratch (s : State) (ci : Nat) : List Byte :=
  match s.crew ci with
  | some c => leBytes c.num 4 ++ leBytes c.scrOff 4 ++ leBytes c.scrLen 4 ++ leBytes 0 4 ++
      s.scr.readN (c.core * 2 ^ 18 + c.scrOff) c.scrLen
  | none => []

/-- Bands of a crew that have arrived at its barrier, as a mask. -/
def State.arrivedMask (s : State) (ci : Nat) : Nat :=
  maskNat (((s.taking ci).filter fun bi => s.arrived bi fun st => decide (st = .waiting .crewBar)).map fun bi =>
    (s.band bi).num)

/-- Crews of a group that have arrived at its barrier. -/
def State.arrivedCrews (s : State) (li : Nat) (g : Group) : Nat :=
  ((g.members.filterMap (s.memberCrew li)).filter fun ci =>
    (s.taking ci).all fun bi => s.arrived bi (·.atGroup g.index)).length

/-- The barrier section of a crew (R409); without a tile slot it has no matrix image (R413). -/
def State.dumpBarrier (s : State) (ci : Nat) : List Byte :=
  match s.crew ci with
  | some c =>
    let gs := (((s.launch c.launch).map (·.groups)).getD []).filter fun g => c.groups.contains g.index
    let x := s.savedOf ci c
    leBytes c.barGen 4 ++ leBytes (s.arrivedMask ci) 2 ++ leBytes 0 2 ++
      (gs.map fun g => leBytes g.index 2 ++ leBytes g.gen 2 ++ leBytes (s.arrivedCrews c.launch g) 4).flatten ++
      if x.tiles.isEmpty then [] else s.mxBytes x ++ x.ksig
  | none => []

/-! ## Pending writes (R406, R409) -/

/-- One entry of the section; of an engine command or a matrix transfer it names no register (R413). -/
def PendWrite.bytes (p : PendWrite) (slot : Nat) : List Byte :=
  let unit := p.kind == 4 || p.kind == 5
  let d := if p.st = 0 && !unit then (p.data.map fun v => leBytes v.toNat 4).flatten else []
  leBytes slot 1 ++ leBytes p.flag.toNat 1 ++ leBytes p.kind 1 ++ leBytes p.st 1 ++ leBytes (if unit then 0 else p.dreg) 1 ++
    leBytes (if unit then 0 else p.nreg) 1 ++ [if p.st = 1 then p.code else 0, 0] ++
    leBytes (p.lanes ||| p.fail).toNat 4 ++ leBytes (32 + d.length) 4 ++ leBytes p.addr.toNat 8 ++ leBytes p.pc.toNat 8 ++ d

/-- Insert an entry by its operation's number: the order of issue. -/
def insertPend (p : PendWrite) : List PendWrite → List PendWrite
  | [] => [p]
  | x :: r => if p.id < x.id then p :: x :: r else x :: insertPend p r

/-- The global address of a held store's line. -/
def State.heldVa (s : State) (bi : Nat) (h : HeldStore) : DWord :=
  let b := s.band bi
  (match resolve s b h.sp h.va with
    | .stack o => stackVa b h.lane o
    | _ => h.va) &&& ~~~0x7F

/-- The held-store entries of a band: one for each line, in the order in which the lines entered. -/
def State.heldEntries (s : State) (bi : Nat) : List (List Byte) :=
  let b := s.band bi
  b.heldLines.map fun ln =>
    let hs := b.held.filter fun h => h.bytes.any fun c => c.1 / 128 == ln
    let data := (List.range 128).map fun i => (b.heldByte (.mem (128 * ln + i))).getD (s.mem.read (128 * ln + i))
    match hs with
    | [] => []
    | h :: _ =>
      leBytes b.slot 1 ++ [15, 6, 0, 0, 0, 0, 0] ++ leBytes (maskOf fun t => hs.any fun h => h.lane == t).toNat 4 ++
        leBytes 160 4 ++ leBytes (s.heldVa bi h).toNat 8 ++ leBytes h.word.toNat 8 ++ data

/-- The entries of a band in the order of R409. -/
def State.dumpPending (s : State) (n bi : Nat) : List Byte :=
  let b := s.band bi
  let ps := (s.quarterAt n).pendTable.filter fun p => p.band == bi
  let flagged := ((List.range 12).map fun f => ps.filter fun p => p.flag.toNat == f).flatten
  let rest := (ps.filter fun p => decide (12 ≤ p.flag.toNat)).foldl (fun l p => insertPend p l) []
  ((flagged ++ rest).map fun p => p.bytes b.slot).flatten ++ (s.heldEntries bi).flatten

/-! ## Drain (R406) -/

/-- Something of a band is still on its way to the table: an access, a special function, or a transfer or a
result of the matrix unit. -/
def State.draining (s : State) (bi : Nat) : Bool :=
  s.accesses.any (·.band == bi) || s.sfus.any (·.band == bi) || s.tlbs.any (·.band == bi) ||
    (s.core (s.band bi).core).seq.any fun q => q.band == bi && q.op.isTransfer

/-- The word that set a flag whose unit has stopped at a boundary, its lanes, and the address of its access or of its
descriptor. -/
def State.busyWord (s : State) (bi f : Nat) : DWord × BitVec 32 × DWord :=
  let is := s.engines.map (fun e => (e.issuer, e.desc)) ++ s.links.map (fun c => (c.issuer, c.desc)) ++
    s.nodes.map fun n => (n.by_, n.addr)
  match is.find? fun i => i.1.band == bi && i.1.flag.toNat == f with
  | some i => (i.1.word, i.1.lanes, i.2)
  | none =>
    match (s.core (s.band bi).core).seq.find? fun q => q.band == bi && q.flag.toNat == f with
    | some q => (q.word, q.lanes, q.op.va)
    | none =>
      match s.watchOps.find? fun o => o.band == bi && o.flag.toNat == f with
      | some o => (o.word, o.lanes, o.desc)
      | none => (0, 0, 0)

/-- The flags of a band that stay busy without an entry: their units have stopped at their boundaries (R406, R416). -/
def State.busyEntries (s : State) (n bi : Nat) : List PendWrite :=
  let b := s.band bi
  (List.range 12).filterMap fun f =>
    match b.flags.toArray.getD f none with
    | some p =>
      if (s.quarterAt n).pendTable.any fun e => e.band == bi && e.flag.toNat == f then none
      else
        let w := s.busyWord bi f
        some { id := 0, band := bi, flag := BitVec.ofNat 4 f, kind := if p = .matrix then 4 else 5, st := 2, dreg := 0,
               nreg := 0, code := 0, lanes := w.2.1, addr := w.2.2, pc := w.1, data := [], conds := 0 }
    | none => none

/-- Every result of a stopped quarter's bands has arrived. -/
def State.drainReady (s : State) (n : Nat) : Bool :=
  let q := s.quarterAt n
  q.stopped && !q.drained && (s.residents (n / 4) (n % 4)).all fun bi => !s.draining bi

/-! ## The dump (R407, R408) -/

/-- The sections of a dump. -/
def State.dumpSections (s : State) (ctx n : Nat) : List (List Byte) :=
  let bs := s.bandsIn ctx n
  let cs := s.crewsIn ctx n
  [(bs.map s.dumpBand).flatten, (cs.map s.dumpScratch).flatten, (cs.map s.dumpBarrier).flatten,
   (bs.map (s.dumpPending n)).flatten]

/-- Offsets of the sections, one after another from 0x100. -/
def sectionOffs (ls : List Nat) : List Nat := (List.range 4).map fun i => 0x100 + (ls.take i).sum

/-- The header of a dump. -/
def State.dumpHeader (s : State) (ctx n seq fl sect : Nat) (lens : List Nat) : List Byte :=
  let q := s.quarterAt n
  let bslots := maskNat ((s.bandsIn ctx n).map fun bi => (s.band bi).slot)
  leBytes 0x444D5031 4 ++ leBytes 1 2 ++ leBytes fl 2 ++ leBytes sect 4 ++ leBytes (bits q.stopCode.toNat 0 8) 1 ++ [0] ++
    leBytes (bits q.stopCode.toNat 16 16) 2 ++ leBytes ctx 2 ++ leBytes (n / 4 / 256) 1 ++ leBytes (n % 4) 1 ++
    leBytes (n / 4 % 256) 2 ++ leBytes bslots 1 ++ [0] ++ leBytes q.stopCycle.toNat 8 ++ leBytes seq 4 ++ leBytes 0 4 ++
    ((sectionOffs lens).map fun o => leBytes o 8).flatten ++ (lens.map fun l => leBytes l 4).flatten ++
    List.replicate 168 0

/-- How the writing of a dump goes on: it is written, it waits for a page or for bytes that cannot be reached yet (R227),
or a fault has abandoned it. -/
inductive Dumped where
  | done (s : State)
  | absent (s : State) (va : DWord)
  | busy (s : State)
  | fault (s : State) (code : Byte) (va : DWord)

/-- The free slot of a dump area that the writer takes (R408). -/
def State.dumpSlot (s : State) (c : Ctx) : Except Halt (Option Nat) :=
  ((List.range c.dn).map fun i => (c.dumpNext + i) % c.dn).foldl (fun (r : Except Halt (Option Nat)) i => r.bind fun x =>
    match x with
    | some n => .ok (some n)
    | none => (s.ctxRead c.id (c.dbase + BitVec.ofNat 64 (i * c.dslot)) 4).map fun v =>
        if leNat v = 0 then some i else none) (.ok none)

/-- A dump that cannot be written is lost (R408). -/
def State.dumpLost (s : State) (ctx n : Nat) : State :=
  s.post [⟨ctx, 10, n / 4 / 256, n % 4 + n / 4 % 256 * 256, 0⟩]

/-- How far a dump is. -/
def State.dumpAt (s : State) (r : DumpRun) (i : Nat) : State :=
  { s with dumps := s.dumps.map fun x => if x.quarter == r.quarter && x.ctx == r.ctx then { x with at_ := i } else x }

/-- A dump is over. -/
def State.dumpOver (s : State) (r : DumpRun) : State :=
  { s with dumps := s.dumps.filter fun x => !(x.quarter == r.quarter && x.ctx == r.ctx) }

/-- Write bytes of a dump page by page, up to the first page that cannot be reached (R417). -/
def State.dumpPages (s : State) (die ctx : Nat) : List (DWord × Nat) → List Byte → State × Option Halt
  | [], _ => (s, none)
  | (va, n) :: r, v =>
    match runVa s (s.rootOf ctx) va n true with
    | .ok _ => (s.cpRecord die ctx va (v.take n)).dumpPages die ctx r (v.drop n)
    | .error h => (s, some h)

/-- The place of a dump in its context's dump area (R408). -/
def DumpRun.base (r : DumpRun) (c : Ctx) : DWord := c.dbase + BitVec.ofNat 64 (r.slot * c.dslot)

/-- A section of a dump fits its slot (R408). -/
def dumpFits (c : Ctx) (lens : List Nat) (k : Nat) : Bool := decide ((sectionOffs lens).getD k 0 + lens.getD k 0 ≤ c.dslot)

/-- The bytes of one step of a dump, and where they lie: the header, a section that fits, or the SECT word after it. -/
def State.dumpStep (s : State) (c : Ctx) (r : DumpRun) (secs : List (List Byte)) : DWord × List Byte :=
  let lens := secs.map (·.length)
  let fits := dumpFits c lens
  let k := (r.at_ - 1) / 2
  if r.at_ = 0 then
    (r.base c, s.dumpHeader c.id r.quarter r.seq (if (List.range 4).all fits then 0 else 2) 0 lens)
  else if !fits k then (r.base c, [])
  else if r.at_ % 2 = 1 then (r.base c + BitVec.ofNat 64 ((sectionOffs lens).getD k 0), secs.getD k [])
  else (r.base c + 8, leBytes (maskNat ((List.range (k + 1)).filter fits)) 4)

/-- Go on with a dump: the header, then the sections that fit, in order, each followed by its SECT bit; what is written
before a bit is performed first (R407). A fault abandons it with the sections written so far (R379, R417). -/
def State.dumpGo (s : State) (c : Ctx) (r : DumpRun) (secs : List (List Byte)) : Nat → Dumped
  | 0 => .done (s.dumpOver r)
  | fuel + 1 =>
    if 9 ≤ r.at_ then .done (s.dumpOver r)
    else if r.at_ != 0 && r.at_ % 2 = 0 && s.books.any fun b => b.ctx == c.id then .busy s
    else
      let die := r.quarter / 4 / 256
      let w := s.dumpStep c r secs
      let p := s.dumpPages die c.id (pageRuns w.1 (w.2.length / 65536 + 2) w.2.length) w.2
      match p.2 with
      | none => (p.1.dumpAt r (r.at_ + 1)).dumpGo c { r with at_ := r.at_ + 1 } secs fuel
      | some (.absent va) => .absent p.1 va
      | some (.trap code va) => .fault (((p.1.abandon r).dumpOver r)) code va
      | some _ => .busy p.1

/-- Write the dump of a quarter for a context, or go on with it (R407, R408). -/
def State.writeDump (s : State) (ctx n : Nat) : Dumped :=
  match s.ctx ctx with
  | none => .done s
  | some c =>
    match s.dumps.find? fun x => x.quarter == n && x.ctx == ctx with
    | some r => s.dumpGo c r (s.dumpSections ctx n) 10
    | none =>
      match s.dumpSlot c with
      | .error (.absent va) => .absent s va
      | .error .busy => .busy s
      | .error _ => .done (s.dumpLost ctx n)
      | .ok none => .done (s.dumpLost ctx n)
      | .ok (some i) =>
        let sq := s.takeSeq (n / 4 / 256)
        let r : DumpRun := { quarter := n, ctx := ctx, slot := i, seq := sq.1, at_ := 0 }
        let s1 := State.setCtx { sq.2 with dumps := sq.2.dumps ++ [r], free := sq.2.free + 1 }
          { c with dumpNext := (i + 1) % c.dn }
        s1.dumpGo c r (s1.dumpSections ctx n) 10

/-- Write the dumps of a quarter for some stopped contexts, as far as their pages are present. -/
def State.writeDumps (s : State) (n : Nat) : List Nat → State × Bool
  | [] => (s, true)
  | ctx :: r =>
    match s.writeDump ctx n with
    | .done s' | .fault s' .. => s'.writeDumps n r
    | .absent s' va => (s'.cpFault ctx (dumpId n) va, false)
    | .busy s' => (s', false)

/-- The contexts of a quarter that are stopped, and whose dump follows the stop. -/
def State.stoppedIn (s : State) (n : Nat) : List Nat :=
  (((s.residents (n / 4) (n % 4)).map fun bi => s.ctxOf (s.band bi)).eraseDups).filter fun c =>
    ((s.ctx c).bind (·.stoppedBy)).isSome

/-- A quarter that escalated for one of these contexts has still to drain: its dump comes first (R407). -/
def State.firstElsewhere (s : State) (n : Nat) (ctxs : List Nat) : Bool :=
  (s.quarterAt n).stopCode == 0 && (ctxs.map s.quartersOf).flatten.any fun m =>
    m != n && (s.quarterAt m).stopCode != 0 && !(s.quarterAt m).drained

/-- DRAIN_COMPLETE: every result of a stopped quarter stands in its table, with the flags that stay busy; after the
broadcast of a stopped context the dump is written (R406, R407). -/
def State.drain (s : State) (n : Nat) : State :=
  if !s.drainReady n || s.pageWaits (dumpId n) then s
  else
    let q := s.quarterAt n
    let old := q.pendTable.filter fun p => p.st != 2
    let s0 := s.setQuarterAt n { q with pendTable := old }
    let es := ((s0.residents (n / 4) (n % 4)).map (s0.busyEntries n)).flatten
    let s1 := s0.setQuarterAt n { q with pendTable := old ++ es }
    let ctxs := s1.stoppedIn n
    if ctxs.isEmpty then s1.setQuarterAt n { s1.quarterAt n with drained := true }
    else if !q.escalated then s
    else if s1.firstElsewhere n ctxs then s
    else
      let left := match s1.dumps.find? fun r => r.quarter == n with
        | some r => ctxs.dropWhile (· != r.ctx)
        | none => ctxs
      let r := s1.writeDumps n left
      if r.2 then r.1.setQuarterAt n { r.1.quarterAt n with drained := true } else r.1

def execDrainComplete (quarter : Nat) (s : State) : Host.Outcome State Fault Refusal := .next (s.drain quarter)

/-! ## The table goes to the registers (R406) -/

/-- One entry of a table is written to the registers of its band, and its flag is done. -/
def State.applyPend (s : State) (p : PendWrite) : State :=
  if p.st = 2 then s
  else
    let b := s.band p.band
    let r : Result :=
      { id := p.id, word := p.pc, flag := p.flag, kind := p.kind, uni := p.kind == 1, dreg := p.dreg, va := p.addr,
        lanes := p.results, conds := p.conds, drst := p.drst }
    let b1 := (b.putResults s.cycle s.free r).sticky s.cycle p.conds
    { s.setBand p.band { b1.setDone p.flag with inFlight := b1.inFlight.filter fun e => e.id != p.id } with
      free := s.free + 1 }

/-- The entries of a band leave the table for its registers. -/
def State.flushBand (s : State) (bi : Nat) : State :=
  let b := s.band bi
  let n := b.core * 4 + b.quarter
  let q := s.quarterAt n
  let s1 := (q.pendTable.filter fun p => p.band == bi).foldl State.applyPend s
  s1.setQuarterAt n { s1.quarterAt n with pendTable := q.pendTable.filter fun p => p.band != bi }

/-- A stopped quarter goes on: its table is written to the registers, and lanes at a BKPT go past it (R405,
R406). -/
def State.resumeQuarter (s : State) (n : Nat) : State :=
  let q := s.quarterAt n
  let s1 := q.pendTable.foldl State.applyPend s
  let s2 := (s1.residents (n / 4) (n % 4)).foldl (fun s bi =>
    let b := s.band bi
    s.setBand bi (b.wake (b.lanesIn fun st => decide (st = .waiting .bkpt)))) s1
  let x := s2.quarterAt n
  s2.setQuarterAt n { x with stopped := false, drained := false, stepping := (s2.core (n / 4)).dbgctl.getLsbD 1,
                             pendTable := [], stopCode := 0 }

end Sys2Proof.Machine
end

