-- ==== Sys2Proof/Machine/Draw.lean ====
section
/-!
DEFINITION. The draw unit (R344 to R354): Philox blocks, DRAW in its four modes, ACCEPT, and the word
GPW that steers the next replay.
-/

namespace Sys2Proof.Machine

/-! ## Philox (R349) -/

/-- The four words of a Philox state or block. -/
structure Quad where
  x0 : Nat
  x1 : Nat
  x2 : Nat
  x3 : Nat
  deriving DecidableEq, Repr

/-- One round under a key. -/
def philoxRound (k0 k1 : Nat) (x : Quad) : Quad :=
  let a := 0xD2511F53 * x.x0
  let b := 0xCD9E8D57 * x.x2
  { x0 := b / 2 ^ 32 ^^^ x.x1 ^^^ k0, x1 := b % 2 ^ 32, x2 := a / 2 ^ 32 ^^^ x.x3 ^^^ k1, x3 := a % 2 ^ 32 }

/-- The rounds that remain. -/
def philoxRounds : Nat → Nat → Nat → Quad → Quad
  | 0, _, _, x => x
  | n + 1, k0, k1, x =>
    philoxRounds n ((k0 + 0x9E3779B9) % 2 ^ 32) ((k1 + 0xBB67AE85) % 2 ^ 32) (philoxRound k0 k1 x)

/-- Philox4x32-10. -/
def philox (k0 k1 : Nat) (x : Quad) : Quad := philoxRounds 10 k0 k1 x

/-! ## Parameters (R349) -/

/-- The fields of the eight parameter words. -/
structure DrawPs where
  reserved : Nat
  xc : Bool
  k : Nat
  nv : Nat
  beta : Nat
  base : Nat
  stream : Nat
  k0 : Nat
  k1 : Nat
  ctr : Nat
  deriving DecidableEq, Repr

def drawPs (ps : List Word) : DrawPs :=
  let w (i : Nat) : Nat := (ps.getD i 0).toNat
  { reserved := bits (w 0) 19 13, xc := bits (w 0) 18 1 == 1, k := bits (w 0) 11 7, nv := bits (w 0) 0 11,
    beta := w 1, base := w 2, stream := w 3, k0 := w 4, k1 := w 5, ctr := w 6 + 2 ^ 32 * w 7 }

/-- The block of a counter value and a first word. -/
def DrawPs.block (p : DrawPs) (n a : Nat) : Quad :=
  philox p.k0 p.k1 { x0 := a, x1 := bits n 0 32, x2 := bits n 32 32, x3 := p.stream }

/-- u(w) = w[31:8] · 2^−24 (R349). -/
def uniformOf (w : Nat) : Fp := .fin false (w / 256) (-24)

/-- The value checks of R353. -/
def DrawPs.bad (p : DrawPs) (mode : DrawMode) : Bool :=
  let beta := fF32.val false p.beta
  decide (p.nv = 0) || decide (1024 < p.nv) || decide (p.reserved ≠ 0) ||
    (decide (mode = .topk) && (decide (p.k = 0) || decide (64 < p.k))) ||
    (decide (mode ≠ .greedy) && (beta.isNan || beta.isInf || beta.isZero || beta.isNeg)) ||
    (decide (mode = .flat) && !p.xc) || decide (0xFFFFFFFF ≤ p.base + p.nv - 1)

/-! ## Scores (R350) -/

def negInf : Nat := 0xFF800000
def maxF32 : Nat := 0x7F7FFFFF

/-- Saturate an f32 code to the finite range. -/
def satF32 (c : Nat) : Nat :=
  match fF32.val false c with
  | .inf neg => if neg then 0xFF7FFFFF else maxF32
  | _ => c

def roundF (x : Fp) : Nat := (fF32.round .rne false x).1
def valF (c : Nat) : Fp := fF32.val false c

/-- A logit as read: its score and whether it was NaN or +∞. -/
def score (p : DrawPs) (scaled : Bool) (z : Nat) : Nat × Bool × Bool :=
  let v := valF z
  let nan := v.isNan
  let inf := decide (v = .inf false)
  let z := if nan then negInf else if inf then maxF32 else z
  (if scaled && !(valF z).isInf then satF32 (roundF ((valF z).mul (valF p.beta))) else z, nan, inf)

/-- The scores of the logits of an accumulator (R346). -/
def scores (p : DrawPs) (scaled : Bool) (x : Acc) : List (Nat × Bool × Bool) :=
  (List.range p.nv).map fun i => score p scaled (x.elem (i / 32) (i % 32))

/-- The score is not −∞. -/
def alive (s : Nat) : Bool := s != negInf

/-- The largest score comes first, the lower index among equals (R350, R351). -/
def bestIndex (s : Array Nat) : List Nat → Option Nat
  | [] => none
  | i :: r => some (r.foldl (fun a j => if (valF (s.getD a 0)).lt (valF (s.getD j 0)) then j else a) i)

/-- The members of the live set that top-k permits (R350). -/
def topk (s : Array Nat) (k : Nat) (live : List Nat) : List Nat :=
  live.filter fun i => decide ((live.filter fun j =>
    (valF (s.getD i 0)).lt (valF (s.getD j 0)) ||
      (decide (j < i) && !(valF (s.getD j 0)).lt (valF (s.getD i 0)))).length < k)

/-- The running sums of a list of weights: c[0] = e[0], then each rounded once. -/
def chain : List Nat → List Nat
  | [] => []
  | e :: r => e :: (r.foldl (fun (a : Nat × List Nat) x =>
      let c := roundF ((valF a.1).add (valF x)); (c, c :: a.2)) (e, [])).2.reverse

/-- The weight is above zero. -/
def positive (e : Nat) : Bool := Fp.zero.lt (valF e)

/-- The choice among weights by a uniform variate, and whether the threshold rounded up (R350). -/
def chooseBy (es : List Nat) (w : Nat) : Nat × Bool :=
  let cs := chain es
  let t := roundF ((uniformOf w).mul (valF (cs.getLastD 0)))
  let idx := (es.zip cs).mapIdx fun i p => (i, p)
  match idx.find? fun p => positive p.2.1 && (valF t).lt (valF p.2.2) with
  | some p => (p.1, false)
  | none =>
    match (idx.filter fun p => positive p.2.1).getLast? with
    | some p => (p.1, true)
    | none => (0, true)

/-- The weights e[i] of the permitted indices, +0 elsewhere (R350). -/
def weights (s : Array Nat) (n : Nat) (permitted : List Nat) : List Nat :=
  match bestIndex s permitted with
  | none => List.replicate n 0
  | some b =>
    let m := valF (s.getD b 0)
    let on : Array Bool := (permitted.foldl (fun a i => a.setIfInBounds i true)
      (Array.replicate n false))
    (List.range n).map fun i =>
      if on.getD i false then (sfu .ex2 false (roundF ((valF (s.getD i 0)).add m.neg))).1 else 0

/-- LG2 of an exact value m · 2^e below 1 (R350). -/
def lg2Exact (m : Nat) (e : Int) : Nat :=
  let top := (Nat.log2 m : Int) + e
  if m = 2 ^ Nat.log2 m then (sfuRound false (Fp.ofInt top)).1
  else (sfuInexact false ((Fp.ofInt top).add (sfuPoly lg2Table 64 0 (fracOf m)))).1

/-- Negate an f32 code. -/
def negCode (c : Nat) : Nat := if c < 2 ^ 31 then c + 2 ^ 31 else c - 2 ^ 31

/-- The Gumbel key of a logit (R350). -/
def flatKey (p : DrawPs) (s i : Nat) : Nat :=
  let w := (p.block p.ctr (p.base + i)).x0
  let inner := lg2Exact (2 * (w / 256) + 1) (-25)
  let outer := (sfu .lg2 false (negCode inner)).1
  satF32 (roundF ((valF s).add (valF outer).neg))

/-- A result: the pair's low and high words, and DRST. -/
structure Drawn where
  id : Nat
  value : Nat
  drst : Nat
  deriving DecidableEq, Repr

/-- −0 is written as +0. -/
def plusZero (c : Nat) : Nat := if c = 0x80000000 then 0 else c

def bitIf (b : Bool) (v : Nat) : Nat := if b then v else 0

/-- NANSEEN and INFSEEN. -/
def seen (l : List (Nat × Bool × Bool)) : Nat := bitIf (l.any (·.2.1)) 1 + bitIf (l.any (·.2.2)) 4

/-- The result of a DRAW (R350); `n` is its counter value. -/
def drawResult (mode : DrawMode) (p : DrawPs) (n : Nat) (x : Acc) : Drawn :=
  let l := scores p (decide (mode ≠ .greedy)) x
  let s := (l.map (·.1)).toArray
  let live := (List.range p.nv).filter fun i => alive (s.getD i negInf)
  let permitted := if mode = .topk then topk s p.k live else live
  let st := seen l
  match bestIndex s permitted with
  | none => { id := 0xFFFFFFFF, value := negInf, drst := st + 2 }
  | some b =>
    match mode with
    | .greedy => { id := p.base + b, value := plusZero (s.getD b 0), drst := st }
    | .temp | .topk =>
      let c := chooseBy (weights s p.nv permitted) (p.block n 0xFFFFFFFF).x0
      { id := p.base + c.1, value := plusZero (s.getD c.1 0), drst := st + bitIf c.2 128 }
    | .flat =>
      let keys := (Array.replicate p.nv 0).mapIdx fun i _ =>
        if permitted.contains i then flatKey p (s.getD i 0) i else 0
      let b := (bestIndex keys permitted).getD 0
      { id := p.base + b, value := plusZero (keys.getD b 0), drst := st }

/-- The result of an ACCEPT (R352). -/
def acceptResult (p : DrawPs) (n drafted : Nat) (xp xq : Acc) : Drawn :=
  let lp := scores p true xp
  let lq := scores p true xq
  let sp := (lp.map (·.1)).toArray
  let sq := (lq.map (·.1)).toArray
  let livep := (List.range p.nv).filter fun i => alive (sp.getD i negInf)
  let liveq := (List.range p.nv).filter fun i => alive (sq.getD i negInf)
  let st := seen (lp ++ lq)
  if livep.isEmpty then { id := 0xFFFFFFFF, value := 0, drst := st + 2 }
  else
    let ep := weights sp p.nv livep
    let eq := weights sq p.nv liveq
    let tp := valF ((chain ep).getLastD 0)
    let tq := valF ((chain eq).getLastD 0)
    let inside := decide (p.base ≤ drafted) && decide (drafted < p.base + p.nv)
    let j := drafted - p.base
    let at_ (l : List Nat) : Fp := if inside then valF (l.getD j 0) else Fp.zero
    let blk := p.block n 0xFFFFFFFF
    let st := st + bitIf (!inside) 32
    if (((uniformOf blk.x0).mul (at_ eq)).mul tp).lt ((at_ ep).mul tq) then
      { id := drafted, value := 1, drst := st + 8 }
    else
      let r := (ep.zip eq).map fun e =>
        let d := ((valF e.1).mul tq).add ((valF e.2).mul tp).neg
        if d.isNeg then 0 else roundF d
      if r.all fun v => (valF v).isZero then
        let c := chooseBy ep blk.x1
        { id := p.base + c.1, value := 0, drst := st + 64 + bitIf c.2 128 }
      else
        let c := chooseBy r blk.x1
        { id := p.base + c.1, value := 0, drst := st + 16 + bitIf c.2 128 }

/-! ## The words -/

/-- The eight parameter words as read at issue (R349). -/
def Band.params (b : Band) (x : Ex) (ps : SReg) : List Word :=
  (List.range 8).map fun i => b.ru x (ps + BitVec.ofNat 5 i)

/-- Code 0x10 for an accumulator not held comes before the value checks (R353). -/
def drawTrap (held : State → Bool) (sub : Nat) (mode : DrawMode) (ps : SReg) (s : State) (x : Ex) :
    Option Trap :=
  if !held s then some (syncTrap 0x10 sub 0 x.pc)
  else if (drawPs (s.me.params x ps)).bad mode then some (syncTrap 0x01 0 0 x.pc)
  else none

/-- A word of the draw unit enters the sequencer; its result will be written in every lane of V. -/
def State.enterDraw (s : State) (x : Ex) (sb : Flag) (d : Reg) (op : SeqOp) : State :=
  let s1 := s.enter x sb op
  s1.setMe (s1.me.fly s.nextId .matrix x.v (gs 2 d))

def execDraw (h : Hdr) (mode : DrawMode) (sb : Flag) (d : Reg) (acc : BitVec 3) (ps : SReg) (s : State) :
    Host.Outcome State Fault Refusal :=
  .next (runWord (.draw h mode sb d acc ps) (allLanes (drawTrap (holdsAcc acc) 0x10 mode ps))
    (fun x s => s.enterDraw x sb d (.draw mode d acc (s.me.params x ps))) s)

def execAccept (h : Hdr) (sb : Flag) (d : Reg) (accp accq : BitVec 3) (ps : SReg) (s : State) :
    Host.Outcome State Fault Refusal :=
  .next (runWord (.accept h sb d accp accq ps)
    (allLanes (drawTrap (fun s => holdsAcc accp s && holdsAcc accq s) 0x11 .temp ps))
    (fun x s => s.enterDraw x sb d (.accept d accp accq (s.me.rg x x.low d) (s.me.params x ps))) s)

/-! ## The draw unit performs (R347, R354) -/

/-- The counter value of a draw, which may take DCTR (R347, R349). -/
def State.drawCounter (s : State) (core : Nat) (p : DrawPs) (uses : Bool) : Nat × State :=
  let c := s.core core
  if uses && !p.xc then (c.dctr.toNat, s.setCore { c with dctr := c.dctr + 1 }) else (p.ctr, s)

/-- Write a result and DRST, and complete the flag; a stopped quarter holds them all (R348, R354, R406). -/
def State.drawDone (s : State) (core : Nat) (q : SeqCmd) (d : Reg) (r : Drawn) : State :=
  let s := s.dropSeq core q.id
  (s.deliver q.band
    { id := q.id, word := q.word, flag := q.flag, kind := 4, uni := false, dreg := d.toNat, va := 0,
      lanes := (lanesOf q.lanes).map fun t => (t, [BitVec.ofNat 32 r.id, BitVec.ofNat 32 r.value]),
      drst := some (BitVec.ofNat 32 r.drst) }).finish
        q.band q.id q.flag

/-- Perform a DRAW. -/
def State.doDraw (s : State) (core : Nat) (q : SeqCmd) (mode : DrawMode) (d : Reg) (acc : Nat)
    (ps : List Word) : State :=
  let x := (s.core core).acc acc
  if x.st = .i then s.failSeq core q 0x10 0
  else
    let p := drawPs ps
    let n := s.drawCounter core p (decide (mode = .temp) || decide (mode = .topk))
    n.2.drawDone core q d (drawResult mode p n.1 x)

/-- Perform an ACCEPT. -/
def State.doAccept (s : State) (core : Nat) (q : SeqCmd) (d : Reg) (accp accq : Nat) (drafted : Word)
    (ps : List Word) : State :=
  let xp := (s.core core).acc accp
  let xq := (s.core core).acc accq
  if xp.st = .i ∨ xq.st = .i then s.failSeq core q 0x10 0
  else
    let p := drawPs ps
    let n := s.drawCounter core p true
    n.2.drawDone core q d (acceptResult p n.1 drafted.toNat xp xq)

/-- The command that the draw unit performs next, if its turn has come and no granule of its result is absent (R393). -/
def State.nextDraw (s : State) (core : Nat) : Option SeqCmd :=
  (s.core core).seq.find? fun q => match q.op with
    | .draw _ d .. | .accept d .. =>
      s.seqRuns q && (s.core core).atTurn q && ((s.band q.band).ended || ((s.band q.band).absentIn (gs 2 d)).isEmpty)
    | _ => false

def execDrawPerform (core : Nat) (s : State) : Host.Outcome State Fault Refusal :=
  .next (match s.nextDraw core with
    | some q =>
      match q.op with
      | .draw mode d a ps => (s.doDraw core q mode d a.toNat ps).promptSeq core
      | _ => s
    | none => s)

def execAcceptPerform (core : Nat) (s : State) : Host.Outcome State Fault Refusal :=
  .next (match s.nextDraw core with
    | some q =>
      match q.op with
      | .accept d p q' v ps => (s.doAccept core q d p.toNat q'.toNat v ps).promptSeq core
      | _ => s
    | none => s)

/-! ## GPW (R345) -/

/-- The queue that a band's launch came from. -/
def State.queueOf (s : State) (b : Band) : Option Nat :=
  match s.launchOf b with
  | some l => match l.origin with
    | .cmd q _ => some q
    | _ => none
  | none => none

def execGpw (h : Hdr) (sb : Flag) (n : BitVec 6) (b : Reg) (s : State) :
    Host.Outcome State Fault Refusal :=
  .next (runWord (.gpw h sb n b)
    (allLanes fun s x => if (s.queueOf s.me).isNone then some (syncTrap 0x01 0 0 x.pc) else none)
    (fun x s =>
      match (s.queueOf s.me).bind s.queue with
      | some q => s.setQueue { q with gp := q.gp.setIfInBounds n.toNat (s.me.rg2 x x.low b) }
      | none => s) s)

end Sys2Proof.Machine
end

