-- ==== Sys2Proof/Machine/Float.lean ====
section
/-!
DEFINITION. Floating-point words (R117 to R129): the compare of major 0x1A, the FP pipe of majors
0x20 to 0x24, 0x28 and 0x29, and the special functions of major 0x2A.
-/

namespace Sys2Proof.Machine

/-! ## Shapes -/

/-- What a word computes in one lane: its result words and the conditions raised. -/
abbrev FpFun := Band → Ex → Nat → List Word × Word

/-- An enabled condition traps in its lane with code 0x0D (R108). -/
def fpTrap (f : FpFun) (s : State) (x : Ex) (t : Nat) : Option Trap :=
  let c := (f s.me x t).2
  if enabledCond s.me.fpctl c then some (syncTrap 0x0D (condInfo c) 0 x.pc) else none

/-- The conditions of all the lanes of a mask. -/
def fpConds (f : FpFun) (b : Band) (x : Ex) : Word :=
  (lanesOf x.v).foldl (fun c t => c ||| (f b x t).2) 0

/-- Set the sticky bits of a word that has issued: of every lane of V, trapping lanes too (R108). -/
def fpStick (i : Instr) (f : FpFun) (s : State) (r : State) : State :=
  let x := s.ex i.hdr
  if (preciseTraps s x i).isEmpty then
    r.setMe (r.me.stick (x.now + 5) (fpConds f s.me x))
  else r

/-- Write result `n` of each lane of V into g[D + n], for each n below a count. -/
def State.putWords (s : State) (x : Ex) (lat n : Nat) (d : Reg) (f : FpFun) : State :=
  (List.range n).foldl (fun r i =>
    r.putG x lat (d + BitVec.ofNat 6 i) fun t => (f s.me x t).1.getD i 0) s

/-- A word of the FP pipe with `n` results, written 5 cycles after issue. -/
def fpWord (i : Instr) (d : Reg) (n : Nat) (f : FpFun) (s : State) : Host.Outcome State Fault Refusal :=
  .next (fpStick i f s (runWord i (fpTrap f) (fun x s => s.putWords x 5 n d f) s))

/-- An operation of two f32 operands. -/
def f32op (op : Bool → Nat → Nat → Nat × Word) (a : Reg) (b : Src) : FpFun := fun B x t =>
  let r := op (ftzOf B.fpctl) (B.rg x t a).toNat (B.src x t b).toNat
  ([BitVec.ofNat 32 r.1], r.2)

/-- An operation on both halves of packed operands, the third of them the old g[D] (R121). -/
def packed (op : Bool → Nat → Nat → Nat → Nat × Word) (d a : Reg) (b : Src) : FpFun := fun B x t =>
  let half (i : Nat) (w : Word) : Nat := bits w.toNat (16 * i) 16
  let r (i : Nat) : Nat × Word :=
    op (ftzOf B.fpctl) (half i (B.rg x t a)) (half i (B.src x t b)) (half i (B.rg x t d))
  ([BitVec.ofNat 32 ((r 0).1 + 2 ^ 16 * (r 1).1)], (r 0).2 ||| (r 1).2)

/-! ## FP32 arithmetic (R118 to R120) -/

def execAddF32 (h : Hdr) (d a : Reg) (b : Src) (s : State) : Host.Outcome State Fault Refusal :=
  fpWord (.addF32 h d a b) d 1 (f32op fF32.fadd a b) s

def execSubF32 (h : Hdr) (d a : Reg) (b : Src) (s : State) : Host.Outcome State Fault Refusal :=
  fpWord (.subF32 h d a b) d 1 (f32op fF32.fsub a b) s

def execMulF32 (h : Hdr) (d a : Reg) (b : Src) (s : State) : Host.Outcome State Fault Refusal :=
  fpWord (.mulF32 h d a b) d 1 (f32op fF32.fmul a b) s

/-- The old g[D] is read at issue (R118). -/
def execFmaF32 (h : Hdr) (d a : Reg) (b : Src) (s : State) : Host.Outcome State Fault Refusal :=
  fpWord (.fmaF32 h d a b) d 1 (fun B x t =>
    f32op (fun ftz p q => fF32.ffma ftz p q (B.rg x t d).toNat) a b B x t) s

def execMinF32 (h : Hdr) (d a : Reg) (b : Src) (s : State) : Host.Outcome State Fault Refusal :=
  fpWord (.minF32 h d a b) d 1 (f32op (fun ftz => fF32.fminmax ftz false) a b) s

def execMaxF32 (h : Hdr) (d a : Reg) (b : Src) (s : State) : Host.Outcome State Fault Refusal :=
  fpWord (.maxF32 h d a b) d 1 (f32op (fun ftz => fF32.fminmax ftz true) a b) s

/-- A move that clears the sign bit (R120). -/
def execAbsF32 (h : Hdr) (d a : Reg) (s : State) : Host.Outcome State Fault Refusal :=
  fpWord (.absF32 h d a) d 1 (fun B x t => ([B.rg x t a &&& 0x7FFFFFFF], 0)) s

/-- A move that flips the sign bit (R120). -/
def execNegF32 (h : Hdr) (d a : Reg) (s : State) : Host.Outcome State Fault Refusal :=
  fpWord (.negF32 h d a) d 1 (fun B x t => ([B.rg x t a ^^^ 0x80000000], 0)) s

/-! ## Packed halves (R121) -/

def execAddF16x2 (h : Hdr) (d a : Reg) (b : Src) (s : State) : Host.Outcome State Fault Refusal :=
  fpWord (.addF16x2 h d a b) d 1 (packed (fun ftz p q _ => fF16.fadd ftz p q) d a b) s

def execMulF16x2 (h : Hdr) (d a : Reg) (b : Src) (s : State) : Host.Outcome State Fault Refusal :=
  fpWord (.mulF16x2 h d a b) d 1 (packed (fun ftz p q _ => fF16.fmul ftz p q) d a b) s

def execFmaF16x2 (h : Hdr) (d a : Reg) (b : Src) (s : State) : Host.Outcome State Fault Refusal :=
  fpWord (.fmaF16x2 h d a b) d 1 (packed fF16.ffma d a b) s

def execMaxF16x2 (h : Hdr) (d a : Reg) (b : Src) (s : State) : Host.Outcome State Fault Refusal :=
  fpWord (.maxF16x2 h d a b) d 1 (packed (fun ftz p q _ => fF16.fminmax ftz true p q) d a b) s

def execAddBf16x2 (h : Hdr) (d a : Reg) (b : Src) (s : State) : Host.Outcome State Fault Refusal :=
  fpWord (.addBf16x2 h d a b) d 1 (packed (fun ftz p q _ => fBf16.fadd ftz p q) d a b) s

def execMulBf16x2 (h : Hdr) (d a : Reg) (b : Src) (s : State) : Host.Outcome State Fault Refusal :=
  fpWord (.mulBf16x2 h d a b) d 1 (packed (fun ftz p q _ => fBf16.fmul ftz p q) d a b) s

def execFmaBf16x2 (h : Hdr) (d a : Reg) (b : Src) (s : State) : Host.Outcome State Fault Refusal :=
  fpWord (.fmaBf16x2 h d a b) d 1 (packed fBf16.ffma d a b) s

def execMaxBf16x2 (h : Hdr) (d a : Reg) (b : Src) (s : State) : Host.Outcome State Fault Refusal :=
  fpWord (.maxBf16x2 h d a b) d 1 (packed (fun ftz p q _ => fBf16.fminmax ftz true p q) d a b) s

/-! ## Merge, conversion, block scale (R123 to R126) -/

/-- The triple of registers from r on (R126). -/
def Band.triple (b : Band) (x : Ex) (t : Nat) (r : Reg) : Nat × Nat × Nat :=
  ((b.rg x t r).toNat, (b.rg x t (r + 1)).toNat, (b.rg x t (r + 2)).toNat)

def execPmergeF32 (h : Hdr) (d a b : Reg) (s : State) : Host.Outcome State Fault Refusal :=
  fpWord (.pmergeF32 h d a b) d 3 (fun B x t =>
    let r := pmerge (ftzOf B.fpctl) (B.triple x t a) (B.triple x t b)
    ([BitVec.ofNat 32 r.1.1, BitVec.ofNat 32 r.1.2.1, BitVec.ofNat 32 r.1.2.2], r.2)) s

/-- The source is the low bits of g[A], as wide as its type (R123). -/
def execCvt (h : Hdr) (d a : Reg) (dt st : Fmt) (rz : Bool) (s : State) :
    Host.Outcome State Fault Refusal :=
  fpWord (.cvt h d a dt st rz) d 1 (fun B x t =>
    let ftz := ftzOf B.fpctl
    let r := dt.enc (if rz then .rz else .rne) ftz (st.val ftz (B.rg x t a).toNat)
    ([BitVec.ofNat 32 r.1], r.2)) s

/-- The sign of g[A] is ignored (R125). -/
def execScalex (h : Hdr) (d a : Reg) (t : Fmt) (s : State) : Host.Outcome State Fault Refusal :=
  fpWord (.scalex h d a t) d 1 (fun B x l =>
    let r := blockScale t (fF32.val (ftzOf B.fpctl) (bits (B.rg x l a).toNat 0 31))
    ([BitVec.ofNat 32 r.1], r.2)) s

/-! ## Compare (R122) -/

/-- A condition between f32 values. -/
def fccHolds (cc : FCc) (x y : Fp) : Bool :=
  let un := x.isNan || y.isNan
  match cc with
  | .eq => x.eq y
  | .ne => un || !x.eq y
  | .lt => !un && x.lt y
  | .le => !un && !y.lt x
  | .gt => !un && y.lt x
  | .ge => !un && !x.lt y
  | .un => un
  | .ord => !un

/-- FCMP runs in the integer pipe and raises no condition. -/
def execFcmp (h : Hdr) (cc : FCc) (pd : PReg) (a : Reg) (b : Src) (s : State) :
    Host.Outcome State Fault Refusal :=
  .next (plainWord (.fcmp h cc pd a b) (fun x s => s.putP x 4 pd fun t =>
    let v (w : Word) : Fp := fF32.val (ftzOf s.me.fpctl) w.toNat
    fccHolds cc (v (s.me.rg x t a)) (v (s.me.src x t b))) s)

/-! ## Special functions (R127 to R129) -/

/-- One special function of g[A]. -/
def sfuFun (fn : SfuFn) (a : Reg) : FpFun := fun B x t =>
  let r := sfu fn (ftzOf B.fpctl) (B.rg x t a).toNat
  ([BitVec.ofNat 32 r.1], r.2)

/-- The word goes to the special-function pipe, with the conditions of every lane of V. -/
def State.sfuIssue (s : State) (x : Ex) (d : Reg) (sb : Flag) (f : FpFun) (conds : Word) : State :=
  let n := s.fresh
  let b := (n.2.me.setBusy sb .sfu).fly n.1 .sfu x.v [.g d]
  { n.2.setMe b with
    sfus := n.2.sfus ++ [{ id := n.1, band := s.cur, word := x.pc, d := d, flag := sb, lanes := x.v,
                           vals := (lanesOf x.v).map fun t => (f s.me x t).1.headD 0,
                           conds := stickyOf conds }] }

/-- A special-function word (R127): its result is written by SFU_COMPLETE. If every lane traps, only
the conditions remain (R108); DESIGN CHOICE (log entry 114): they are sticky in the cycle of the issue. -/
def sfuWord (i : Instr) (fn : SfuFn) (d a : Reg) (sb : Flag) (s : State) :
    Host.Outcome State Fault Refusal :=
  let f := sfuFun fn a
  let x := s.ex i.hdr
  let c := fpConds f s.me x
  let r := runWord i (fpTrap f) (fun x s => s.sfuIssue x d sb f c) s
  if (preciseTraps s x i).isEmpty && (lanesOf x.v).all fun t => (fpTrap f s x t).isSome then
    .next (r.setMe (r.me.stick x.now c))
  else .next r

def execEx2F32 (h : Hdr) (d a : Reg) (sb : Flag) (s : State) : Host.Outcome State Fault Refusal :=
  sfuWord (.ex2F32 h d a sb) .ex2 d a sb s

def execLg2F32 (h : Hdr) (d a : Reg) (sb : Flag) (s : State) : Host.Outcome State Fault Refusal :=
  sfuWord (.lg2F32 h d a sb) .lg2 d a sb s

def execRcpF32 (h : Hdr) (d a : Reg) (sb : Flag) (s : State) : Host.Outcome State Fault Refusal :=
  sfuWord (.rcpF32 h d a sb) .rcp d a sb s

def execRsqF32 (h : Hdr) (d a : Reg) (sb : Flag) (s : State) : Host.Outcome State Fault Refusal :=
  sfuWord (.rsqF32 h d a sb) .rsq d a sb s

def execSinF32 (h : Hdr) (d a : Reg) (sb : Flag) (s : State) : Host.Outcome State Fault Refusal :=
  sfuWord (.sinF32 h d a sb) .sin d a sb s

def execCosF32 (h : Hdr) (d a : Reg) (sb : Flag) (s : State) : Host.Outcome State Fault Refusal :=
  sfuWord (.cosF32 h d a sb) .cos d a sb s

/-- The oldest special-function word of a band completes: results in issue order, then its flag and
its sticky bits (R117, R127). -/
def execSfuComplete (bi : Nat) (s : State) : Host.Outcome State Fault Refusal :=
  match s.sfus.find? (·.band == bi) with
  | none => .next s
  | some o =>
    let r : Result :=
      { id := o.id, word := o.word, flag := o.flag, kind := 2, uni := false, dreg := o.d.toNat, va := 0,
        lanes := (lanesOf o.lanes).zip (o.vals.map fun v => [v]), conds := o.conds }
    .next (({ s with sfus := s.sfus.filter fun e => e.id != o.id }.deliver bi r).finish bi o.id o.flag o.conds)

end Sys2Proof.Machine
end

