-- ==== Sys2Proof/Machine/Integer.lean ====
section
/-!
DEFINITION. Integer words, compares, selection, moves and register windows (R69 to R85): majors 0x08
to 0x13, 0x18, 0x19, 0x1B and 0x1C. Every result is written 4 cycles after issue (R18).
-/

namespace Sys2Proof.Machine

/-! ## Shapes -/

/-- A word that writes one general register in each lane of V. -/
def alu (i : Instr) (d : Reg) (f : Band → Ex → Nat → Word) (s : State) :
    Host.Outcome State Fault Refusal :=
  .next (plainWord i (fun x s => s.putG x 4 d (f s.me x)) s)

/-- A word that writes a pair (R7). -/
def alu2 (i : Instr) (d : Reg) (f : Band → Ex → Nat → DWord) (s : State) :
    Host.Outcome State Fault Refusal :=
  .next (plainWord i (fun x s => s.putG2 x 4 d (f s.me x)) s)

/-- A word that writes a predicate; one of p7 is discarded (R6). -/
def aluP (i : Instr) (pd : PReg) (f : Band → Ex → Nat → Bool) (s : State) :
    Host.Outcome State Fault Refusal :=
  .next (plainWord i (fun x s => s.putP x 4 pd (f s.me x)) s)

/-- A divide: code 0x0C in the lanes whose divisor is 0 (R73). -/
def divide (i : Instr) (d a : Reg) (b : Src) (f : Word → Word → Word) (s : State) :
    Host.Outcome State Fault Refusal :=
  .next (runWord i
    (fun s x t => if s.me.src x t b = 0 then some (syncTrap 0x0C 0 0 x.pc) else none)
    (fun x s => s.putG x 4 d fun t => f (s.me.rg x t a) (s.me.src x t b)) s)

/-! ## Values -/

/-- A 32-bit value sign-extended to 64 bits. -/
def sx (a : Word) : DWord := a.signExtend 64

/-- The high half of an unsigned product (R72). -/
def mulHiU (a b : Word) : Word := BitVec.ofNat 32 (a.toNat * b.toNat / 2 ^ 32)

/-- The high half of a signed product (R72). -/
def mulHiS (a b : Word) : Word := ((sx a * sx b) >>> 32).setWidth 32

/-- A shift by the whole of b (R75). -/
def shlBy (a b : Word) : Word := if b.toNat < 32 then a <<< b.toNat else 0
def shrBy (a b : Word) : Word := if b.toNat < 32 then a >>> b.toNat else 0
def sarBy (a b : Word) : Word :=
  if b.toNat < 32 then a.sshiftRight b.toNat else if a.msb then 0xFFFFFFFF else 0

/-- Rotate left (R76). -/
def rotBy (a : Word) (n : Nat) : Word := a.rotateLeft n

/-- Number of bits set (R76). -/
def popc (a : Word) : Word :=
  BitVec.ofNat 32 ((List.range 32).filter fun i => a.getLsbD i).length

/-- Number of leading zeros, 32 for 0 (R76). -/
def clz (a : Word) : Word := BitVec.ofNat 32 (((List.range 32).find? fun i => a.getLsbD (31 - i)).getD 32)

/-- POS and the field's length of a bit-field control (R77). -/
def bfPos (b : Word) : Nat := bits b.toNat 0 5
def bfLen (b : Word) : Nat := min (min (bits b.toNat 8 6) 32) (32 - bfPos b)

/-- The mask of a bit field (R77). -/
def bfMask (b : Word) : Word := BitVec.ofNat 32 ((2 ^ bfLen b - 1) * 2 ^ bfPos b)

def bfxU (a b : Word) : Word := (a &&& bfMask b) >>> bfPos b

def bfxS (a b : Word) : Word :=
  if bfLen b = 0 then 0
  else BitVec.ofInt 32 (signed ((a &&& bfMask b) >>> bfPos b).toNat (bfLen b))

def bfi (old a b : Word) : Word := (old &&& ~~~bfMask b) ||| ((a <<< bfPos b) &&& bfMask b)

/-- One destination byte of BPERM (R78). -/
def bpermByte (a : Word) (c : Nat) (sgn : Bool) : Nat :=
  let byte (i : Nat) : Nat := bits a.toNat (8 * i) 8
  let ext (n : Nat) : Nat := if sgn && decide (8 ≤ n) then n + 0xF0 else n
  if c < 4 then byte c
  else if c < 8 then ext (byte (c - 4) % 16)
  else if c < 12 then ext (byte (c - 8) / 16)
  else if 128 ≤ byte (c - 12) then 0xFF else 0

/-- BPERM (R78). -/
def bperm (a b : Word) : Word :=
  BitVec.ofNat 32 ((List.range 4).foldl (fun r k =>
    r + bpermByte a (bits b.toNat (4 * k) 4) (b.getLsbD (16 + k)) * 2 ^ (8 * k)) 0)

/-! ## Add, subtract, carry (R70, R71) -/

def execAddI32 (h : Hdr) (d a : Reg) (b : Src) (s : State) : Host.Outcome State Fault Refusal :=
  alu (.addI32 h d a b) d (fun B x t => B.rg x t a + B.src x t b) s

def execSubI32 (h : Hdr) (d a : Reg) (b : Src) (s : State) : Host.Outcome State Fault Refusal :=
  alu (.subI32 h d a b) d (fun B x t => B.rg x t a - B.src x t b) s

/-- Both registers are written in the same cycle; g[D+1] carries in and out (R71). -/
def execAddxN32 (h : Hdr) (d a : Reg) (b : Src) (s : State) : Host.Outcome State Fault Refusal :=
  alu2 (.addxN32 h d a b) d (fun B x t =>
    let r := addCarry (B.rg x t a) (B.src x t b) ((B.rg x t (d + 1)).getLsbD 0)
    r.2 ++ r.1) s

def execSubxN32 (h : Hdr) (d a : Reg) (b : Src) (s : State) : Host.Outcome State Fault Refusal :=
  alu2 (.subxN32 h d a b) d (fun B x t =>
    let r := subBorrow (B.rg x t a) (B.src x t b) ((B.rg x t (d + 1)).getLsbD 0)
    r.2 ++ r.1) s

def execAddI64 (h : Hdr) (d a : Reg) (b : Src) (s : State) : Host.Outcome State Fault Refusal :=
  alu2 (.addI64 h d a b) d (fun B x t => B.rg2 x t a + B.src2 x t b) s

def execSubI64 (h : Hdr) (d a : Reg) (b : Src) (s : State) : Host.Outcome State Fault Refusal :=
  alu2 (.subI64 h d a b) d (fun B x t => B.rg2 x t a - B.src2 x t b) s

def execAddI32Imm (h : Hdr) (d a : Reg) (imm : BitVec 9) (s : State) :
    Host.Outcome State Fault Refusal :=
  alu (.addI32Imm h d a imm) d (fun B x t => B.rg x t a + imm.signExtend 32) s

/-! ## Multiply and divide (R72, R73) -/

def execMulwI32 (h : Hdr) (d a : Reg) (b : Src) (s : State) : Host.Outcome State Fault Refusal :=
  alu2 (.mulwI32 h d a b) d (fun B x t => sx (B.rg x t a) * sx (B.src x t b)) s

def execMadwI32 (h : Hdr) (d a : Reg) (b : Src) (s : State) : Host.Outcome State Fault Refusal :=
  alu2 (.madwI32 h d a b) d (fun B x t => B.rg2 x t d + sx (B.rg x t a) * sx (B.src x t b)) s

def execMulI32 (h : Hdr) (d a : Reg) (b : Src) (s : State) : Host.Outcome State Fault Refusal :=
  alu (.mulI32 h d a b) d (fun B x t => B.rg x t a * B.src x t b) s

def execMulhiI32 (h : Hdr) (d a : Reg) (b : Src) (s : State) : Host.Outcome State Fault Refusal :=
  alu (.mulhiI32 h d a b) d (fun B x t => mulHiS (B.rg x t a) (B.src x t b)) s

def execMulhiN32 (h : Hdr) (d a : Reg) (b : Src) (s : State) : Host.Outcome State Fault Refusal :=
  alu (.mulhiN32 h d a b) d (fun B x t => mulHiU (B.rg x t a) (B.src x t b)) s

def execMadI32 (h : Hdr) (d a : Reg) (b : Src) (s : State) : Host.Outcome State Fault Refusal :=
  alu (.madI32 h d a b) d (fun B x t => B.rg x t d + B.rg x t a * B.src x t b) s

def execDivI32 (h : Hdr) (d a : Reg) (b : Src) (s : State) : Host.Outcome State Fault Refusal :=
  divide (.divI32 h d a b) d a b (fun p q => p.sdiv q) s

def execDivN32 (h : Hdr) (d a : Reg) (b : Src) (s : State) : Host.Outcome State Fault Refusal :=
  divide (.divN32 h d a b) d a b (fun p q => p.udiv q) s

def execRemI32 (h : Hdr) (d a : Reg) (b : Src) (s : State) : Host.Outcome State Fault Refusal :=
  divide (.remI32 h d a b) d a b (fun p q => p.srem q) s

def execRemN32 (h : Hdr) (d a : Reg) (b : Src) (s : State) : Host.Outcome State Fault Refusal :=
  divide (.remN32 h d a b) d a b (fun p q => p.umod q) s

/-! ## Logic, minimum and maximum (R74) -/

def execAndB32 (h : Hdr) (d a : Reg) (b : Src) (s : State) : Host.Outcome State Fault Refusal :=
  alu (.andB32 h d a b) d (fun B x t => B.rg x t a &&& B.src x t b) s

def execOrB32 (h : Hdr) (d a : Reg) (b : Src) (s : State) : Host.Outcome State Fault Refusal :=
  alu (.orB32 h d a b) d (fun B x t => B.rg x t a ||| B.src x t b) s

def execXorB32 (h : Hdr) (d a : Reg) (b : Src) (s : State) : Host.Outcome State Fault Refusal :=
  alu (.xorB32 h d a b) d (fun B x t => B.rg x t a ^^^ B.src x t b) s

def execAndnB32 (h : Hdr) (d a : Reg) (b : Src) (s : State) : Host.Outcome State Fault Refusal :=
  alu (.andnB32 h d a b) d (fun B x t => B.rg x t a &&& ~~~B.src x t b) s

/-- The smaller or the larger by an order. -/
def pickBy (lt : Word → Word → Bool) (a b : Word) : Word := if lt b a then b else a

def execMinI32 (h : Hdr) (d a : Reg) (b : Src) (s : State) : Host.Outcome State Fault Refusal :=
  alu (.minI32 h d a b) d (fun B x t => pickBy BitVec.slt (B.rg x t a) (B.src x t b)) s

def execMinN32 (h : Hdr) (d a : Reg) (b : Src) (s : State) : Host.Outcome State Fault Refusal :=
  alu (.minN32 h d a b) d (fun B x t => pickBy BitVec.ult (B.rg x t a) (B.src x t b)) s

def execMaxI32 (h : Hdr) (d a : Reg) (b : Src) (s : State) : Host.Outcome State Fault Refusal :=
  alu (.maxI32 h d a b) d
    (fun B x t => pickBy (fun p q => q.slt p) (B.rg x t a) (B.src x t b)) s

def execMaxN32 (h : Hdr) (d a : Reg) (b : Src) (s : State) : Host.Outcome State Fault Refusal :=
  alu (.maxN32 h d a b) d
    (fun B x t => pickBy (fun p q => q.ult p) (B.rg x t a) (B.src x t b)) s

/-! ## Shifts and counts (R75, R76) -/

def execShlB32 (h : Hdr) (d a : Reg) (b : Src) (s : State) : Host.Outcome State Fault Refusal :=
  alu (.shlB32 h d a b) d (fun B x t => shlBy (B.rg x t a) (B.src x t b)) s

def execShrN32 (h : Hdr) (d a : Reg) (b : Src) (s : State) : Host.Outcome State Fault Refusal :=
  alu (.shrN32 h d a b) d (fun B x t => shrBy (B.rg x t a) (B.src x t b)) s

def execShrI32 (h : Hdr) (d a : Reg) (b : Src) (s : State) : Host.Outcome State Fault Refusal :=
  alu (.shrI32 h d a b) d (fun B x t => sarBy (B.rg x t a) (B.src x t b)) s

def execBpermB32 (h : Hdr) (d a : Reg) (b : Src) (s : State) : Host.Outcome State Fault Refusal :=
  alu (.bpermB32 h d a b) d (fun B x t => bperm (B.rg x t a) (B.src x t b)) s

def execShlB32Imm (h : Hdr) (d a : Reg) (n : BitVec 5) (s : State) :
    Host.Outcome State Fault Refusal :=
  alu (.shlB32Imm h d a n) d (fun B x t => B.rg x t a <<< n.toNat) s

def execShrN32Imm (h : Hdr) (d a : Reg) (n : BitVec 5) (s : State) :
    Host.Outcome State Fault Refusal :=
  alu (.shrN32Imm h d a n) d (fun B x t => B.rg x t a >>> n.toNat) s

def execShrI32Imm (h : Hdr) (d a : Reg) (n : BitVec 5) (s : State) :
    Host.Outcome State Fault Refusal :=
  alu (.shrI32Imm h d a n) d (fun B x t => (B.rg x t a).sshiftRight n.toNat) s

def execRotB32 (h : Hdr) (d a : Reg) (n : BitVec 5) (s : State) :
    Host.Outcome State Fault Refusal :=
  alu (.rotB32 h d a n) d (fun B x t => rotBy (B.rg x t a) n.toNat) s

def execPopcB32 (h : Hdr) (d a : Reg) (s : State) : Host.Outcome State Fault Refusal :=
  alu (.popcB32 h d a) d (fun B x t => popc (B.rg x t a)) s

def execClzB32 (h : Hdr) (d a : Reg) (s : State) : Host.Outcome State Fault Refusal :=
  alu (.clzB32 h d a) d (fun B x t => clz (B.rg x t a)) s

def execAbsI32 (h : Hdr) (d a : Reg) (s : State) : Host.Outcome State Fault Refusal :=
  alu (.absI32 h d a) d (fun B x t => if (B.rg x t a).msb then -(B.rg x t a) else B.rg x t a) s

def execNegI32 (h : Hdr) (d a : Reg) (s : State) : Host.Outcome State Fault Refusal :=
  alu (.negI32 h d a) d (fun B x t => -(B.rg x t a)) s

/-! ## Bit fields and immediates (R77, R79) -/

def execBfxN32 (h : Hdr) (d a : Reg) (b : Src) (s : State) : Host.Outcome State Fault Refusal :=
  alu (.bfxN32 h d a b) d (fun B x t => bfxU (B.rg x t a) (B.src x t b)) s

def execBfxI32 (h : Hdr) (d a : Reg) (b : Src) (s : State) : Host.Outcome State Fault Refusal :=
  alu (.bfxI32 h d a b) d (fun B x t => bfxS (B.rg x t a) (B.src x t b)) s

def execBfiB32 (h : Hdr) (d a : Reg) (b : Src) (s : State) : Host.Outcome State Fault Refusal :=
  alu (.bfiB32 h d a b) d (fun B x t => bfi (B.rg x t d) (B.rg x t a) (B.src x t b)) s

def execMovi (h : Hdr) (d : BitVec 5) (imm : BitVec 16) (s : State) :
    Host.Outcome State Fault Refusal :=
  alu (.movi h d imm) (d.setWidth 6) (fun _ _ _ => imm.setWidth 32) s

def execMovhi (h : Hdr) (d : BitVec 5) (imm : BitVec 16) (s : State) :
    Host.Outcome State Fault Refusal :=
  alu (.movhi h d imm) (d.setWidth 6)
    (fun B x t => imm ++ (B.rg x t (d.setWidth 6)).setWidth 16) s

/-! ## Compares, predicate logic, selection (R80 to R82) -/

def execCmp (h : Hdr) (t : CmpT) (cc : Cc) (pd : PReg) (a : Reg) (b : Src) (s : State) :
    Host.Outcome State Fault Refusal :=
  aluP (.cmp h t cc pd a b) pd (fun B x l =>
    match t with
    | .i32 => cmp32 cc true (B.rg x l a) (B.src x l b)
    | .n32 => cmp32 cc false (B.rg x l a) (B.src x l b)
    | .i64 => cmp64 cc true (B.rg2 x l a) (B.src2 x l b)
    | .n64 => cmp64 cc false (B.rg2 x l a) (B.src2 x l b)) s

def execCmpi (h : Hdr) (cc : Cc) (pd : PReg) (a : Reg) (imm : BitVec 9) (s : State) :
    Host.Outcome State Fault Refusal :=
  aluP (.cmpi h cc pd a imm) pd (fun B x t => cmp32 cc true (B.rg x t a) (imm.signExtend 32)) s

def execSel (h : Hdr) (d a b : Reg) (p : PReg) (s : State) : Host.Outcome State Fault Refusal :=
  alu (.sel h d a b p) d (fun B x t => if B.rp x t p then B.rg x t a else B.rg x t b) s

def execPlop (h : Hdr) (op : Lop) (pd pa : PReg) (na : Bool) (pb : PReg) (nb : Bool) (s : State) :
    Host.Outcome State Fault Refusal :=
  aluP (.plop h op pd pa na pb nb) pd (fun B x t =>
    let p := B.rp x t pa ^^ na
    let q := B.rp x t pb ^^ nb
    match op with
    | .and => p && q
    | .or => p || q
    | .xor => p ^^ q) s

/-! ## Moves (R83) -/

def execMovB32 (h : Hdr) (d a : Reg) (s : State) : Host.Outcome State Fault Refusal :=
  alu (.movB32 h d a) d (fun B x t => B.rg x t a) s

def execMovB64 (h : Hdr) (d a : Reg) (s : State) : Host.Outcome State Fault Refusal :=
  alu2 (.movB64 h d a) d (fun B x t => B.rg2 x t a) s

def execMovLit (h : Hdr) (d : Reg) (lit : Word) (s : State) : Host.Outcome State Fault Refusal :=
  alu (.movLit h d lit) d (fun _ _ _ => lit) s

def execMovB32S (h : Hdr) (d : Reg) (u : SReg) (s : State) : Host.Outcome State Fault Refusal :=
  alu (.movB32S h d u) d (fun B x _ => B.ru x u) s

/-! ## Register windows (R84, R85) -/

/-- XSET drops the reserved bits (R84). -/
def execXset (h : Hdr) (k : BitVec 2) (a : Reg) (s : State) : Host.Outcome State Fault Refusal :=
  .next (plainWord (.xset h k a) (fun x s =>
    s.setMe (s.me.writeLanes (x.now + 4) x.k x.v (.x k) fun t =>
      (s.me.rg x t a &&& 0xFC7F00FF).setWidth 64)) s)

/-- XIDX writes IDX alone and holds an index above 255 at 255 (R84). -/
def execXidx (h : Hdr) (k : BitVec 2) (a : Reg) (s : State) : Host.Outcome State Fault Refusal :=
  .next (plainWord (.xidx h k a) (fun x s =>
    s.setMe (s.me.writeLanes (x.now + 4) x.k x.v (.x k) fun t =>
      (((s.me.getReg t (.x k)).setWidth 32 &&& 0xFFFFFF00) |||
        BitVec.ofNat 32 (min 255 (s.me.rg x t a).toNat)).setWidth 64)) s)

/-- The element that an index register names, resolved at issue (R85). -/
def elementOf (b : Band) (x : Ex) (t : Nat) (k : BitVec 2) : Reg :=
  BitVec.ofNat 6 (xBase (b.rx x t k) + xIdx (b.rx x t k))

def execRdx (h : Hdr) (d : Reg) (k : BitVec 2) (s : State) : Host.Outcome State Fault Refusal :=
  alu (.rdx h d k) d (fun B x t => B.rg x t (elementOf B x t k)) s

/-- Each lane writes the register that its own window names (R85). -/
def execWrx (h : Hdr) (k : BitVec 2) (a : Reg) (s : State) : Host.Outcome State Fault Refusal :=
  .next (plainWord (.wrx h k a) (fun x s =>
    s.setMe ((lanesOf x.v).foldl (fun b t =>
      b.writeLanes (x.now + 4) x.k (laneMask t) (.g (elementOf s.me x t k)) fun _ =>
        (s.me.rg x t a).setWidth 64) s.me)) s)

end Sys2Proof.Machine
end

