-- ==== Sys2Proof/Machine/Digest.lean ====
section
/-!
DEFINITION. The digests that Heartwood computes: SHAKE256 with 512 output bits for images and measurement registers
(R431, R432) and SHA-384 for the certificate chain (R433). The spec names them by their standards; the functions
themselves are taken from FIPS 202 and FIPS 180-4 (PRESUMED, log entry 19).
-/

namespace Sys2Proof.Machine.Digest

/-- A 64-bit word of a list. -/
def at_ (l : List DWord) (i : Nat) : DWord := l.toArray.getD i 0

/-! ## SHAKE256 -/

/-- Rotation of the lane in column x and row y, at x + 5y. -/
def keccakRot : List Nat :=
  [0, 1, 62, 28, 27, 36, 44, 6, 55, 20, 3, 10, 43, 25, 39, 41, 45, 15, 21, 8, 18, 2, 61, 56, 14]

/-- Round constants. -/
def keccakConst : List DWord :=
  [0x1, 0x8082, 0x800000000000808A, 0x8000000080008000, 0x808B,
   0x80000001, 0x8000000080008081, 0x8000000000008009, 0x8A, 0x88,
   0x80008009, 0x8000000A, 0x8000808B, 0x800000000000008B, 0x8000000000008089,
   0x8000000000008003, 0x8000000000008002, 0x8000000000000080, 0x800A, 0x800000008000000A,
   0x8000000080008081, 0x8000000000008080, 0x80000001, 0x8000000080008008]

/-- One round of the permutation on 25 lanes. -/
def keccakRound (a : List DWord) (rc : DWord) : List DWord :=
  let c := (List.range 5).map fun x => (List.range 5).foldl (fun v y => v ^^^ at_ a (x + 5 * y)) 0
  let a1 := (List.range 25).map fun i => at_ a i ^^^ at_ c ((i + 4) % 5) ^^^ (at_ c ((i + 1) % 5)).rotateLeft 1
  let b := (List.range 25).map fun i =>
    let j := (i % 5 + 3 * (i / 5)) % 5 + 5 * (i % 5)
    (at_ a1 j).rotateLeft (keccakRot.toArray.getD j 0)
  let a2 := (List.range 25).map fun i =>
    let y := i / 5 * 5
    at_ b i ^^^ (~~~at_ b (y + (i + 1) % 5) &&& at_ b (y + (i + 2) % 5))
  a2.mapIdx fun i v => if i = 0 then v ^^^ rc else v

/-- The permutation. -/
def keccak (a : List DWord) : List DWord := keccakConst.foldl keccakRound a

/-- A little-endian word of up to eight bytes. -/
def leWord (l : List Byte) : DWord := l.foldr (fun b v => v <<< 8 ||| b.setWidth 64) 0

/-- Absorb blocks of 136 bytes. -/
def absorb : Nat → List DWord → List Byte → List DWord
  | 0, a, _ => a
  | n + 1, a, m =>
    let b := m.take 136
    absorb n (keccak (a.mapIdx fun i v => if i < 17 then v ^^^ leWord ((b.drop (8 * i)).take 8) else v)) (m.drop 136)

/-- What SHAKE256 puts after a message of a length. -/
def shakePad (len : Nat) : List Byte :=
  let n := 136 - len % 136
  if n = 1 then [0x9F] else 0x1F :: (List.replicate (n - 2) 0 ++ [0x80])

/-- SHAKE256 with 512 output bits. -/
def shake256 (m : List Byte) : List Byte :=
  let p := m ++ shakePad m.length
  let a := absorb (p.length / 136) (List.replicate 25 0) p
  ((List.range 8).map fun i => (List.range 8).map fun k => (at_ a i >>> (8 * k)).setWidth 8).flatten

/-- The digest has 64 bytes. -/
theorem shake256_length (m : List Byte) : (shake256 m).length = 64 := rfl

/-! ## SHA-384 -/

/-- Round constants. -/
def shaConst : List DWord :=
  [0x428A2F98D728AE22, 0x7137449123EF65CD, 0xB5C0FBCFEC4D3B2F, 0xE9B5DBA58189DBBC, 0x3956C25BF348B538,
   0x59F111F1B605D019, 0x923F82A4AF194F9B, 0xAB1C5ED5DA6D8118, 0xD807AA98A3030242, 0x12835B0145706FBE,
   0x243185BE4EE4B28C, 0x550C7DC3D5FFB4E2, 0x72BE5D74F27B896F, 0x80DEB1FE3B1696B1, 0x9BDC06A725C71235,
   0xC19BF174CF692694, 0xE49B69C19EF14AD2, 0xEFBE4786384F25E3, 0xFC19DC68B8CD5B5, 0x240CA1CC77AC9C65,
   0x2DE92C6F592B0275, 0x4A7484AA6EA6E483, 0x5CB0A9DCBD41FBD4, 0x76F988DA831153B5, 0x983E5152EE66DFAB,
   0xA831C66D2DB43210, 0xB00327C898FB213F, 0xBF597FC7BEEF0EE4, 0xC6E00BF33DA88FC2, 0xD5A79147930AA725,
   0x6CA6351E003826F, 0x142929670A0E6E70, 0x27B70A8546D22FFC, 0x2E1B21385C26C926, 0x4D2C6DFC5AC42AED,
   0x53380D139D95B3DF, 0x650A73548BAF63DE, 0x766A0ABB3C77B2A8, 0x81C2C92E47EDAEE6, 0x92722C851482353B] ++
  [0xA2BFE8A14CF10364, 0xA81A664BBC423001, 0xC24B8B70D0F89791, 0xC76C51A30654BE30, 0xD192E819D6EF5218,
   0xD69906245565A910, 0xF40E35855771202A, 0x106AA07032BBD1B8, 0x19A4C116B8D2D0C8, 0x1E376C085141AB53,
   0x2748774CDF8EEB99, 0x34B0BCB5E19B48A8, 0x391C0CB3C5C95A63, 0x4ED8AA4AE3418ACB, 0x5B9CCA4F7763E373,
   0x682E6FF3D6B2B8A3, 0x748F82EE5DEFB2FC, 0x78A5636F43172F60, 0x84C87814A1F0AB72, 0x8CC702081A6439EC,
   0x90BEFFFA23631E28, 0xA4506CEBDE82BDE9, 0xBEF9A3F7B2C67915, 0xC67178F2E372532B, 0xCA273ECEEA26619C,
   0xD186B8C721C0C207, 0xEADA7DD6CDE0EB1E, 0xF57D4F7FEE6ED178, 0x6F067AA72176FBA, 0xA637DC5A2C898A6,
   0x113F9804BEF90DAE, 0x1B710B35131C471B, 0x28DB77F523047D84, 0x32CAAB7B40C72493, 0x3C9EBE0A15C9BEBC,
   0x431D67C49C100D4C, 0x4CC5D4BECB3E42B6, 0x597F299CFC657E2A, 0x5FCB6FAB3AD6FAEC, 0x6C44198C4A475817]

/-- The state before the first block. -/
def shaInit : List DWord :=
  [0xCBBB9D5DC1059ED8, 0x629A292A367CD507, 0x9159015A3070DD17, 0x152FECD8F70E5939,
   0x67332667FFC00B31, 0x8EB44A8768581511, 0xDB0C2E0D64F98FA7, 0x47B5481DBEFA4FA4]

def shaSig (x : DWord) (a b c : Nat) : DWord := x.rotateRight a ^^^ x.rotateRight b ^^^ x.rotateRight c
def shaMix (x : DWord) (a b c : Nat) : DWord := x.rotateRight a ^^^ x.rotateRight b ^^^ x >>> c

/-- Further words of the schedule, the newest first. -/
def shaMore (w : List DWord) : Nat → List DWord
  | 0 => w
  | n + 1 => shaMore ((shaMix (at_ w 1) 19 61 6 + at_ w 6 + shaMix (at_ w 14) 1 8 7 + at_ w 15) :: w) n

/-- A big-endian word of up to eight bytes. -/
def beWord (l : List Byte) : DWord := l.foldl (fun v b => v <<< 8 ||| b.setWidth 64) 0

/-- One round: the eight words after a constant and a word of the schedule. -/
def shaRound (h : List DWord) (kw : DWord × DWord) : List DWord :=
  match h with
  | [a, b, c, d, e, f, g, i] =>
    let t := i + shaSig e 14 18 41 + ((e &&& f) ^^^ (~~~e &&& g)) + kw.1 + kw.2
    [t + shaSig a 28 34 39 + ((a &&& b) ^^^ (a &&& c) ^^^ (b &&& c)), a, b, c, d + t, e, f, g]
  | _ => h

/-- Take in blocks of 128 bytes. -/
def shaBlocks : Nat → List DWord → List Byte → List DWord
  | 0, h, _ => h
  | n + 1, h, m =>
    let w := shaMore ((List.range 16).map fun i => beWord ((m.drop (8 * i)).take 8)).reverse 64
    let r := (shaConst.zip w.reverse).foldl shaRound h
    shaBlocks n (h.zipWith (· + ·) r) (m.drop 128)

/-- What SHA-384 puts after a message of a length: a one bit, zeros, and the length in bits. -/
def shaPad (len : Nat) : List Byte :=
  0x80 :: (List.replicate ((128 - (len + 17) % 128) % 128) 0 ++
    (List.range 16).map fun i => BitVec.ofNat 8 (8 * len / 2 ^ (8 * (15 - i))))

/-- SHA-384. -/
def sha384 (m : List Byte) : List Byte :=
  let p := m ++ shaPad m.length
  let h := shaBlocks (p.length / 128) shaInit p
  ((List.range 6).map fun i => (List.range 8).map fun k => (at_ h i >>> (8 * (7 - k))).setWidth 8).flatten

theorem sha384_length (m : List Byte) : (sha384 m).length = 48 := rfl

end Sys2Proof.Machine.Digest
end

