-- ==== Sys2Proof/Machine/Place.lean ====
section
/-!
DEFINITION. A package that holds one launch of one thread, whose next word is given (log entry 11).
The spec loads programs from outside: the host writes an image and page tables into memory and
enqueues a LAUNCH (R143, R435). `placeWord` stands for that load.
-/

namespace Sys2Proof.Machine

/-- A context with no settings (R434, R438). -/
def Ctx.blank (id : Nat) : Ctx :=
  { id := id, ptroot := 0, shtab := 0, wsBase := 0, wsLen := 0, priv := false, shapes := [], rings := [],
    reds := [], tvec := 0, dbase := 0, dslot := 0, dn := 0, dumpNext := 0, logMax := 0, eventRing := 0,
    deflt := .blank, stoppedBy := none, halted := false }

/-- An image that a loader has accepted, with nothing in it but its entry (R41). -/
def Image.blank (entry : DWord) : Image :=
  { addr := 0, entry := entry, gran := 8, peak := 8, bands := 1, scratch := 1024, idempotent := false,
    dataBase := 0, crews := 0, race := false }

/-- A launch of one crew. -/
def Launch.blank (ctx : Nat) (image : Image) : Launch :=
  { ctx := ctx, queue := 0, origin := .cmd 0 0, image := image, cfg := .blank, tvec := 0, args := [],
    nthr := 1, grain := 1, groups := [], parent := none, toPlace := [], stripes := [], spill := [],
    noWork := false, paused := false, ended := false }

/-- Its crew, on core 0. -/
def Crew.blank : Crew :=
  { launch := 0, kind := .range, num := 0, core := 0, q0 := 0, bands := [0], nband := 1, nthr := 1,
    scrOff := 0, scrLen := 1024, barGen := 0, range := none, groups := [], running := true, killed := false, depth := 0 }

/-- The queue whose LAUNCH it is, mapped onto slot 0. -/
def Queue.placed : Queue :=
  { id := 0, ctx := 1, st := .mapped, slot := some 0, since := 0, mapped := 0, sliceOver := false, used := 0, heir := none, stops := [], gp := .replicate 64 0,
    running := some { entry := some 0, op := 1, event := false, params := [], graph := none }, saved := [], log := [] }

/-- Where the page of the placed word lies, in virtual and in physical memory. -/
def codeBase : Nat := 0x800000

/-- Page tables that map the 2 MiB page at `codeBase` to itself, writable and executable (R225). -/
def codeTables (m : Memory) : Memory :=
  let ent (next : Nat) : Nat := 2 ^ 63 + 2 ^ 62 + next
  ((((m.writeLE 0x10000 8 (ent 0x11000)).writeLE 0x11000 8 (ent 0x12000)).writeLE 0x12000 8
    (ent 0x13000)).writeLE (0x13000 + 8 * 4) 8
      (2 ^ 63 + 2 ^ 62 + 2 ^ 61 + 2 ^ 60 + 2 ^ 56 + codeBase))

/-- The partner of a chained word: a word of another pipe that writes nothing (R16). -/
def partnerWord (w : Nat) : Nat :=
  if pipeOf (bits w 21 6) = .control then 0x3B3C0000 else 0x38000000

/-- The packet of the placed word: in slot 2 with its literal, or in slot 1 if it is chained. -/
def codePacket (m : Memory) (w : Nat) : Memory :=
  let w32 := w % 2 ^ 32
  let lit := w / 2 ^ 32 % 2 ^ 32
  let s1 := if chained w32 then w32 else 0x38000000
  let s2 := if chained w32 then partnerWord w32 else w32
  (((m.writeLE codeBase 4 0x000FF004).writeLE (codeBase + 4) 4 s1).writeLE (codeBase + 8) 4 s2).writeLE
    (codeBase + 12) 4 lit

/-- The address of the placed word. -/
def codePc (w : Nat) : DWord := BitVec.ofNat 64 (codeBase + if chained (w % 2 ^ 32) then 4 else 8)

/-- The band that runs it. -/
def codeBand (w : Nat) : Band :=
  { Band.blank with
    lanes := Band.blank.lanes.set 0 { Lane.blank with st := .eligible, pc := codePc w }
    gran := 8, ptroot := 0x10000 }

/-- The state with that launch in place of every other, and with its quarter to move next. -/
def State.placeWord (s : State) (_nbits w : Nat) : State :=
  { s with
    mem := codePacket (codeTables s.mem) w
    ctxs := [{ Ctx.blank 1 with ptroot := 0x10000 }]
    queues := [Queue.placed]
    launches := [Launch.blank 1 (Image.blank (codePc w))]
    crews := [Crew.blank]
    bands := [codeBand w]
    cores := []
    accesses := []
    agenda := [.issue 0 0] }

end Sys2Proof.Machine
end

