-- ==== Sys2Proof/Machine/Queues.lean ====
section
/-!
DEFINITION. User queues and their scheduler (R382, R384, R385), where work stops and how it is saved (R386 to
R391), and how it is restored (R392 to R395).
-/

namespace Sys2Proof.Machine

/-- PRI of a queue, and BSTOP (R382). -/
def State.priOf (s : State) (q : Nat) : Nat := bits (s.qfield q 0x16 1) 0 2
def State.bstop (s : State) (q : Nat) : Bool := bits (s.qfield q 0x16 1) 2 1 == 1

/-! ## Doorbells (R382, R384, R426) -/

/-- QUEUE_DOORBELL: the host writes TAIL, after its earlier writes (R254). -/
def execQueueDoorbell (q : Nat) (tail : Word) (s : State) : Host.Outcome State Fault Refusal :=
  let pa := s.boot.qtab + 64 * q + 0x10
  .next (if 16384 ≤ q then s
    else if s.hostPending then (s.hostWaits 0 (BitVec.ofNat 64 pa) (leBytes tail.toNat 4)).2
    else State.doorbell { s with mem := s.mem.writeLE pa 4 tail.toNat } q)

/-- CONTROL_QUEUE_DOORBELL: the host writes TAIL of the control queue, whose entries are then served (R437). -/
def execControlQueueDoorbell (tail : Word) (s : State) : Host.Outcome State Fault Refusal :=
  let pa := s.boot.ctlq + 0x10
  .next (if s.hostPending then (s.hostWaits 0 (BitVec.ofNat 64 pa) (leBytes tail.toNat 4)).2
    else { s with mem := s.mem.writeLE pa 4 tail.toNat })

/-! ## Slices and the idle state (R384, R385) -/

/-- Cycles of a queue's slice (R382). -/
def State.sliceOf (s : State) (q : Nat) : Nat :=
  let n := s.qfield q 0x17 1
  2 ^ (if n = 0 then 20 else n)

/-- SLICE_END: the slice that began when the queue was mapped, or that it had begun before, is over. -/
def State.sliceEnd (s : State) (q : Nat) : State :=
  match s.queue q with
  | some x =>
    if x.st = .mapped ∧ x.sliceOver = false ∧ x.mapped + s.sliceOf q ≤ (s.localClock 0).toNat + x.used then
      s.setQueue { x with sliceOver := true }
    else s
  | none => s

def execSliceEnd (q : Nat) (s : State) : Host.Outcome State Fault Refusal := .next (s.sliceEnd q)

/-- The queue of a band's launch is this one. -/
def State.ofQueue (s : State) (q bi : Nat) : Bool := ((s.launchOf (s.band bi)).map fun l => l.queue == q).getD false

/-- Work of a queue is outstanding: launches, engine threads, sprouts and repair passes (R384). -/
def State.outstandingOf (s : State) (q : Nat) : Bool :=
  s.launches.any (fun l => l.queue == q && !l.ended) ||
    s.sprouts.any (fun p => s.sproutQueue p == q) ||
    s.engines.any (fun e => s.ofQueue q e.issuer.band) || s.links.any (fun c => s.ofQueue q c.issuer.band) ||
    s.nodes.any (·.queue == q) ||
    s.passes.any fun p => p.queue == q && (match p.st with
      | .waiting _ | .running _ => true
      | _ => false)

/-- A sprout of the context runs that only this mapped queue keeps resident: it would stop with the queue, and counts as
work of it. DESIGN CHOICE (log entry 129). -/
def State.keepsSprouts (s : State) (x : Queue) : Bool :=
  !s.queues.any (fun y => y.ctx == x.ctx && y.id != x.id && decide (y.st = .mapped)) &&
    s.crews.any fun c => c.running && c.kind.isSprout && ((s.launch c.launch).map (·.ctx)) == some x.ctx

/-- A mapped queue without work and without commands is idle again. -/
def State.idleQueue (s : State) (q : Nat) : State :=
  match s.queue q with
  | some x =>
    if x.st = .mapped ∧ x.running = none ∧ x.saved = [] ∧ s.qfield q 0x0C 4 = s.qfield q 0x10 4 ∧
        s.outstandingOf q = false ∧ s.keepsSprouts x = false then
      (s.setQState { x with slot := none, used := 0 } .idle).putQ q 0x21 1 0xFF
    else s
  | none => s

/-- Every mapped queue that has become idle. -/
def State.idleQueues (s : State) : State :=
  ((s.queues.filter fun x => decide (x.st = .mapped)).map (·.id)).foldl State.idleQueue s

/-! ## Where work stops (R386, R387) -/

/-- A wait that is tied to a core is withdrawn: the word is issued again (R387). -/
def Band.withdraw (b : Band) : Band :=
  let b := match b.block with
    | some (.grow _ m w) | some (.claim _ m w) =>
      { b.mapLanes m fun _ l => if l.live then { l with st := .eligible, pc := w, released := false, returned := false } else l with
        block := none, nextPc := 0 }
    | some .page => { b with block := none, paged := none, pageCode := none }
    | _ => b
  b.mapLanes (BitVec.allOnes 32) fun _ l => match l.st with
    | .waiting (.take ..) => { l with st := .eligible, released := false, returned := false }
    | _ => l

/-- A band stops: its region ends or is aborted, what its core alone can end is withdrawn, it takes its pending traps
(R363), and it issues no more. -/
def State.stopBand (s : State) (abort : Bool) (bi : Nat) : State :=
  let b0 := s.band bi
  let s := if abort && b0.rgnOpen && b0.block != some .parked then s.setBand bi b0.abort else s.endRegion bi
  let s := (s.setBand bi (s.band bi).withdraw).takePending bi
  let b := s.band bi
  let mine (f : FaultRec) : Bool := f.band == bi && (f.kind == .fetch || f.kind == .issue)
  let k := s.core b.core
  let s1 : State := State.setCore { s with
    faults := s.faults.filter fun f => !mine f
    slotReqs := s.slotReqs.filter fun r => r.band != bi }
    { k with growQ := k.growQ.filter (· != bi), claimQ := k.claimQ.filter (· != bi) }
  s1.setBand bi { s1.band bi with stopped := true }

/-- The crews that stop with a queue: those of its launches, and the context's sprouts with its last mapped queue;
the crews of repair passes run to the end of their grains. -/
def State.stoppingCrews (s : State) (q : Nat) : List Nat :=
  let ctx := s.queueCtx q
  let last := !s.queues.any fun x => x.ctx == ctx && x.id != q && decide (x.st = .mapped)
  (List.range s.crews.length).filter fun ci => match s.crew ci with
    | some c => c.running && (match s.launch c.launch with
      | some l => (match l.origin with
        | .repair _ => false
        | .sprout _ => l.ctx == ctx && last
        | _ => l.queue == q)
      | none => false)
    | none => false

/-- The crews that a queue stopped and that have not ended since (R386). -/
def State.stoppedCrews (s : State) (x : Queue) : List Nat :=
  x.stops.filter fun ci => ((s.crew ci).map (·.running)).getD false

/-- No grain of a repair launch is delivered after the stop (R386). -/
def State.pauseRepairs (s : State) (q : Nat) : State :=
  (List.range s.launches.length).foldl (fun s li => match s.launch li with
    | some l => (match l.origin with
      | .repair _ =>
        if l.queue == q && !l.ended then
          (s.crewsOf li).foldl (fun s ci => match s.crew ci with
            | some c => c.bands.foldl (fun s bi => s.resumeNoWork bi 32) s
            | none => s) (s.setLaunch li { l with paused := true })
        else s
      | _ => s)
    | none => s) s

/-- A mapped queue is unmapped: it enters state 3, and its units stop. DEDUCED (log entry 122): a slice that has not
ended goes on when the queue returns. -/
def State.beginStop (s : State) (q : Nat) : State :=
  match s.queue q with
  | some x =>
    let cs := s.stoppingCrews q
    let now := (s.localClock 0).toNat
    let s1 := s.setQState { x with used := if x.sliceOver then 0 else x.used + now - x.mapped, stops := cs } .stopping
    let bs := (cs.map fun ci => ((s.crew ci).map (·.bands)).getD []).flatten
    ((bs.filter fun bi => !(s.band bi).ended).foldl (State.stopBand · (s.bstop q)) s1).pauseRepairs q
  | none => s

/-! ## Mapping (R385) -/

/-- A queue waits for a slot: in state 1 or 4, in a context that runs. -/
def State.waits (s : State) (x : Queue) : Bool :=
  (decide (x.st = .waiting) || decide (x.st = .saved)) &&
    ((s.ctx x.ctx).map fun c => c.stoppedBy.isNone && !c.halted).getD false

/-- The waiting queue for which another one was unmapped, once that one has been saved (R385). -/
def State.heirOf (s : State) : Option Queue :=
  s.queues.findSome? fun m => if m.st = .saved then (m.heir.bind s.queue).filter s.waits else none

/-- Of some queues, the one with the smallest PRI, and among equals that which has waited longest (R385). -/
def State.firstOf (s : State) : List Queue → Option Queue
  | [] => none
  | x :: r => some (r.foldl (fun a y =>
      if s.priOf y.id < s.priOf a.id ∨ (s.priOf y.id = s.priOf a.id ∧ y.since < a.since) then y else a) x)

/-- The waiting queue that is mapped next: the one whose slot has been made free, else the first of those that wait. -/
def State.nextWaiting (s : State) : Option Queue := s.heirOf.orElse fun _ => s.firstOf (s.queues.filter s.waits)

/-- The waiting queue that unmaps another one next: no queue is giving way to it yet. -/
def State.nextClaimant (s : State) : Option Queue :=
  s.firstOf (s.queues.filter fun w => s.waits w && s.queues.all fun m => m.heir != some w.id)

/-- The hardware slots that are free. -/
def State.freeSlots (s : State) : List Nat := (List.range 64).filter fun n => s.queues.all fun x => x.slot != some n

/-- The mapped queue that a waiting one unmaps: the largest PRI, the earliest mapped among equals. -/
def State.victim (s : State) (w : Queue) : Option Queue :=
  let pw := s.priOf w.id
  let may (m : Queue) : Bool := decide (m.st = .mapped) && !((s.ctx m.ctx).map (·.halted)).getD false &&
    (decide (pw < s.priOf m.id) || (decide (pw ≤ s.priOf m.id) && m.sliceOver))
  match s.queues.filter may with
  | [] => none
  | x :: r => some (r.foldl (fun a y =>
      if s.priOf a.id < s.priOf y.id ∨ (s.priOf y.id = s.priOf a.id ∧ y.mapped < a.mapped) then y else a) x)

/-! ## The save area (R389 to R391) -/

/-- A number rounded up to 4,096. -/
def up4k (n : Nat) : Nat := (n + 4095) / 4096 * 4096

/-- The length of a crew record. -/
def State.recordLen (s : State) (c : Crew) (mx : Bool) : Nat :=
  1280 + (c.bands.map fun bi => 4096 + 1024 * (s.band bi).gran).sum + c.scrLen + if mx then 0x11100 else 0

/-- Offset of the record of a band within its crew's. -/
def State.bandOff (s : State) (c : Crew) (i : Nat) : Nat :=
  1280 + ((c.bands.take i).map fun bi => 4096 + 1024 * (s.band bi).gran).sum

/-- KIND of a crew record. -/
def crewKindCode (k : CrewKind) : Nat :=
  match k with
  | .resident => 1
  | .sprout _ => 2
  | .repair _ => 3
  | _ => 0

/-- The header of a crew record (R390). The launch identifier is not specified. -/
def State.crewHeader (s : State) (x : SavedCrew) (c : Crew) (mx : Bool) : List Byte :=
  let r := c.range.getD { cur := 0, hi := 0, grain := 0 }
  let cbar := (s.arrivedMask x.crew) != 0
  leBytes (crewKindCode c.kind) 1 ++ leBytes c.nband 1 ++
    leBytes ((if x.gang then 1 else 0) + (if mx then 2 else 0) + if cbar then 4 else 0) 1 ++ leBytes x.gidx 1 ++
    leBytes c.num 4 ++ leBytes x.scrOff 4 ++ leBytes c.scrLen 4 ++ s.freeBytes 54 8 ++
    leBytes r.cur 8 ++ leBytes r.hi 8 ++ leBytes r.grain 8 ++ List.replicate 208 0 ++ x.ksig

/-- The 1 KiB of a granule that is absent, from its record. -/
def State.granuleRecord (s : State) (ctx : Nat) (b : Band) (i : Nat) : Except Halt (List Byte) :=
  match b.saved.find? (·.1 == i) with
  | some (_, va) => s.ctxRead ctx va 1024
  | none => .ok (List.replicate 1024 0)

/-- The writes of a band record at an address; a granule that lies there already is left unwritten (R393). -/
def State.bandWrites (s : State) (ctx bi : Nat) (base : DWord) : Except Halt (List (DWord × List Byte)) :=
  let b := s.band bi
  let a (g : Nat) : DWord := base + BitVec.ofNat 64 (4096 + 1024 * g)
  let gs := (List.range b.gran).filter fun g => !(b.absentGran.getLsbD g && b.saved.contains (g, a g))
  (collect (gs.map fun g =>
    (if b.absentGran.getLsbD g then s.granuleRecord ctx b g else .ok (b.granuleBytes g)).map fun v => (a g, v))).map
      ((base, s.bandControl bi) :: ·)

/-- The writes of a crew record at an address. -/
def State.crewWrites (s : State) (ctx : Nat) (x : SavedCrew) (c : Crew) (base : DWord) :
    Except Halt (List (DWord × List Byte)) :=
  let at_ (o : Nat) : DWord := base + BitVec.ofNat 64 o
  let mx := !x.tiles.isEmpty
  let so := s.bandOff c c.bands.length
  (collect (c.bands.mapIdx fun i bi => s.bandWrites ctx bi (at_ (s.bandOff c i)))).map fun bs =>
    [(at_ 0, s.crewHeader x c mx)] ++ bs.flatten ++ [(at_ so, x.scr.readN 0 c.scrLen)] ++
      if mx then [(at_ (so + c.scrLen), s.mxBytes x)] else []

/-- A crew leaves its core: what it held is free. -/
def State.unplace (s : State) (ci : Nat) (c : Crew) : State :=
  let k := s.core c.core
  let g := (c.bands.map fun bi => (s.band bi).occupies).sum
  let held := k.heldBy ci
  let k1 := held.foldl (fun (k : Core) n => (k.setConv n .blank).setOwner n none) k
  let seq := k1.seq.filter fun q => q.crew != ci
  let gone (f : FaultRec) : Bool := k.seq.any fun q => q.crew == ci && f.kind == .engine q.id
  let s1 : State := State.setCore { s with faults := s.faults.filter fun f => !gone f } { k1 with free := k1.free + g, seq := seq }
  s1.setCrew ci { c with running := false }

/-- The granules of a saved crew are those of its record at an address (R393, R396). -/
def State.fileCrew (s : State) (c : Crew) (base : DWord) : State :=
  (c.bands.mapIdx fun i bi => (i, bi)).foldl (fun (s : State) p =>
    let b := s.band p.2
    s.setBand p.2 { b with
      spilled := false, absentGran := BitVec.ofNat 8 (2 ^ b.gran - 1)
      saved := (List.range b.gran).map fun g => (g, base + BitVec.ofNat 64 (s.bandOff c p.1 + 4096 + 1024 * g)) }) s

/-- The tasks of a launch in the deques go to the distributors of their dies. -/
def State.gatherTasks (s : State) (li : Nat) : State :=
  match s.launch li with
  | some l =>
    let ts := (s.cores.map fun c => (c.deque.filter fun t => t.launch == li).map fun t => (c.id / 256, t)).flatten
    let ks : List Core := s.cores.map fun c => { c with deque := c.deque.filter fun t => t.launch != li }
    State.setLaunch { s with cores := ks } li { l with spill := l.spill ++ ts }
  | none => s

/-- What a save of a queue holds: the crews that stopped, with those that an earlier restore found no room for. -/
def State.toSave (s : State) (x : Queue) : List (SavedCrew × Crew) :=
  (x.saved.filterMap fun y => (s.crew y.crew).map fun c => (y, c)) ++
    (s.stoppedCrews x).filterMap fun ci => (s.crew ci).map fun c => (s.savedOf ci c, c)

/-- The header of a save area (R389). -/
def State.saveHeader (s : State) (x : Queue) (nrec logOff : Nat) : List Byte :=
  leBytes 0x53564131 4 ++ leBytes x.id 2 ++ leBytes x.ctx 2 ++ leBytes nrec 4 ++ leBytes x.log.length 4 ++
    leBytes (((s.ctx x.ctx).map (·.logMax)).getD 0) 4 ++ leBytes 0 4 ++ leBytes 4096 8 ++ leBytes logOff 8 ++
    (x.gp.toList.map fun v => leBytes v.toNat 8).flatten ++ s.freeBytes 55 472

/-- Write the save area of a queue and keep its work (R388 to R391); what stops it is a page of the area that is not
present, or bytes of an earlier record that cannot be read yet. -/
def State.saveQueue (s : State) (x : Queue) : Except Halt State := do
  let q := x.id
  let bs := ((s.stoppedCrews x).map fun ci => ((s.crew ci).map (·.bands)).getD []).flatten
  let s0 := bs.foldl State.flushBand s
  let cs := s0.toSave x
  let area := BitVec.ofNat 64 (s0.qfield q 0x18 8)
  let lens := cs.map fun p => up4k (s0.recordLen p.2 (!p.1.tiles.isEmpty))
  let at_ (i : Nat) : DWord := area + BitVec.ofNat 64 (4096 + (lens.take i).sum)
  let logOff := 4096 + lens.sum
  let recs ← collect (cs.mapIdx fun i p => s0.crewWrites x.ctx p.1 p.2 (at_ i))
  let ws := (area, s0.saveHeader x cs.length logOff) :: recs.flatten ++
    [(area + BitVec.ofNat 64 logOff, s0.freeBytes 56 (16 * x.log.length))]
  match ws.findSome? fun w => match runVa s0 (s0.rootOf x.ctx) w.1 w.2.length true with
    | .error (.absent va) => some va
    | _ => none with
  | some va => .error (.absent va)
  | none =>
    let s1 := ws.foldl (fun (s : State) w => s.cpRecord 0 x.ctx w.1 w.2) s0
    let s2 := (cs.filter fun p => p.2.running).foldl (fun (s : State) p => (s.leaveGrove p.2 p.1.crew).unplace p.1.crew p.2) s1
    let s3 := (cs.mapIdx fun i p => (i, p)).foldl (fun (s : State) e => s.fileCrew e.2.2 (at_ e.1)) s2
    let s4 := ((cs.map fun p => p.2.launch).eraseDups).foldl State.gatherTasks s3
    let s5 := ({ s4 with free := s4.free + 1 } : State).setQState { x with slot := none, stops := [], saved := cs.map (·.1) } .saved
    .ok ((s5.putQ q 0x21 1 0xFF).putQ q 0x24 4 (s5.qfield q 0x24 4 + 1))

/-- The number under which the save of a queue waits for a page. -/
def saveId (q : Nat) : Nat := 2 ^ 65 + q

/-! ## Every collector has acknowledged (R388) -/

/-- A band of the stopping queue acknowledges: what it had in flight is complete, and it has at most sixteen
accesses that wait for pages, or for one that does (R388, R391). -/
def State.acked (s : State) (bi : Nat) : Bool :=
  let left := s.pendingOf bi
  left.all (fun e => e.2.absent || e.2.got.isSome) && decide (left.length ≤ 16) && !s.sfus.any (·.band == bi) && !s.tlbs.any (·.band == bi) &&
    !s.watchOps.any (·.band == bi) && !s.late.any fun e => e.band == bi && s.lateDue { e with hold := false }

/-- The repair launches of a queue have no crew that runs. -/
def State.repairsEnded (s : State) (q : Nat) : Bool :=
  s.crews.all fun c => !c.running || (match s.launch c.launch with
    | some l => (match l.origin with
      | .repair _ => l.queue != q
      | _ => true)
    | none => true)

/-- PREEMPT_COLLECTED: the save area is written, and the queue is saved. -/
def State.preemptCollected (s : State) (q : Nat) : State :=
  match s.queue q with
  | some x =>
    if x.st != .stopping then s
    else
      let bs := ((s.stoppedCrews x).map fun ci => ((s.crew ci).map (·.bands)).getD []).flatten
      if bs.all s.acked && s.repairsEnded q && !s.pageWaits (saveId q) then
        match s.saveQueue x with
        | .ok s' => s'
        | .error (.absent va) => s.cpFault x.ctx (saveId q) va
        | .error _ => s
      else s
  | none => s

def execPreemptCollected (q : Nat) (s : State) : Host.Outcome State Fault Refusal := .next (s.preemptCollected q)

/-! ## Restore (R392 to R395) -/

/-- A run of scratchpad of a core is free. -/
def State.scratchFree (s : State) (core off len : Nat) : Bool :=
  (s.crewsOn core).all fun c => decide (off + len ≤ c.scrOff) || decide (c.scrOff + c.scrLen ≤ off) || c.scrLen == 0 || len == 0

/-- The crew belongs to a gang: it is gang-bound, and its launch is resident (R394). -/
def SavedCrew.inGang (x : SavedCrew) (c : Crew) : Bool := x.gang && decide (c.kind = .resident)

/-- Where a saved crew would stand on a core: quarter of band 0, and offset of its scratchpad, which a gang keeps
(R394). The slots that it held must be free, with no command left on them (R183). -/
def State.roomForSaved (s : State) (core : Nat) (x : SavedCrew) (c : Crew) (race : Bool) : Option (Nat × Nat) :=
  let k := s.core core
  let g := (c.bands.map fun bi => (s.band bi).gran).sum
  let off := if x.inGang c then (if s.scratchFree core x.scrOff c.scrLen then some x.scrOff else none)
    else s.scratchFor core ((c.scrLen + 1023) / 1024) race
  if g ≤ k.free && !s.boot.harvested.contains core && x.tiles.all fun e => k.slotFree e.1 then
    match s.quarterFor core c.nband, off with
    | some q, some o => some (q, o)
    | _, _ => none
  else none

/-- The state of a band at its new place (R392). -/
def Band.place (b : Band) (core quarter slot : Nat) (self : Word) (root : DWord) : Band :=
  { b with core := core, quarter := quarter, slot := slot, grvSelf := self, ptroot := root, stopped := false }

/-- A byte of scratchpad that a saved crew uses, where it lies after the restore: a byte of its allocation keeps its
place there, and one that it reaches through the grove keeps its grove address (R387, R394). -/
def SavedCrew.move (x : SavedCrew) (len core off a : Nat) : Nat :=
  let old := (x.grove * 64 + x.gidx) * 2 ^ 18 + x.scrOff
  if old ≤ a ∧ a < old + len then core * 2 ^ 18 + off + (a - old) else core / 64 * 2 ^ 24 + a % 2 ^ 24

/-- The barrier objects that a band's lanes wait on lie at their new places (R387). -/
def Band.moveObjects (b : Band) (f : Nat → Nat) : Band :=
  b.mapLanes (BitVec.allOnes 32) fun _ l => match l.st with
    | .waiting (.bowait a va tok) => { l with st := .waiting (.bowait (f a) va tok) }
    | _ => l

/-- A transform's barrier object lies at its new place (R310). -/
def EngOp.moveObject (op : EngOp) (f : Nat → Nat) : EngOp :=
  match op with
  | .xform src dst a b xop nt first bo ftz => .xform src dst a b xop nt first (bo.map f) ftz
  | x => x

/-- The engine and link commands of a crew go on from its new core (R386, R392). -/
def State.moveUnits (s : State) (x : SavedCrew) (len : Nat) (bands : List Nat) (core off : Nat) : State :=
  { s with
    engines := s.engines.map fun e =>
      if e.crew == x.crew then { e with core := core, op := e.op.moveObject (x.move len core off) } else e
    links := s.links.map fun c => if bands.contains c.issuer.band then { c with core := core } else c }

/-- Put a saved crew onto a core: scratchpad, matrix state and control state are written back (R392). -/
def State.putCrew (s : State) (core : Nat) (x : SavedCrew) (c : Crew) (ctx : Nat) (at_ : Nat × Nat) : State :=
  let k := s.core core
  let g := (c.bands.map fun bi => (s.band bi).gran).sum
  let slots := s.slotsFor core at_.1 c.nband
  let k1 := x.tiles.foldl (fun (k : Core) e => (k.setTile e.1 e.2).setOwner e.1 (some x.crew)) k
  let k2 := x.accs.foldl (fun (k : Core) e => k.setAcc e.1 e.2) k1
  let k3 := x.convs.foldl (fun (k : Core) e => k.setConv e.1 e.2) k2
  let base := core * 2 ^ 18 + at_.2
  let scr := x.scr.foldl (fun (m : Memory) e => m.write (base + e.1) e.2) (s.scr.zero base c.scrLen)
  let self := BitVec.ofNat 32 (core % 64 * 2 ^ 18 + at_.2)
  let d := s.die (core / 256)
  let s1 : State := (State.setCore { s with scr := scr }
    { k3 with free := k3.free - g, l1 := [], l1ctx := ctx, seq := k3.seq ++ x.seq,
              shadow := k3.shadow.filter fun e => decide (4 * e.1 < at_.2) || decide (at_.2 + c.scrLen ≤ 4 * e.1) }).setDie
      (core / 256) { d with parked := false }
  let s2 := (c.bands.mapIdx fun i bi => (i, bi)).foldl (fun (s : State) p =>
    let sl := slots.getD p.1 (0, 0)
    s.setBand p.2 (((s.band p.2).place core sl.1 sl.2 self (s.rootOf ctx)).moveObjects (x.move c.scrLen core at_.2))) s1
  (s2.moveUnits x c.scrLen c.bands core at_.2).setCrew x.crew { c with core := core, q0 := at_.1, scrOff := at_.2, running := true }

/-- Accesses of a restored band that wait for a page are issued again (R387). -/
def State.reissue (s : State) (bi : Nat) : State :=
  (s.accesses.filter fun a => a.band == bi && a.parts.any fun p => p.absent && !p.done).foldl (fun s a =>
    State.replyAccess { s with faults := s.faults.filter fun f => f.kind != .access a.id } a.id 0 0) s

/-- What the log says of a band, and what follows without it: a parked band replays (R395). -/
def State.applyLog (s : State) (log : List LogEntry) (bi : Nat) : State :=
  let s1 := log.foldl (fun (s : State) e => match e with
    | .reply b va k c =>
      if b = bi then
        (match k with
          | .abort lanes word => if c = 0 then s else s.abortTrap bi lanes word c
          | .access id => s.replyAccess id va c
          | .engine id => if c = 0 then s else s.failUnit id c va
          | _ => s)
      else s
    | .late b t x => if b = bi then s.report bi t x else s) s
  let s2 : State := { s1 with faults := s1.faults.filter fun f => !(f.band == bi && (match f.kind with
    | .abort .. => true
    | _ => false)) }
  let b := s2.band bi
  (if b.block = some .parked then s2.setBand bi { b with block := none } else s2).reissue bi

/-- The entry is about one of these bands. -/
def LogEntry.about (e : LogEntry) (bs : List Nat) : Bool :=
  match e with
  | .reply b .. => bs.contains b
  | .late b .. => bs.contains b

/-- A restored crew leaves the saved ones; what was logged for its bands takes effect. -/
def State.crewBack (s : State) (q : Nat) (x : SavedCrew) (c : Crew) : State :=
  match s.queue q with
  | some y =>
    let s1 := s.setQueue { y with saved := y.saved.filter fun z => z.crew != x.crew,
                                  log := y.log.filter fun e => !e.about c.bands }
    c.bands.foldl (fun (s : State) bi => s.applyLog y.log bi) s1
  | none => s

/-- Restore crews of a launch one after another on the first core that has room; those without room stay saved.
With `all`, none is restored unless each one is. -/
def State.restoreOn (s : State) (cores : List Nat) (l : Launch) (q : Nat) : List (SavedCrew × Crew) → Option State
  | [] => some s
  | p :: r =>
    match cores.find? fun k => (s.roomForSaved k p.1 p.2 l.image.race).isSome with
    | some k =>
      match s.roomForSaved k p.1 p.2 l.image.race with
      | some at_ => ((s.putCrew k p.1 p.2 l.ctx at_).crewBack q p.1 p.2).restoreOn cores l q r
      | none => none
    | none => none

/-- Restore a gang onto a grove: each crew on the core of its index (R394). -/
def State.restoreGang (s : State) (grove : Nat) (l : Launch) (q : Nat) : List (SavedCrew × Crew) → Option State
  | [] => some s
  | p :: r =>
    let k := grove * 64 + p.1.gidx
    match s.roomForSaved k p.1 p.2 l.image.race with
    | some at_ => ((s.putCrew k p.1 p.2 l.ctx at_).crewBack q p.1 p.2).restoreGang grove l q r
    | none => none

/-- The saved crews of a launch in a queue. -/
def State.savedCrews (s : State) (x : Queue) (li : Nat) : List (SavedCrew × Crew) :=
  x.saved.filterMap fun y => (s.crew y.crew).bind fun c => if c.launch = li then some (y, c) else none

/-- Restore a resident launch: every crew at once, each gang on one grove (R392, R394). -/
def State.restoreResident (s : State) (cores : List Nat) (l : Launch) (q : Nat) (ps : List (SavedCrew × Crew)) :
    Option State :=
  let gangs := ((ps.filter fun p => p.1.inGang p.2).map fun p => p.1.grove).eraseDups
  let groves := (cores.map (· / 64)).eraseDups
  let s1 := gangs.foldl (fun (r : Option State) g => r.bind fun s =>
    groves.findSome? fun h => s.restoreGang h l q (ps.filter fun p => p.1.inGang p.2 && p.1.grove == g)) (some s)
  s1.bind fun s => s.restoreOn cores l q (ps.filter fun p => !p.1.inGang p.2)

/-- Restore what can be restored of a launch, from a core on. -/
def State.restoreLaunch (s : State) (q li core : Nat) : State :=
  match s.queue q, s.launch li with
  | some x, some l =>
    let ps := s.savedCrews x li
    let cores := s.awakeFirst (s.launchCores l core)
    if x.st != .mapped || ps.isEmpty then s
    else if l.image.crews != 0 then (s.restoreResident cores l q ps).getD s
    else ps.foldl (fun (s : State) p => (s.restoreOn cores l q [p]).getD s) s
  | _, _ => s

/-- The queue that holds saved crews of a launch. -/
def State.holderOf (s : State) (li : Nat) : Option Nat :=
  (s.queues.find? fun x => decide (x.st = .mapped) && !(s.savedCrews x li).isEmpty).map (·.id)

/-- Restore the work of a queue as it is mapped; repair launches deliver their grains again (R386, R392). -/
def State.restoreQueue (s : State) (q : Nat) : State :=
  match s.queue q with
  | some x =>
    let ls := (x.saved.filterMap fun y => (s.crew y.crew).map (·.launch)).eraseDups
    let s1 := ls.foldl (fun (s : State) li => s.restoreLaunch q li 0) s
    let ns : List Launch := s1.launches.map fun l => if l.queue == q then { l with paused := false } else l
    { s1 with launches := ns }
  | none => s

/-- Map a waiting queue onto a free slot; no queue gives way to it any more. -/
def State.mapQueue (s : State) (x : Queue) (slot : Nat) : State :=
  let s := { s with queues := s.queues.map fun (m : Queue) => if m.heir == some x.id then { m with heir := none } else m }
  let x := { x with heir := none }
  let s1 := (s.setQState { x with slot := some slot, mapped := (s.localClock 0).toNat, sliceOver := false } .mapped).putQ
    x.id 0x21 1 slot
  s1.restoreQueue x.id

/-- QUEUE_MAP: the scheduler maps the queue if its turn has come and a slot is free, or unmaps a victim for it (R385). -/
def State.queueMap (s : State) (q : Nat) : State :=
  match s.freeSlots with
  | n :: _ =>
    match s.nextWaiting with
    | some w => if w.id = q then s.mapQueue w n else s
    | none => s
  | [] =>
    match s.nextClaimant with
    | some w =>
      match if w.id = q then s.victim w else none with
      | some m => (s.setQueue { m with heir := some w.id }).beginStop m.id
      | none => s
    | none => s

def execQueueMap (q : Nat) (s : State) : Host.Outcome State Fault Refusal := .next (s.queueMap q)

/-- CREW_START: a saved crew of the launch is restored, or a new crew starts, from this core on (R139, R143,
R392). -/
def execCrewStart (launch core : Nat) (s : State) : Host.Outcome State Fault Refusal :=
  .next (match s.holderOf launch with
    | some q => s.restoreLaunch q launch core
    | none => s.crewStart launch core)

end Sys2Proof.Machine
end

