-- ==== Sys2Proof/Machine/Package.lean ====
section
/-!
DEFINITION. The commands of the control queue (R437, R438), the power states (R440, R441) and reset with the boot
of Heartwood (R24, R431, R432).
-/

namespace Sys2Proof.Machine

/-! ## A control-queue command that goes on until its condition holds -/

/-- The parameters of the control-queue command under way, if it has this operation. -/
def State.ctlUnder (s : State) (op : Nat) : Option (List DWord) := s.under ctlq op

/-- Start a command of the control queue, or carry on with it. -/
def State.control (s : State) (op : Nat) (start on : State → Nat → List DWord → Did) : State :=
  match s.ctlUnder op with
  | some ps => s.settleCmd ctlq op ps (on s ctlq ps)
  | none => s.command ctlq (fun e => e.op == op) start

/-! ## CTXNEW -/

/-- Two partitions overlap (R221). -/
def partsMeet (a la b lb : Nat) : Bool := la != 0 && lb != 0 && decide (a < b + lb) && decide (b < a + la)

/-- The partition of a context on every die holds zeros (R221, R396). -/
def State.zeroPartition (s : State) (base len : Nat) : State :=
  { s with ws := (List.range 9).foldl (fun (m : Memory) d => m.zero (d * 2 ^ 28 + base) len) s.ws }

/-- The accounting entries of a context are 0 except BALQ (R230). -/
def State.zeroAcct (s : State) (ctx balq : Nat) : State :=
  { s with mem := (List.range 9).foldl (fun (m : Memory) d => m.writeLE (s.acctAt d ctx) 16 (balq * 2 ^ 32)) s.mem }

/-- The fields of CTXNEW obey their rules. -/
def State.ctxnewOk (s : State) (ps : List DWord) : Bool :=
  let base := bits (prm ps 3).toNat 0 32
  let len := bits (prm ps 3).toNat 32 32
  decide (1 ≤ ctxPrm ps) && (s.ctx (ctxPrm ps)).isNone && unusedZero ps [0, 1, 2, 3, 4, 5] &&
    prm ps 1 &&& 0x000FFFFFFFFFF000 == prm ps 1 && canonical (prm ps 2) && (prm ps 2).toNat % 65536 == 0 &&
    base % 2 ^ 20 == 0 && len % 2 ^ 20 == 0 && decide (base + len ≤ 2 ^ 28) &&
    s.ctxs.all fun c => !partsMeet base len c.wsBase c.wsLen

/-- CTXNEW creates a context. -/
def goCtxnew (s : State) (_q : Nat) (ps : List DWord) : Did :=
  let base := bits (prm ps 3).toNat 0 32
  let len := bits (prm ps 3).toNat 32 32
  let c : Ctx :=
    { Ctx.blank (ctxPrm ps) with
      ptroot := prm ps 1, shtab := prm ps 2, wsBase := base, wsLen := len, priv := (prm ps 5).getLsbD 0 }
  Did.unless (s.ctxnewOk ps) s
    (.done (((State.zeroPartition { s with ctxs := s.ctxs ++ [c] } base len)).zeroAcct (ctxPrm ps)
      (bits (prm ps 4).toNat 0 32)) 1)

def execCtxnew (s : State) : Host.Outcome State Fault Refusal :=
  .next (s.command ctlq (fun e => e.op == 0x40) goCtxnew)

/-! ## CTXDEL (R396) -/

/-- Every queue of a context is idle or saved. -/
def State.queuesRest (s : State) (ctx : Nat) : Bool :=
  s.queues.all fun x => x.ctx != ctx || decide (x.st = .idle) || decide (x.st = .saved)

/-- The frames of a context's pages go back: their blocks occupy no sectors (R232, R396). -/
def State.freeFrames (s : State) (ctx : Nat) : State :=
  (s.pages ctx).foldl (fun (s : State) p => match p.frame with
    | some f =>
      if s.compressed f then
        let n := s.sectorsIn f p.len
        let d := s.die (dieOfPa f)
        State.dropFrame (State.setDie { s with mem := s.mem.zero f p.len } (dieOfPa f) { d with pool := d.pool + n }) f p.len
      else s
    | none => s) s

/-- The launches of a context are over, and its crews with them. -/
def State.endWork (s : State) (ctx : Nat) : State :=
  let mine (li : Nat) : Bool := ((s.launch li).map fun l => l.ctx == ctx).getD false
  let ls : List Launch := s.launches.map fun l =>
    if l.ctx == ctx then { l with ended := true, toPlace := [], stripes := [], spill := [] } else l
  let cs : List Crew := s.crews.map fun c => if mine c.launch then { c with running := false, killed := false, range := none } else c
  let ks : List Core := s.cores.map fun c => { c with deque := c.deque.filter fun t => !mine t.launch }
  { s with launches := ls, crews := cs, cores := ks }

/-- What a context had under way is discarded. -/
def State.dropWork (s : State) (ctx : Nat) : State :=
  let bandOf (bi : Nat) : Bool := decide (bi < s.bands.length) && s.ctxOf (s.band bi) == ctx
  let ptes := (s.pages ctx).map (·.pte)
  let cmdOf (c : CmdOp) : Bool := if c.op = opHost then c.queue == 65536 + ctx else c.queue != ctlq && s.queueCtx c.queue == ctx
  let gone : List Nat := (s.accesses.filter fun a => bandOf a.band).map (·.id) ++
    (s.engines.filter fun e => e.ctx == ctx).map (·.id) ++ (s.reqs.filter fun r => r.ctx == ctx).map (·.id) ++
    (s.cmds.filter cmdOf).map (·.id) ++ (s.nodes.filter fun n => n.ctx == ctx).map (·.id) ++
    (s.watchOps.filter fun o => bandOf o.band).map (·.id) ++ (s.links.filter fun c => c.ctx == ctx).map (·.id)
  let s1 := gone.foldl State.unwait s
  { s1 with
    accesses := s1.accesses.filter fun a => !bandOf a.band
    late := s1.late.filter fun e => !bandOf e.band
    faults := s1.faults.filter fun f => f.ctx != ctx
    dumps := s1.dumps.filter fun r => r.ctx != ctx
    reqs := s1.reqs.filter fun r => r.ctx != ctx
    slotReqs := s1.slotReqs.filter fun r => !bandOf r.band
    watchOps := s1.watchOps.filter fun o => !bandOf o.band
    engines := s1.engines.filter fun e => e.ctx != ctx
    nodes := s1.nodes.filter fun n => n.ctx != ctx
    links := s1.links.filter fun c => c.ctx != ctx
    passes := s1.passes.filter fun p => p.ctx != ctx
    cmds := s1.cmds.filter fun c => !cmdOf c
    copies := s1.copies.filter fun c => !ptes.contains c.1
    watches := s1.watches.filter fun w => w.ctx != ctx
    sprouts := s1.sprouts.filter fun p => p.ctx != ctx }

/-- The stop of a quarter that no longer holds a band of a stopped context is over. -/
def State.unescalate (s : State) : State :=
  (s.cores.map (·.id)).foldl (fun s core => (List.range 4).foldl (fun s q =>
    let n := core * 4 + q
    let x := s.quarterAt n
    if x.escalated && (s.stoppedIn n).isEmpty then
      let s1 := s.resumeQuarter n
      s1.setQuarterAt n { s1.quarterAt n with escalated := false }
    else s) s) s

/-- The context goes: everything it held is discarded, and its number becomes free. -/
def State.destroy (s : State) (c : Ctx) : State :=
  let ids := (s.queues.filter fun x => x.ctx == c.id).map (·.id)
  let s1 := ids.foldl (fun (s : State) q => s.putQ q 0x20 1 0) s
  let s2 := (((s1.dropWork c.id).endWork c.id).freeFrames c.id).zeroAcct c.id 0
  (State.zeroPartition { s2 with queues := s2.queues.filter fun x => x.ctx != c.id
                                 ctxs := s2.ctxs.filter fun x => x.id != c.id } c.wsBase c.wsLen).unescalate

/-- CTXDEL waits until the queues of the context rest. The mapped queues of a stopped context are unmapped for it. -/
def goCtxdel (s : State) (_q : Nat) (ps : List DWord) : Did :=
  match s.ctx (ctxPrm ps) with
  | none => .done s 3
  | some c =>
    Did.unless (unusedZero ps [0]) s
      (if s.queuesRest c.id then .done (s.destroy c) 1
      else if c.stoppedBy.isSome then
        .later (((s.queues.filter fun x => x.ctx == c.id && decide (x.st = .mapped)).map (·.id)).foldl State.beginStop s)
      else .later s)

def execCtxdel (s : State) : Host.Outcome State Fault Refusal := .next (s.control 0x41 goCtxdel goCtxdel)

/-! ## POOLSET (R229) -/

def goPoolset (s : State) (_q : Nat) (ps : List DWord) : Did :=
  Did.unless (unusedZero ps [0, 1]) s
    (.done ((maskDies (prm ps 0)).foldl (fun (s : State) d =>
      s.setDie d { s.die d with highMark := bits (prm ps 1).toNat 0 32 }) s) 1)

def execPoolset (s : State) : Host.Outcome State Fault Refusal :=
  .next (s.command ctlq (fun e => e.op == 0x43) goPoolset)

/-! ## HALT, RESUME, DUMP and DBGSET (R397, R403 to R407, R443) -/

/-- Invasive halt is allowed (R443). -/
def State.invasive (s : State) : Bool := s.debug == 2 && decide (s.power ≠ .standby)

/-- The quarters of a context that are stopped by HALT, a step or HBK. -/
def State.haltedQuarters (s : State) (ctx : Nat) : List Nat :=
  (s.quartersOf ctx).filter fun n => (s.quarterAt n).stopped && !(s.quarterAt n).escalated

/-- Every stopped quarter of a list has drained. -/
def State.allDrained (s : State) (ns : List Nat) : Bool := ns.all fun n => (s.quarterAt n).drained

/-- HALT completes when every quarter of the context has drained. -/
def goHalted (s : State) (_q : Nat) (ps : List DWord) : Did :=
  if s.allDrained (s.quartersOf (ctxPrm ps)) then .done s 1 else .later s

/-- HALT stops every quarter that holds a band of the context; with none it halts nothing. -/
def goHalt (s : State) (q : Nat) (ps : List DWord) : Did :=
  match s.ctx (ctxPrm ps) with
  | none => .done s 3
  | some c =>
    let ns := s.quartersOf c.id
    Did.unless (unusedZero ps [0] && s.invasive) s
      (goHalted (ns.foldl (fun s n => s.stopQuarter (n / 4) (n % 4)) (s.setCtx { c with halted := c.halted || !ns.isEmpty })) q ps)

def execHalt (s : State) : Host.Outcome State Fault Refusal := .next (s.control 0x44 goHalt goHalted)

/-- A context without a quarter that HALT stopped is halted no more. -/
def State.unhalt (s : State) : State :=
  let cs : List Ctx := s.ctxs.map fun c => if c.halted && (s.haltedQuarters c.id).isEmpty then { c with halted := false } else c
  { s with ctxs := cs }

/-- RESUME waits for the drain, then writes the tables to the registers and clears the stops. -/
def goResume (s : State) (_q : Nat) (ps : List DWord) : Did :=
  let ns := s.haltedQuarters (ctxPrm ps)
  let live := ((s.ctx (ctxPrm ps)).map (·.stoppedBy.isNone)).getD false
  Did.unless (unusedZero ps [0, 1] && s.invasive && live && !ns.isEmpty) s
    (if !s.allDrained ns then .later s
    else
      let step (s : State) (n : Nat) : State :=
        if (prm ps 1).getLsbD 0 then s.setCore { s.core (n / 4) with dbgctl := (s.core (n / 4)).dbgctl ||| 2 } else s
      .done ((ns.foldl State.resumeQuarter (ns.foldl step s)).unhalt) 1)

def execResume (s : State) : Host.Outcome State Fault Refusal := .next (s.control 0x45 goResume goResume)

/-- A fault while DUMP writes a dump escalates: the context is stopped with code 0x1B, and its quarters, that of the dump
first, write dumps of their own (R379, R407). -/
def State.dumpEscalates (s : State) (ctx n : Nat) (code : Byte) (va : DWord) : State :=
  let s1 := (s.haltedQuarters ctx).foldl (fun (s : State) m =>
    s.setQuarterAt m { s.quarterAt m with drained := false }) s
  (s1.setQuarterAt n { s1.quarterAt n with stopCode := (code.setWidth 16 : BitVec 16) ++ 0#8 ++ (0x1B : Byte) }).stopCtx
    ctx (n / 4 / 256) 0x1B va

/-- Write the dumps of quarters one after another, and say what becomes of the command. DEDUCED (log entry 128):
after a fault it completes with STATUS 4 and code 0x1B. -/
def State.dumpAll (s : State) (ctx : Nat) : List Nat → Did
  | [] => .done s 1
  | n :: r =>
    match s.writeDump ctx n with
    | .done s' => s'.dumpAll ctx r
    | .absent s' va => .later (s'.cpFault ctx (dumpId n) va)
    | .busy s' => .later s'
    | .fault s' c va => .halt (s'.dumpEscalates ctx n c va) (.trap 0x1B va)

/-- The quarters of a context whose dump a DUMP command has still to write: those that it has not done yet. -/
def State.dumpLeft (s : State) (ctx : Nat) (ns : List Nat) : List Nat :=
  match s.dumps.find? fun r => r.ctx == ctx with
  | some r => ns.dropWhile (· != r.quarter)
  | none => ns

/-- DUMP waits for the drain and for pages, then writes the dump of each quarter. -/
def goDump (s : State) (_q : Nat) (ps : List DWord) : Did :=
  let ns := s.haltedQuarters (ctxPrm ps)
  Did.unless (unusedZero ps [0] && s.invasive && !ns.isEmpty) s
    (if !s.allDrained ns || ns.any fun n => s.pageWaits (dumpId n) then .later s
    else s.dumpAll (ctxPrm ps) (s.dumpLeft (ctxPrm ps) ns))

def execDump (s : State) : Host.Outcome State Fault Refusal := .next (s.control 0x46 goDump goDump)

/-- The cores that DBGSET names on a die. -/
def dbgCores (die core : Nat) : List Nat :=
  if core = 0xFFFF then (List.range 256).map (die * 256 + ·) else [die * 256 + core]

/-- DBGSET writes a debug register of the named cores. -/
def goDbgset (s : State) (_q : Nat) (ps : List DWord) : Did :=
  let core := bits (prm ps 1).toNat 0 16
  let reg := bits (prm ps 2).toNat 0 12
  Did.unless (unusedZero ps [0, 1, 2, 3] && (decide (core < 256) || core == 0xFFFF) && decide (0x207 ≤ reg) &&
      decide (reg ≤ 0x20B) && decide (s.security ≠ .locked) && (reg != 0x20B || s.invasive)) s
    (.done (((maskDies (prm ps 0)).map fun d => dbgCores d core).flatten.foldl
      (fun s c => s.putCoreReg c reg (prm ps 3)) s) 1)

def execDbgset (s : State) : Host.Outcome State Fault Refusal :=
  .next (s.command ctlq (fun e => e.op == 0x47) goDbgset)

/-! ## Power (R440, R441) -/

/-- A POWER command of this state. -/
def asksPower (n : Nat) (e : Entry) : Bool := e.op == 0x48 && bits (prm e.ps 0).toNat 0 2 == n

/-- Change every die. -/
def State.mapDies (s : State) (f : Die → Die) : State := { s with dies := s.dies.map f }

/-- POWER with state 0 or 1 sets the clock and wakes every die; a package that leaves standby keeps its dies
parked until work is placed on them. -/
def goClock (p : Power) (s : State) (_q : Nat) (ps : List DWord) : Did :=
  let s1 : State := { s with power := p, clock := p }
  Did.unless (unusedZero ps [0]) s
    (.done (if s.power = .standby then s1 else s1.mapDies fun d => { d with parked := false, parkReq := false }) 1)

def execPowerActive (s : State) : Host.Outcome State Fault Refusal :=
  .next (s.command ctlq (asksPower 0) (goClock .active))

def execPowerReducedClock (s : State) : Host.Outcome State Fault Refusal :=
  .next (s.command ctlq (asksPower 1) (goClock .reduced))

/-- A POWER command with state 2 completes when every named die has parked. -/
def goParked (s : State) (_q : Nat) (ps : List DWord) : Did :=
  if (maskDies (prm ps 1)).any fun d => (s.die d).parkReq then .later s else .done s 1

/-- POWER with state 2: the named dies are to park. -/
def goPark (s : State) (q : Nat) (ps : List DWord) : Did :=
  Did.unless (unusedZero ps [0, 1]) s
    (goParked ((maskDies (prm ps 1)).foldl (fun (s : State) d =>
      if (s.die d).parked then s else s.setDie d { s.die d with parkReq := true }) s) q ps)

def execPowerDiePark (s : State) : Host.Outcome State Fault Refusal :=
  .next (s.command ctlq (asksPower 2) goPark)

/-- No band of any context stands on the die, and its link unit is idle (R440, R441). -/
def State.dieQuiet (s : State) (die : Nat) : Bool :=
  (s.crews.all fun c => !(c.running && c.core / 256 == die)) && s.links.all fun c => c.die != die

/-- The parameters of a POWER command under way with this state. -/
def State.powerUnder (s : State) (n : Nat) : Option (List DWord) :=
  (s.ctlUnder 0x48).bind fun ps => if bits (prm ps 0).toNat 0 2 = n then some ps else none

/-- DIE_PARKED: a die that is to park does so, and the command completes with the last one. -/
def State.diePark (s : State) (die : Nat) : State :=
  let d := s.die die
  if !d.parkReq || !s.dieQuiet die then s
  else
    let s1 := s.setDie die { d with parked := true, parkReq := false }
    match s1.powerUnder 2 with
    | some ps => s1.settleCmd ctlq 0x48 ps (goParked s1 ctlq ps)
    | none => s1

def execDieParked (die : Nat) (s : State) : Host.Outcome State Fault Refusal := .next (s.diePark die)

/-- Some context is halted (R443). -/
def State.anyHalted (s : State) : Bool := s.ctxs.any fun c => c.halted || !(s.haltedQuarters c.id).isEmpty

/-- POWER with state 3 waits for STANDBY_ENTRY, unless a context is halted. -/
def goStandby (s : State) (_q : Nat) (ps : List DWord) : Did := Did.unless (unusedZero ps [0] && !s.anyHalted) s (.later s)

def execPowerStandby (s : State) : Host.Outcome State Fault Refusal :=
  .next (s.command ctlq (asksPower 3) goStandby)

/-- STANDBY_ENTRY: every queue is idle or saved and no sprout is queued, so every die parks (R441). -/
def State.standbyEnters (s : State) : State :=
  match s.powerUnder 3 with
  | some _ =>
    if (s.queues.all fun x => decide (x.st = .idle) || decide (x.st = .saved)) && s.sprouts.isEmpty then
      (State.mapDies { s with power := .standby } fun d => { d with parked := true, parkReq := false }).completeCmd ctlq 1 0
    else s
  | none => s

def execStandbyEntry (s : State) : Host.Outcome State Fault Refusal := .next s.standbyEnters

/-! ## Reset and boot (R24, R431, R432, R441, R442) -/

/-- Extend a measurement register (R432). -/
def Heartwood.extend (h : Heartwood) (n : Nat) (d : List Byte) : Heartwood :=
  { h with mr := h.mr.setIfInBounds n (Digest.shake256 (h.mr.toArray.getD n [] ++ d)) }

/-- The signature of a boot image verifies. The ROM contents of image 2 are hashed in place and carry none. -/
def bootVerifies (n : Nat) : Bool :=
  n == 2 || Config.slhDsaVerify (Digest.shake256 (Config.bootBody n)) (Config.bootSig n)

/-- Heartwood reads the images in order and extends a register by each; a failure is recorded in BOOTST. -/
def Heartwood.boot (k : Nat) : List Nat → Heartwood → Heartwood × Bool
  | [], h => (h, true)
  | n :: r, h =>
    if bootVerifies n then (h.extend n (Digest.shake256 (Config.bootBody n))).boot k r
    else ({ h with bootst := Config.freeWord k (2 ^ 42 + n) }, false)

/-- Memory after reset: the host's memory stays, compressed frames hold nothing, and what uncompressed device
memory holds is not specified. -/
def State.memAfterReset (s : State) : Memory :=
  (s.mem.mapIdx fun i c =>
    if 15 * 2 ^ 48 ≤ c.1 then c
    else (c.1, if s.compressed c.1 ∨ s.boot.manufacturing = true then 0 else Config.freeByte s.free i)).filter
      fun c => c.2 != 0

/-- A weight store or scratchpad after reset: not specified. -/
def memFree (k tag : Nat) (m : Memory) : Memory :=
  (m.mapIdx fun i c => (c.1, Config.freeByte k (tag * 2 ^ 50 + i))).filter fun c => c.2 != 0

/-- With debug-authorized every halted context is stopped and reported (R443). -/
def State.endDebug (s : State) : State :=
  if s.security = .authorized then
    ((s.ctxs.filter fun c => c.halted || !(s.haltedQuarters c.id).isEmpty).map (·.id)).foldl
      (fun (s : State) c => s.stopCtx c 0 0 0) s
  else s

/-- RESET: the state after reset, and the boot of Heartwood; a boot that fails holds the package in standby. -/
def State.resets (s : State) : State :=
  let s0 := s.endDebug
  let h := Heartwood.boot s0.free (List.range 4)
    { Heartwood.blank with bootCount := s0.heart.bootCount + 1, issued := s0.heart.issued }
  let man := s0.boot.manufacturing
  let s1 : State :=
    { State.reset with
      mem := s0.memAfterReset, ws := if man then [] else memFree s0.free 1 s0.ws, scr := memFree s0.free 2 s0.scr,
      boot := { s0.boot with ok := h.2 }, heart := h.1, security := if man then .manufacturing else .locked,
      debug := if man then 2 else 0, free := s0.free + 1, nextId := s0.nextId, agenda := s0.agenda }
  if h.2 then s1
  else State.mapDies { s1 with power := .standby } fun d => { d with parked := true }

def execReset (s : State) : Host.Outcome State Fault Refusal := .next s.resets

end Sys2Proof.Machine
end

