-- ==== Sys2Proof/Machine/Management.lean ====
section
/-!
DEFINITION. Heartwood's management channel (R432, R433, R442), accesses of the host (R426), and failures that
interrupt a job (R234, R423, R430).
-/

namespace Sys2Proof.Machine

/-! ## SPDM (R433)

The spec names the requests and not their layout: header, codes and offsets are those of DMTF DSP0274 (log entry
18), and what stays open is free. -/

/-- The header of an SPDM 1.3 message. -/
def spdmHead (code p1 p2 : Nat) : List Byte := [0x13, BitVec.ofNat 8 code, BitVec.ofNat 8 p1, BitVec.ofNat 8 p2]

/-- ERROR with a code: 0x01 InvalidRequest, 0x04 UnexpectedRequest, 0x07 UnsupportedRequest. -/
def spdmError (code p2 : Nat) : List Byte := spdmHead 0x7F code p2

/-- Heartwood answers a request: both enter the transcript that it signs. -/
def State.answer (s : State) (msg resp : List Byte) : State :=
  { s with heart := { s.heart with transcript := s.heart.transcript ++ msg ++ resp, responses := s.heart.responses ++ [resp] } }

/-- Bytes of the next response that the spec does not lay out. -/
def State.spdmFree (s : State) (code : Nat) : List Byte := Config.spdmBytes code s.heart.responses.length

/-- A request that needs the negotiation to have come so far. -/
def State.answerIf (s : State) (ready : Bool) (msg resp : List Byte) : State :=
  s.answer msg (if ready then resp else spdmError 0x04 0)

/-- GET_VERSION begins a negotiation and its transcript. -/
def State.getVersion (s : State) : State :=
  let msg := [0x10, 0x84, 0, 0]
  let h : Heartwood := { s.heart with transcript := [], version := true, caps := false, algs := false }
  State.answer { s with heart := h } msg ([0x10, 0x04, 0, 0] ++ s.spdmFree 0x04)

def execGetVersion (s : State) : Host.Outcome State Fault Refusal := .next s.getVersion

/-- GET_CAPABILITIES. -/
def State.getCapabilities (s : State) : State :=
  let ok := s.heart.version
  State.answerIf { s with heart := { s.heart with caps := s.heart.caps || ok } } ok (spdmHead 0xE1 0 0)
    (spdmHead 0x61 0 0 ++ s.spdmFree 0x61)

def execGetCapabilities (s : State) : Host.Outcome State Fault Refusal := .next s.getCapabilities

/-- NEGOTIATE_ALGORITHMS: ECDSA P-384 and SHA-384. -/
def State.negotiate (s : State) (msg : List Byte) : State :=
  let ok := s.heart.version && s.heart.caps
  State.answerIf { s with heart := { s.heart with algs := s.heart.algs || ok } } ok msg (spdmHead 0x63 0 0 ++ s.spdmFree 0x63)

def execNegotiateAlgorithms (msg : List Byte) (s : State) : Host.Outcome State Fault Refusal := .next (s.negotiate msg)

/-- The negotiation is complete. -/
def State.negotiated (s : State) : Bool := s.heart.version && s.heart.caps && s.heart.algs

/-- GET_DIGESTS: the digest of the certificate chain in slot 0. -/
def State.getDigests (s : State) : State :=
  s.answerIf s.negotiated (spdmHead 0x81 0 0) (spdmHead 0x01 0 1 ++ Digest.sha384 Config.certificate)

def execGetDigests (s : State) : Host.Outcome State Fault Refusal := .next s.getDigests

/-- GET_CERTIFICATE: the portion of the chain that the request names by offset and length. -/
def State.getCertificate (s : State) (msg : List Byte) : State :=
  let off := field msg 4 2
  let part := sub Config.certificate off (field msg 6 2)
  s.answerIf s.negotiated msg
    (spdmHead 0x02 0 0 ++ leBytes part.length 2 ++ leBytes (Config.certificate.length - off - part.length) 2 ++ part)

def execGetCertificate (msg : List Byte) (s : State) : Host.Outcome State Fault Refusal := .next (s.getCertificate msg)

/-- A response signed over the transcript, the request and itself. -/
def State.signed (s : State) (msg body : List Byte) : List Byte :=
  body ++ Config.ecdsaSign (s.heart.transcript ++ msg ++ body)

/-- CHALLENGE: signed with ECDSA P-384 over the transcript. -/
def State.challenge (s : State) (msg : List Byte) : State :=
  s.answerIf s.negotiated msg
    (s.signed msg (spdmHead 0x03 0 1 ++ Digest.sha384 Config.certificate ++ s.spdmFree 0x03))

def execChallenge (msg : List Byte) (s : State) : Host.Outcome State Fault Refusal := .next (s.challenge msg)

/-- One measurement block: index n reports MR(n − 1). -/
def State.measurement (s : State) (n : Nat) : List Byte :=
  let v := s.heart.mr.toArray.getD (n - 1) []
  leBytes n 1 ++ [1] ++ leBytes (v.length + 3) 2 ++ [0x80] ++ leBytes v.length 2 ++ v

/-- GET_MEASUREMENTS: index 0 asks for the number, 1 to 8 for one, 0xFF for all; bit 0 of the attributes asks for a
signature. -/
def State.getMeasurements (s : State) (index : Nat) (msg : List Byte) : State :=
  let ns := if index = 0xFF then (List.range 8).map (· + 1) else if index = 0 then [] else [index]
  let vs := (ns.map s.measurement).flatten
  let body := spdmHead 0x60 (if index = 0 then 8 else 0) 0 ++ leBytes ns.length 1 ++ leBytes vs.length 3 ++ vs ++ s.spdmFree 0x60
  s.answerIf s.negotiated msg
    (if 8 < index ∧ index ≠ 0xFF then spdmError 0x01 0
    else if bits (field msg 2 1) 0 1 = 1 then s.signed msg body else body)

def execGetMeasurements (index : Nat) (msg : List Byte) (s : State) : Host.Outcome State Fault Refusal :=
  .next (s.getMeasurements index msg)

/-- Any other request receives ERROR with UnsupportedRequest. -/
def execSpdmUnsupportedRequest (msg : List Byte) (s : State) : Host.Outcome State Fault Refusal :=
  .next (s.answer msg (spdmError 0x07 (field msg 1 1)))

/-! ## The debug token (R442, R443) -/

/-- A response to VENDOR_DEFINED_REQUEST. -/
def vendorResponse (payload : List Byte) : List Byte := spdmHead 0x7E 0 0 ++ payload

/-- A request that carries a vendor payload. -/
def vendorRequest (payload : List Byte) : List Byte := spdmHead 0xFE 0 0 ++ payload

/-- Command 0x01: a nonce of 16 bytes, which replaces an earlier one. -/
def State.nonceRequest (s : State) (nonce : List Byte) : State :=
  if nonce.length != 16 then s
  else
    State.answer { s with heart := { s.heart with nonce := some nonce, issued := s.heart.issued + 1 } }
      (vendorRequest [0x01]) (vendorResponse (leBytes s.heart.bootCount.toNat 4 ++ nonce))

def execDebugNonceRequest (nonce : List Byte) (s : State) : Host.Outcome State Fault Refusal := .next (s.nonceRequest nonce)

/-- The status of a token: the checks in the order of their codes. -/
def State.tokenStatus (s : State) (t : List Byte) : Nat :=
  if !Config.ecdsaVerify (sub t 0 64) (sub t 0x40 48) (sub t 0x70 48) then 1
  else if s.heart.nonce ≠ some (sub t 0x28 16) ∨ field t 0x24 4 ≠ s.heart.bootCount.toNat then 2
  else if sub t 0 32 ≠ (s.heart.mr.toArray.getD 1 []).take 32 then 3
  else if (field t 0x20 1 ≠ 1 ∧ field t 0x20 1 ≠ 2) ∨ zeros t 0x21 3 = false ∨ zeros t 0x38 8 = false then 4
  else 0

/-- Command 0x02: an accepted token enters debug-authorized with its level, which is in force where R443 allows it
(DEDUCED, log entry 95); the nonce is used up. -/
def State.token (s : State) (t : List Byte) : State :=
  let msg := vendorRequest ([0x02] ++ t)
  if t.length != 160 then s.answer msg (spdmError 0x01 0)
  else
    let st := s.tokenStatus t
    let s1 : State := { s with heart := { s.heart with nonce := none } }
    let s2 : State :=
      if st = 0 ∧ s.security ≠ .manufacturing then
        { s1 with security := .authorized, debug := field t 0x20 1 }
      else s1
    s2.answer msg (vendorResponse (leBytes st 1))

def execDebugToken (token : List Byte) (s : State) : Host.Outcome State Fault Refusal := .next (s.token token)

/-- The host extends one of MR4 to MR7 (R432). -/
def execMeasurementExtend (n : Nat) (digest : List Byte) (s : State) : Host.Outcome State Fault Refusal :=
  .next (if 4 ≤ n ∧ n ≤ 7 then { s with heart := s.heart.extend n digest } else s)

/-! ## The host (R426, R437) -/

/-- An access of the host meets a page that is not present, or a lack of sectors. One that faults has no effect. -/
def State.hostHalt (s : State) (ctx : Nat) (a : DWord) (v : List Byte) : Halt → State
  | .trap .. => s
  | .absent va =>
    let w := s.hostWaits ctx a v
    w.2.hostFault ctx w.1 va
  | .sectors d l va =>
    let w := s.hostWaits ctx a v
    w.2.waitAt d w.1 l va
  | .busy => (s.hostWaits ctx a v).2

/-- A read of the host, which changes nothing but a page that it touches first. -/
def State.hostRead (s : State) (ctx : Nat) (a : DWord) (n : Nat) : State :=
  if ctx = 0 then s
  else
    match s.ctxRead ctx a n with
    | .ok _ => s
    | .error h => s.hostHalt ctx a [] h

/-- HOST_ACCESS: through the translations of a context, or with 0 through the physical aperture, where a write of
a TAIL is a doorbell, which follows the host's earlier writes (R254). -/
def State.hostAccess (s : State) (ctx : Nat) (a : DWord) (n : Nat) : Option (List Byte) → State
  | none => s.hostRead ctx a n
  | some v =>
    if s.hostPending && s.ringsBell ctx a v then (s.hostWaits ctx a v).2
    else
      match s.hostWrite ctx a v with
      | .error h => s.hostHalt ctx a v h
      | .ok s1 => s1.rung ctx a v

def execHostAccess (ctx : Nat) (addr : DWord) (len : Nat) (data : Option (List Byte)) (s : State) :
    Host.Outcome State Fault Refusal :=
  .next (s.hostAccess ctx addr len data)

/-! ## Die boundaries (R423) -/

/-- The steps of a route along a row and then along a column: the dies that a message passes. -/
def routeDies (a b : Nat) : List Nat :=
  let walk (x y : Nat) : List Nat :=
    if x ≤ y then (List.range (y - x + 1)).map (x + ·) else (List.range (x - y + 1)).map (x - ·)
  ((walk (a % 3) (b % 3)).map fun c => a / 3 * 3 + c) ++ ((walk (a / 3) (b / 3)).drop 1).map fun r => r * 3 + b % 3

/-- The two dies of a boundary: 0 to 5 within the rows, 6 to 11 within the columns. -/
def boundaryDies (n : Nat) : Nat × Nat :=
  if n < 6 then (n / 2 * 3 + n % 2, n / 2 * 3 + n % 2 + 1) else (n - 6, n - 3)

/-- A route crosses a boundary. -/
def crosses (n a b : Nat) : Bool :=
  let e := boundaryDies n
  let r := routeDies a b
  ((r.zip (r.drop 1)).any fun p => p == e || p == (e.2, e.1))

/-- The dies to which an access that has not been performed goes. -/
def Access.dies (a : Access) : List Nat :=
  ((a.parts.filter fun p => !p.done).map fun p => p.locs.filterMap fun l => match l with
    | .mem pa => if dieOfPa pa < 9 then some (dieOfPa pa) else none
    | _ => none).flatten.eraseDups

/-- First and last bytes of the rows and scales of tiles of a tensor, as offsets from its base (R297). -/
def tensorSpots (r : ShapeRec) (tiles : List Nat) : List Int :=
  let ends (o : Int) (n : Nat) : List Int := [o, o + (n - 1 : Nat)]
  ((tiles.filterMap (tileOff r)).map fun o =>
    ((List.range (rExt r 1)).map fun i => ends (o + (i : Int) * rPitch r) (rRowMem r)).flatten ++
      if rSk r = 0 then [] else ends (o + rScb r) (rTileScales r)).flatten

/-- The places that an engine command still reads and writes. -/
def EngOp.places : EngOp → List Place
  | .strm _ base _ _ _ _ first n i r => (tensorSpots r ((List.range (n - i)).map (first + i + ·))).map base.add
  | .xform src dst a b _ nt first _ _ =>
    let ts := (List.range nt).map (first + ·)
    (tensorSpots a ts).map src.add ++ (tensorSpots b ts).map dst.add

/-- The places that a command of the matrix sequencer reads and writes (R195 to R198, R204). -/
def SeqOp.places : SeqOp → List Place
  | .ldt _ _ p r | .stt _ _ p r =>
    (((List.range 32).map fun (i : Nat) => [(i : Int) * rStr r 1, (i : Int) * rStr r 1 + 63]).flatten ++
      if rSk r = 0 then [] else [rScb r, rScb r + (rTileScales r - 1 : Nat)]).map p.add
  | .accld _ _ p | .accst _ _ p .. => [p, p.add 4095]
  | .mxsave _ p .. | .mxrest _ p _ => [p, p.add 0x8000, p.add 0x10000, p.add 0x110FF]
  | _ => []

/-- The places that a command of the link unit uses: its descriptor and its map. -/
def State.linkPlaces (s : State) (c : LinkCmd) : List Place :=
  [resolve s (s.band c.issuer.band) .gen c.desc] ++ match s.linkDesc c 8 with
    | .ok d => [.global (BitVec.ofNat 64 (field d 0 8))]
    | .error _ => []

/-- The places of a COPY or WSLOAD that runs (R434): first and last byte of each page. -/
def Running.places (r : Running) : List Place :=
  let range (va : DWord) (n : Nat) : List Place :=
    (List.range (n / 65536 + 2)).map fun i => .global (va + BitVec.ofNat 64 (min (65536 * i) (n - 1)))
  match r.op with
  | 6 => range (prm r.params 0) (prm r.params 2).toNat ++ range (prm r.params 1) (prm r.params 2).toNat
  | 7 => range (prm r.params 0) (prm r.params 2).toNat
  | _ => []

/-- The die of a place in global memory. -/
def State.dieOfPlace (s : State) (ctx : Nat) : Place → Option Nat
  | .global va => (s.paOf ctx va).bind fun pa => if dieOfPa pa < 9 then some (dieOfPa pa) else none
  | _ => none

/-- What is on its way between two dies, with its context: accesses, entries, and what engines, sequencers, link units and
the command processor of die 0 move. -/
def State.traffic (s : State) : List (Nat × Nat × Nat) :=
  let way (ctx die : Nat) (ps : List Place) : List (Nat × Nat × Nat) :=
    (ps.filterMap (s.dieOfPlace ctx)).eraseDups.map fun d => (ctx, die, d)
  ((s.accesses.map fun a => a.dies.map fun d => (s.ctxOf (s.band a.band), (s.band a.band).core / 256, d)).flatten) ++
    ((s.reqs.filter fun m => m.result.isNone && reqNode m.desc == s.boot.node).map fun m =>
      (m.ctx, (s.band m.band).core / 256, reqDie m.desc)) ++
    (s.engines.map fun e => way e.ctx (e.core / 256) e.op.places).flatten ++
    (s.cores.map fun c => (c.seq.map fun q => way (s.ctxOf (s.band q.band)) (c.id / 256) q.op.places).flatten).flatten ++
    (s.links.map fun c => way c.ctx c.die (s.linkPlaces c)).flatten ++
    (s.queues.map fun x => match x.running with
      | some r => way x.ctx 0 r.places ++ if r.op = 7 then (maskDies (prm r.params 3)).map fun d => (x.ctx, 0, d) else []
      | none => []).flatten

/-- The boundary of a number; one that has had no error is not listed. -/
def State.boundary (s : State) (n : Nat) : Boundary :=
  ((s.boundaries.find? (·.1 == n)).map (·.2)).getD { replays := 0, failed := false }

/-- Change a boundary. -/
def State.setBoundary (s : State) (n : Nat) (b : Boundary) : State :=
  { s with boundaries := (s.boundaries.filter fun x => x.1 != n) ++ [(n, b)] }

/-- FLIT_CRC_ERROR: the flit is replayed. -/
def execFlitCrcError (boundary : Nat) (s : State) : Host.Outcome State Fault Refusal :=
  let b := s.boundary boundary
  .next (if 12 ≤ boundary ∨ 17 ≤ b.replays then s else s.setBoundary boundary { b with replays := b.replays + 1 })

/-- Stop contexts and report them. -/
def State.stopAll (s : State) (die : Nat) (code : Byte) (ctxs : List Nat) : State :=
  ctxs.eraseDups.foldl (fun (s : State) c => s.stopCtx c die code 0) s

/-- DIE_BOUNDARY_FAILED: the error of the sixteenth replay marks the boundary failed; every context with traffic
routed across it is stopped and reported. -/
def State.boundaryFails (s : State) (n : Nat) : State :=
  let b := s.boundary n
  if 12 ≤ n ∨ (b.replays < 17 ∧ b.failed = false) then s
  else (s.setBoundary n { b with failed := true }).stopAll (boundaryDies n).1 0
    ((s.traffic.filter fun t => crosses n t.2.1 t.2.2).map (·.1))

def execDieBoundaryFailed (boundary : Nat) (s : State) : Host.Outcome State Fault Refusal :=
  .next (s.boundaryFails boundary)

/-! ## Other failures that interrupt a job (R234, R430) -/

/-- MEMORY_UNCORRECTABLE_ERROR in what a context holds: it is stopped and reported. -/
def execMemoryUncorrectableError (ctx : Nat) (s : State) : Host.Outcome State Fault Refusal := .next (s.stopCtx ctx 0 0 0)

/-- The contexts that use the fabric: an entry on its way to another module, or a reduction under way. -/
def State.remote (s : State) : List Nat :=
  ((s.reqs.filter fun m => m.result.isNone && reqNode m.desc != s.boot.node).map (·.ctx)) ++
    (s.queues.filter fun x => ((x.running.map fun r => r.op == 10 && r.entry.isSome)).getD false).map (·.ctx)

/-- CHOELATOS_PORT_FAILURE: contexts whose packets used the port are stopped; which of those that use the fabric
did is not visible. -/
def State.portFails (s : State) (port : Nat) : State :=
  if 24 ≤ port ∨ s.failedPorts.contains port = true then s
  else
    let k := s.free
    State.stopAll { s with failedPorts := s.failedPorts ++ [port], free := s.free + 1 } 0 0
      (s.remote.eraseDups.filter fun c => Config.pick k (2 ^ 43 + c))

def execChoelatosPortFailure (port : Nat) (s : State) : Host.Outcome State Fault Refusal := .next (s.portFails port)

end Sys2Proof.Machine
end

