-- ==== Sys2Proof/Machine/Uniform.lean ====
section
/-!
DEFINITION. Uniform words: majors 0x2C to 0x2E (R135, R155, R156). Each acts once per issue.
-/

namespace Sys2Proof.Machine

/-- A word that writes a uniform register 4 cycles after issue. -/
def uni (i : Instr) (d : SReg) (f : Band → Ex → Word) (s : State) : Host.Outcome State Fault Refusal :=
  .next (plainWord i (fun x s => s.putU x 4 d (f s.me x)) s)

def execUaddI32 (h : Hdr) (d a b : SReg) (s : State) : Host.Outcome State Fault Refusal :=
  uni (.uaddI32 h d a b) d (fun B x => B.ru x a + B.ru x b) s

def execUsubI32 (h : Hdr) (d a b : SReg) (s : State) : Host.Outcome State Fault Refusal :=
  uni (.usubI32 h d a b) d (fun B x => B.ru x a - B.ru x b) s

def execUmulI32 (h : Hdr) (d a b : SReg) (s : State) : Host.Outcome State Fault Refusal :=
  uni (.umulI32 h d a b) d (fun B x => B.ru x a * B.ru x b) s

def execUmovlB32 (h : Hdr) (d : SReg) (lit : Word) (s : State) : Host.Outcome State Fault Refusal :=
  uni (.umovlB32 h d lit) d (fun _ _ => lit) s

def execUandB32 (h : Hdr) (d a b : SReg) (s : State) : Host.Outcome State Fault Refusal :=
  uni (.uandB32 h d a b) d (fun B x => B.ru x a &&& B.ru x b) s

def execUorB32 (h : Hdr) (d a b : SReg) (s : State) : Host.Outcome State Fault Refusal :=
  uni (.uorB32 h d a b) d (fun B x => B.ru x a ||| B.ru x b) s

def execUshlB32 (h : Hdr) (d a b : SReg) (s : State) : Host.Outcome State Fault Refusal :=
  uni (.ushlB32 h d a b) d (fun B x => shlBy (B.ru x a) (B.ru x b)) s

def execUshrN32 (h : Hdr) (d a b : SReg) (s : State) : Host.Outcome State Fault Refusal :=
  uni (.ushrN32 h d a b) d (fun B x => shrBy (B.ru x a) (B.ru x b)) s

/-- The address of a uniform load (R156). -/
def Band.uaddr (b : Band) (x : Ex) (sp : Space) (a : SReg) (off : Word) : DWord :=
  match sp with
  | .scr => (b.ru x a + off).setWidth 64
  | _ => b.ru2 x a + off.signExtend 64

/-- One access per issue, by the lowest lane of V; its traps are raised in every lane of V (R156). -/
def execSld (h : Hdr) (d a : SReg) (sb : Flag) (sp : Space) (sz : Size) (off : Word) (s : State) :
    Host.Outcome State Fault Refusal :=
  let m : MemWord :=
    { sp := sp, kind := .uload d sz, n := sz.bytes, write := false, rmw := false, flag := sb,
      scope := .band, order := .relaxed }
  let lane (s : State) (x : Ex) : List (Nat × DWord) := [(x.low, s.me.uaddr x sp a off)]
  .next (runWord (.sld h d a sb sp sz off)
    (allLanes fun s x => memTrap s x m (lane s x) x.low)
    (fun x s => memIssue x m .uniform (lane s x) (noBytes s x) (noBytes s x) s) s)

end Sys2Proof.Machine
end

