-- ==== Sys2Proof/Machine/Dispatch.lean ====
section
/-!
DEFINITION. The dispatch of every row of the opcode table to its meaning.
-/

namespace Sys2Proof.Machine

def exec (i : Instr) (s : State) : Host.Outcome State Fault Refusal :=
  match i with
  | .nop h => Sys2Proof.Machine.execNop h s
  | .yield h => Sys2Proof.Machine.execYield h s
  | .bkpt h tag => Sys2Proof.Machine.execBkpt h tag s
  | .bra h off => Sys2Proof.Machine.execBra h off s
  | .brx h a => Sys2Proof.Machine.execBrx h a s
  | .call h d lit => Sys2Proof.Machine.execCall h d lit s
  | .callx h d a => Sys2Proof.Machine.execCallx h d a s
  | .ret h a => Sys2Proof.Machine.execRet h a s
  | .exit h => Sys2Proof.Machine.execExit h s
  | .meet h d lit => Sys2Proof.Machine.execMeet h d lit s
  | .setm h a => Sys2Proof.Machine.execSetm h a s
  | .getm h d => Sys2Proof.Machine.execGetm h d s
  | .rgn h => Sys2Proof.Machine.execRgn h s
  | .trap h tag => Sys2Proof.Machine.execTrap h tag s
  | .addI32 h d a b => Sys2Proof.Machine.execAddI32 h d a b s
  | .subI32 h d a b => Sys2Proof.Machine.execSubI32 h d a b s
  | .addxN32 h d a b => Sys2Proof.Machine.execAddxN32 h d a b s
  | .subxN32 h d a b => Sys2Proof.Machine.execSubxN32 h d a b s
  | .addI64 h d a b => Sys2Proof.Machine.execAddI64 h d a b s
  | .subI64 h d a b => Sys2Proof.Machine.execSubI64 h d a b s
  | .mulwI32 h d a b => Sys2Proof.Machine.execMulwI32 h d a b s
  | .madwI32 h d a b => Sys2Proof.Machine.execMadwI32 h d a b s
  | .addI32Imm h d a imm => Sys2Proof.Machine.execAddI32Imm h d a imm s
  | .mulI32 h d a b => Sys2Proof.Machine.execMulI32 h d a b s
  | .mulhiI32 h d a b => Sys2Proof.Machine.execMulhiI32 h d a b s
  | .mulhiN32 h d a b => Sys2Proof.Machine.execMulhiN32 h d a b s
  | .madI32 h d a b => Sys2Proof.Machine.execMadI32 h d a b s
  | .divI32 h d a b => Sys2Proof.Machine.execDivI32 h d a b s
  | .divN32 h d a b => Sys2Proof.Machine.execDivN32 h d a b s
  | .remI32 h d a b => Sys2Proof.Machine.execRemI32 h d a b s
  | .remN32 h d a b => Sys2Proof.Machine.execRemN32 h d a b s
  | .andB32 h d a b => Sys2Proof.Machine.execAndB32 h d a b s
  | .orB32 h d a b => Sys2Proof.Machine.execOrB32 h d a b s
  | .xorB32 h d a b => Sys2Proof.Machine.execXorB32 h d a b s
  | .andnB32 h d a b => Sys2Proof.Machine.execAndnB32 h d a b s
  | .minI32 h d a b => Sys2Proof.Machine.execMinI32 h d a b s
  | .minN32 h d a b => Sys2Proof.Machine.execMinN32 h d a b s
  | .maxI32 h d a b => Sys2Proof.Machine.execMaxI32 h d a b s
  | .maxN32 h d a b => Sys2Proof.Machine.execMaxN32 h d a b s
  | .shlB32 h d a b => Sys2Proof.Machine.execShlB32 h d a b s
  | .shrN32 h d a b => Sys2Proof.Machine.execShrN32 h d a b s
  | .shrI32 h d a b => Sys2Proof.Machine.execShrI32 h d a b s
  | .bpermB32 h d a b => Sys2Proof.Machine.execBpermB32 h d a b s
  | .shlB32Imm h d a n => Sys2Proof.Machine.execShlB32Imm h d a n s
  | .shrN32Imm h d a n => Sys2Proof.Machine.execShrN32Imm h d a n s
  | .shrI32Imm h d a n => Sys2Proof.Machine.execShrI32Imm h d a n s
  | .rotB32 h d a n => Sys2Proof.Machine.execRotB32 h d a n s
  | .popcB32 h d a => Sys2Proof.Machine.execPopcB32 h d a s
  | .clzB32 h d a => Sys2Proof.Machine.execClzB32 h d a s
  | .absI32 h d a => Sys2Proof.Machine.execAbsI32 h d a s
  | .negI32 h d a => Sys2Proof.Machine.execNegI32 h d a s
  | .bfxN32 h d a b => Sys2Proof.Machine.execBfxN32 h d a b s
  | .bfxI32 h d a b => Sys2Proof.Machine.execBfxI32 h d a b s
  | .bfiB32 h d a b => Sys2Proof.Machine.execBfiB32 h d a b s
  | .movi h d imm => Sys2Proof.Machine.execMovi h d imm s
  | .movhi h d imm => Sys2Proof.Machine.execMovhi h d imm s
  | .cmp h t cc pd a b => Sys2Proof.Machine.execCmp h t cc pd a b s
  | .cmpi h cc pd a imm => Sys2Proof.Machine.execCmpi h cc pd a imm s
  | .fcmp h cc pd a b => Sys2Proof.Machine.execFcmp h cc pd a b s
  | .sel h d a b p => Sys2Proof.Machine.execSel h d a b p s
  | .movB32 h d a => Sys2Proof.Machine.execMovB32 h d a s
  | .movB64 h d a => Sys2Proof.Machine.execMovB64 h d a s
  | .movLit h d lit => Sys2Proof.Machine.execMovLit h d lit s
  | .movB32S h d u => Sys2Proof.Machine.execMovB32S h d u s
  | .xset h k a => Sys2Proof.Machine.execXset h k a s
  | .xidx h k a => Sys2Proof.Machine.execXidx h k a s
  | .rdx h d k => Sys2Proof.Machine.execRdx h d k s
  | .wrx h k a => Sys2Proof.Machine.execWrx h k a s
  | .plop h op pd pa na pb nb => Sys2Proof.Machine.execPlop h op pd pa na pb nb s
  | .ld h d a sb sz off => Sys2Proof.Machine.execLd h d a sb sz off s
  | .st h d a sb sz off => Sys2Proof.Machine.execSt h d a sb sz off s
  | .addF32 h d a b => Sys2Proof.Machine.execAddF32 h d a b s
  | .subF32 h d a b => Sys2Proof.Machine.execSubF32 h d a b s
  | .mulF32 h d a b => Sys2Proof.Machine.execMulF32 h d a b s
  | .fmaF32 h d a b => Sys2Proof.Machine.execFmaF32 h d a b s
  | .minF32 h d a b => Sys2Proof.Machine.execMinF32 h d a b s
  | .maxF32 h d a b => Sys2Proof.Machine.execMaxF32 h d a b s
  | .absF32 h d a => Sys2Proof.Machine.execAbsF32 h d a s
  | .negF32 h d a => Sys2Proof.Machine.execNegF32 h d a s
  | .addF16x2 h d a b => Sys2Proof.Machine.execAddF16x2 h d a b s
  | .mulF16x2 h d a b => Sys2Proof.Machine.execMulF16x2 h d a b s
  | .fmaF16x2 h d a b => Sys2Proof.Machine.execFmaF16x2 h d a b s
  | .maxF16x2 h d a b => Sys2Proof.Machine.execMaxF16x2 h d a b s
  | .addBf16x2 h d a b => Sys2Proof.Machine.execAddBf16x2 h d a b s
  | .mulBf16x2 h d a b => Sys2Proof.Machine.execMulBf16x2 h d a b s
  | .fmaBf16x2 h d a b => Sys2Proof.Machine.execFmaBf16x2 h d a b s
  | .maxBf16x2 h d a b => Sys2Proof.Machine.execMaxBf16x2 h d a b s
  | .pmergeF32 h d a b => Sys2Proof.Machine.execPmergeF32 h d a b s
  | .cvt h d a dt st rz => Sys2Proof.Machine.execCvt h d a dt st rz s
  | .scalex h d a t => Sys2Proof.Machine.execScalex h d a t s
  | .ex2F32 h d a sb => Sys2Proof.Machine.execEx2F32 h d a sb s
  | .lg2F32 h d a sb => Sys2Proof.Machine.execLg2F32 h d a sb s
  | .rcpF32 h d a sb => Sys2Proof.Machine.execRcpF32 h d a sb s
  | .rsqF32 h d a sb => Sys2Proof.Machine.execRsqF32 h d a sb s
  | .sinF32 h d a sb => Sys2Proof.Machine.execSinF32 h d a sb s
  | .cosF32 h d a sb => Sys2Proof.Machine.execCosF32 h d a sb s
  | .uaddI32 h d a b => Sys2Proof.Machine.execUaddI32 h d a b s
  | .usubI32 h d a b => Sys2Proof.Machine.execUsubI32 h d a b s
  | .umulI32 h d a b => Sys2Proof.Machine.execUmulI32 h d a b s
  | .umovlB32 h d lit => Sys2Proof.Machine.execUmovlB32 h d lit s
  | .uandB32 h d a b => Sys2Proof.Machine.execUandB32 h d a b s
  | .uorB32 h d a b => Sys2Proof.Machine.execUorB32 h d a b s
  | .ushlB32 h d a b => Sys2Proof.Machine.execUshlB32 h d a b s
  | .ushrN32 h d a b => Sys2Proof.Machine.execUshrN32 h d a b s
  | .sld h d a sb sp sz off => Sys2Proof.Machine.execSld h d a sb sp sz off s
  | .voteAll h pd na pa => Sys2Proof.Machine.execVoteAll h pd na pa s
  | .voteAny h pd na pa => Sys2Proof.Machine.execVoteAny h pd na pa s
  | .voteBallot h d na pa => Sys2Proof.Machine.execVoteBallot h d na pa s
  | .rdfl h d a => Sys2Proof.Machine.execRdfl h d a s
  | .shflIdx h d a b => Sys2Proof.Machine.execShflIdx h d a b s
  | .shflUp h d a b => Sys2Proof.Machine.execShflUp h d a b s
  | .shflDown h d a b => Sys2Proof.Machine.execShflDown h d a b s
  | .shflXor h d a b => Sys2Proof.Machine.execShflXor h d a b s
  | .bar h => Sys2Proof.Machine.execBar h s
  | .gbar h r => Sys2Proof.Machine.execGbar h r s
  | .bcast h d a r => Sys2Proof.Machine.execBcast h d a r s
  | .grow h k => Sys2Proof.Machine.execGrow h k s
  | .shrink h k => Sys2Proof.Machine.execShrink h k s
  | .take h d => Sys2Proof.Machine.execTake h d s
  | .spawn h a => Sys2Proof.Machine.execSpawn h a s
  | .req h d a sb sz => Sys2Proof.Machine.execReq h d a sb sz s
  | .boinit h a b => Sys2Proof.Machine.execBoinit h a b s
  | .boarrive h d a => Sys2Proof.Machine.execBoarrive h d a s
  | .bowait h a b => Sys2Proof.Machine.execBowait h a b s
  | .ldSpace h d a sb sp sz off => Sys2Proof.Machine.execLdSpace h d a sb sp sz off s
  | .stSpace h d a sb sp sz off => Sys2Proof.Machine.execStSpace h d a sb sp sz off s
  | .atom h d a b op ty c => Sys2Proof.Machine.execAtom h d a b op ty c s
  | .cas h d a b ty c => Sys2Proof.Machine.execCas h d a b ty c s
  | .ldAtomic h d a ty c => Sys2Proof.Machine.execLdAtomic h d a ty c s
  | .stAtomic h a b ty c => Sys2Proof.Machine.execStAtomic h a b ty c s
  | .fence h scope order => Sys2Proof.Machine.execFence h scope order s
  | .shedDropL1 h a b => Sys2Proof.Machine.execShedDropL1 h a b s
  | .shedCleanGrove h a b => Sys2Proof.Machine.execShedCleanGrove h a b s
  | .shedDropL1All h => Sys2Proof.Machine.execShedDropL1All h s
  | .warmGrove h a b => Sys2Proof.Machine.execWarmGrove h a b s
  | .warmL1 h a b => Sys2Proof.Machine.execWarmL1 h a b s
  | .claim h mask => Sys2Proof.Machine.execClaim h mask s
  | .rels h mask => Sys2Proof.Machine.execRels h mask s
  | .kset h k a b => Sys2Proof.Machine.execKset h k a b s
  | .ldt h sb os a shape => Sys2Proof.Machine.execLdt h sb os a shape s
  | .stt h sb os a shape => Sys2Proof.Machine.execStt h sb os a shape s
  | .accz h acc => Sys2Proof.Machine.execAccz h acc s
  | .accld h sb acc a => Sys2Proof.Machine.execAccld h sb acc a s
  | .accst h sb acc a => Sys2Proof.Machine.execAccst h sb acc a s
  | .accstBf16 h sb acc a => Sys2Proof.Machine.execAccstBf16 h sb acc a s
  | .accstF16 h sb acc a => Sys2Proof.Machine.execAccstF16 h sb acc a s
  | .mxsave h sb a => Sys2Proof.Machine.execMxsave h sb a s
  | .mxrest h sb a => Sys2Proof.Machine.execMxrest h sb a s
  | .draw h mode sb d acc ps => Sys2Proof.Machine.execDraw h mode sb d acc ps s
  | .accept h sb d accp accq ps => Sys2Proof.Machine.execAccept h sb d accp accq ps s
  | .mma h ta tb k acc oa ob => Sys2Proof.Machine.execMma h ta tb k acc oa ob s
  | .strmIn h sb a b shape => Sys2Proof.Machine.execStrmIn h sb a b shape s
  | .strmOut h sb a b shape => Sys2Proof.Machine.execStrmOut h sb a b shape s
  | .gnode h sb a => Sys2Proof.Machine.execGnode h sb a s
  | .xform h sb a b shape xop => Sys2Proof.Machine.execXform h sb a b shape xop s
  | .link h sb a b => Sys2Proof.Machine.execLink h sb a b s
  | .unlink h sb a => Sys2Proof.Machine.execUnlink h sb a s
  | .unlinkCmp h sb a => Sys2Proof.Machine.execUnlinkCmp h sb a s
  | .segrd h sb a => Sys2Proof.Machine.execSegrd h sb a s
  | .segrdRw h sb a => Sys2Proof.Machine.execSegrdRw h sb a s
  | .gpw h sb n b => Sys2Proof.Machine.execGpw h sb n b s
  | .watch h sb a d => Sys2Proof.Machine.execWatch h sb a d s
  | .unwatch h sb a => Sys2Proof.Machine.execUnwatch h sb a s
  | .srd h d sys => Sys2Proof.Machine.execSrd h d sys s
  | .swr h a sys => Sys2Proof.Machine.execSwr h a sys s
  | .tret h => Sys2Proof.Machine.execTret h s
  | .tlbinv h sb a => Sys2Proof.Machine.execTlbinv h sb a s
  | .loadComplete band => Sys2Proof.Machine.execLoadComplete band s
  | .storePerformed id => Sys2Proof.Machine.execStorePerformed id s
  | .sfuComplete band => Sys2Proof.Machine.execSfuComplete band s
  | .watchComplete id => Sys2Proof.Machine.execWatchComplete id s
  | .sproutStart grove core => Sys2Proof.Machine.execSproutStart grove core s
  | .crewStart launch core => Sys2Proof.Machine.execCrewStart launch core s
  | .growGrant core => Sys2Proof.Machine.execGrowGrant core s
  | .registerSpill core => Sys2Proof.Machine.execRegisterSpill core s
  | .granuleFill band granule => Sys2Proof.Machine.execGranuleFill band granule s
  | .claimGrant core => Sys2Proof.Machine.execClaimGrant core s
  | .mmaCheck core => Sys2Proof.Machine.execMmaCheck core s
  | .matrixTransferComplete core => Sys2Proof.Machine.execMatrixTransferComplete core s
  | .drawPerform core => Sys2Proof.Machine.execDrawPerform core s
  | .acceptPerform core => Sys2Proof.Machine.execAcceptPerform core s
  | .workRequestServed band choice => Sys2Proof.Machine.execWorkRequestServed band choice s
  | .stealMessage launch thief => Sys2Proof.Machine.execStealMessage launch thief s
  | .terminationRound launch => Sys2Proof.Machine.execTerminationRound launch s
  | .streamTile id => Sys2Proof.Machine.execStreamTile id s
  | .xformComplete id => Sys2Proof.Machine.execXformComplete id s
  | .graphNodeComplete id => Sys2Proof.Machine.execGraphNodeComplete id s
  | .linkPublish id bank => Sys2Proof.Machine.execLinkPublish id bank s
  | .unlinkPublish id bank => Sys2Proof.Machine.execUnlinkPublish id bank s
  | .unlinkComplete id => Sys2Proof.Machine.execUnlinkComplete id s
  | .segrdRead id => Sys2Proof.Machine.execSegrdRead id s
  | .repairLayerCommit pass => Sys2Proof.Machine.execRepairLayerCommit pass s
  | .repairPassStart pass => Sys2Proof.Machine.execRepairPassStart pass s
  | .tlbinvComplete id => Sys2Proof.Machine.execTlbinvComplete id s
  | .remoteEnqueueDelivery id => Sys2Proof.Machine.execRemoteEnqueueDelivery id s
  | .reqAck id => Sys2Proof.Machine.execReqAck id s
  | .clearingPageReclaim die ctx va => Sys2Proof.Machine.execClearingPageReclaim die ctx va s
  | .waitingWritePerformed id => Sys2Proof.Machine.execWaitingWritePerformed id s
  | .faultRecord id => Sys2Proof.Machine.execFaultRecord id s
  | .faultReply id code => Sys2Proof.Machine.execFaultReply id code s
  | .trapEntry band => Sys2Proof.Machine.execTrapEntry band s
  | .asyncTrapReport band lane => Sys2Proof.Machine.execAsyncTrapReport band lane s
  | .crewRelaunch crew core => Sys2Proof.Machine.execCrewRelaunch crew core s
  | .haltBroadcast ctx quarter => Sys2Proof.Machine.execHaltBroadcast ctx quarter s
  | .drainComplete quarter => Sys2Proof.Machine.execDrainComplete quarter s
  | .wsRefreshStart die => Sys2Proof.Machine.execWsRefreshStart die s
  | .wsRefreshEnd die => Sys2Proof.Machine.execWsRefreshEnd die s
  | .transectIntervalEnd quarter => Sys2Proof.Machine.execTransectIntervalEnd quarter s
  | .stallSample quarter => Sys2Proof.Machine.execStallSample quarter s
  | .queueMap q => Sys2Proof.Machine.execQueueMap q s
  | .sliceEnd q => Sys2Proof.Machine.execSliceEnd q s
  | .preemptCollected q => Sys2Proof.Machine.execPreemptCollected q s
  | .launchEnd launch => Sys2Proof.Machine.execLaunchEnd launch s
  | .cmdNop q => Sys2Proof.Machine.execCmdNop q s
  | .launch q => Sys2Proof.Machine.execLaunch q s
  | .graph q => Sys2Proof.Machine.execGraph q s
  | .gpset q => Sys2Proof.Machine.execGpset q s
  | .waitv q => Sys2Proof.Machine.execWaitv q s
  | .waitvSatisfied q => Sys2Proof.Machine.execWaitvSatisfied q s
  | .writev q => Sys2Proof.Machine.execWritev q s
  | .copy q => Sys2Proof.Machine.execCopy q s
  | .wsload q => Sys2Proof.Machine.execWsload q s
  | .ringreg q => Sys2Proof.Machine.execRingreg q s
  | .redset q => Sys2Proof.Machine.execRedset q s
  | .coll q => Sys2Proof.Machine.execColl q s
  | .ctxsetTvec q => Sys2Proof.Machine.execCtxsetTvec q s
  | .ctxsetBalq q => Sys2Proof.Machine.execCtxsetBalq q s
  | .ctxsetDbase q => Sys2Proof.Machine.execCtxsetDbase q s
  | .ctxsetDslot q => Sys2Proof.Machine.execCtxsetDslot q s
  | .ctxsetDn q => Sys2Proof.Machine.execCtxsetDn q s
  | .ctxsetLogmax q => Sys2Proof.Machine.execCtxsetLogmax q s
  | .ctxsetEventRing q => Sys2Proof.Machine.execCtxsetEventRing q s
  | .ctxsetDefaultLaunch q => Sys2Proof.Machine.execCtxsetDefaultLaunch q s
  | .copyComplete q => Sys2Proof.Machine.execCopyComplete q s
  | .wsloadComplete q => Sys2Proof.Machine.execWsloadComplete q s
  | .reservedSlotGrant id => Sys2Proof.Machine.execReservedSlotGrant id s
  | .dieParked die => Sys2Proof.Machine.execDieParked die s
  | .ctxnew => Sys2Proof.Machine.execCtxnew s
  | .ctxdel => Sys2Proof.Machine.execCtxdel s
  | .acct => Sys2Proof.Machine.execAcct s
  | .poolset => Sys2Proof.Machine.execPoolset s
  | .halt => Sys2Proof.Machine.execHalt s
  | .resume => Sys2Proof.Machine.execResume s
  | .dump => Sys2Proof.Machine.execDump s
  | .dbgset => Sys2Proof.Machine.execDbgset s
  | .powerActive => Sys2Proof.Machine.execPowerActive s
  | .powerReducedClock => Sys2Proof.Machine.execPowerReducedClock s
  | .powerDiePark => Sys2Proof.Machine.execPowerDiePark s
  | .powerStandby => Sys2Proof.Machine.execPowerStandby s
  | .standbyEntry => Sys2Proof.Machine.execStandbyEntry s
  | .reset => Sys2Proof.Machine.execReset s
  | .getVersion => Sys2Proof.Machine.execGetVersion s
  | .getCapabilities => Sys2Proof.Machine.execGetCapabilities s
  | .negotiateAlgorithms msg => Sys2Proof.Machine.execNegotiateAlgorithms msg s
  | .getDigests => Sys2Proof.Machine.execGetDigests s
  | .getCertificate msg => Sys2Proof.Machine.execGetCertificate msg s
  | .challenge msg => Sys2Proof.Machine.execChallenge msg s
  | .getMeasurements index msg => Sys2Proof.Machine.execGetMeasurements index msg s
  | .spdmUnsupportedRequest msg => Sys2Proof.Machine.execSpdmUnsupportedRequest msg s
  | .debugNonceRequest nonce => Sys2Proof.Machine.execDebugNonceRequest nonce s
  | .debugToken token => Sys2Proof.Machine.execDebugToken token s
  | .measurementExtend n digest => Sys2Proof.Machine.execMeasurementExtend n digest s
  | .queueDoorbell q tail => Sys2Proof.Machine.execQueueDoorbell q tail s
  | .controlQueueDoorbell tail => Sys2Proof.Machine.execControlQueueDoorbell tail s
  | .uncorrectableError crew => Sys2Proof.Machine.execUncorrectableError crew s
  | .hostAccess ctx addr len data => Sys2Proof.Machine.execHostAccess ctx addr len data s
  | .flitCrcError boundary => Sys2Proof.Machine.execFlitCrcError boundary s
  | .dieBoundaryFailed boundary => Sys2Proof.Machine.execDieBoundaryFailed boundary s
  | .memoryUncorrectableError ctx => Sys2Proof.Machine.execMemoryUncorrectableError ctx s
  | .choelatosPortFailure port => Sys2Proof.Machine.execChoelatosPortFailure port s
  | .collResult q others => Sys2Proof.Machine.execCollResult q others s

end Sys2Proof.Machine
end

