-- ==== Sys2Proof/Machine/Progress.lean ====
section
/-!
DEFINITION. What goes on without an instruction: conditions that are met as soon as they hold, the passing of
cycles, and the events that can come next when the agenda names none (log entry 3).
-/

namespace Sys2Proof.Machine

/-- A number of cycles pass. -/
def State.pass (s : State) (n : Nat) : State :=
  if s.tracing then s.tracedCycles n else { s with cycle := s.cycle + n }

/-- Everything that happens as soon as its condition holds. -/
def State.observe (s : State) : State :=
  let s := s.flushLate.observeCrews
  let cores := s.cores.map (·.id)
  let s := cores.foldl (fun s c => (s.promptSeq c).claimNext c) s
  s.startNodes.unwatches.prunePasses.hostGo.idleQueues

/-! ## Which quarter issues -/

/-- Words that enter the matrix sequencer as they issue (R189), a SEGRD with DK = 1 among them (R336). -/
def entersSeq : Instr → Bool
  | .claim .. | .rels .. | .kset .. | .ldt .. | .stt .. | .accz .. | .accld .. | .accst .. | .accstBf16 .. | .accstF16 ..
  | .mxsave .. | .mxrest .. | .draw .. | .accept .. | .mma .. | .segrd .. | .segrdRw .. => true
  | _ => false

/-- A band's next issue enters the matrix sequencer. -/
def Go.enters : Go → Bool
  | .one i => entersSeq i
  | .two i j => entersSeq i || entersSeq j
  | _ => false

/-- The candidate of a quarter; of commands that enter a core's sequencer the one of the earlier cycle, and in one cycle
that of the lower quarter, comes first (R189). -/
def State.issueOf (s : State) (core q : Nat) : Option (Nat × Nat × Band × Go × Bool × Bool) :=
  match s.quarterCandidate core q with
  | none => none
  | some c =>
    if c.2.2.2.1.enters then
      some (((List.range 4).filterMap fun p => (s.quarterCandidate core p).map fun d => (p, d)).foldl (fun a d =>
        if d.2.2.2.2.1.enters && (decide (d.2.2.1 < a.2.2.1) || (d.2.2.1 == a.2.2.1 && decide (d.1 < a.1))) then d else a)
          (q, c)).2
    else some c

/-- The candidate of the package: the least cycle, in the order of `issueOf`. -/
def State.issueNext (s : State) : Option (Nat × Nat × Band × Go × Bool × Bool) :=
  s.nextCandidate.bind fun c => s.issueOf c.2.2.1.core c.2.2.1.quarter

/-- Bands that have not ended. -/
def State.liveBands (s : State) : List Nat := (List.range s.bands.length).filter fun bi => !(s.band bi).ended

/-- Launches that have not ended. -/
def State.liveLaunches (s : State) : List Nat :=
  (List.range s.launches.length).filter fun li => ((s.launch li).map fun l => !l.ended).getD false

/-- Completions of what lanes have issued, those of loads and special functions last. -/
def State.laneEvents (s : State) : List Instr :=
  (s.accesses.filter fun a => !a.kind.isLoad).map (fun a => .storePerformed a.id) ++
    s.watchOps.map (fun o => .watchComplete o.id) ++ s.tlbs.map (fun o => .tlbinvComplete o.id) ++
    s.slotReqs.map (fun r => .reservedSlotGrant r.id) ++ s.reqs.map (fun r => .remoteEnqueueDelivery r.id) ++
    s.reqs.map (fun r => .reqAck r.id)

/-- Events of the matrix units. -/
def State.matrixEvents (s : State) : List Instr :=
  (s.cores.map fun c =>
    (if c.seq.isEmpty then [] else
      [Instr.mmaCheck c.id, .matrixTransferComplete c.id, .drawPerform c.id, .acceptPerform c.id]) ++
      if c.claimQ.isEmpty then [] else [.claimGrant c.id]).flatten

/-- Events of the engines, of the graph walker, of the link units and of the repair passes. -/
def State.unitEvents (s : State) : List Instr :=
  (s.engines.map fun e => match e.op with
    | .strm .. => Instr.streamTile e.id
    | .xform .. => .xformComplete e.id) ++ s.nodes.map (fun n => .graphNodeComplete n.id) ++
    (s.links.map fun c => match c.op with
      | .link _ => (List.range 4).map fun b => Instr.linkPublish c.id b
      | .unlink _ => .unlinkComplete c.id :: (List.range 4).map fun b => .unlinkPublish c.id b
      | .segrd .. => [.segrdRead c.id]).flatten ++
    (s.passes.map fun p => [Instr.repairPassStart p.id, .repairLayerCommit p.id]).flatten

/-- Events of bands: work requests, traps and register granules. -/
def State.bandEvents (s : State) : List Instr :=
  (s.liveBands.map fun bi =>
    (if (s.band bi).takeRequest.isSome then [Instr.workRequestServed bi 0] else []) ++
      ((List.range 32).filter fun t => !((s.band bi).lane t).reports.isEmpty).map (fun t => .asyncTrapReport bi t) ++
      (if (s.band bi).absentGran = 0 then [] else (List.range 8).map fun g => .granuleFill bi g)).flatten ++
    (s.cores.filter fun c => !c.growQ.isEmpty).map fun c => .registerSpill c.id

/-- Events of launches: crews, steals, termination and ends. -/
def State.launchEvents (s : State) : List Instr :=
  (s.liveLaunches.map fun li => match s.launch li with
    | some l =>
      let cores := (l.cfg.dieList.map s.dieCores).flatten
      ((cores.find? fun c => (s.roomFor c l.image).isSome).map fun c => Instr.crewStart li c).toList ++
        l.cfg.dieList.map (fun d => Instr.stealMessage li d) ++ [.terminationRound li, .launchEnd li]
    | none => []).flatten ++
    ((List.range s.crews.length).filter fun ci => ((s.crew ci).map (·.killed)).getD false).map (fun ci =>
      .crewRelaunch ci (((s.crew ci).map (·.core)).getD 0)) ++
    (s.sprouts.map (·.grove)).eraseDups.map fun g =>
      .sproutStart g (((List.range 64).map (g * 64 + ·)).find? (fun c => !s.boot.harvested.contains c) |>.getD (g * 64))

/-- Commands of user queues, and the events of their ends. -/
def State.queueEvents (s : State) : List Instr :=
  (s.queues.map fun x =>
    let q := x.id
    let cmds : List Instr :=
      [.cmdNop q, .launch q, .graph q, .gpset q, .waitv q, .waitvSatisfied q, .writev q, .copy q, .copyComplete q,
       .wsload q, .wsloadComplete q, .ringreg q, .redset q, .coll q, .ctxsetTvec q, .ctxsetBalq q, .ctxsetDbase q,
       .ctxsetDslot q, .ctxsetDn q, .ctxsetLogmax q, .ctxsetEventRing q, .ctxsetDefaultLaunch q]
    (if x.st = .mapped then cmds ++ [.sliceEnd q] else []) ++
      (if x.st = .stopping then [.preemptCollected q] else []) ++
      if x.st = .waiting ∨ x.st = .saved then [.queueMap q] else []).flatten

/-- Commands of the control queue, and the events of power. -/
def State.controlEvents (s : State) : List Instr :=
  if s.ctlRunning = none ∧ s.qfield ctlq 0x0C 4 = s.qfield ctlq 0x10 4 then []
  else
    [.cmdNop ctlq, .ctxnew, .ctxdel, .acct, .poolset, .halt, .resume, .dump, .dbgset, .powerActive, .powerReducedClock,
     .powerDiePark, .powerStandby, .standbyEntry] ++ (List.range 9).map fun d => .dieParked d

/-- Events of faults, of stops and of the memory controllers. -/
def State.faultEvents (s : State) : List Instr :=
  s.faults.map (fun f => .faultRecord f.id) ++ s.faults.map (fun f => .faultReply f.id 0) ++
    ((List.range 9).map fun d => (s.die d).waiting.map fun id => Instr.waitingWritePerformed id).flatten ++
    ((List.range 9).map fun d => if (s.die d).stage = 0 then [] else
      match s.takeable d with
      | [] => [Instr.clearingPageReclaim d 0 0]
      | ps => ps.map fun p => .clearingPageReclaim d p.1.ctx (BitVec.ofNat 64 p.1.va)).flatten ++
    ((s.ctxs.filter fun c => c.stoppedBy.isSome).map fun c =>
      (s.quartersOf c.id).map fun n => Instr.haltBroadcast c.id n).flatten ++
    (s.cores.map fun c => ((List.range 4).filter fun q =>
      (c.quarters.toArray.getD q .blank).stopped).map fun q => Instr.drainComplete (c.id * 4 + q)).flatten

/-- Events of the clock: refresh and trace. -/
def State.clockEvents (s : State) : List Instr :=
  ((List.range 9).map fun d => [Instr.wsRefreshStart d, .wsRefreshEnd d]).flatten ++
    ((s.cores.filter fun c => bits c.trctl.toNat 30 2 != 0).map fun c => ((List.range 4).map fun q =>
      [Instr.transectIntervalEnd (c.id * 4 + q), .stallSample (c.id * 4 + q)]).flatten).flatten

/-- The completions of loads and special functions, which a band that spins would bring on for ever. -/
def State.loadEvents (s : State) : List Instr :=
  (s.liveBands.map fun bi =>
    (if (s.oldestLoad bi).isSome then [Instr.loadComplete bi] else []) ++
      if s.sfus.any fun o => o.band == bi then [.sfuComplete bi] else []).flatten

/-- What can come next without a word of a band. -/
def State.nextEvents (s : State) : List Instr :=
  s.faultEvents ++ s.laneEvents ++ s.matrixEvents ++ s.unitEvents ++ s.bandEvents ++ s.queueEvents ++ s.controlEvents ++
    s.launchEvents ++ s.clockEvents ++ s.loadEvents

end Sys2Proof.Machine
end

