-- ==== Sys2Proof/Machine/Step.lean ====
section
/-!
DEFINITION. One step of the package. `State.agenda` says which unit moves next (log entry 3): an event
or command of the table, or the issue of a quarter. An empty agenda leaves it to the model: a band
that is ready issues (R137), else something that waits completes, else a cycle passes.
-/

namespace Sys2Proof.Machine

/-- Issue a candidate. -/
def issueCandidate (c : Nat × Nat × Band × Go × Bool × Bool) (s : State) :
    Host.Outcome State Fault Refusal :=
  issueGo exec c.1 c.2.1 c.2.2.1 c.2.2.2.1 c.2.2.2.2.1 c.2.2.2.2.2 (s.upTo c.2.1)

/-- Carry out one act. -/
def act (a : Act) (s : State) : Host.Outcome State Fault Refusal :=
  match a with
  | .event i => exec i s
  | .early i => thenDo (exec i { s with holdFlags := true }) fun s' => .next { s' with holdFlags := false }
  | .flag => .next s.flushHeld
  | .corrected => .next { s with heart := { s.heart with corrected := s.heart.corrected + 1 } }
  | .issue core q =>
    match s.issueOf core q with
    | some c => issueCandidate c s
    | none => .next s
  | .tick => .next (s.pass 1)

/-- The step when the agenda is empty; flags that lag behind their results are done first. -/
def defaultStep (s : State) : Host.Outcome State Fault Refusal :=
  if s.late.any (·.hold) then .next s.flushHeld
  else
  match s.issueNext with
  | some c => issueCandidate c s
  | none =>
    match s.nextEvents.find? (fun i => match exec i s with
      | .next s' => decide (s' ≠ s)
      | _ => true) with
    | some i => exec i s
    | none => .next (s.pass 1)

/-- One step of the machine. -/
def step (s : State) : Host.Outcome State Fault Refusal :=
  match s.agenda with
  | a :: r => act a { s.observe with agenda := r }
  | [] => defaultStep s.observe

/-- The state with one instruction stored where the next step fetches (log entry 11). -/
def State.withFetchWord (s : State) (nbits w : Nat) : State := s.placeWord nbits w

end Sys2Proof.Machine
end

