-- ==== Sys2Proof/Safety.lean ====
section
/-!
DEFINITION. What a safe run is, and the terms in which the statements speak of one word: when it meets no check,
when its reads and writes are certain, and what it leaves unchanged.
-/

namespace Sys2Proof.Machine

/-- A run that neither stops nor is refused. -/
def State.Safe (s : State) : Prop := ∀ n, ∃ t, Host.Core.run Sys2Proof.core n s = .next t

/-! ## A word at issue -/

/-- The issue set and the participant set V of a word (R131, R45). -/
def State.setOf (s : State) (i : Instr) : BitVec 32 := (s.ex i.hdr).set
def State.vOf (s : State) (i : Instr) : BitVec 32 := (s.ex i.hdr).v

/-- The state in which a word acts: if it ends regions, the open region of its band has ended (R369). For every other
word, and where no region is open, it is the state itself. -/
def State.after (s : State) (i : Instr) : State :=
  if endsRegion i && s.vOf i != 0 then s.endRegion s.cur else s

/-- The state in which the word acts if no lane of it traps: besides, the lanes of the issue set stand at the next word
(R14, R53). -/
def State.atIssue (s : State) (i : Instr) : State := (s.after i).advance (s.ex i.hdr) 0

/-- What holds of a word wherever it looks: when it is checked, when its region has ended and when it acts. -/
def State.AtChecks (s : State) (i : Instr) (p : State → Prop) : Prop := p s ∧ p (s.after i) ∧ p (s.atIssue i)

/-- The word takes effect: its band is one of the state's, and it meets none of the checks of R51 and R52. -/
structure State.Starts (s : State) (i : Instr) : Prop where
  band : (s.after i).cur < (s.after i).bands.length
  passes : preciseTraps s (s.ex i.hdr) i = []

/-- The word takes effect and all it reads and writes is certain: in every lane of V each register that it names has
settled as R19 asks (R21), and the element that RDX or WRX accesses lies in its window (R10). -/
structure State.Runs (s : State) (i : Instr) : Prop extends s.Starts i where
  certain : ∀ l, bit (s.vOf i) l = true → (s.after i).me.stallViolation (s.ex i.hdr) l i = false
  window : ∀ l, bit (s.vOf i) l = true → ∀ e, (s.after i).me.window (s.ex i.hdr) l i ≠ some (.error e)

/-! ## Settled values -/

/-- g[r] in a lane. -/
def Band.gv (b : Band) (l : Nat) (r : Reg) : Word := (b.getReg l (.g r)).setWidth 32

/-- pair(r) in a lane (R7). -/
def Band.gv2 (b : Band) (l : Nat) (r : Reg) : DWord := b.gv l (r + 1) ++ b.gv l r

/-- s[u]. -/
def Band.uv (b : Band) (u : SReg) : Word := (b.getReg 0 (.s u)).setWidth 32

/-- A uniform pair. -/
def Band.uv2 (b : Band) (u : SReg) : DWord := b.uv (u + 1) ++ b.uv u

/-- A predicate in a lane; p7 reads true (R6). -/
def Band.pv (b : Band) (l : Nat) (p : PReg) : Bool := (b.lane l).pred p

/-- An index register in a lane. -/
def Band.xv (b : Band) (l : Nat) (k : BitVec 2) : Word := (b.getReg l (.x k)).setWidth 32

/-- The B operand in a lane (R69), and the one of 64 bits (R70). -/
def Band.bv (b : Band) (l : Nat) : Src → Word
  | .g r => b.gv l r
  | .u r => b.uv r
def Band.bv2 (b : Band) (l : Nat) : Src → DWord
  | .g r => b.gv2 l r
  | .u r => b.uv2 r

/-! ## Frames -/

/-- A lane of the issue set that the word moves on: it can issue, and the first word of a chained pair has not
transferred it elsewhere. A TRAP or BKPT that stands first in a pair moves nothing (R14, R88, R444). -/
def State.GoesOn (s : State) (i : Instr) (l : Nat) : Prop :=
  bit (s.setOf i) l = true ∧ bit (s.after i).latch.moved l = false ∧ (s.after i).latch.pair ≠ 3 ∧
    ((s.after i).me.lane l).st = .eligible

/-- A register that belongs to the band and not to a lane (R6). -/
def RegName.uniform : RegName → Bool
  | .s _ => true
  | _ => false

/-- What a word that acts on registers alone leaves unchanged, once its region has ended if it ends one: everything
but the registers `rs` of the lanes of V, which settle `lat` cycles after issue (R18, R19), the place of the lanes of
the issue set, which go on to the next word (R14, R53), and the conditions `c` that become sticky 5 cycles after issue
(R107, R108, R117). -/
structure State.WordFrame (s t : State) (i : Instr) (lat : Nat) (rs : List RegName) (c : Word) : Prop where
  /-- memory, queues, units and every other table are unchanged -/
  state : t = { s.after i with bands := t.bands, free := (s.after i).free + 1 }
  count : t.bands.length = (s.after i).bands.length
  /-- every other band is unchanged -/
  bands : ∀ b, b ≠ (s.after i).cur → t.band b = (s.after i).band b
  /-- the band's flags, status, system registers and region are unchanged -/
  band : t.me = { (s.after i).me with lanes := t.me.lanes, s := t.me.s, unsettled := t.me.unsettled,
                                      inFlight := t.me.inFlight, fpLate := t.me.fpLate }
  sticky : t.me.fpLate = ((s.after i).me.stick (s.cycle + 5) c).fpLate
  /-- every other register is unchanged -/
  regs : ∀ l r, r ∉ rs → t.me.getReg l r = (s.after i).me.getReg l r
  /-- lanes outside V keep their registers -/
  outside : ∀ l r, bit (s.vOf i) l = false → r.uniform = false → t.me.getReg l r = (s.after i).me.getReg l r
  /-- state, trap registers and reports of every lane are unchanged -/
  lane : ∀ l, t.me.lane l =
    { (s.after i).me.lane l with
      pc := (t.me.lane l).pc, released := (t.me.lane l).released, returned := (t.me.lane l).returned,
      resume := (t.me.lane l).resume,
      g := (t.me.lane l).g, p := (t.me.lane l).p, x := (t.me.lane l).x, m := (t.me.lane l).m }
  /-- lanes outside the issue set are unchanged -/
  others : ∀ l, bit (s.setOf i) l = false → t.me.lane l = (s.after i).me.lane l
  /-- the lanes of the issue set stand at the next word -/
  next : ∀ l, s.GoesOn i l → (t.me.lane l).pc = nextPc (s.ex i.hdr).pc (s.ex i.hdr).lbit
  late : ∀ e ∈ t.me.unsettled, e ∈ (s.after i).me.unsettled ∨ (e.reg ∈ rs ∧ e.due = s.cycle + lat)
  flights : t.me.inFlight.map (fun f => (f.id, f.pipe, f.reg, f.lanes)) =
    (s.after i).me.inFlight.map fun f => (f.id, f.pipe, f.reg, f.lanes)

end Sys2Proof.Machine
end

