-- ==== Sys2Proof/Certificates/Slice0/Obligations.lean ====
section
/-!
DEFINITION. The statements for the provers. The values that words compute are written here from the rules of
spec/, apart from the meanings.
-/

open Sys2Proof Sys2Proof.Machine

/-! ## Integer words -/

namespace Sys2Proof.Claims

/-- POS, and LEN once it is capped (R77). -/
def fieldPos (b : Word) : Nat := b.toNat % 32
def fieldLen (b : Word) : Nat := min (min (b.toNat / 256 % 64) 32) (32 - fieldPos b)

/-- The unsigned field (R77). -/
def fieldOf (a b : Word) : Nat := a.toNat / 2 ^ fieldPos b % 2 ^ fieldLen b

/-- One destination byte of BPERM: its code, and its sign bit (R78). -/
def permByte (a : Word) (code : Nat) (sgn : Bool) : Nat :=
  let nibble := a.toNat / 2 ^ (4 * (2 * (code % 4) + code / 4 - 1)) % 16
  if code < 4 then a.toNat / 2 ^ (8 * code) % 256
  else if code < 12 then if sgn ∧ 8 ≤ nibble then 0xF0 + nibble else nibble
  else if a.toNat / 2 ^ (8 * (code - 12) + 7) % 2 = 1 then 0xFF else 0

/-- The element that an index register names (R10). -/
def element (x : Word) : Nat := x.toNat / 2 ^ 26 + x.toNat % 256

/-- The sum, difference or product of signed values as a word. -/
def wordOf (n : Int) : Word := BitVec.ofInt 32 n

/-- Words that write one general register in each lane of V, with the destination and the value in a lane. -/
def intWord : Instr → Option (Reg × (Band → Nat → Word))
  | .addI32 _ d a b => some (d, fun B l => wordOf ((B.gv l a).toInt + (B.bv l b).toInt))
  | .subI32 _ d a b => some (d, fun B l => wordOf ((B.gv l a).toInt - (B.bv l b).toInt))
  | .addI32Imm _ d a imm => some (d, fun B l => wordOf ((B.gv l a).toInt + imm.toInt))
  | .mulI32 _ d a b => some (d, fun B l => wordOf ((B.gv l a).toInt * (B.bv l b).toInt))
  | .mulhiI32 _ d a b => some (d, fun B l => wordOf ((B.gv l a).toInt * (B.bv l b).toInt / 2 ^ 32))
  | .mulhiN32 _ d a b => some (d, fun B l => BitVec.ofNat 32 ((B.gv l a).toNat * (B.bv l b).toNat / 2 ^ 32))
  | .madI32 _ d a b =>
    some (d, fun B l => wordOf ((B.gv l d).toInt + (B.gv l a).toInt * (B.bv l b).toInt))
  | .andB32 _ d a b => some (d, fun B l => B.gv l a &&& B.bv l b)
  | .orB32 _ d a b => some (d, fun B l => B.gv l a ||| B.bv l b)
  | .xorB32 _ d a b => some (d, fun B l => B.gv l a ^^^ B.bv l b)
  | .andnB32 _ d a b => some (d, fun B l => B.gv l a &&& ~~~B.bv l b)
  | .minI32 _ d a b => some (d, fun B l => wordOf (min (B.gv l a).toInt (B.bv l b).toInt))
  | .minN32 _ d a b => some (d, fun B l => BitVec.ofNat 32 (min (B.gv l a).toNat (B.bv l b).toNat))
  | .maxI32 _ d a b => some (d, fun B l => wordOf (max (B.gv l a).toInt (B.bv l b).toInt))
  | .maxN32 _ d a b => some (d, fun B l => BitVec.ofNat 32 (max (B.gv l a).toNat (B.bv l b).toNat))
  | .movB32 _ d a => some (d, fun B l => B.gv l a)
  | .movLit _ d lit => some (d, fun _ _ => lit)
  | .movB32S _ d u => some (d, fun B _ => B.uv u)
  | .movi _ d imm => some (d.setWidth 6, fun _ _ => BitVec.ofNat 32 imm.toNat)
  | .movhi _ d imm =>
    some (d.setWidth 6, fun B l => BitVec.ofNat 32 (imm.toNat * 2 ^ 16 + (B.gv l (d.setWidth 6)).toNat % 2 ^ 16))
  | .sel _ d a b p => some (d, fun B l => if B.pv l p then B.gv l a else B.gv l b)
  | _ => none

/-- Shifts, counts, bit fields and byte permutation. -/
def shiftWord : Instr → Option (Reg × (Band → Nat → Word))
  | .shlB32 _ d a b => some (d, fun B l => BitVec.ofNat 32 ((B.gv l a).toNat * 2 ^ min (B.bv l b).toNat 32))
  | .shrN32 _ d a b => some (d, fun B l => BitVec.ofNat 32 ((B.gv l a).toNat / 2 ^ min (B.bv l b).toNat 32))
  | .shrI32 _ d a b => some (d, fun B l => wordOf ((B.gv l a).toInt / 2 ^ min (B.bv l b).toNat 32))
  | .shlB32Imm _ d a n => some (d, fun B l => BitVec.ofNat 32 ((B.gv l a).toNat * 2 ^ n.toNat))
  | .shrN32Imm _ d a n => some (d, fun B l => BitVec.ofNat 32 ((B.gv l a).toNat / 2 ^ n.toNat))
  | .shrI32Imm _ d a n => some (d, fun B l => wordOf ((B.gv l a).toInt / 2 ^ n.toNat))
  | .rotB32 _ d a n => some (d, fun B l =>
      BitVec.ofNat 32 ((B.gv l a).toNat * 2 ^ n.toNat + (B.gv l a).toNat / 2 ^ (32 - n.toNat)))
  | .popcB32 _ d a => some (d, fun B l =>
      BitVec.ofNat 32 (((List.range 32).map fun k => (B.gv l a).toNat / 2 ^ k % 2).sum))
  | .clzB32 _ d a => some (d, fun B l => BitVec.ofNat 32 (if B.gv l a = 0 then 32 else 31 - Nat.log2 (B.gv l a).toNat))
  | .absI32 _ d a => some (d, fun B l => wordOf |(B.gv l a).toInt|)
  | .negI32 _ d a => some (d, fun B l => wordOf (-(B.gv l a).toInt))
  | .bfxN32 _ d a b => some (d, fun B l => BitVec.ofNat 32 (fieldOf (B.gv l a) (B.bv l b)))
  | .bfxI32 _ d a b => some (d, fun B l =>
      wordOf ((fieldOf (B.gv l a) (B.bv l b) : Int).bmod (2 ^ fieldLen (B.bv l b))))
  | .bfiB32 _ d a b => some (d, fun B l =>
      let p := fieldPos (B.bv l b)
      let n := fieldLen (B.bv l b)
      let old := (B.gv l d).toNat
      BitVec.ofNat 32 (old / 2 ^ (p + n) * 2 ^ (p + n) + (B.gv l a).toNat % 2 ^ n * 2 ^ p + old % 2 ^ p))
  | .bpermB32 _ d a b => some (d, fun B l =>
      let byte (k : Nat) : Nat :=
        permByte (B.gv l a) ((B.bv l b).toNat / 2 ^ (4 * k) % 16) ((B.bv l b).toNat / 2 ^ (16 + k) % 2 == 1)
      BitVec.ofNat 32 (byte 0 + byte 1 * 2 ^ 8 + byte 2 * 2 ^ 16 + byte 3 * 2 ^ 24))
  | .rdx _ d k => some (d, fun B l => B.gv l (BitVec.ofNat 6 (element (B.xv l k))))
  | _ => none

end Sys2Proof.Claims

/-- The integer arithmetic, logic and moves that write one general register: value, time and frame. -/
def Obligations.IntegerResults : Prop :=
  ∀ i d v, Claims.intWord i = some (d, v) → ∀ s : State, s.Runs i →
    ∃ t, exec i s = .next t ∧ s.WordFrame t i 4 [.g d] 0 ∧ ∀ l, bit (s.vOf i) l = true → t.me.gv l d = v s.me l

/-- The same for shifts, counts, bit fields, byte permutation and the read of a window. -/
def Obligations.ShiftAndFieldResults : Prop :=
  ∀ i d v, Claims.shiftWord i = some (d, v) → ∀ s : State, s.Runs i →
    ∃ t, exec i s = .next t ∧ s.WordFrame t i 4 [.g d] 0 ∧ ∀ l, bit (s.vOf i) l = true → t.me.gv l d = v s.me l

namespace Sys2Proof.Claims

/-- A number of 64 bits. -/
def dwordOf (n : Int) : DWord := BitVec.ofInt 64 n

/-- Words that write a pair in each lane of V, with the first register and the value in a lane. -/
def pairWord : Instr → Option (Reg × (Band → Nat → DWord))
  | .addI64 _ d a b => some (d, fun B l => dwordOf ((B.gv2 l a).toInt + (B.bv2 l b).toInt))
  | .subI64 _ d a b => some (d, fun B l => dwordOf ((B.gv2 l a).toInt - (B.bv2 l b).toInt))
  | .mulwI32 _ d a b => some (d, fun B l => dwordOf ((B.gv l a).toInt * (B.bv l b).toInt))
  | .madwI32 _ d a b =>
    some (d, fun B l => dwordOf ((B.gv2 l d).toInt + (B.gv l a).toInt * (B.bv l b).toInt))
  | .addxN32 _ d a b =>
    -- the sum with the carry in g[D + 1] bit 0: 33 bits, of which the upper one is the carry out
    some (d, fun B l => BitVec.ofNat 64 ((B.gv l a).toNat + (B.bv l b).toNat + (B.gv l (d + 1)).toNat % 2))
  | .subxN32 _ d a b =>
    -- the difference less the borrow in g[D + 1] bit 0, with the borrow out as 0 or 1 above it
    some (d, fun B l =>
      let n : Int := (B.gv l a).toNat - (B.bv l b).toNat - ((B.gv l (d + 1)).toNat % 2 : Nat)
      (if n < 0 then 1#32 else 0#32) ++ wordOf n)
  | .movB64 _ d a => some (d, fun B l => B.gv2 l a)
  | _ => none

/-- The condition of an integer compare on exact values (R80). -/
def intCond : Cc → Int → Int → Bool
  | .eq, a, b => a = b
  | .ne, a, b => a ≠ b
  | .lt, a, b => a < b
  | .le, a, b => a ≤ b
  | .gt, a, b => a > b
  | .ge, a, b => a ≥ b

/-- Words of the integer pipe that write a predicate in each lane of V. -/
def predWord : Instr → Option (PReg × (Band → Nat → Bool))
  | .cmp _ .i32 cc pd a b => some (pd, fun B l => intCond cc (B.gv l a).toInt (B.bv l b).toInt)
  | .cmp _ .n32 cc pd a b => some (pd, fun B l => intCond cc (B.gv l a).toNat (B.bv l b).toNat)
  | .cmp _ .i64 cc pd a b => some (pd, fun B l => intCond cc (B.gv2 l a).toInt (B.bv2 l b).toInt)
  | .cmp _ .n64 cc pd a b => some (pd, fun B l => intCond cc (B.gv2 l a).toNat (B.bv2 l b).toNat)
  | .cmpi _ cc pd a imm => some (pd, fun B l => intCond cc (B.gv l a).toInt imm.toInt)
  | .plop _ op pd pa na pb nb => some (pd, fun B l =>
      match op with
      | .and => (B.pv l pa != na) && (B.pv l pb != nb)
      | .or => (B.pv l pa != na) || (B.pv l pb != nb)
      | .xor => (B.pv l pa != na) != (B.pv l pb != nb))
  | _ => none

/-- Quotients and remainders, truncated toward zero (R73). -/
def divWord : Instr → Option (Reg × Src × (Band → Nat → Word))
  | .divI32 _ d a b => some (d, b, fun B l => wordOf ((B.gv l a).toInt.tdiv (B.bv l b).toInt))
  | .divN32 _ d a b => some (d, b, fun B l => BitVec.ofNat 32 ((B.gv l a).toNat / (B.bv l b).toNat))
  | .remI32 _ d a b => some (d, b, fun B l => wordOf ((B.gv l a).toInt.tmod (B.bv l b).toInt))
  | .remN32 _ d a b => some (d, b, fun B l => BitVec.ofNat 32 ((B.gv l a).toNat % (B.bv l b).toNat))
  | _ => none

end Sys2Proof.Claims

/-- Words that write a pair: the low half to g[D], the high half to g[D + 1], both 4 cycles after issue (R7). -/
def Sys2Proof.Claims.PairResults : Prop :=
  ∀ i d v, Claims.pairWord i = some (d, v) → ∀ s : State, s.Runs i →
    ∃ t, exec i s = .next t ∧ s.WordFrame t i 4 [.g d, .g (d + 1)] 0 ∧
      ∀ l, bit (s.vOf i) l = true → t.me.gv2 l d = v s.me l

/-- Compares and predicate logic; a write of p7 is discarded, and p7 goes on reading true (R6). -/
def Sys2Proof.Claims.PredicateResults : Prop :=
  ∀ i pd v, Claims.predWord i = some (pd, v) → ∀ s : State, s.Runs i →
    ∃ t, exec i s = .next t ∧ s.WordFrame t i 4 [.p pd] 0 ∧
      ∀ l, bit (s.vOf i) l = true → t.me.pv l pd = (pd == 7 || v s.me l)

/-- Divides in a band outside handler mode: lanes with a divisor other than 0 get their result, and in the others the
word has no effect beyond a deferred trap of code 0x0C, which masks them until the handler is entered. -/
def Sys2Proof.Claims.DivideResults : Prop :=
  ∀ i d b v, Claims.divWord i = some (d, b, v) → ∀ s : State, s.Runs i →
    s.me.handler = false →
    ∃ t, exec i s = .next t ∧ t = { s with bands := t.bands, free := s.free + 1 } ∧
      (∀ n, n ≠ s.cur → t.band n = s.band n) ∧
      t.me = { s.me with lanes := t.me.lanes, trapLane := t.me.trapLane, unsettled := t.me.unsettled,
                         inFlight := t.me.inFlight } ∧
      (∀ l, bit (s.vOf i) l = true → s.me.bv l b ≠ 0 →
        t.me.gv l d = v s.me l ∧ ∀ r, r ≠ .g d → t.me.getReg l r = s.me.getReg l r) ∧
      (∀ l, bit (s.vOf i) l = true → s.me.bv l b = 0 →
        t.me.lane l = { s.me.lane l with st := .waiting .trap, trapCode := 0x0C, trapPc := (s.ex i.hdr).pc,
                                         trapAddr := 0, trapOrig := (s.ex i.hdr).pc } ∧
        bit t.me.trapLane l = true) ∧
      ∀ l, bit (s.vOf i) l = false →
        bit t.me.trapLane l = bit s.me.trapLane l ∧ ∀ r, t.me.getReg l r = s.me.getReg l r

/-- The register windows: XSET keeps BASE, LEN and IDX and drops the reserved bits, XIDX changes IDX alone and holds an
index above 255 at 255, and WRX writes the element that the index register of its lane names. -/
def Sys2Proof.Claims.WindowWrites : Prop :=
  (∀ h k a (s : State), s.Runs (.xset h k a) →
    ∃ t, exec (.xset h k a) s = .next t ∧ s.WordFrame t (.xset h k a) 4 [.x k] 0 ∧
      ∀ l, bit (s.vOf (.xset h k a)) l = true →
        xBase (t.me.xv l k) = (s.me.gv l a).toNat / 2 ^ 26 ∧ xLen (t.me.xv l k) = (s.me.gv l a).toNat / 2 ^ 16 % 128 ∧
        xIdx (t.me.xv l k) = (s.me.gv l a).toNat % 256 ∧ t.me.xv l k &&& 0x0380FF00 = 0) ∧
  (∀ h k a (s : State), s.Runs (.xidx h k a) →
    ∃ t, exec (.xidx h k a) s = .next t ∧ s.WordFrame t (.xidx h k a) 4 [.x k] 0 ∧
      ∀ l, bit (s.vOf (.xidx h k a)) l = true →
        xIdx (t.me.xv l k) = min 255 (s.me.gv l a).toNat ∧ t.me.xv l k >>> 8 = s.me.xv l k >>> 8) ∧
  ∀ h k a (s : State), s.Runs (.wrx h k a) →
    ∃ t, exec (.wrx h k a) s = .next t ∧
      (∃ rs, s.WordFrame t (.wrx h k a) 4 rs 0) ∧
      ∀ l, bit (s.vOf (.wrx h k a)) l = true →
        t.me.gv l (BitVec.ofNat 6 (Claims.element (s.me.xv l k))) = s.me.gv l a ∧
        ∀ r, r ≠ .g (BitVec.ofNat 6 (Claims.element (s.me.xv l k))) → t.me.getReg l r = s.me.getReg l r

/-! ## Control words -/

namespace Sys2Proof.Claims

/-- The transfers of control: the target in a lane of the word at `pc` (R86, R88, R89). -/
def targetWord : Instr → Option (DWord → Band → Nat → DWord)
  | .bra _ off => some fun pc _ _ => pc + 4 * off.signExtend 64
  | .call _ _ lit => some fun pc _ _ => pc + 4 * lit.signExtend 64
  | .brx _ a | .callx _ _ a | .ret _ a => some fun _ B l => B.gv2 l a
  | _ => none

/-- The pair that a call links into (R87). -/
def linkOf : Instr → Option Reg
  | .call _ d _ | .callx _ d _ => some d
  | _ => none

/-- The registers that a call writes. -/
def linkRegs (i : Instr) : List RegName := ((linkOf i).map fun d => [RegName.g d, .g (d + 1)]).getD []

/-- Words with no effect beyond the advance of their lanes: NOP, and the hints of WARM, which hardware may drop. -/
def idleWord : Instr → Bool
  | .nop _ | .warmGrove .. | .warmL1 .. => true
  | _ => false

end Sys2Proof.Claims

/-- BRA, BRX, CALL, CALLX and RET: the lanes of V go to their targets, the other lanes of the issue set go on, a call
links to the word that follows in issue order, and nothing else changes. A target at or below the word is a rotation
event. -/
def Sys2Proof.Claims.TransfersOfControl : Prop :=
  ∀ i target, Claims.targetWord i = some target → ∀ s : State, s.Runs i →
    ∃ t, exec i s = .next t ∧ t = { s with bands := t.bands, latch := t.latch, free := s.free + 1 } ∧
      (∀ n, n ≠ s.cur → t.band n = s.band n) ∧
      t.me = { s.me with lanes := t.me.lanes, unsettled := t.me.unsettled, inFlight := t.me.inFlight,
                         nextPc := t.me.nextPc } ∧
      (∀ l, bit (s.vOf i) l = true → (t.me.lane l).pc = target (s.ex i.hdr).pc s.me l) ∧
      (∀ l, s.GoesOn i l → bit (s.vOf i) l = false →
        (t.me.lane l).pc = nextPc (s.ex i.hdr).pc (s.ex i.hdr).lbit) ∧
      (∀ l, bit (s.setOf i) l = false → t.me.lane l = s.me.lane l) ∧
      (∀ l r, r ∉ Claims.linkRegs i → t.me.getReg l r = s.me.getReg l r) ∧
      (∀ d, Claims.linkOf i = some d → ∀ l, bit (s.vOf i) l = true →
        t.me.gv2 l d = nextPc (s.ex i.hdr).pc (s.ex i.hdr).lbit) ∧
      (t.latch.rot = true ↔ s.latch.rot = true ∨ ∃ l, bit (s.vOf i) l = true ∧
        (target (s.ex i.hdr).pc s.me l).toNat ≤ (s.ex i.hdr).pc.toNat)

/-- NOP and the two hints change nothing but the place of their lanes; YIELD is besides a rotation event. -/
def Sys2Proof.Claims.IdleWords : Prop :=
  (∀ i, Claims.idleWord i = true → ∀ s : State, s.Starts i →
    ∃ t, exec i s = .next t ∧ s.WordFrame t i 0 [] 0) ∧
  ∀ h (s : State), s.Starts (.yield h) → s.vOf (.yield h) ≠ 0 →
    ∃ t, exec (.yield h) s = .next t ∧ t.latch = { s.latch with rot := true } ∧
      s.WordFrame { t with latch := s.latch } (.yield h) 0 [] 0

/-- MEET, SETM and GETM: the meeting register and the pair that holds its old or its present value, written 1 cycle
after issue. -/
def Sys2Proof.Claims.MeetingRegister : Prop :=
  (∀ h d lit (s : State), s.Runs (.meet h d lit) →
    ∃ t, exec (.meet h d lit) s = .next t ∧ s.WordFrame t (.meet h d lit) 1 [.m, .g d, .g (d + 1)] 0 ∧
      ∀ l, bit (s.vOf (.meet h d lit)) l = true →
        t.me.getReg l .m = (s.ex h).pc + 4 * lit.signExtend 64 ∧ t.me.gv2 l d = s.me.getReg l .m) ∧
  (∀ h a (s : State), s.Runs (.setm h a) →
    ∃ t, exec (.setm h a) s = .next t ∧ s.WordFrame t (.setm h a) 1 [.m] 0 ∧
      ∀ l, bit (s.vOf (.setm h a)) l = true → t.me.getReg l .m = s.me.gv2 l a) ∧
  ∀ h d (s : State), s.Runs (.getm h d) →
    ∃ t, exec (.getm h d) s = .next t ∧ s.WordFrame t (.getm h d) 1 [.g d, .g (d + 1)] 0 ∧
      ∀ l, bit (s.vOf (.getm h d)) l = true → t.me.gv2 l d = s.me.getReg l .m

/-- EXIT, where no convergence register of the core is armed: the lanes of V are no longer live, and no register or
other lane changes. -/
def Sys2Proof.Claims.ExitEndsLanes : Prop :=
  ∀ h (s : State), s.Starts (.exit h) →
    (∀ k, ((((s.after (.exit h)).core (s.after (.exit h)).me.core).conv k).st ≠ .armed)) →
    ∃ t, exec (.exit h) s = .next t ∧
      t = { s.after (.exit h) with bands := t.bands, free := (s.after (.exit h)).free + 1 } ∧
      (∀ n, n ≠ (s.after (.exit h)).cur → t.band n = (s.after (.exit h)).band n) ∧
      t.me = { (s.after (.exit h)).me with lanes := t.me.lanes } ∧
      (∀ l, bit (s.vOf (.exit h)) l = true → (t.me.lane l).st = .exited ∧ (t.me.lane l).live = false ∧
        (t.me.lane l).reports = []) ∧
      (∀ l, s.GoesOn (.exit h) l → bit (s.vOf (.exit h)) l = false →
        t.me.lane l = { (s.after (.exit h)).me.lane l with
          pc := nextPc (s.ex h).pc (s.ex h).lbit, released := false, returned := false }) ∧
      ∀ l, bit (s.setOf (.exit h)) l = false → t.me.lane l = (s.after (.exit h)).me.lane l

/-- RGN, once an open region has ended: outside handler mode, if V is every live lane, a region opens whose code starts
at the next word; otherwise the word has no other effect. -/
def Sys2Proof.Claims.RegionOpens : Prop :=
  ∀ h (s : State), s.Starts (.rgn h) → s.vOf (.rgn h) ≠ 0 →
    ∃ t, exec (.rgn h) s = .next t ∧
      ((s.after (.rgn h)).me.handler = false →
        (∀ l, l < 32 → ((s.after (.rgn h)).me.lane l).live = true → bit (s.vOf (.rgn h)) l = true) →
        t.me.rgnOpen = true ∧ t.me.rgnPc = nextPc (s.ex h).pc (s.ex h).lbit ∧ t.me.rgnAborts = 0 ∧
          s.WordFrame (t.setMe { t.me with rgnOpen := (s.after (.rgn h)).me.rgnOpen, rgnPc := (s.after (.rgn h)).me.rgnPc,
                                           rgnAborts := (s.after (.rgn h)).me.rgnAborts }) (.rgn h) 0 [] 0) ∧
      ((s.after (.rgn h)).me.handler = true ∨
        (∃ l, l < 32 ∧ ((s.after (.rgn h)).me.lane l).live = true ∧ bit (s.vOf (.rgn h)) l = false) →
        s.WordFrame t (.rgn h) 0 [] 0)

/-! ## Traps -/

namespace Sys2Proof.Claims

/-- The handler of a band can be entered: TVEC holds a valid entry (R359). -/
def handlerOk (s : State) (b : Band) : Prop :=
  b.tvec.getLsbD 63 = true ∧ s.targetTrap b (tvecEntry b.tvec) = none

/-- The software traps with their code and tag: TRAP, and a BKPT that does not stop its quarter (R95, R367, R405). -/
def softTrap (s : State) : Instr → Option (Byte × BitVec 16)
  | .trap _ tag => some (0x18, tag)
  | .bkpt _ tag => if s.haltsAtBkpt then none else some (0x1A, tag)
  | _ => none

end Sys2Proof.Claims

/-- TRAP and BKPT take their exception at once: in a band outside handler mode whose region is closed and which has no
report to take, each lane of V records its code with the tag as INFO, the next word as TRAPPC, 0 as TRAPADDR and the
word as TRAPORIG, joins TRAPLANE, and goes with the lanes that wait there to the handler's entry in handler mode. No
other lane, no register and no memory changes; the results of earlier words of fixed latency are written. -/
def Sys2Proof.Claims.SoftwareTraps : Prop :=
  ∀ (s : State) i code tag, Claims.softTrap s i = some (code, tag) → s.cur < s.bands.length → s.vOf i ≠ 0 →
    s.me.handler = false → s.me.rgnOpen = false → (∀ l, (s.me.lane l).reports = []) → s.me.check.getLsbD 0 = false →
    Claims.handlerOk s s.me →
    ∃ t, exec i s = .next t ∧ t = { s with bands := t.bands, free := s.free + 1 } ∧
      (∀ n, n ≠ s.cur → t.band n = s.band n) ∧
      t.me = { s.me.drain with lanes := t.me.lanes, handler := true, trapLane := s.me.trapLane ||| s.vOf i, nextPc := 0 } ∧
      (∀ l, bit (s.vOf i) l = true → t.me.lane l =
        { s.me.lane l with st := .eligible, pc := tvecEntry s.me.tvec, released := false, returned := false,
                           trapCode := BitVec.ofNat 32 (tag.toNat * 2 ^ 16 + code.toNat),
                           trapPc := nextAfter s (s.ex i.hdr), trapAddr := 0, trapOrig := (s.ex i.hdr).pc }) ∧
      (∀ l, bit (s.vOf i) l = false → bit s.me.trapLane l = true → (s.me.lane l).live = true → t.me.lane l =
        { s.me.lane l with st := .eligible, pc := tvecEntry s.me.tvec, released := false, returned := false }) ∧
      ∀ l, bit (s.vOf i) l = false → bit s.me.trapLane l = false → t.me.lane l = s.me.lane l

/-- A trap that cannot be delivered because TVEC holds no valid entry escalates: the band and its quarter stop with the
original code as code and as INFO, which TRAPCODE of each lane of V records too, and the context is stopped with the
code. Stated of TRAP and BKPT in a context that has no event ring. -/
def Sys2Proof.Claims.UndeliveredTraps : Prop :=
  ∀ (s : State) i code tag, Claims.softTrap s i = some (code, tag) → s.cur < s.bands.length → s.vOf i ≠ 0 →
    s.me.handler = false → s.me.rgnOpen = false → s.me.trapLane = 0 → (∀ l, (s.me.lane l).reports = []) →
    s.me.check.getLsbD 0 = false → s.me.quarter < 4 → (s.quarterOf s.me).stopCode = 0 → ¬Claims.handlerOk s s.me →
    (∀ c, s.ctx (s.ctxOf s.me) = some c → c.eventRing = 0) →
    ∃ t, exec i s = .next t ∧ t.me.handler = false ∧ t.me.trapLane = s.vOf i ∧
      t.me.stopped = true ∧ (t.quarterOf t.me).stopped = true ∧
      (t.quarterOf t.me).stopCode = BitVec.ofNat 32 (code.toNat * 2 ^ 16 + code.toNat) ∧
      (∀ l, bit (s.vOf i) l = true →
        (t.me.lane l).trapCode = BitVec.ofNat 32 (code.toNat * 2 ^ 16 + code.toNat) ∧
        (t.me.lane l).trapOrig = (s.ex i.hdr).pc ∧ (t.me.lane l).trapPc = nextAfter s (s.ex i.hdr)) ∧
      ∀ c, s.ctx (s.ctxOf s.me) = some c →
        ((t.ctx (s.ctxOf s.me)).bind (·.stoppedBy)) = some (c.stoppedBy.getD code)

/-- TRET by every live lane of TRAPLANE: each goes to its TRAPPC with TRAPCODE 0, handler mode ends, and the registers,
the other lanes and memory are unchanged. The lanes have left their packet. -/
def Sys2Proof.Claims.TrapReturn : Prop :=
  ∀ h (s : State), s.Starts (.tret h) → s.me.handler = true → s.vOf (.tret h) ≠ 0 →
    (∀ l, bit (s.vOf (.tret h)) l = true → bit s.me.trapLane l = true) →
    (∀ l, bit s.me.trapLane l = true → (s.me.lane l).live = true → bit (s.vOf (.tret h)) l = true) →
    ∃ t, exec (.tret h) s = .next t ∧
      t = { s with bands := t.bands, latch := { s.latch with moved := s.latch.moved ||| s.me.trapLane }, free := s.free + 1 } ∧
      (∀ n, n ≠ s.cur → t.band n = s.band n) ∧
      t.me = { s.me with lanes := t.me.lanes, handler := false, trapLane := 0, nextPc := 0 } ∧
      (∀ l, bit (s.vOf (.tret h)) l = true → (t.me.lane l).st = .eligible ∧ (t.me.lane l).pc = (s.me.lane l).trapPc ∧
        (t.me.lane l).trapCode = 0) ∧
      (∀ l r, t.me.getReg l r = s.me.getReg l r) ∧
      ∀ l, bit (s.setOf (.tret h)) l = false → bit s.me.trapLane l = false → t.me.lane l = s.me.lane l

/-- A TRET that not every live lane of TRAPLANE has reached makes the lanes of V wait. -/
def Sys2Proof.Claims.TrapReturnWaits : Prop :=
  ∀ h (s : State), s.Starts (.tret h) → s.vOf (.tret h) ≠ 0 →
    (∃ l, bit s.me.trapLane l = true ∧ (s.me.lane l).live = true ∧ bit (s.vOf (.tret h)) l = false ∧
      (s.me.lane l).st ≠ .waiting .tret) →
    ∃ t, exec (.tret h) s = .next t ∧ t.me.handler = s.me.handler ∧ t.me.trapLane = s.me.trapLane ∧
      ∀ l, bit (s.vOf (.tret h)) l = true → (t.me.lane l).st = .waiting .tret

/-- TRAP_ENTRY, where no lane of the band can issue and a trap is pending: the lanes of TRAPLANE go to the handler's
entry in handler mode, and the others keep their place. ASYNC_TRAP_REPORT masks a lane for its oldest report and
records it. -/
def Obligations.PendingTraps : Prop :=
  (∀ (s : State) n, n < s.bands.length → s.mayIssue (s.prepared n) = true → (s.prepared n).issueSet = 0 →
    (s.prepared n).trapPending = true → (s.prepared n).rgnOpen = false → (∀ l, ((s.prepared n).lane l).reports = []) →
    Claims.handlerOk s (s.prepared n) →
    ∃ t, exec (.trapEntry n) s = .next t ∧ t = { s with bands := t.bands } ∧ (∀ k, k ≠ n → t.band k = s.band k) ∧
      t.band n = { s.prepared n with lanes := (t.band n).lanes, handler := true, nextPc := 0 } ∧
      (∀ l, bit (s.prepared n).trapLane l = true → ((s.prepared n).lane l).live = true → (t.band n).lane l =
        { (s.prepared n).lane l with st := .eligible, pc := tvecEntry (s.prepared n).tvec, released := false,
                                     returned := false }) ∧
      ∀ l, bit (s.prepared n).trapLane l = false → (t.band n).lane l = (s.prepared n).lane l) ∧
  ∀ (s : State) n l x r, n < s.bands.length → l < 32 → ((s.band n).lane l).reports = x :: r →
    ((s.band n).lane l).st = .eligible ∨ ((s.band n).lane l).st = .held → (s.band n).handler = false →
    bit (s.band n).trapLane l = false →
    ∃ t, exec (.asyncTrapReport n l) s = .next t ∧ t = { s with bands := t.bands } ∧
      (∀ k, k ≠ n → t.band k = s.band k) ∧ (∀ k, k ≠ l → (t.band n).lane k = (s.band n).lane k) ∧
      (t.band n).trapLane = (s.band n).trapLane ||| laneMask l ∧
      (t.band n).lane l =
        { (s.band n).lane l with st := .waiting .trap, reports := r, trapCode := x.word,
                                 trapPc := ((s.band n).lane l).pc, trapAddr := x.addr, trapOrig := x.orig }

/-! ## Floating point -/

namespace Sys2Proof.Claims

/-- A word in f32, with its conditions. -/
def word1 (r : Nat × Word) : List Word × Word := ([BitVec.ofNat 32 r.1], r.2)

/-- Both 16-bit halves of packed operands by one operation. -/
def half2 (f : Nat → Nat → Nat → Nat × Word) (a b c : Word) : List Word × Word :=
  let lo := f (a.toNat % 2 ^ 16) (b.toNat % 2 ^ 16) (c.toNat % 2 ^ 16)
  let hi := f (a.toNat / 2 ^ 16) (b.toNat / 2 ^ 16) (c.toNat / 2 ^ 16)
  ([BitVec.ofNat 32 (lo.1 + 2 ^ 16 * hi.1)], lo.2 ||| hi.2)

/-- FPCTL.FTZ of a band. -/
def ftz (B : Band) : Bool := ftzOf B.fpctl

/-- The words of the FP pipe: first destination, number of results, and in a lane the results and the conditions
raised (R118 to R126). -/
def fpWord : Instr → Option (Reg × Nat × (Band → Nat → List Word × Word))
  | .addF32 _ d a b => some (d, 1, fun B l => word1 (fF32.fadd (ftz B) (B.gv l a).toNat (B.bv l b).toNat))
  | .subF32 _ d a b => some (d, 1, fun B l => word1 (fF32.fsub (ftz B) (B.gv l a).toNat (B.bv l b).toNat))
  | .mulF32 _ d a b => some (d, 1, fun B l => word1 (fF32.fmul (ftz B) (B.gv l a).toNat (B.bv l b).toNat))
  | .fmaF32 _ d a b => some (d, 1, fun B l =>
      word1 (fF32.ffma (ftz B) (B.gv l a).toNat (B.bv l b).toNat (B.gv l d).toNat))
  | .minF32 _ d a b => some (d, 1, fun B l => word1 (fF32.fminmax (ftz B) false (B.gv l a).toNat (B.bv l b).toNat))
  | .maxF32 _ d a b => some (d, 1, fun B l => word1 (fF32.fminmax (ftz B) true (B.gv l a).toNat (B.bv l b).toNat))
  | .absF32 _ d a => some (d, 1, fun B l => ([BitVec.ofNat 32 ((B.gv l a).toNat % 2 ^ 31)], 0))
  | .negF32 _ d a => some (d, 1, fun B l => ([BitVec.ofNat 32 ((B.gv l a).toNat + 2 ^ 31)], 0))
  | .addF16x2 _ d a b =>
    some (d, 1, fun B l => half2 (fun p q _ => fF16.fadd (ftz B) p q) (B.gv l a) (B.bv l b) (B.gv l d))
  | .mulF16x2 _ d a b =>
    some (d, 1, fun B l => half2 (fun p q _ => fF16.fmul (ftz B) p q) (B.gv l a) (B.bv l b) (B.gv l d))
  | .fmaF16x2 _ d a b => some (d, 1, fun B l => half2 (fF16.ffma (ftz B)) (B.gv l a) (B.bv l b) (B.gv l d))
  | .maxF16x2 _ d a b =>
    some (d, 1, fun B l => half2 (fun p q _ => fF16.fminmax (ftz B) true p q) (B.gv l a) (B.bv l b) (B.gv l d))
  | .addBf16x2 _ d a b =>
    some (d, 1, fun B l => half2 (fun p q _ => fBf16.fadd (ftz B) p q) (B.gv l a) (B.bv l b) (B.gv l d))
  | .mulBf16x2 _ d a b =>
    some (d, 1, fun B l => half2 (fun p q _ => fBf16.fmul (ftz B) p q) (B.gv l a) (B.bv l b) (B.gv l d))
  | .fmaBf16x2 _ d a b => some (d, 1, fun B l => half2 (fBf16.ffma (ftz B)) (B.gv l a) (B.bv l b) (B.gv l d))
  | .maxBf16x2 _ d a b =>
    some (d, 1, fun B l => half2 (fun p q _ => fBf16.fminmax (ftz B) true p q) (B.gv l a) (B.bv l b) (B.gv l d))
  | .pmergeF32 _ d a b => some (d, 3, fun B l =>
      let r := pmerge (ftz B) ((B.gv l a).toNat, (B.gv l (a + 1)).toNat, (B.gv l (a + 2)).toNat)
        ((B.gv l b).toNat, (B.gv l (b + 1)).toNat, (B.gv l (b + 2)).toNat)
      ([BitVec.ofNat 32 r.1.1, BitVec.ofNat 32 r.1.2.1, BitVec.ofNat 32 r.1.2.2], r.2))
  | .cvt _ d a dt st rz => some (d, 1, fun B l =>
      word1 (dt.enc (if rz then .rz else .rne) (ftz B) (st.val (ftz B) ((B.gv l a).toNat % 2 ^ st.width))))
  | .scalex _ d a t => some (d, 1, fun B l =>
      word1 (blockScale t (fF32.val (ftz B) ((B.gv l a).toNat % 2 ^ 31))))
  | _ => none

/-- The special functions: destination, flag, and in a lane the result and the conditions (R128, R129). -/
def sfuWord : Instr → Option (Reg × Flag × (Band → Nat → Nat × Word))
  | .ex2F32 _ d a sb => some (d, sb, fun B l => sfu .ex2 (ftz B) (B.gv l a).toNat)
  | .lg2F32 _ d a sb => some (d, sb, fun B l => sfu .lg2 (ftz B) (B.gv l a).toNat)
  | .rcpF32 _ d a sb => some (d, sb, fun B l => sfu .rcp (ftz B) (B.gv l a).toNat)
  | .rsqF32 _ d a sb => some (d, sb, fun B l => sfu .rsq (ftz B) (B.gv l a).toNat)
  | .sinF32 _ d a sb => some (d, sb, fun B l => sfu .sin (ftz B) (B.gv l a).toNat)
  | .cosF32 _ d a sb => some (d, sb, fun B l => sfu .cos (ftz B) (B.gv l a).toNat)
  | _ => none

/-- The conditions of all the lanes of V. -/
def allConds (v : BitVec 32) (c : Nat → Word) : Word := (lanesOf v).foldl (fun r l => r ||| c l) 0

/-- A condition of f32 values by its meaning: eq, lt, le, gt and ge are false and ne is true if an operand is a NaN,
and −0 equals +0 (R122). -/
def fpCond (cc : FCc) (x y : Fp) : Bool :=
  let ord := !x.isNan && !y.isNan
  match cc with
  | .eq => ord && !x.lt y && !y.lt x
  | .ne => !(ord && !x.lt y && !y.lt x)
  | .lt => ord && x.lt y
  | .le => ord && !y.lt x
  | .gt => ord && y.lt x
  | .ge => ord && !x.lt y
  | .un => !ord
  | .ord => ord

end Sys2Proof.Claims

/-- The words of the FP pipe, where no lane raises a condition whose trap is enabled: the results are written 5 cycles
after issue, and the conditions of all lanes become sticky then. -/
def Sys2Proof.Claims.FloatResults : Prop :=
  ∀ i d n f, Claims.fpWord i = some (d, n, f) → ∀ s : State, s.Runs i →
    (∀ l, bit (s.vOf i) l = true → enabledCond s.me.fpctl (f s.me l).2 = false) →
    ∃ t, exec i s = .next t ∧
      s.WordFrame t i 5 ((List.range n).map fun k => .g (d + BitVec.ofNat 6 k))
        (Claims.allConds (s.vOf i) fun l => (f s.me l).2) ∧
      ∀ l, bit (s.vOf i) l = true → ∀ k, k < n → t.me.gv l (d + BitVec.ofNat 6 k) = (f s.me l).1.getD k 0

/-- A lane that raises a condition whose trap is enabled traps with code 0x0D, deferred, and writes nothing; the sticky
bits of its conditions are set all the same. -/
def Obligations.FloatTraps : Prop :=
  ∀ i d n f, Claims.fpWord i = some (d, n, f) → ∀ s : State, s.Runs i → s.me.handler = false →
    ∃ t, exec i s = .next t ∧
      t.me.fpLate = (s.me.stick (s.cycle + 5) (Claims.allConds (s.vOf i) fun l => (f s.me l).2)).fpLate ∧
      ∀ l, bit (s.vOf i) l = true → enabledCond s.me.fpctl (f s.me l).2 = true →
        t.me.lane l = { s.me.lane l with
          st := .waiting .trap, trapCode := BitVec.ofNat 32 ((f s.me l).2.toNat / 2 ^ 9 % 2 ^ 5 * 2 ^ 16 + 0x0D),
          trapPc := (s.ex i.hdr).pc, trapAddr := 0, trapOrig := (s.ex i.hdr).pc } ∧
        bit t.me.trapLane l = true

/-- FCMP compares f32 values and writes a predicate 4 cycles after issue; it raises no condition. -/
def Sys2Proof.Claims.FloatCompare : Prop :=
  ∀ h cc pd a b (s : State), s.Runs (.fcmp h cc pd a b) →
    ∃ t, exec (.fcmp h cc pd a b) s = .next t ∧ s.WordFrame t (.fcmp h cc pd a b) 4 [.p pd] 0 ∧
      ∀ l, bit (s.vOf (.fcmp h cc pd a b)) l = true → t.me.pv l pd = (pd == 7 ||
        Claims.fpCond cc (fF32.val (Claims.ftz s.me) (s.me.gv l a).toNat) (fF32.val (Claims.ftz s.me) (s.me.bv l b).toNat))

namespace Sys2Proof.Claims

/-- A code of a format with `eb` exponent and `mb` mantissa bits stands for a number, and that number (R100). -/
def isNum (eb mb c : Nat) : Prop := c < 2 ^ (eb + mb + 1) ∧ c / 2 ^ mb % 2 ^ eb ≠ 2 ^ eb - 1
def codeNum (eb mb bias c : Nat) : ℚ :=
  let e := c / 2 ^ mb % 2 ^ eb
  (if c / 2 ^ (eb + mb) = 1 then -1 else 1) *
    if e = 0 then ((c % 2 ^ mb : Nat) : ℚ) * 2 ^ (1 - (bias : Int) - mb)
    else ((2 ^ mb + c % 2 ^ mb : Nat) : ℚ) * 2 ^ ((e : Int) - bias - mb)

/-- A code stands for a number within half a unit of the last place of a value (R104): of the unit 2^q, for every q that
is fine enough for the format and whose units reach the value. -/
def nearest (eb mb bias r : Nat) (v : ℚ) : Prop :=
  isNum eb mb r ∧ ∀ q : Int, 1 - (bias : Int) - mb ≤ q → |v| < 2 ^ (q + mb + 1) → 2 * |codeNum eb mb bias r - v| ≤ 2 ^ q

end Sys2Proof.Claims

/-- Sum, difference, product and product with a sum, of numbers with FTZ clear, where the result is no overflow: the
code is that of a number within half a unit of the exact result, rounded once (R104, R115, R118). -/
def Sys2Proof.Claims.FloatArithmetic : Prop :=
  ∀ f eb mb bias, (f, eb, mb, bias) ∈ [(fF32, 8, 23, 127), (fBf16, 8, 7, 127), (fF16, 5, 10, 15)] → ∀ a b c,
    Claims.isNum eb mb a → Claims.isNum eb mb b → Claims.isNum eb mb c →
    let v := Claims.codeNum eb mb bias
    ((f.fadd false a b).2 &&& cOF = 0 → Claims.nearest eb mb bias (f.fadd false a b).1 (v a + v b)) ∧
    ((f.fsub false a b).2 &&& cOF = 0 → Claims.nearest eb mb bias (f.fsub false a b).1 (v a - v b)) ∧
    ((f.fmul false a b).2 &&& cOF = 0 → Claims.nearest eb mb bias (f.fmul false a b).1 (v a * v b)) ∧
    ((f.ffma false a b c).2 &&& cOF = 0 → Claims.nearest eb mb bias (f.ffma false a b c).1 (v a * v b + v c))

/-- A special function is entered into its pipe, where no lane raises a condition whose trap is enabled: its flag is
busy, and nothing is written yet. -/
def Sys2Proof.Claims.SpecialFunctionIssue : Prop :=
  ∀ i d sb f, Claims.sfuWord i = some (d, sb, f) → ∀ s : State, s.Runs i → s.vOf i ≠ 0 →
    (∀ l, bit (s.vOf i) l = true → enabledCond s.me.fpctl (f s.me l).2 = false) →
    ∃ t o, exec i s = .next t ∧ t = { s with bands := t.bands, sfus := s.sfus ++ [o], nextId := t.nextId,
                                             free := s.free + 1 } ∧
      o.band = s.cur ∧ o.word = (s.ex i.hdr).pc ∧ o.d = d ∧ o.flag = sb ∧ o.lanes = s.vOf i ∧
      o.vals = (lanesOf (s.vOf i)).map (fun l => BitVec.ofNat 32 (f s.me l).1) ∧
      o.conds = stickyOf (Claims.allConds (s.vOf i) fun l => (f s.me l).2) ∧
      (sb.toNat < 12 → t.me.busy sb.toNat = true) ∧ (∀ l r, t.me.getReg l r = s.me.getReg l r) ∧
      t.me.inFlight = s.me.inFlight ++ [⟨o.id, .sfu, .g d, s.vOf i, 0⟩]

/-- SFU_COMPLETE: the oldest special function of a band whose quarter runs is written into the live lanes that still
expect it, its flag is done, and its conditions become sticky in this cycle. -/
def Sys2Proof.Claims.SpecialFunctionComplete : Prop :=
  ∀ (s : State) n o, n < s.bands.length → s.sfus.find? (·.band == n) = some o →
    (s.quarterOf (s.band n)).stopped = false → s.holdFlags = false → o.vals.length = (lanesOf o.lanes).length →
    (∀ l, bit o.lanes l = true → ((s.band n).lane l).live = true) →
    (s.band n).inFlight.filter (·.id == o.id) = [⟨o.id, .sfu, .g o.d, o.lanes, 0⟩] →
    (∀ l, bit o.lanes l = true → (s.band n).races s.cycle l (.g o.d) = false) →
    ∃ t, exec (.sfuComplete n) s = .next t ∧
      t = { s with bands := t.bands, sfus := s.sfus.filter (fun e => e.id != o.id), free := s.free + 1 } ∧
      (∀ k, k ≠ n → t.band k = s.band k) ∧
      t.band n = { s.band n with lanes := (t.band n).lanes, flags := (t.band n).flags,
                                 fpLate := (t.band n).fpLate,
                                 inFlight := (s.band n).inFlight.filter fun e => e.id != o.id } ∧
      (t.band n).fpLate = (s.band n).fpLate ++ (if o.conds = 0 then [] else [(o.conds, s.cycle)]) ∧
      (t.band n).busy o.flag.toNat = false ∧
      (∀ l v, (l, v) ∈ (lanesOf o.lanes).zip o.vals → (t.band n).gv l o.d = v) ∧
      ∀ l r, (bit o.lanes l = false ∨ r ≠ .g o.d) → (t.band n).getReg l r = (s.band n).getReg l r

/-- Rounding of m / 2^sh to an integer (R104): to the nearest with ties to even, toward zero, up and down, by the sign
of the value, and inexact exactly if something is lost. -/
def Sys2Proof.Claims.RoundingModes : Prop :=
  ∀ (neg : Bool) (m sh : Nat),
    let d (q : Nat) : Int := (q : Int) * 2 ^ sh - m
    let near := (roundNat .rne neg m sh).1
    2 * |d near| ≤ 2 ^ sh ∧ (2 * |d near| = 2 ^ sh → near % 2 = 0) ∧
      (d (roundNat .rz neg m sh).1 ≤ 0 ∧ -(2 : Int) ^ sh < d (roundNat .rz neg m sh).1) ∧
      (if neg then d (roundNat .ru neg m sh).1 ≤ 0 ∧ -(2 : Int) ^ sh < d (roundNat .ru neg m sh).1
        else 0 ≤ d (roundNat .ru neg m sh).1 ∧ d (roundNat .ru neg m sh).1 < 2 ^ sh) ∧
      (if neg then 0 ≤ d (roundNat .rd neg m sh).1 ∧ d (roundNat .rd neg m sh).1 < 2 ^ sh
        else d (roundNat .rd neg m sh).1 ≤ 0 ∧ -(2 : Int) ^ sh < d (roundNat .rd neg m sh).1) ∧
      ∀ mode, (roundNat mode neg m sh).2 = decide (m % 2 ^ sh ≠ 0)

/-- Every code of a floating format that is no NaN stands for a value that rounds to the same code in every mode,
exactly, with FTZ clear. -/
def Sys2Proof.Claims.FloatCodesExact : Prop :=
  ∀ f ∈ [fF32, fBf16, fF16, fE4m3, fE5m2, fE2m3, fE3m2, fE2m1], ∀ mode c, c < 2 * f.signBit →
    (f.val false c).isNan = false → f.round mode false (f.val false c) = (c, 0)

/-! ## Memory words -/

namespace Sys2Proof.Claims

/-- The registers d, d + 1, … of a lane as one number, the first the least significant (R3, R7). -/
def regsNat (B : Band) (l : Nat) (d : Reg) : Nat → Nat
  | 0 => 0
  | k + 1 => (B.gv l d).toNat + 2 ^ 32 * regsNat B l (d + 1) k

/-- What a memory word does in a lane: kind, space, bytes, whether it writes and whether it reads and writes, flag,
scope and order, and in a lane the address, the bytes it stores and those it compares with. -/
structure MemOp where
  kind : AccKind
  sp : Space
  n : Nat
  write : Bool
  rmw : Bool
  flag : Flag
  scope : Scope
  order : Order
  addr : Band → Nat → DWord
  data : Band → Nat → List Byte
  cmp : Band → Nat → List Byte

/-- The address operand of a space (R96, R217, R256). -/
def addrIn (sp : Space) (a : Reg) (off : Word) (B : Band) (l : Nat) : DWord :=
  if sp = .scr then (B.gv l a + off).setWidth 64 else B.gv2 l a + off.signExtend 64

/-- The low bytes of registers (R97). -/
def bytesOf (d : Reg) (regs n : Nat) (B : Band) (l : Nat) : List Byte := leBytes (regsNat B l d regs) n

/-- The memory words with one access in each lane of V. -/
def memOp : Instr → Option MemOp
  | .ld _ d a sb sz off =>
    some ⟨.load d sz, .gen, sz.bytes, false, false, sb, .band, .relaxed, addrIn .gen a off, fun _ _ => [], fun _ _ => []⟩
  | .st _ d a sb sz off =>
    some ⟨.store, .gen, sz.bytes, true, false, sb, .band, .relaxed, addrIn .gen a off, bytesOf d sz.regs sz.bytes,
      fun _ _ => []⟩
  | .ldSpace _ d a sb sp sz off =>
    some ⟨.load d sz, sp, sz.bytes, false, false, sb, .band, .relaxed, addrIn sp a off, fun _ _ => [], fun _ _ => []⟩
  | .stSpace _ d a sb sp sz off =>
    some ⟨.store, sp, sz.bytes, true, false, sb, .band, .relaxed, addrIn sp a off, bytesOf d sz.regs sz.bytes,
      fun _ _ => []⟩
  | .atom _ d a b op ty c =>
    some ⟨.atom d op ty, c.sp, ty.bytes, true, true, c.sb, c.scope, c.order, addrIn c.sp a 0,
      bytesOf b ty.regs ty.bytes, fun _ _ => []⟩
  | .cas _ d a b ty c =>
    some ⟨.cas d ty, c.sp, ty.bytes, true, true, c.sb, c.scope, c.order, addrIn c.sp a 0,
      bytesOf b ty.regs ty.bytes, bytesOf d ty.regs ty.bytes⟩
  | .ldAtomic _ d a ty c =>
    some ⟨.loadOrd d ty, c.sp, ty.bytes, false, false, c.sb, c.scope, c.order, addrIn c.sp a 0, fun _ _ => [],
      fun _ _ => []⟩
  | .stAtomic _ a b ty c =>
    some ⟨.storeOrd, c.sp, ty.bytes, true, true, c.sb, c.scope, c.order, addrIn c.sp a 0,
      bytesOf b ty.regs ty.bytes, fun _ _ => []⟩
  | _ => none

/-- What the address checks of R218 find in a lane. -/
def reaches (s : State) (m : MemOp) (l : Nat) : Reach := reach s s.me l m.sp (m.addr s.me l) m.n m.write m.rmw

/-- An access whose one part can be performed now, for a band whose quarter runs (R23, R222, R227, R406). -/
def alone (s : State) (a : Access) (p : Part) : Prop :=
  a.band < s.bands.length ∧ s.findAccess a.id = some a ∧ a.parts = [p] ∧ p.done = false ∧ p.got = none ∧
    s.partReady a p = true ∧
    (s.quarterOf (s.band a.band)).stopped = false ∧ p.lane < 32

/-- The registers of a part's lane that still expect its result, with no later write and no earlier one that is not yet
due (R19). -/
def expects (s : State) (a : Access) (p : Part) : Prop :=
  ((s.band a.band).lane p.lane).live = true ∧
    ∀ r ∈ a.kind.dests, (∃ f ∈ (s.band a.band).inFlight, f.id = a.id ∧ f.reg = r ∧ bit f.lanes (r.laneOf p.lane) = true) ∧
      (∀ f ∈ (s.band a.band).inFlight, f.id = a.id → bit f.raced (r.laneOf p.lane) = false) ∧
      (s.band a.band).races s.cycle p.lane r = false

/-- No access of the band that entered before this one has destinations to write, and each of the others is still to
be performed, with nothing that it has read (R99, R260). -/
def oldest (s : State) (a : Access) : Prop :=
  s.loadsBefore a.band a.id = [] ∧
    ∀ e ∈ s.accesses, e.band = a.band → e.id ≠ a.id → e.kept = [] ∧ ∃ q ∈ e.parts, q.done = false

/-- The bytes of a part lie in scratchpad or in uncompressed memory, none twice, and no page of them awaits reclaim. -/
def plainPlaces (s : State) (p : Part) : Prop :=
  p.locs.Nodup ∧ (∀ e ∈ p.ptes, bits (s.mem.readLE e 8) 59 1 = 0) ∧ s.watches = [] ∧
    ∀ x ∈ p.locs, (∃ k, x = .scr k) ∨ ∃ k, x = .mem k ∧ s.compressed (k / 256 * 256) = false

/-- Storage after bytes are written at their places: each place holds its byte, every other byte is as before. -/
def stored (s t : State) (locs : List Loc) (v : List Byte) : Prop :=
  (∀ k (h : k < locs.length), t.readLoc locs[k] = v.getD k 0) ∧ ∀ x, x ∉ locs → t.readLoc x = s.readLoc x

/-- The words of a value (R64, R96). -/
def wordAt (v : Nat) (k : Nat) : Word := BitVec.ofNat 32 (v / 2 ^ (32 * k))

/-- The value that a load leaves in its first register, before it is cut into words (R96). -/
def loaded (sz : Size) (v : Nat) : Nat :=
  match sz with
  | .i8 => (BitVec.signExtend 32 (BitVec.ofNat 8 v)).toNat
  | .i16 => (BitVec.signExtend 32 (BitVec.ofNat 16 v)).toNat
  | _ => v

end Sys2Proof.Claims

/-- No flag that lags behind its result waits for this access alone (R260). -/
def Sys2Proof.Claims.lateFree (s : State) (id : Nat) : Prop :=
  ∀ e ∈ s.late, e.hold = true ∨ ∃ x ∈ s.accesses, x.id ≠ id ∧ x.id ∈ e.after

/-- Bytes can be written at once: they are not compressed, and no write that lacks sectors waits at their blocks
(R226, R227). -/
def Sys2Proof.Claims.ready (s : State) (pa n : Nat) : Prop :=
  ∀ b ∈ blocksOf pa n, s.compressed (b * 256) = false ∧ s.blocked [b] = false

/-- A memory word outside an open region enters one access for the lanes of V: address, bytes and places as its entry
and R218 give them. Its flag is busy; no register and no byte of storage changes. -/
def Sys2Proof.Claims.MemoryWordsIssue : Prop :=
  ∀ i m, Claims.memOp i = some m → ∀ s : State, s.Runs i → s.vOf i ≠ 0 → (s.after i).me.rgnOpen = false →
    (∀ l, bit (s.vOf i) l = true → ∃ ls, Claims.reaches (s.after i) m l = .locs ls) →
    ∃ t a, exec i s = .next t ∧
      t = { s.after i with bands := t.bands, accesses := (s.after i).accesses ++ [a], nextId := (s.after i).nextId + 1,
                           free := (s.after i).free + 1 } ∧
      (∀ n, n ≠ (s.after i).cur → t.band n = (s.after i).band n) ∧
      a.id = (s.after i).nextId ∧ a.band = (s.after i).cur ∧ a.word = (s.ex i.hdr).pc ∧ a.kind = m.kind ∧ a.sp = m.sp ∧
      a.flag = m.flag ∧ a.scope = m.scope ∧ a.order = m.order ∧
      a.parts.map (fun p => (p.lane, p.va, p.data, p.cmp, p.done, p.absent)) = (lanesOf (s.vOf i)).map (fun l =>
        (l, m.addr (s.after i).me l, m.data (s.after i).me l, m.cmp (s.after i).me l, false, false)) ∧
      (∀ p ∈ a.parts, Claims.reaches (s.after i) m p.lane = .locs p.locs) ∧
      (m.flag.toNat < 12 → t.me.busy m.flag.toNat = true) ∧
      ∀ l r, t.me.getReg l r = (s.after i).me.getReg l r

/-- SLD enters one access, by the lowest lane of V, whose result goes to uniform registers; a trap of it belongs to every
lane of V. -/
def Sys2Proof.Claims.UniformLoadIssue : Prop :=
  ∀ h d a sb sp sz off (s : State), s.Runs (.sld h d a sb sp sz off) → s.vOf (.sld h d a sb sp sz off) ≠ 0 →
    s.me.rgnOpen = false →
    let va := if sp = .scr then (s.me.uv a + off).setWidth 64 else s.me.uv2 a + off.signExtend 64
    let low := lowest (s.vOf (.sld h d a sb sp sz off))
    (∃ ls, reach s s.me low sp va sz.bytes false false = .locs ls) →
    ∃ t e p, exec (.sld h d a sb sp sz off) s = .next t ∧
      t = { s with bands := t.bands, accesses := s.accesses ++ [e], nextId := s.nextId + 1, free := s.free + 1 } ∧
      e.band = s.cur ∧ e.kind = .uload d sz ∧ e.flag = sb ∧ e.parts = [p] ∧ e.also = s.vOf (.sld h d a sb sp sz off) ∧
      p.lane = low ∧ p.va = va ∧ p.done = false ∧
      p.absent = false ∧ reach s s.me low sp va sz.bytes false false = .locs p.locs ∧
      (sb.toNat < 12 → t.me.busy sb.toNat = true) ∧ ∀ l r, t.me.getReg l r = s.me.getReg l r

/-- A lane of a memory word whose address fails a check of R218 traps, deferred, with that check's code and the address,
and has no other effect. -/
def Sys2Proof.Claims.MemoryTraps : Prop :=
  ∀ i m, Claims.memOp i = some m → ∀ s : State, s.Runs i → (s.after i).me.rgnOpen = false →
    (s.after i).me.handler = false →
    ∃ t, exec i s = .next t ∧ ∀ l c, bit (s.vOf i) l = true → Claims.reaches (s.after i) m l = .trap c →
      t.me.lane l = { (s.after i).me.lane l with
        st := .waiting .trap, trapCode := c.setWidth 32, trapPc := (s.ex i.hdr).pc,
        trapAddr := m.addr (s.after i).me l, trapOrig := (s.ex i.hdr).pc } ∧
      bit t.me.trapLane l = true

/-- A plain store in an open region is held in the region store buffer: no byte of storage changes and no access is
entered. Its flag is busy only while destinations of earlier words of the band are still to be written (R260). -/
def Sys2Proof.Claims.RegionHoldsStores : Prop :=
  ∀ i m, Claims.memOp i = some m → m.kind = .store → ∀ s : State, s.Runs i → s.me.rgnOpen = true →
    (∀ l, bit (s.vOf i) l = true → (resolve s s.me m.sp (m.addr s.me l)).holdable = true ∧
      ∃ ls, Claims.reaches s m l = .locs ls) →
    ∃ t, exec i s = .next t ∧
      (m.flag = 15 ∨ s.vOf i = 0 ∨ s.loadsBefore s.cur s.nextId = [] →
        t = { s with bands := t.bands, free := s.free + 1 } ∧ t.me.flags = s.me.flags) ∧
      (m.flag.toNat < 12 → s.vOf i ≠ 0 → s.loadsBefore s.cur s.nextId ≠ [] →
        t = { s with bands := t.bands, nextId := s.nextId + 1, free := s.free + 1,
                     late := s.late ++ [⟨s.cur, s.nextId, m.flag, s.loadsBefore s.cur s.nextId, false, 0⟩] } ∧
        t.me.busy m.flag.toNat = true) ∧
      (∀ n, n ≠ s.cur → t.band n = s.band n) ∧ t.me.rgnOpen = true ∧ (∀ l r, t.me.getReg l r = s.me.getReg l r) ∧
      t.me.held.take s.me.held.length = s.me.held ∧
      (t.me.held.drop s.me.held.length).map (fun h => (h.lane, h.word, h.sp, h.va)) =
        (lanesOf (s.vOf i)).map fun l => (l, (s.ex i.hdr).pc, m.sp, m.addr s.me l)

/-- The checks of R218 in their order: an address that is not canonical, then one that is not a multiple of the size;
an access that passes has as many bytes as its size. That the operand of a weight store has no check of a canonical
address, so that it fails with 0x06 alone, is the model's choice (log entry 110). -/
def Sys2Proof.Claims.AddressChecks : Prop :=
  ∀ (s : State) (b : Band) t sp a n write rmw,
    (sp = .gen ∨ sp = .global → canonical a = false → reach s b t sp a n write rmw = .trap 0x0A) ∧
    (sp = .scr ∨ sp = .ws ∨ canonical a = true → a.toNat % n ≠ 0 → reach s b t sp a n write rmw = .trap 0x06) ∧
    ∀ ls, reach s b t sp a n write rmw = .locs ls → ls.length = n ∧ a.toNat % n = 0

/-- LOAD_COMPLETE of a load that reads what it finds in storage: its value, extended as its size asks, goes to its
registers, its flag is done, and no byte of storage changes. -/
def Obligations.LoadComplete : Prop :=
  ∀ (s : State) n a p, s.oldestLoad n = some a → a.kind.isLoad = true → Claims.alone s a p → Claims.expects s a p →
    Claims.oldest s a → p.held = [] → s.holdFlags = false → Claims.lateFree s a.id → (s.core (s.band n).core).l1 = [] →
    ∃ t, exec (.loadComplete n) s = .next t ∧ t.accesses = s.accesses.filter (fun e => e.id != a.id) ∧
      (∀ x, t.readLoc x = s.readLoc x) ∧ (∀ k, k ≠ n → t.band k = s.band k) ∧ (t.band n).busy a.flag.toNat = false ∧
      (∀ d sz, a.kind = .load d sz → ∀ k, k < sz.regs →
        (t.band n).gv p.lane (d + BitVec.ofNat 6 k) = Claims.wordAt (Claims.loaded sz (leNat (p.locs.map s.readLoc))) k) ∧
      (∀ d sz, a.kind = .uload d sz → ∀ k, k < sz.regs →
        (t.band n).uv (d + BitVec.ofNat 5 k) = Claims.wordAt (Claims.loaded sz (leNat (p.locs.map s.readLoc))) k) ∧
      (∀ d ty, a.kind = .loadOrd d ty → ∀ k, k < ty.regs →
        (t.band n).gv p.lane (d + BitVec.ofNat 6 k) = Claims.wordAt (leNat (p.locs.map s.readLoc)) k) ∧
      ∀ l r, r ∉ a.kind.dests → (t.band n).getReg l r = (s.band n).getReg l r

/-- STORE_PERFORMED of a plain or an ordered store: its places hold its bytes, every other byte of storage is unchanged,
its flag is done unless destinations of earlier words of the band are still to be written, and no register changes. -/
def Sys2Proof.Claims.StorePerformed : Prop :=
  ∀ (s : State) a p, a.kind = .store ∨ a.kind = .storeOrd → Claims.alone s a p → Claims.plainPlaces s p →
    p.data.length = p.locs.length → s.holdFlags = false → Claims.lateFree s a.id →
    ∃ t, exec (.storePerformed a.id) s = .next t ∧ t.accesses = s.accesses.filter (fun e => e.id != a.id) ∧
      Claims.stored s t p.locs p.data ∧ (∀ k, k ≠ a.band → t.band k = s.band k) ∧
      (s.loadsBefore a.band a.id = [] → (t.band a.band).busy a.flag.toNat = false) ∧
      (a.flag ≠ 15 → s.loadsBefore a.band a.id ≠ [] → (t.band a.band).flags = (s.band a.band).flags ∧
        t.late = s.late ++ [⟨a.band, a.id, a.flag, s.loadsBefore a.band a.id, false, 0⟩]) ∧
      ∀ l r, (t.band a.band).getReg l r = (s.band a.band).getReg l r

/-- STORE_PERFORMED of a read-modify-write: the old value goes to the destination, and the places hold the value that
the operation gives; a CAS whose compare value differs writes nothing. -/
def Sys2Proof.Claims.AtomicPerformed : Prop :=
  ∀ (s : State) a p, s.oldestLoad a.band = some a → Claims.alone s a p → Claims.expects s a p → Claims.oldest s a →
    Claims.plainPlaces s p → p.data.length = p.locs.length →
    (∀ d op ty, a.kind = .atom d op ty →
      ∃ t, exec (.storePerformed a.id) s = .next t ∧ t.accesses = s.accesses.filter (fun e => e.id != a.id) ∧
        Claims.stored s t p.locs
          (leBytes (aop op ty (leNat (p.locs.map s.readLoc)) (leNat p.data)) p.locs.length) ∧
        ∀ k, k < ty.regs →
          (t.band a.band).gv p.lane (d + BitVec.ofNat 6 k) = Claims.wordAt (leNat (p.locs.map s.readLoc)) k) ∧
    ∀ d ty, a.kind = .cas d ty →
      ∃ t, exec (.storePerformed a.id) s = .next t ∧ t.accesses = s.accesses.filter (fun e => e.id != a.id) ∧
        Claims.stored s t p.locs (if p.locs.map s.readLoc = p.cmp then p.data else p.locs.map s.readLoc) ∧
        ∀ k, k < ty.regs →
          (t.band a.band).gv p.lane (d + BitVec.ofNat 6 k) = Claims.wordAt (leNat (p.locs.map s.readLoc)) k

/-- The operations of ATOM on integers of n bits (R262). -/
def Sys2Proof.Claims.AtomicOperations : Prop :=
  ∀ ty, (ty = .i32 ∨ ty = .n32 ∨ ty = .i64 ∨ ty = .n64) → ∀ x y, x < 2 ^ (8 * ty.bytes) → y < 2 ^ (8 * ty.bytes) →
    let n := 8 * ty.bytes
    let v (k : Nat) : Int := if ty = .i32 ∨ ty = .i64 then (k : Int).bmod (2 ^ n) else k
    aop .add ty x y = (x + y) % 2 ^ n ∧ v (aop .min ty x y) = min (v x) (v y) ∧
      v (aop .max ty x y) = max (v x) (v y) ∧ aop .exch ty x y = y ∧
      aop .inc ty x y = (if x ≥ y then 0 else x + 1) ∧ aop .dec ty x y = (if x = 0 ∨ x > y then y else x - 1) ∧
      ∀ k, (aop .and ty x y).testBit k = (x.testBit k && y.testBit k) ∧
        (aop .or ty x y).testBit k = (x.testBit k || y.testBit k) ∧
        (aop .xor ty x y).testBit k = (x.testBit k != y.testBit k)

/-- FENCE with nothing of V still to be performed: the acquire part at grove scope or wider drops the core's L1 lines;
no byte of storage and no register changes, and the band does not wait. -/
def Sys2Proof.Claims.FenceWithNothingPending : Prop :=
  ∀ h scope order (s : State), s.Starts (.fence h scope order) → s.vOf (.fence h scope order) ≠ 0 →
    (s.after (.fence h scope order)).accesses = [] →
    (∀ c, ((s.after (.fence h scope order)).core c).seq = []) →
    ∃ t, exec (.fence h scope order) s = .next t ∧ (∀ x, t.readLoc x = (s.after (.fence h scope order)).readLoc x) ∧
      s.WordFrame { t with cores := (s.after (.fence h scope order)).cores } (.fence h scope order) 0 [] 0 ∧
      (order = .acquire ∨ order = .acqRel ∨ order = .seqCst →
        scope = .grove ∨ scope = .die ∨ scope = .device ∨ scope = .system →
        (t.core (s.after (.fence h scope order)).me.core).l1 = []) ∧
      (order = .release ∨ scope = .band ∨ scope = .crew → t.cores = (s.after (.fence h scope order)).cores)

/-- A FENCE with a release part waits while a store of a lane of V is still to be performed. That the whole band is
blocked meanwhile, and not the lanes of its issue set alone, is the model's reading of R267 (log entry 17). -/
def Sys2Proof.Claims.FenceWaits : Prop :=
  ∀ h scope order (s : State), s.Starts (.fence h scope order) → order = .release ∨ order = .acqRel ∨ order = .seqCst →
    (∃ a ∈ (s.after (.fence h scope order)).accesses, a.band = (s.after (.fence h scope order)).cur ∧
      (a.kind = .store ∨ a.kind = .storeOrd) ∧
      ∃ p ∈ a.parts, p.done = false ∧ bit (s.vOf (.fence h scope order)) p.lane = true) →
    ∃ t ids, exec (.fence h scope order) s = .next t ∧ t.me.block = some (.fence ids (decide ((order = .acqRel ∨ order = .seqCst) ∧
        (scope = .grove ∨ scope = .die ∨ scope = .device ∨ scope = .system)))) ∧
      ∀ a ∈ (s.after (.fence h scope order)).accesses, a.band = (s.after (.fence h scope order)).cur →
        (a.kind = .store ∨ a.kind = .storeOrd) →
        (∃ p ∈ a.parts, p.done = false ∧ bit (s.vOf (.fence h scope order)) p.lane = true) → a.id ∈ ids

/-- SHED drops cached lines from the core's L1, all of them or those of the ranges that its lanes give, and a clean
changes nothing; no byte of storage and no register changes. -/
def Sys2Proof.Claims.CacheControl : Prop :=
  (∀ h (s : State), s.Starts (.shedDropL1All h) → s.vOf (.shedDropL1All h) ≠ 0 →
    ∃ t, exec (.shedDropL1All h) s = .next t ∧ (t.core s.me.core).l1 = [] ∧
      s.WordFrame { t with cores := s.cores } (.shedDropL1All h) 0 [] 0) ∧
  (∀ h a b (s : State), s.Runs (.shedDropL1 h a b) →
    (∀ l, bit (s.vOf (.shedDropL1 h a b)) l = true → canonical (s.me.gv2 l a) = true) →
    ∃ t, exec (.shedDropL1 h a b) s = .next t ∧ s.WordFrame { t with cores := s.cores } (.shedDropL1 h a b) 0 [] 0 ∧
      (∀ y ∈ (t.core s.me.core).l1, y ∈ (s.core s.me.core).l1) ∧
      ∀ l, bit (s.vOf (.shedDropL1 h a b)) l = true → ∀ va ∈ rangeLines (s.me.gv2 l a) (s.me.gv l b).toNat,
        ∀ y ∈ (t.core s.me.core).l1, (y.ws, y.base) ∉ cachedLines s s.me l va) ∧
  ∀ h a b (s : State), s.Runs (.shedCleanGrove h a b) →
    (∀ l, bit (s.vOf (.shedCleanGrove h a b)) l = true → canonical (s.me.gv2 l a) = true) →
    ∃ t, exec (.shedCleanGrove h a b) s = .next t ∧ s.WordFrame t (.shedCleanGrove h a b) 0 [] 0

/-! ## Cooperation -/

namespace Sys2Proof.Claims

/-- Votes that write a predicate (R157). -/
def voteWord : Instr → Option (PReg × (Band → BitVec 32 → Bool))
  | .voteAll _ pd na pa => some (pd, fun B v => (lanesOf v).all fun j => B.pv j pa != na)
  | .voteAny _ pd na pa => some (pd, fun B v => (lanesOf v).any fun j => B.pv j pa != na)
  | _ => none

/-- The source lane of a shuffle in lane l with control c (R160). -/
def shflLane : Instr → Option (Reg × Reg × Src × (Nat → Nat → Int))
  | .shflIdx _ d a b => some (d, a, b, fun _ c => (c % 32 : Nat))
  | .shflUp _ d a b => some (d, a, b, fun l c => (l : Int) - c)
  | .shflDown _ d a b => some (d, a, b, fun l c => (l : Int) + c)
  | .shflXor _ d a b => some (d, a, b, fun l c => (Nat.xor l (c % 32) : Nat))
  | _ => none

/-- Words that write one uniform register, from V (R135, R155, R158, R159). -/
def uniWord : Instr → Option (SReg × (Band → BitVec 32 → Word))
  | .uaddI32 _ d a b => some (d, fun B _ => wordOf ((B.uv a).toInt + (B.uv b).toInt))
  | .usubI32 _ d a b => some (d, fun B _ => wordOf ((B.uv a).toInt - (B.uv b).toInt))
  | .umulI32 _ d a b => some (d, fun B _ => wordOf ((B.uv a).toInt * (B.uv b).toInt))
  | .umovlB32 _ d lit => some (d, fun _ _ => lit)
  | .uandB32 _ d a b => some (d, fun B _ => B.uv a &&& B.uv b)
  | .uorB32 _ d a b => some (d, fun B _ => B.uv a ||| B.uv b)
  | .ushlB32 _ d a b => some (d, fun B _ => BitVec.ofNat 32 ((B.uv a).toNat * 2 ^ min (B.uv b).toNat 32))
  | .ushrN32 _ d a b => some (d, fun B _ => BitVec.ofNat 32 ((B.uv a).toNat / 2 ^ min (B.uv b).toNat 32))
  | .voteBallot _ d na pa => some (d, fun B v =>
      BitVec.ofNat 32 ((lanesOf v).map fun j => if B.pv j pa != na then 2 ^ j else 0).sum)
  | .rdfl _ d a => some (d, fun B v => B.gv (lowest v) a)
  | _ => none

/-- Nothing that lanes of any band have issued is still to be performed. -/
def nothingPending (s : State) : Prop := s.accesses = [] ∧ ∀ c, (s.core c).seq = []

/-- A live lane of band `n` that is neither one of these lanes of the issuing band nor in this state. -/
def missing (s : State) (v : BitVec 32) (n : Nat) (p : LaneSt → Bool) : Prop :=
  ∃ l, l < 32 ∧ ((s.band n).lane l).live = true ∧ ¬(n = s.cur ∧ bit v l = true) ∧ p ((s.band n).lane l).st = false

end Sys2Proof.Claims

/-- Votes and shuffles read the lanes of V and write every lane of V 4 cycles after issue; a shuffle whose source lane
is not in V reads its own lane. -/
def Obligations.ExchangeResults : Prop :=
  (∀ i pd v, Claims.voteWord i = some (pd, v) → ∀ s : State, s.Runs i →
    ∃ t, exec i s = .next t ∧ s.WordFrame t i 4 [.p pd] 0 ∧
      ∀ l, bit (s.vOf i) l = true → t.me.pv l pd = (pd == 7 || v s.me (s.vOf i))) ∧
  ∀ i d a b j, Claims.shflLane i = some (d, a, b, j) → ∀ s : State, s.Runs i →
    ∃ t, exec i s = .next t ∧ s.WordFrame t i 4 [.g d] 0 ∧ ∀ l, bit (s.vOf i) l = true →
      (∀ k, j l (s.me.bv l b).toNat = (k : Nat) → bit (s.vOf i) k = true → t.me.gv l d = s.me.gv k a) ∧
      ((∀ k : Nat, j l (s.me.bv l b).toNat = k → bit (s.vOf i) k = false) → t.me.gv l d = s.me.gv l a)

/-- Words that write one uniform register: once per issue, 4 cycles after it, if V is not empty. -/
def Obligations.UniformResults : Prop :=
  ∀ i d v, Claims.uniWord i = some (d, v) → ∀ s : State, s.Runs i →
    ∃ t, exec i s = .next t ∧ s.WordFrame t i 4 [.s d] 0 ∧ (s.vOf i ≠ 0 → t.me.uv d = v s.me (s.vOf i))

/-- BAR: while a live lane of the crew has not arrived the lanes of V wait, to go on at the next word; when the last
arrives with nothing still to be performed all go on, and the barrier's generation advances. -/
def Sys2Proof.Claims.CrewBarrier : Prop :=
  ∀ h (s : State), s.Starts (.bar h) → s.vOf (.bar h) ≠ 0 → ∀ c, (s.after (.bar h)).crew (s.after (.bar h)).me.crew = some c →
    c.running = true →
    ((∃ n ∈ c.bands, Claims.missing (s.after (.bar h)) (s.vOf (.bar h)) n fun st => decide (st = .waiting .crewBar)) →
      ∃ t, exec (.bar h) s = .next t ∧ t.crews = (s.after (.bar h)).crews ∧
        (∀ n, n ≠ (s.after (.bar h)).cur → t.band n = (s.after (.bar h)).band n) ∧
        (∀ l r, t.me.getReg l r = (s.after (.bar h)).me.getReg l r) ∧
        ∀ l, bit (s.vOf (.bar h)) l = true → (t.me.lane l).st = .waiting .crewBar ∧ (t.me.lane l).pc = (s.ex h).pc ∧
          (s.GoesOn (.bar h) l → (t.me.lane l).resume = nextPc (s.ex h).pc (s.ex h).lbit)) ∧
    ((s.after (.bar h)).cur ∈ c.bands → Claims.nothingPending (s.after (.bar h)) →
      (∀ n ∈ c.bands, ¬Claims.missing (s.after (.bar h)) (s.vOf (.bar h)) n fun st => decide (st = .waiting .crewBar)) →
      (∀ l, bit (s.vOf (.bar h)) l = true → ((s.after (.bar h)).me.lane l).live = true) →
      ∃ t, exec (.bar h) s = .next t ∧ t.crew (s.after (.bar h)).me.crew = some { c with barGen := c.barGen + 1 } ∧
        (∀ n l r, (t.band n).getReg l r = ((s.after (.bar h)).band n).getReg l r) ∧
        (∀ l, s.GoesOn (.bar h) l → bit (s.vOf (.bar h)) l = true →
          (t.me.lane l).st = .eligible ∧ (t.me.lane l).pc = nextPc (s.ex h).pc (s.ex h).lbit) ∧
        ∀ n ∈ c.bands, n ≠ (s.after (.bar h)).cur → ∀ l, (((s.after (.bar h)).band n).lane l).st = .waiting .crewBar →
          ((t.band n).lane l).st = .eligible ∧ ((t.band n).lane l).pc = (((s.after (.bar h)).band n).lane l).resume)

/-- GBAR and BCAST by a crew of the group while a live lane of a member has not arrived: the lanes of V wait at the
group's barrier, those of BCAST with the root and their value. -/
def Sys2Proof.Claims.GroupBarrierWaits : Prop :=
  ∀ i u, (∃ h, i = .gbar h u) ∨ (∃ h d a, i = .bcast h d a u) → ∀ s : State, s.Runs i → s.vOf i ≠ 0 →
    ∀ li g, (s.after i).groupFor (s.after i).me ((s.after i).me.uv u) = some (li, g) →
    (∀ h d a, i = .bcast h d a u → ∃ l, (s.after i).launchOf (s.after i).me = some l ∧
      rootOf ((s.after i).me.uv u) < l.image.crews) →
    (∃ m ∈ g.members, ∃ ci, (s.after i).memberCrew li m = some ci ∧ ∃ n ∈ (s.after i).taking ci,
      Claims.missing (s.after i) (s.vOf i) n (·.atGroup g.index)) →
    ∃ t, exec i s = .next t ∧ t.launches = (s.after i).launches ∧ t.crews = (s.after i).crews ∧
      (∀ n, n ≠ (s.after i).cur → t.band n = (s.after i).band n) ∧
      (∀ l r, t.me.getReg l r = (s.after i).me.getReg l r) ∧
      ∀ l, bit (s.vOf i) l = true → (t.me.lane l).pc = (s.ex i.hdr).pc ∧
        (∀ h, i = .gbar h u → (t.me.lane l).st = .waiting (.groupBar (grpOf ((s.after i).me.uv u)))) ∧
        ∀ h d a, i = .bcast h d a u → (t.me.lane l).st = .waiting
          (.bcast (grpOf ((s.after i).me.uv u)) (rootOf ((s.after i).me.uv u)) d ((s.after i).me.gv l a))

/-- GBAR and BCAST that complete their barrier: in a group of one crew of one band whose live lanes are all in V, with
nothing still to be performed, the lanes go on, the L1 of the core is dropped, the generation of the barrier advances,
and BCAST with the crew itself as root gives every lane the value of the lowest lane of V. -/
def Sys2Proof.Claims.GroupBarrierReleases : Prop :=
  ∀ i u, (∃ h, i = .gbar h u) ∨ (∃ h d a, i = .bcast h d a u) → ∀ s : State, s.Runs i → s.vOf i ≠ 0 →
    ∀ li g c l, (s.after i).groupFor (s.after i).me ((s.after i).me.uv u) = some (li, g) →
    (s.after i).launch li = some l → l.groups = [g] → (s.after i).crew (s.after i).me.crew = some c → c.launch = li →
    g.members = [c.num] → (s.after i).memberCrew li c.num = some (s.after i).me.crew → c.bands = [(s.after i).cur] →
    c.running = true → (∀ x ∈ (s.after i).crews, x.killed = false) → Claims.nothingPending (s.after i) →
    (∀ k, k < 32 → (((s.after i).me.lane k).live = true ↔ bit (s.vOf i) k = true)) →
    (∀ h d a, i = .bcast h d a u → rootOf ((s.after i).me.uv u) = c.num ∧ c.num < l.image.crews ∧
      (s.after i).me.absentIn [.g d] = []) →
    ∃ t, exec i s = .next t ∧ (t.core (s.after i).me.core).l1 = [] ∧
      t.launch li = some { l with groups := [{ g with gen := g.gen + 1 }] } ∧
      (∀ k, s.GoesOn i k → bit (s.vOf i) k = true →
        (t.me.lane k).st = .eligible ∧ (t.me.lane k).pc = nextPc (s.ex i.hdr).pc (s.ex i.hdr).lbit) ∧
      (∀ h, i = .gbar h u → ∀ k r, t.me.getReg k r = (s.after i).me.getReg k r) ∧
      ∀ h d a, i = .bcast h d a u → ∀ k, bit (s.vOf i) k = true →
        t.me.gv k d = (s.after i).me.gv (lowest (s.vOf i)) a ∧
        ∀ r, r ≠ .g d → t.me.getReg k r = (s.after i).me.getReg k r

/-- GROW and SHRINK. A GROW for no more than the band holds has no effect; one that the core's free granules cover while
no other waits is granted at once, and its new registers read 0; otherwise the band waits, last in the queue, and
behind a waiting GROW that the free granules do not cover it waits whatever it asks for. A SHRINK returns the granules
above its count and keeps every register below them. -/
def Sys2Proof.Claims.RegisterHolding : Prop :=
  (∀ h k (s : State), s.Starts (.grow h k) → s.vOf (.grow h k) ≠ 0 →
    (k.toNat + 1 ≤ s.me.gran → ∃ t, exec (.grow h k) s = .next t ∧ s.WordFrame t (.grow h k) 0 [] 0) ∧
    (s.me.gran ≤ k.toNat → (s.core s.me.core).growQ = [] →
      k.toNat + 1 - s.me.occupies ≤ (s.core s.me.core).free →
      ∃ t, exec (.grow h k) s = .next t ∧ t.me.gran = k.toNat + 1 ∧ t.me.block = none ∧
        (t.core s.me.core).free = (s.core s.me.core).free - (k.toNat + 1 - s.me.occupies) ∧
        (∀ l r, l < 32 → 8 * s.me.gran ≤ r.toNat → r.toNat < 8 * (k.toNat + 1) → t.me.gv l r = 0) ∧
        ∀ l r, (∀ g, r = .g g → g.toNat < 8 * s.me.gran) → t.me.getReg l r = s.me.getReg l r) ∧
    (s.me.gran ≤ k.toNat → (s.core s.me.core).growQ = [] →
      (s.core s.me.core).free < k.toNat + 1 - s.me.occupies →
      ∃ t, exec (.grow h k) s = .next t ∧ t.me.block = some (.grow (k.toNat + 1) (s.setOf (.grow h k)) (s.ex h).pc) ∧
        t.me.gran = s.me.gran ∧ (t.core s.me.core).growQ = [s.cur] ∧ ∀ l r, t.me.getReg l r = s.me.getReg l r) ∧
    ∀ y r n m w, s.me.gran ≤ k.toNat → (s.core s.me.core).growQ = y :: r → y ≠ s.cur →
      (s.band y).block = some (.grow n m w) → (s.core s.me.core).free < n - (s.band y).occupies →
      ∃ t, exec (.grow h k) s = .next t ∧ t.me.block = some (.grow (k.toNat + 1) (s.setOf (.grow h k)) (s.ex h).pc) ∧
        t.me.gran = s.me.gran ∧ (t.core s.me.core).growQ = y :: r ++ [s.cur] ∧
        (t.core s.me.core).free = (s.core s.me.core).free ∧ (∀ b, b ≠ s.cur → t.band b = s.band b) ∧
        ∀ l r, t.me.getReg l r = s.me.getReg l r) ∧
  ∀ h k (s : State), s.Starts (.shrink h k) → s.vOf (.shrink h k) ≠ 0 →
    (k.toNat + 1 < s.me.gran → (s.core s.me.core).growQ = [] →
      ∃ t, exec (.shrink h k) s = .next t ∧ t.me.gran = k.toNat + 1 ∧
      (t.core s.me.core).free = (s.core s.me.core).free + (s.me.gran - (k.toNat + 1)) ∧
      ∀ l r, t.me.getReg l r = s.me.getReg l r) ∧
    (k.toNat + 1 < s.me.gran → s.cur ∉ (s.core s.me.core).growQ →
      ∃ t, exec (.shrink h k) s = .next t ∧ t.me.gran = k.toNat + 1 ∧ t.mem = s.mem ∧ ∀ l r, t.me.getReg l r = s.me.getReg l r) ∧
    (s.me.gran ≤ k.toNat + 1 → ∃ t, exec (.shrink h k) s = .next t ∧ s.WordFrame t (.shrink h k) 0 [] 0)

/-- GROW_GRANT: the oldest waiting GROW of a core is granted if the free granules suffice, and else nothing happens. -/
def Sys2Proof.Claims.GrowGrant : Prop :=
  ∀ (s : State) core b r n m w, (s.core core).growQ = b :: r → b < s.bands.length →
    (s.band b).block = some (.grow n m w) →
    ∃ t, exec (.growGrant core) s = .next t ∧
      (n - (s.band b).occupies ≤ (s.core core).free → (t.band b).gran = n ∧ (t.band b).block = none ∧
        (t.band b).spilled = false ∧ (t.core core).growQ = r ∧
        (t.core core).free = (s.core core).free - (n - (s.band b).occupies) ∧ ∀ k, k ≠ b → t.band k = s.band k) ∧
      ((s.core core).free < n - (s.band b).occupies → t = s)

/-- REGISTER_SPILL and GRANULE_FILL. With every band of a core stuck, the youngest of those blocked in GROW gives up its
granules: g[8i + k] of lane l goes to the four bytes at 1024i + 128k + 4l of the record of its slot, no other byte
changes, its granules are absent and go to the core's pool, and waiting GROWs are granted from them. That the spill
waits for the results of the band that are in flight, and for the pages of the record, is the model's reading (log
entry 61). A granule that a word or a pending access of a band names is filled from its record in the same layout. -/
def Sys2Proof.Claims.RegisterGranules : Prop :=
  (∀ (s : State) core b,
    let cand := (s.coreBands core).filter fun n => (s.core core).growQ.contains n && !(s.band n).spilled
    b ∈ cand → (∀ y ∈ cand, y ≠ b → s.younger b y = true ∧ s.younger y b = false) → (s.band b).quiet = true →
    s.targets b = [] → (∀ n ∈ s.coreBands core, n ∈ s.stuckSet core) →
    (∀ va, s.spillAbsent b = some va → s.pageWaits (spillId core) = true → exec (.registerSpill core) s = .next s) ∧
    ∀ (rec : DWord) (pa : Nat → Nat), s.spillAbsent b = none →
      rec.toNat = field (s.qdesc (s.bandQueue b)) 0x28 8 + 8192 * (32 * core + 8 * (s.band b).quarter + (s.band b).slot) →
      rec.toNat % 1024 = 0 → (s.band b).gran ≤ 8 →
      let has (i : Nat) : Prop := i < (s.band b).gran ∧ (s.band b).absentGran.getLsbD i = false
      let out (k : Nat) : Prop := ∀ i, has i → k < pa i ∨ pa i + 1024 ≤ k
      (∀ i j, has i → has j → i ≠ j → pa i + 1024 ≤ pa j ∨ pa j + 1024 ≤ pa i) →
      (∀ i, has i → Claims.ready s (pa i) 1024 ∧
        ∀ m : Memory, (∀ k, out k → m.read k = s.mem.read k) → ∃ w z e,
          translate m (s.rootOf (s.ctxOf (s.band b))) (rec + BitVec.ofNat 64 (1024 * i)) = .ok (pa i) w z e ∧
          bits (m.readLE e 8) 59 1 = 0) →
      ∃ (t u : State), exec (.registerSpill core) s = .next t ∧ t = u.growGrants core ∧
        u = { s with bands := u.bands, cores := u.cores, mem := u.mem } ∧ (∀ n, n ≠ b → u.band n = s.band n) ∧
        (∀ c, c ≠ core → u.core c = s.core c) ∧
        u.core core = { s.core core with free := (s.core core).free + (s.band b).occupies } ∧
        u.band b = { s.band b with absentGran := BitVec.ofNat 8 (2 ^ (s.band b).gran - 1), spilled := true,
                                   saved := (u.band b).saved } ∧
        (∀ i, has i → (i, rec + BitVec.ofNat 64 (1024 * i)) ∈ (u.band b).saved) ∧
        (∀ i k l, has i → k < 8 → l < 32 →
          t.mem.readLE (pa i + 128 * k + 4 * l) 4 = ((s.band b).gv l (BitVec.ofNat 6 (8 * i + k))).toNat) ∧
        ∀ k, out k → t.mem.read k = s.mem.read k) ∧
  ∀ (s : State) b g va v, b < s.bands.length → g < 8 → (s.band b).spilled = false → (s.band b).stopped = false →
    (s.quarterOf (s.band b)).stopped = false →
    g ∈ s.targetGranules b ∨ (s.mayIssue (s.band b) = true ∧ g ∈ s.wantedGranules b) → (s.band b).saved.find? (·.1 == g) = some (g, va) →
    s.ctxRead (s.ctxOf (s.band b)) va 1024 = .ok v →
    ∃ t, exec (.granuleFill b g) s = .next t ∧ t = { s with bands := t.bands } ∧ (∀ n, n ≠ b → t.band n = s.band n) ∧
      (t.band b).absentGran.getLsbD g = false ∧
      (∀ l k, l < 32 → k < 8 → (t.band b).gv l (BitVec.ofNat 6 (8 * g + k)) = BitVec.ofNat 32 (field v (128 * k + 4 * l) 4)) ∧
      ∀ l r, (∀ k, k < 8 → r ≠ .g (BitVec.ofNat 6 (8 * g + k))) → (t.band b).getReg l r = (s.band b).getReg l r

/-- TAKE by a crew whose launch is not pausing: from a range that is not empty it delivers the lowest grain, whose start
goes to pair(D) and to %glo and whose end goes to %ghi; with an empty range it delivers NOWORK if the launch has no
more work, and otherwise its lanes wait for a work request. -/
def Sys2Proof.Claims.TakeDelivers : Prop :=
  ∀ h d (s : State), s.Runs (.take h d) → s.vOf (.take h d) ≠ 0 →
    ∀ c l, (s.after (.take h d)).crew (s.after (.take h d)).me.crew = some c →
    (s.after (.take h d)).launch c.launch = some l → l.paused = false →
    (∀ r, c.range = some r → r.cur < r.hi →
      ∃ t, exec (.take h d) s = .next t ∧
        t.crew (s.after (.take h d)).me.crew = some { c with range := some { r with cur := min (r.cur + r.grain) r.hi } } ∧
        t.me.glo = BitVec.ofNat 64 r.cur ∧ t.me.ghi = BitVec.ofNat 64 (min (r.cur + r.grain) r.hi) ∧
        ∀ k, bit (s.vOf (.take h d)) k = true → t.me.gv2 k d = BitVec.ofNat 64 r.cur) ∧
    ((c.range = none ∨ ∃ r, c.range = some r ∧ r.hi ≤ r.cur) → l.noWork = true →
      ∃ t, exec (.take h d) s = .next t ∧ t.me.glo = NOWORK ∧ t.me.ghi = NOWORK ∧ t.crews = (s.after (.take h d)).crews ∧
        ∀ k, bit (s.vOf (.take h d)) k = true → t.me.gv2 k d = NOWORK) ∧
    ((c.range = none ∨ ∃ r, c.range = some r ∧ r.hi ≤ r.cur) → l.noWork = false →
      ∃ t q, exec (.take h d) s = .next t ∧ t.crews = (s.after (.take h d)).crews ∧
        ∀ k, bit (s.vOf (.take h d)) k = true → (t.me.lane k).st = .waiting (.take q d) ∧ (t.me.lane k).pc = (s.ex h).pc)

/-- SPAWN, where each push finds room: the lanes of V push their values in ascending order, each as a range of one grain
of their launch; a lane whose value is NOWORK traps with code 0x01, deferred, and pushes nothing. A deque keeps 64
entries: the oldest beyond them go to the spill areas of their launches on the die (R169). -/
def Sys2Proof.Claims.SpawnPushes : Prop :=
  ∀ h a (s : State), s.Runs (.spawn h a) → s.me.rgnOpen = false →
    (s.me.handler = false ∨ ∀ l, bit (s.vOf (.spawn h a)) l = true → s.me.gv2 l a ≠ NOWORK) →
    (s.pushAll s.cur (spawnTasks s.me (s.ex h) a)).isSome = true →
    let old := (s.core s.me.core).deque
    let new := ((lanesOf (s.vOf (.spawn h a))).filter fun l => s.me.gv2 l a != NOWORK).map fun l =>
      (s.me.crew, Range.mk (s.me.gv2 l a).toNat ((s.me.gv2 l a).toNat + 1) 1)
    let k := min new.length (old.length + new.length - 64)
    ∃ t, exec (.spawn h a) s = .next t ∧
      t = { s with bands := t.bands, cores := t.cores, launches := t.launches, free := s.free + 1 } ∧
      (t.core s.me.core).deque.map (fun x => (x.crew, x.range)) =
        (old.map (fun x => (x.crew, x.range)) ++ new).drop k ∧
      (∀ li l, s.launch li = some l → t.launch li = some { l with
        spill := l.spill ++ ((old.take k).filter (·.launch == li)).map fun e => (s.me.core / 256, e) }) ∧
      (∀ l, bit (s.vOf (.spawn h a)) l = true → s.me.gv2 l a = NOWORK →
        (t.me.lane l).st = .waiting .trap ∧ (t.me.lane l).trapCode = 0x01) ∧
      ∀ l r, t.me.getReg l r = s.me.getReg l r

/-- WORK_REQUEST_SERVED finds a task and delivers its first grain: the lanes of the oldest request of the band go on with
the grain's start. STEAL_MESSAGE moves work to a thief's distributor, and TERMINATION_ROUND gives NOWORK. -/
def Sys2Proof.Claims.WorkRequests : Prop :=
  (∀ (s : State) b choice c l q d m i tk r, b < s.bands.length → (s.band b).takeRequest = some (q, d, m) →
    (s.band b).quiet = true → s.crew (s.band b).crew = some c → s.launch c.launch = some l → l.paused = false →
    c.range = none → (s.core c.core).deque = [tk] → s.levels c.launch (s.band b).crew c.core = [.deque c.core i] :: r →
    i = 0 → tk.range.cur < tk.range.hi → s.performed tk.after = true →
    ∃ t, exec (.workRequestServed b choice) s = .next t ∧ (t.core c.core).deque = [] ∧
      (t.band b).glo = BitVec.ofNat 64 tk.range.cur ∧
      (t.band b).ghi = BitVec.ofNat 64 (min (tk.range.cur + tk.range.grain) tk.range.hi) ∧
      ∀ k, bit m k = true → (t.band b).gv2 k d = BitVec.ofNat 64 tk.range.cur ∧
        ((t.band b).lane k).st = .eligible ∧ ((t.band b).lane k).pc = ((s.band b).lane k).resume) ∧
  (∀ (s : State) li thief l v, s.launch li = some l → thief ∈ l.cfg.dieList → l.holds thief = false → l.paused = false →
    s.hungry li thief = true → (diesAfter l.cfg.dieList thief).find? l.holds = some v →
    ∃ t, exec (.stealMessage li thief) s = .next t ∧ t = s.setLaunch li (l.give thief v)) ∧
  ∀ (s : State) li l, s.launch li = some l → s.quiescent li = true →
    ∃ t, exec (.terminationRound li) s = .next t ∧ t = s.noMoreWork li ∧ (t.launch li).map (·.noWork) = some true

/-- What a steal moves (R421): the oldest spill entry of the victim if it holds one, else its highest stripes, half of
them rounded up; the work of the launch stays the same work. -/
def Sys2Proof.Claims.StealMovesWork : Prop :=
  ∀ (l : Launch) thief victim, thief ≠ victim →
    (l.give thief victim).stripes.map (·.2) = l.stripes.map (·.2) ∧
      ((l.give thief victim).spill.map (·.2)).Perm (l.spill.map (·.2)) ∧
      ((∃ e ∈ l.spill, e.1 = victim) → (l.give thief victim).stripes = l.stripes) ∧
      ((∀ e ∈ l.spill, e.1 ≠ victim) → (l.give thief victim).spill = l.spill)


/-! ## The matrix and draw units -/

namespace Sys2Proof.Claims

/-- What a word enters into the matrix sequencer, in a state where it may: its flag, its command and the registers that
the command will write (R190, R194 to R198, R204, R350, R353). -/
def seqEntry (u : State) (low : Nat) (i : Instr) : Option (Flag × SeqOp × List RegName) :=
  let at_ (n : Nat) (a : Reg) : Option (DWord × Place) :=
    let va := u.me.gv2 low a
    if canonical va = true ∧ va.toNat % n = 0 then some (va, resolve u u.me .gen va) else none
  let held (n : Nat) : Option Unit := if u.holds n then some () else none
  let ps (r : SReg) : List Word := (List.range 8).map fun k => u.me.uv (r + BitVec.ofNat 5 k)
  let good (m : DrawMode) (r : SReg) : Option Unit := if (drawPs (ps r)).bad m then none else some ()
  let ftz := ftzOf (u.me.fpBy u.cycle)
  match i with
  | .ldt _ sb os a shape => do
    let r ← tileShape os shape false u
    let p ← at_ 16 a
    pure (sb, .ldt os p.1 p.2 r, [])
  | .stt _ sb os a shape => do
    let r ← tileShape os shape true u
    let p ← at_ 16 a
    pure (sb, .stt os p.1 p.2 r, [])
  | .accld _ sb acc a => do
    held (2 * acc.toNat)
    let p ← at_ 128 a
    pure (sb, .accld acc p.1 p.2, [])
  | .accst _ sb acc a => do
    held (2 * acc.toNat)
    let p ← at_ 128 a
    pure (sb, .accst acc p.1 p.2 0 ftz, [])
  | .accstBf16 _ sb acc a => do
    held (2 * acc.toNat)
    let p ← at_ 128 a
    pure (sb, .accst acc p.1 p.2 1 ftz, [])
  | .accstF16 _ sb acc a => do
    held (2 * acc.toNat)
    let p ← at_ 128 a
    pure (sb, .accst acc p.1 p.2 2 ftz, [])
  | .mxsave _ sb a => do
    let p ← at_ 256 a
    pure (sb, .mxsave p.1 p.2 u.myHeld (u.myHeld.map fun n => (n, u.myCore.conv n)), [])
  | .mxrest _ sb a => do
    let p ← at_ 256 a
    pure (sb, .mxrest p.1 p.2 u.myHeld, [])
  | .draw _ m sb d acc r => do
    held (2 * acc.toNat)
    good m r
    pure (sb, .draw m d acc (ps r), [.g d, .g (d + 1)])
  | .accept _ sb d p q r => do
    held (2 * p.toNat)
    held (2 * q.toNat)
    good .temp r
    pure (sb, .accept d p q (u.me.gv low d) (ps r), [.g d, .g (d + 1)])
  | _ => none

/-- A command that goes through the grove window, so that its crew is a gang (R394). -/
def groveOp : SeqOp → Bool
  | .ldt _ _ p _ | .stt _ _ p _ | .accld _ _ p | .accst _ _ p .. | .mxsave _ p .. | .mxrest _ p _ => p.isGrove
  | _ => false

/-- A state with one more command of the band that issues in its core's sequencer. -/
def entered (s u : State) (i : Instr) (v : BitVec 32) (sb : Flag) (op : SeqOp) : State :=
  { u.setCore { u.myCore with seq := u.myCore.seq ++
      [{ id := u.nextId, crew := u.me.crew, band := u.cur, lanes := v, word := (s.ex i.hdr).pc, flag := sb, op := op }] } with
    nextId := u.nextId + 1 }

/-- The accumulator of an even slot, or none. -/
def accOf (n : Nat) : Option Nat := if n % 2 = 0 then some (n / 2) else none

/-- A slot is free for a CLAIM: it has no owner, and no command that entered earlier is left on what is tied to it
(R189, R192). -/
def slotFree (c : Core) (n : Nat) : Prop := c.owner n = none ∧ ∀ q ∈ c.seq, ∀ r ∈ q.op.touches, r ∉ resTied n

end Sys2Proof.Claims

/-- LDT, STT, ACCLD, the forms of ACCST, MXSAVE, MXREST, DRAW and ACCEPT: with their slots held, their record or their
parameters in order, their address canonical and aligned and no code given for a page that they waited for, they enter
one command into the matrix sequencer, last in it, and their flag is busy. An address in the grove window makes the crew
a gang. -/
def Obligations.SequencerWords : Prop :=
  ∀ i (s : State) sb op rs, s.Runs i → s.vOf i ≠ 0 → s.me.pageCode = none →
    s.AtChecks i (fun u => Claims.seqEntry u (lowest (s.vOf i)) i = some (sb, op, rs)) →
    ∃ t, exec i s = .next t ∧ t = { (Claims.entered s (s.atIssue i) i (s.vOf i) sb op).setMe
        { ((s.atIssue i).me.setBusy sb .matrix).fly (s.atIssue i).nextId .matrix (s.vOf i) rs with
          gang := (s.atIssue i).me.gang || Claims.groveOp op } with
      free := (s.atIssue i).free + 1 }

/-- CLAIM, RELS, ACCZ and KSET. A CLAIM by a crew that holds nothing, with no other waiting and its slots free, gets them
empty: no tag, accumulators in state Z, convergence registers free; else the band waits, last. RELS gives up the slots
of its mask, and ACCZ puts its accumulator into state Z, once no earlier command of the sequencer is left, while the
queue of its launch is mapped. KSET arms a
convergence register with the live lanes that its two masks name. -/
def Sys2Proof.Claims.ClaimAndRelease : Prop :=
  (∀ h m (s : State), s.Starts (.claim h m) → s.vOf (.claim h m) ≠ 0 → let u := s.atIssue (.claim h m)
    (∀ n, n < 16 → s.AtChecks (.claim h m) fun u => u.holds n = false) →
    (u.myCore.claimQ = [] → (∀ n, n < 16 → m.getLsbD n = true → Claims.slotFree u.myCore n) →
      ∃ t, exec (.claim h m) s = .next t ∧ t = { u.setCore t.myCore with free := u.free + 1 } ∧
        t.myCore = { u.myCore with tiles := t.myCore.tiles, accs := t.myCore.accs, convs := t.myCore.convs,
                                   owners := t.myCore.owners } ∧
        ∀ n, n < 16 → (m.getLsbD n = true → t.holds n = true ∧ t.myCore.tile n = .blank ∧ t.myCore.conv n = .blank ∧
            ∀ k, Claims.accOf n = some k → t.myCore.acc k = .blank) ∧
          (m.getLsbD n = false → t.myCore.owner n = u.myCore.owner n ∧ t.myCore.tile n = u.myCore.tile n ∧
            t.myCore.conv n = u.myCore.conv n ∧ ∀ k, Claims.accOf n = some k → t.myCore.acc k = u.myCore.acc k)) ∧
    (u.myCore.claimQ ≠ [] ∨ (∃ n, n < 16 ∧ m.getLsbD n = true ∧ ¬Claims.slotFree u.myCore n) →
      ∃ t, exec (.claim h m) s = .next t ∧ t =
        { (u.setCore { u.myCore with claimQ := u.myCore.claimQ ++ [u.cur] }).setMe
            { u.me with block := some (.claim m (s.vOf (.claim h m)) (s.ex h).pc) } with free := u.free + 1 })) ∧
  (∀ h m (s : State), s.Starts (.rels h m) → s.vOf (.rels h m) ≠ 0 → let u := s.atIssue (.rels h m)
    (∀ n, n < 16 → m.getLsbD n = true → s.AtChecks (.rels h m) fun u => u.holds n = true) → u.myCore.seq = [] →
    (∀ l, u.launchOf u.me = some l → u.queueRuns l = true) →
    ∃ t, exec (.rels h m) s = .next t ∧ t = { u with bands := t.bands, cores := t.cores, nextId := u.nextId + 1,
                                                     free := u.free + 1 } ∧
      (∀ c, c ≠ u.me.core → t.core c = u.core c) ∧
      (t.core u.me.core) = { u.myCore with convs := (t.core u.me.core).convs, owners := (t.core u.me.core).owners } ∧
      (∀ n, n < 16 → (t.core u.me.core).owner n = if m.getLsbD n then none else u.myCore.owner n) ∧
      (∀ n, n < 16 → m.getLsbD n = false → (t.core u.me.core).conv n = u.myCore.conv n) ∧
      ∀ b l r, (t.band b).getReg l r = (u.band b).getReg l r) ∧
  (∀ h a (s : State), s.Starts (.accz h a) → s.vOf (.accz h a) ≠ 0 → let u := s.atIssue (.accz h a)
    s.AtChecks (.accz h a) (fun u => u.holds (2 * a.toNat) = true) → u.myCore.seq = [] →
    (∀ l, u.launchOf u.me = some l → u.queueRuns l = true) →
    ∃ t, exec (.accz h a) s = .next t ∧ t.core u.me.core = u.myCore.setAcc a.toNat .blank ∧
      (∀ c, c ≠ u.me.core → t.core c = u.core c) ∧
      t = { u with bands := t.bands, cores := t.cores, nextId := u.nextId + 1, free := u.free + 1 } ∧
      ∀ b, t.band b = u.band b) ∧
  ∀ h k a b (s : State), s.Runs (.kset h k a b) → s.vOf (.kset h k a b) ≠ 0 → let u := s.atIssue (.kset h k a b)
    s.AtChecks (.kset h k a b) (fun u => u.holds k.toNat = true ∧
      (u.myCore.conv k.toNat).signed = [] ∧ (u.me.uv a).toNat < 2 ^ 16 ∧
      u.members u.me.crew (u.me.uv a).toNat (u.me.uv b).toNat ≠ []) →
    ∃ t, exec (.kset h k a b) s = .next t ∧
      t = { u.setCore (u.myCore.setConv k.toNat (t.myCore.conv k.toNat)) with free := u.free + 1 } ∧
      t.myCore.conv k.toNat = { st := .armed, signed := [], sig := none,
                                declared := u.members u.me.crew (u.me.uv a).toNat (u.me.uv b).toNat }

/-- MMA: lanes that a convergence register declares and that have not signed sign it and wait; when every declared lane
has signed, the register is armed anew and the multiply enters the sequencer. -/
def Sys2Proof.Claims.MmaSigns : Prop :=
  ∀ h ta tb k acc oa ob (s : State), s.Starts (.mma h ta tb k acc oa ob) → s.vOf (.mma h ta tb k acc oa ob) ≠ 0 →
    let i : Instr := .mma h ta tb k acc oa ob
    let u := s.atIssue i
    let g : MmaSig := ⟨ta, tb, acc, oa, ob⟩
    let now := (lanesOf (s.vOf i)).map fun l => (u.me.num, l)
    s.AtChecks i (fun u => u.holds k.toNat = true ∧ u.holds oa.toNat = true ∧ u.holds ob.toNat = true ∧
      u.holds (2 * acc.toNat) = true ∧ (u.myCore.conv k.toNat).st = .armed ∧
      ((u.myCore.conv k.toNat).sig = none ∨ (u.myCore.conv k.toNat).sig = some g) ∧
      ∀ l, bit (s.vOf i) l = true → (u.me.num, l) ∈ (u.myCore.conv k.toNat).declared) →
    ∃ t, exec i s = .next t ∧
      (∀ l, bit (s.vOf i) l = true → (t.me.lane l).st = .waiting (.mma k) ∧ (t.me.lane l).pc = (s.ex h).pc) ∧
      ((∃ m ∈ (u.myCore.conv k.toNat).declared, m ∉ (u.myCore.conv k.toNat).signed ∧ m ∉ now) →
        t.myCore = u.myCore.setConv k.toNat { u.myCore.conv k.toNat with
          signed := (u.myCore.conv k.toNat).signed ++ now, sig := some g }) ∧
      ((∀ m ∈ (u.myCore.conv k.toNat).declared, m ∈ (u.myCore.conv k.toNat).signed ∨ m ∈ now) →
        t.myCore = { u.myCore.setConv k.toNat { u.myCore.conv k.toNat with signed := [], sig := none } with
          seq := u.myCore.seq ++ [{ id := u.nextId, crew := u.me.crew, band := u.cur, lanes := 0, word := (s.ex h).pc,
                                    flag := 15, op := .mma k g (ftzOf (u.me.fpBy u.cycle)) }] })

/-- CLAIM_GRANT and MMA_CHECK. The oldest waiting CLAIM of a core gets its slots once they are free. An entered multiply
whose tags and accumulator agree gives every element of its accumulator the sum of R114 over its chunks, and its signers
go on; one that does not agree breaks its convergence register and writes nothing. -/
def Sys2Proof.Claims.MatrixEvents : Prop :=
  (∀ (s : State) core b r m v w, (s.core core).claimQ = b :: r → (s.band b).block = some (.claim m v w) →
    b < s.bands.length → (∀ n, n < 16 → (s.core core).owner n ≠ some (s.band b).crew) →
    ((∃ n, n < 16 ∧ m.getLsbD n = true ∧ ¬Claims.slotFree (s.core core) n) → exec (.claimGrant core) s = .next s) ∧
    ((∀ n, n < 16 → m.getLsbD n = true → Claims.slotFree (s.core core) n) →
      ∃ t, exec (.claimGrant core) s = .next t ∧ (t.core core).claimQ = r ∧
        t = (s.setCore (t.core core)).setBand b { s.band b with block := none } ∧
        ∀ n, n < 16 → (t.core core).owner n = if m.getLsbD n then some (s.band b).crew else (s.core core).owner n)) ∧
  ∀ (s : State) core q k g ftz, s.nextMma core = some (q, k, g, ftz) → (s.core core).seq = [q] →
    q.op = .mma k g ftz →
    (∀ st, (s.core core).mmaState g = some st →
      ∃ t, exec (.mmaCheck core) s = .next t ∧ (t.core core).seq = [] ∧
        ((t.core core).acc g.acc.toNat).st = st ∧
        (∀ i j, i < 32 → j < 32 →
          let c := s.core core
          let K := chunkK (tagFmt (c.tile g.oa.toNat).tag)
          let w := if Fmt.mmaClass (tagFmt (c.tile g.oa.toNat).tag) = 1 then 8 else 32
          let chunks := (List.range (K / w)).map fun n => (List.range w).map fun e =>
            ((c.tile g.oa.toNat).value ftz g.ta i (n * w + e)).mul ((c.tile g.ob.toNat).value ftz g.tb j (n * w + e))
          ((t.core core).acc g.acc.toNat).elem i j =
            if st = .i then mmaI ((c.acc g.acc.toNat).elem i j) chunks
            else mmaF ftz ((c.acc g.acc.toNat).elem i j) chunks) ∧
        (∀ n, n ≠ g.acc.toNat → (t.core core).acc n = (s.core core).acc n) ∧
        (∀ n, (t.core core).tile n = (s.core core).tile n) ∧
        ∀ c b l, s.crew q.crew = some c → b ∈ c.bands → b < s.bands.length → l < 32 →
          ((s.band b).lane l).st = .waiting (.mma k) →
          ((t.band b).lane l).st = .eligible ∧ ((t.band b).lane l).pc = ((s.band b).lane l).resume) ∧
    ((s.core core).mmaState g = none →
      ∃ t, exec (.mmaCheck core) s = .next t ∧ (t.core core).seq = [] ∧ ((t.core core).conv k.toNat).st = .broken ∧
        (∀ n, (t.core core).acc n = (s.core core).acc n) ∧ ∀ n, (t.core core).tile n = (s.core core).tile n)

namespace Sys2Proof.Claims

/-- Some writes, each of bytes at an offset, cut into pieces of at most 64 bytes (R197). -/
def cuts (ps : List (Int × List Byte)) : List (Int × List Byte) :=
  (ps.map fun p => (List.range ((p.2.length + 63) / 64)).map fun (c : Nat) =>
    (p.1 + 64 * (c : Int), (p.2.drop (64 * c)).take 64)).flatten

/-- Where the pieces of a command's writes lie, by the places and the leaf entries of a run: no byte twice, in memory
that is not compressed, in pages that await no reclaim, and with no watch. -/
def piecesAt (s : State) (run : Int → Nat → Except Halt (List Loc)) (ptes : Int → Nat → List Nat)
    (ps : List (Int × List Byte)) (at_ : Nat → List Loc) : Prop :=
  s.watches = [] ∧ ((List.range ps.length).map at_).flatten.Nodup ∧
    ∀ i o v, ps[i]? = some (o, v) → run o v.length = .ok (at_ i) ∧ (at_ i).length = v.length ∧
      (∀ k, Loc.mem k ∈ at_ i → s.compressed k = false) ∧
      ∀ e ∈ ptes o v.length, bits (s.mem.readLE e 8) 59 1 = 0 ∧
        ∀ j k, j < ps.length → k < 8 → Loc.mem (e + k) ∉ at_ j

/-- Every piece of the writes stands at its bytes, and every other byte of storage is as it was. -/
def putAt (s t : State) (run : Int → Nat → Except Halt (List Loc)) (ptes : Int → Nat → List Nat)
    (ps : List (Int × List Byte)) : Prop :=
  ∀ at_, piecesAt s run ptes (cuts ps) at_ →
    (∀ i o v, (cuts ps)[i]? = some (o, v) → (at_ i).map t.readLoc = v) ∧
    ∀ x, (∀ i, i < (cuts ps).length → x ∉ at_ i) → t.readLoc x = s.readLoc x

/-- The writes of a matrix transfer, by its lowest lane (R191). -/
def transferPut (s t : State) (q : SeqCmd) (va : DWord) (p : Place) (ps : List (Int × List Byte)) : Prop :=
  let b := s.band q.band
  let l := lowest q.lanes
  putAt s t (fun o n => runBand s b l (va + BitVec.ofInt 64 o) (p.add o) n true) (fun o n => ptesBand s b l (p.add o) n) ps

/-- The writes of an engine command (R251). -/
def enginePut (s t : State) (e : EngCmd) (base : Place) (ps : List (Int × List Byte)) : Prop :=
  putAt s t (fun o n => runEngine s e.ctx (e.core / 256) 0 (base.add o) n true) (fun o n => ptesEngine s e.ctx (base.add o) n) ps

/-- Bytes by their numbers. -/
def bytesBy (n : Nat) (byte : Nat → Byte) : List Byte := (List.range n).map byte

/-- The bytes of an accumulator in its own form: element (i, j) at 128i + 4j (R198). -/
def accByte (x : Acc) (n : Nat) : Byte := BitVec.ofNat 8 (x.elem (n / 128) (n % 128 / 4) / 2 ^ (8 * (n % 4)))

/-- Row i of a slot as STT writes it: a byte of a 6-bit format has zeros in its two upper bits (R111, R196). -/
def rowOf (x : Tile) (i : Nat) : List Byte :=
  (List.range 64).map fun k =>
    let v := x.data.read (64 * i + k)
    if (tagFmt x.tag).width = 6 then BitVec.ofNat 8 (v.toNat % 64) else v

end Sys2Proof.Claims

/-- MATRIX_TRANSFER_COMPLETE. A transfer that reaches all its bytes leaves the sequencer and its flag is done. ACCLD has
put its 4096 bytes into its accumulator, in state U. LDT has put row i of its tile into bytes 64i on of its slot, with
the tag of its record, and MXREST the bytes of each slot and accumulator that its header names, with tag and state; both
leave the storage that they read as it was. STT has written the 32 rows of its slot, ACCST its 4096 bytes, and MXSAVE
its header, 0x900 bytes for each slot held and 0x1000 for each even one, at their places and nowhere else. -/
def Sys2Proof.Claims.TransferCompletes : Prop :=
  ∀ (s : State) core q s0 s', s.nextTransfer core = some q → (s.core core).seq = [q] →
    s0 = (s.unblock q.id).passLines (s.band q.band).core → s0.doTransfer q core = .done s' →
    (s'.core core).seq = [q] → (s'.quarterOf (s'.band q.band)).stopped = false → s'.holdFlags = false →
    q.band < s'.bands.length →
    ∃ t, exec (.matrixTransferComplete core) s = .next t ∧ (t.core core).seq = [] ∧ (t.band q.band).busy q.flag.toNat = false ∧
      t.mem = s'.mem ∧ t.scr = s'.scr ∧
      (∀ a va p v, q.op = .accld a va p → s0.seqRead q va p 0 4096 = .ok v →
        t.mem = s.mem ∧ t.scr = s.scr ∧ ((t.core core).acc a.toNat).st = .u ∧
        ∀ i j, i < 32 → j < 32 → ((t.core core).acc a.toNat).elem i j = field v (128 * i + 4 * j) 4) ∧
      (∀ o va p r, q.op = .ldt o va p r → t.mem = s.mem ∧ t.scr = s.scr ∧ ((t.core core).tile o.toNat).tag = tagOfRec r ∧
        (rCodec r = 0 → ∀ (i : Nat) v, i < 32 → s0.seqRead q va p ((i : Int) * rStr r 1) 64 = .ok v → ∀ k, k < 64 →
          ((t.core core).tile o.toNat).data.read (64 * i + k) = v.getD k 0)) ∧
      (∀ o va p r, q.op = .stt o va p r → (∀ n, (t.core core).tile n = (s.core core).tile n) ∧
        (rSk r = 0 → Claims.transferPut s0 t q va p
          ((List.range 32).map fun (i : Nat) => ((i : Int) * rStr r 1, Claims.rowOf ((s.core core).tile o.toNat) i)))) ∧
      (∀ a va p ftz, q.op = .accst a va p 0 ftz →
        Claims.transferPut s0 t q va p [(0, Claims.bytesBy 4096 (Claims.accByte ((s.core core).acc a.toNat)))]) ∧
      (∀ va p held cs, q.op = .mxsave va p held cs → let c := s.core core
        Claims.transferPut s0 t q va p ((0, c.mxHeader held cs) ::
          (held.map fun (n : Nat) => (0x100 + 0x900 * (n : Int), Claims.bytesBy 0x900 fun k =>
            if k < 2048 then (c.tile n).data.read k else (c.tile n).scale.read (k - 2048))) ++
          (held.filter fun n => n % 2 == 0).map fun (n : Nat) => (0x9100 + 0x1000 * ((n / 2 : Nat) : Int),
            Claims.bytesBy 0x1000 fun k => if (c.acc (n / 2)).st = .z then 0 else (c.acc (n / 2)).data.read k))) ∧
      (∀ va p held h, q.op = .mxrest va p held → s0.seqRead q va p 0 256 = .ok h → t.mem = s.mem ∧ t.scr = s.scr ∧
        ∀ n, n < 16 → (field h 4 2).testBit n = true →
          ((t.core core).tile n).tag.toNat = field h (0x10 + 4 * n) 4 ∧
          (∀ v, s0.seqRead q va p (0x100 + 0x900 * (n : Int)) 0x900 = .ok v →
            (∀ k, k < 2048 → ((t.core core).tile n).data.read k = v.getD k 0) ∧
            ∀ k, k < 256 → ((t.core core).tile n).scale.read k = v.getD (2048 + k) 0) ∧
          ∀ v, n % 2 = 0 → s0.seqRead q va p (0x9100 + 0x1000 * ((n / 2 : Nat) : Int)) 0x1000 = .ok v →
            ((t.core core).acc (n / 2)).st = .ofCode (field h 6 2 / 4 ^ (n / 2) % 4) ∧
            ∀ k, k < 4096 → ((t.core core).acc (n / 2)).data.read k = v.getD k 0) ∧
      ∀ n, (t.core core).owner n = (s.core core).owner n

/-- DRAW_PERFORM and ACCEPT_PERFORM: with accumulators not in state I, the result goes to the pair of every lane and DRST
holds its status; the core's counter advances by 1 where a draw takes it, and the flag is done. With an accumulator in
state I the lanes are sent code 0x10 and no register is written. -/
def Sys2Proof.Claims.DrawPerforms : Prop :=
  ∀ (s : State) core q, s.nextDraw core = some q → (s.core core).seq = [q] → q.band < s.bands.length →
    (s.quarterOf (s.band q.band)).stopped = false → s.holdFlags = false →
    (∀ mode d a ps, q.op = .draw mode d a ps →
      let x := (s.core core).acc a.toNat
      let p := drawPs ps
      let takes := (mode = .temp ∨ mode = .topk) ∧ p.xc = false
      let r := drawResult mode p (if takes then (s.core core).dctr.toNat else p.ctr) x
      (x.st ≠ .i → ∃ t, exec (.drawPerform core) s = .next t ∧ (t.core core).seq = [] ∧
        (t.band q.band).drst = BitVec.ofNat 32 r.drst ∧ (t.band q.band).busy q.flag.toNat = false ∧
        (t.core core).dctr = (if takes then (s.core core).dctr + 1 else (s.core core).dctr) ∧
        ((∀ r, r = .g d ∨ r = .g (d + 1) → ∃ f ∈ (s.band q.band).inFlight, f.id = q.id ∧ f.reg = r ∧ f.lanes = q.lanes ∧
            f.raced = 0) → (∀ f ∈ (s.band q.band).inFlight, f.id = q.id → f.raced = 0) →
          ∀ l, bit q.lanes l = true → ((s.band q.band).lane l).live = true →
            (s.band q.band).races s.cycle l (.g d) = false → (s.band q.band).races s.cycle l (.g (d + 1)) = false →
            (t.band q.band).gv l d = BitVec.ofNat 32 r.id ∧ (t.band q.band).gv l (d + 1) = BitVec.ofNat 32 r.value)) ∧
      (x.st = .i → ∃ t, exec (.drawPerform core) s = .next t ∧ (t.core core).seq = [] ∧
        (t.core core).dctr = (s.core core).dctr ∧ ∀ l r, (t.band q.band).getReg l r = (s.band q.band).getReg l r)) ∧
    ∀ d a b v ps, q.op = .accept d a b v ps →
      let xp := (s.core core).acc a.toNat
      let xq := (s.core core).acc b.toNat
      let p := drawPs ps
      let r := acceptResult p (if p.xc then p.ctr else (s.core core).dctr.toNat) v.toNat xp xq
      xp.st ≠ .i → xq.st ≠ .i → ∃ t, exec (.acceptPerform core) s = .next t ∧ (t.core core).seq = [] ∧
        (t.band q.band).drst = BitVec.ofNat 32 r.drst ∧ (t.band q.band).busy q.flag.toNat = false ∧
        (t.core core).dctr = (if p.xc then (s.core core).dctr else (s.core core).dctr + 1) ∧
        ((∀ r, r = .g d ∨ r = .g (d + 1) → ∃ f ∈ (s.band q.band).inFlight, f.id = q.id ∧ f.reg = r ∧ f.lanes = q.lanes ∧
            f.raced = 0) → (∀ f ∈ (s.band q.band).inFlight, f.id = q.id → f.raced = 0) →
          ∀ l, bit q.lanes l = true → ((s.band q.band).lane l).live = true →
            (s.band q.band).races s.cycle l (.g d) = false → (s.band q.band).races s.cycle l (.g (d + 1)) = false →
            (t.band q.band).gv l d = BitVec.ofNat 32 r.id ∧ (t.band q.band).gv l (d + 1) = BitVec.ofNat 32 r.value)

/-! ## Engines, link unit, watches, queues of other crews -/

namespace Sys2Proof.Claims

/-- The issuer of a word's command (R251, R282). -/
def issuer (s u : State) (i : Instr) (sb : Flag) : Issuer :=
  { band := u.cur, lanes := s.vOf i, word := (s.ex i.hdr).pc, flag := sb, depth := u.depthOf u.me }

/-- The engine command of STRM and XFORM in a state, with its flag and its descriptor's register, where every check of
R308 and R312 passes. -/
def engineOp (x : Ex) (u : State) : Instr → Option (Flag × Reg × EngOp)
  | .strmIn _ sb a b shape => (strmOp true a b shape u x).toOption.map fun op => (sb, a, op)
  | .strmOut _ sb a b shape => (strmOp false a b shape u x).toOption.map fun op => (sb, a, op)
  | .xform _ sb a b shape xop => (xformOp a b shape xop u x).toOption.map fun op => (sb, a, op)
  | _ => none

/-- The tile count of a stream; XFORM always makes a command. -/
def engineTiles (low : Nat) (u : State) : Instr → Nat
  | .strmIn _ _ _ b _ | .strmOut _ _ _ b _ => (u.me.gv low b).toNat
  | _ => 1

/-- The command of LINK and UNLINK, its flag and its descriptor's register (R328, R330). -/
def linkWord (u : State) (low : Nat) : Instr → Option (Flag × Reg × LinkOp)
  | .link _ sb a b => some (sb, a, .link ((u.me.gv low b).setWidth 8))
  | .unlink _ sb a => some (sb, a, .unlink false)
  | .unlinkCmp _ sb a => some (sb, a, .unlink true)
  | _ => none

/-- SEGRD and its strict form. -/
def segrdOf : Instr → Option (Flag × Reg × Bool)
  | .segrd _ sb a => some (sb, a, false)
  | .segrdRw _ sb a => some (sb, a, true)
  | _ => none

/-- The descriptor of a lane's word is at a canonical address that is a multiple of 16. -/
def descOk (u : State) (low : Nat) (a : Reg) : Prop :=
  canonical (u.me.gv2 low a) = true ∧ (u.me.gv2 low a).toNat % 16 = 0

end Sys2Proof.Claims

/-- STRM and XFORM: with their checks passed they fork one engine command for the lanes of V, whose flag is busy, and
nothing else changes but what the earlier accesses of those lanes do, which come first, and that the L1 keeps no line
older than the descriptor; a stream of no tiles makes no command. A place behind the grove window makes the crew a gang. The fields of a stream are those of its descriptor. -/
def Sys2Proof.Claims.EngineWords : Prop :=
  ∀ i (s : State) sb a op, s.Runs i → s.vOf i ≠ 0 → s.me.pageCode = none →
    s.AtChecks i (fun u => Claims.engineOp (s.ex i.hdr) u i = some (sb, a, op)) →
    let u := s.atIssue i
    let low := lowest (s.vOf i)
    let w := (u.settleLanes u.cur (s.vOf i)).passLines u.me.core
    (Claims.engineTiles low u i = 0 → ∃ t, exec i s = .next t ∧
      t = { w.setMe { w.me with gang := t.me.gang } with free := w.free + 1 } ∧
      ((resolve w w.me .gen (u.me.gv2 low a)).isGrove = true → t.me.gang = true)) ∧
    (Claims.engineTiles low u i ≠ 0 → ∃ t e, exec i s = .next t ∧
      t = { w with bands := t.bands, engines := w.engines ++ [e], nextId := w.nextId + 1, free := w.free + 1 } ∧
      (∀ n, n ≠ w.cur → t.band n = w.band n) ∧
      t.me = { w.me.setBusy sb .engine with gang := t.me.gang } ∧
      e.id = w.nextId ∧ e.ctx = w.ctxOf w.me ∧ e.node = none ∧ e.desc = u.me.gv2 low a ∧ e.core = w.me.core ∧
      e.crew = w.me.crew ∧ e.op = op ∧ e.issuer = Claims.issuer s w i sb ∧
      ((resolve w w.me .gen (u.me.gv2 low a)).isGrove = true → t.me.gang = true)) ∧
    (u.unperformed u.cur (s.vOf i) = [] → u.myCore.l1 = [] → w = u) ∧
    ∀ isIn base ring ctrl nslot slotb first n k r, op = .strm isIn base ring ctrl nslot slotb first n k r →
      ∃ d, u.descRead u.cur (s.vOf i) (u.me.gv2 low a) 32 = .ok d ∧ ring.toNat = field d 8 4 ∧ ctrl.toNat = field d 0x0C 4 ∧
        nslot = field d 0x10 2 ∧ slotb = field d 0x14 4 ∧ first = field d 0x18 4 ∧ n = Claims.engineTiles low u i ∧ k = 0

/-- LINK, UNLINK and SEGRD: with their descriptor's address in order they fork one command of the die's link unit, whose
flag is busy; SEGRD has read its descriptor and its records, after the earlier accesses of its lanes, and enters the
sequencer for the slots that it fills. -/
def Obligations.LinkWords : Prop :=
  (∀ i (s : State), s.Runs i → s.vOf i ≠ 0 → let u := s.atIssue i
    let low := lowest (s.vOf i)
    ∀ sb a op, Claims.linkWord u low i = some (sb, a, op) → s.AtChecks i (fun u => Claims.descOk u low a) →
    exec i s = .next { u.setMe { u.me.setBusy sb .engine with
                                  gang := u.me.gang || (resolve u u.me .gen (u.me.gv2 low a)).isGrove } with
      nextId := u.nextId + 1, free := u.free + 1
      links := u.links ++ [{ id := u.nextId, die := u.me.core / 256, ctx := u.ctxOf u.me, core := u.me.core, crew := u.me.crew,
                             issuer := Claims.issuer s u i sb, desc := u.me.gv2 low a, op := op, published := none,
                             held := none, strictOver := false }] }) ∧
  ∀ i sb a rw, Claims.segrdOf i = some (sb, a, rw) → ∀ s : State, s.Runs i → s.vOf i ≠ 0 → s.me.pageCode = none →
    let u := s.atIssue i
    let low := lowest (s.vOf i)
    let w := (u.settleLanes u.cur (s.vOf i)).passLines u.me.core
    (u.unperformed u.cur (s.vOf i) = [] → u.myCore.l1 = [] → w = u) ∧
    ∀ d kd vd ftz, s.AtChecks i (fun u => segrdOp rw a u (s.ex i.hdr) = .ok (.segrd rw d kd vd ftz) ∧
      (field d 0x12 1 = 1 → u.holds (field d 0x18 4 % 16) = true ∧ u.holds (field d 0x1C 4 % 16) = true)) →
    ∃ t e, exec i s = .next t ∧ t.links = w.links ++ [e] ∧ t.me.busy sb.toNat = decide (sb.toNat < 12) ∧
      e.id = w.nextId ∧ e.ctx = w.ctxOf w.me ∧ e.core = w.me.core ∧ e.crew = w.me.crew ∧ e.desc = u.me.gv2 low a ∧
      e.op = .segrd rw d kd vd ftz ∧ e.issuer = Claims.issuer s w i sb ∧ e.held = none ∧
      (field d 0x12 1 ≠ 1 → t.cores = w.cores) ∧
      (field d 0x12 1 = 1 → ∀ q ∈ t.myCore.seq, q ∈ w.myCore.seq ∨
        q.op = .segrd (BitVec.ofNat 4 (field d 0x18 4)) e.id ∨ q.op = .segrd (BitVec.ofNat 4 (field d 0x1C 4)) e.id) ∧
      ∀ l r, t.me.getReg l r = w.me.getReg l r

/-- GNODE, with no access of the package left to perform, reads PRED of its node and writes one less. While that leaves
more than 0 its flag is done at once and nothing else changes; at 0 the node becomes one of those that run, and the flag
is busy. -/
def Sys2Proof.Claims.GraphNodeWord : Prop :=
  ∀ h sb a (s : State), s.Runs (.gnode h sb a) → s.vOf (.gnode h sb a) ≠ 0 → let u := s.atIssue (.gnode h sb a)
    let va := u.me.gv2 (lowest (s.vOf (.gnode h sb a))) a
    ∀ p, s.AtChecks (.gnode h sb a) (fun u => gnodePred a u (s.ex h) = .ok p) → u.accesses = [] → s.me.pageCode = none →
    ∀ pa c e, translate u.mem (u.rootOf (u.ctxOf u.me)) (va + 4) = .ok pa true c e → Claims.ready u pa 4 →
      u.watches = [] → bits (u.mem.readLE e 8) 59 1 = 0 →
    ∃ t, exec (.gnode h sb a) s = .next t ∧ (∀ l r, t.me.getReg l r = u.me.getReg l r) ∧
      (1 < p → t = { u with mem := t.mem, cores := t.cores, free := u.free + 1 } ∧
        t.mem.readLE pa 4 = p - 1 ∧ ∀ k, k < pa ∨ pa + 4 ≤ k → t.mem.read k = u.mem.read k) ∧
      (p = 1 → t.me.busy sb.toNat = decide (sb.toNat < 12) ∧ ∃ r ∈ t.nodes, r.addr = va ∧ r.flag = some (u.cur, sb) ∧
        r.ctx = u.ctxOf u.me)

/-- WATCH, with its checks passed, forks the operation that will arm its watch, whose handle goes to D; UNWATCH of a
handle of the context, with nothing of its lanes left to perform, disarms and removes the watch at once. -/
def Obligations.WatchWords : Prop :=
  (∀ h sb a d (s : State), s.Runs (.watch h sb a d) → s.vOf (.watch h sb a d) ≠ 0 → s.me.pageCode = none →
    let u := s.atIssue (.watch h sb a d)
    let low := lowest (s.vOf (.watch h sb a d))
    let v := (u.settleLanes u.cur (s.vOf (.watch h sb a d))).passLines u.me.core
    ∀ w info, s.AtChecks (.watch h sb a d) (fun u => watchCheck a u (s.ex h) = .ok (w, info)) →
    ∃ t, exec (.watch h sb a d) s = .next t ∧
      t = { v.setMe { (v.me.setBusy sb .engine).fly v.nextId .engine (s.vOf (.watch h sb a d)) [.g d] with
                      gang := t.me.gang } with
        nextId := v.nextId + 1, free := v.free + 1
        watchOps := v.watchOps ++ [{ id := v.nextId, band := v.cur, lanes := s.vOf (.watch h sb a d), word := (s.ex h).pc,
                                     d := d, flag := sb, arm := some w, handle := 0, shapes := info.shapes,
                                     desc := u.me.gv2 low a, book := none }] } ∧
      (u.unperformed u.cur (s.vOf (.watch h sb a d)) = [] → u.myCore.l1 = [] → v = u)) ∧
  ∀ h sb a (s : State), s.Runs (.unwatch h sb a) → s.vOf (.unwatch h sb a) ≠ 0 → let u := s.atIssue (.unwatch h sb a)
    let n := (u.me.gv (lowest (s.vOf (.unwatch h sb a))) a).toNat
    ∀ w, s.AtChecks (.unwatch h sb a) (fun u => (u.watchOfHandle (u.ctxOf u.me)
      (u.me.gv (lowest (s.vOf (.unwatch h sb a))) a)) = some w) →
    u.clear u.cur (s.vOf (.unwatch h sb a)) u.nextId = true → u.pageWaits u.nextId = false →
    (∀ o ∈ u.watchOps, o.id < u.nextId) → (∀ x ∈ u.books, x.id < u.nextId) → (u.quarterOf u.me).stopped = false →
    u.holdFlags = false →
    Claims.ready u (w.desc + 15) 1 →
    ∃ t, exec (.unwatch h sb a) s = .next t ∧ t.me.busy sb.toNat = false ∧ t.watchOps = u.watchOps ∧
      t.mem.read (w.desc + 15) = 0 ∧
      t.watchOfHandle (u.ctxOf u.me) (BitVec.ofNat 32 n) = none ∧
      (w.out ≠ 0 → { w with st := 0, removed := true } ∈ t.watches) ∧
      ∀ x ∈ u.watches, ¬(x.handle = n ∧ x.ctx = u.ctxOf u.me) → ¬(x.removed = true ∧ x.out = 0) → x ∈ t.watches

/-- TLBINV and GPW. TLBINV enters one invalidation of its address; GPW writes pair(B) of the lowest lane of V into a
steering register of the launch's queue, and no other. -/
def Sys2Proof.Claims.SystemWords : Prop :=
  (∀ h sb a (s : State), s.Runs (.tlbinv h sb a) → s.vOf (.tlbinv h sb a) ≠ 0 → let u := s.atIssue (.tlbinv h sb a)
    s.AtChecks (.tlbinv h sb a) (fun u => canonical (u.me.gv2 (lowest (s.vOf (.tlbinv h sb a))) a) = true) →
    exec (.tlbinv h sb a) s = .next { u.setMe (u.me.setBusy sb .engine) with
      nextId := u.nextId + 1, free := u.free + 1
      tlbs := u.tlbs ++ [{ id := u.nextId, band := u.cur, flag := sb,
                           va := u.me.gv2 (lowest (s.vOf (.tlbinv h sb a))) a }] }) ∧
  ∀ h sb n b (s : State), s.Runs (.gpw h sb n b) → s.vOf (.gpw h sb n b) ≠ 0 → let u := s.atIssue (.gpw h sb n b)
    ∀ q, s.AtChecks (.gpw h sb n b) (fun u => u.queueOf u.me = some q) → ∀ x, u.queue q = some x →
    ∃ t y, exec (.gpw h sb n b) s = .next t ∧ t = { u with queues := t.queues, free := u.free + 1 } ∧
      t.queue q = some y ∧ y = { x with gp := y.gp } ∧
      y.gp.toArray.getD n.toNat 0 = u.me.gv2 (lowest (s.vOf (.gpw h sb n b))) b ∧
      (∀ k, k ≠ n.toNat → y.gp.toArray.getD k 0 = x.gp.toArray.getD k 0) ∧
      ∀ p, p ≠ q → t.queue p = u.queue p

/-- REQ: once every lane of V holds a slot for its destination the lanes give them up and one entry is sent for each, its
payload zero-extended to 16 bytes, with the flag busy; while a lane holds none, slots are asked for and the word does
not issue. -/
def Sys2Proof.Claims.RemoteEnqueue : Prop :=
  ∀ h d a sb sz (s : State), sz = .b64 ∨ sz = .b128 → s.Runs (.req h d a sb sz) → s.vOf (.req h d a sb sz) ≠ 0 →
    let i : Instr := .req h d a sb sz
    let u := s.atIssue i
    let dest (l : Nat) : DWord := u.me.gv2 l a
    s.AtChecks i (fun u => ∀ l, bit (s.vOf i) l = true → reqDie (u.me.gv2 l a) ≤ 8 ∧ reqKind (u.me.gv2 l a) = 0 ∧
      bits (u.me.gv2 l a).toNat 0 30 = 0 ∧ reqNode (u.me.gv2 l a) < u.boot.nnode) →
    (s.AtChecks i (fun u => ∀ l, bit (s.vOf i) l = true → (l, u.me.gv2 l a) ∈ u.me.slots) →
      ∃ t, exec i s = .next t ∧
        t = { u with bands := t.bands, reqs := t.reqs, nextId := t.nextId, free := u.free + 1 } ∧
        (∀ n, n ≠ u.cur → t.band n = u.band n) ∧
        t.me = { u.me.setBusy sb .coop with
                 slots := u.me.slots.filter fun p => !((lanesOf (s.vOf i)).map fun l => (l, dest l)).contains p } ∧
        t.reqs.take u.reqs.length = u.reqs ∧
        (t.reqs.drop u.reqs.length).map (fun r => (r.band, r.lane, r.word, r.ctx, r.desc, r.payload, r.flag, r.result)) =
          (lanesOf (s.vOf i)).map fun l => (u.cur, l, (s.ex h).pc, u.ctxOf u.me, dest l,
            leBytes (Claims.regsNat u.me l d sz.regs) sz.bytes ++ List.replicate (16 - sz.bytes) 0, sb, none)) ∧
    ((∃ l, bit (s.vOf i) l = true ∧ (l, s.me.gv2 l a) ∉ s.me.slots) →
      ∃ t, exec i s = .next t ∧ t = { s with slotReqs := t.slotReqs, nextId := t.nextId } ∧
        ∀ l, bit (s.vOf i) l = true → (l, s.me.gv2 l a) ∉ s.me.slots → ∃ r ∈ t.slotReqs, r.band = s.cur ∧ r.lane = l)

/-- BOINIT, BOARRIVE and BOWAIT, with no access of the package left to perform. BOINIT gives its object the count as
PEND and EXP, with GEN 0. A lane that arrives, alone at its object, takes GEN as its token and PEND becomes one less; at
0 GEN advances and PEND is EXP again. A lane whose token is GEN waits, and any other goes on. -/
def Sys2Proof.Claims.BarrierObjects : Prop :=
  (∀ h a b (s : State), s.Runs (.boinit h a b) → s.vOf (.boinit h a b) ≠ 0 → let u := s.atIssue (.boinit h a b)
    let low := lowest (s.vOf (.boinit h a b))
    let c := (u.me.gv low b).toNat
    ∀ n, s.AtChecks (.boinit h a b) (fun u => 1 ≤ (u.me.gv low b).toNat ∧ (u.me.gv low b).toNat ≤ 65535 ∧
      reach u u.me low .scr ((u.me.gv low a).setWidth 64) 8 true true =
        .locs ((List.range 8).map fun k => .scr (n + k))) → u.accesses = [] →
    (∀ bi l va tok, ((u.band bi).lane l).st = .waiting (.bowait n va tok) →
      (u.band bi).handler = false ∨ bit (u.band bi).trapLane l = false) →
    ∃ t, exec (.boinit h a b) s = .next t ∧ t.object n = c * 2 ^ 16 + c ∧ t.mem = u.mem ∧ t.ws = u.ws ∧
      (∀ k, k < n ∨ n + 8 ≤ k → t.scr.read k = u.scr.read k) ∧
      (∀ bi l m va tok, bi < u.bands.length → l < 32 → ((u.band bi).lane l).st = .waiting (.bowait m va tok) →
        (m = n → u.crewSaved (u.band bi).crew = false →
          ((t.band bi).lane l).st = .eligible ∧ (((t.band bi).lane l).reports.getLast?.map (·.code)) = some 0x0F) ∧
        (m ≠ n ∨ u.crewSaved (u.band bi).crew = true → (t.band bi).lane l = (u.band bi).lane l)) ∧
      ∀ bi l r, (t.band bi).getReg l r = (u.band bi).getReg l r) ∧
  (∀ h d a (s : State), s.Runs (.boarrive h d a) → let u := s.atIssue (.boarrive h d a)
    ∀ (at_ : Nat → Nat), s.AtChecks (.boarrive h d a) (fun u => ∀ l, bit (s.vOf (.boarrive h d a)) l = true →
      reach u u.me l .scr ((u.me.gv l a).setWidth 64) 8 true true =
        .locs ((List.range 8).map fun k => .scr (at_ l + k)) ∧ objBrk (u.object (at_ l)) = false ∧ u.accesses = []) →
    (∀ l m, bit (s.vOf (.boarrive h d a)) l = true → bit (s.vOf (.boarrive h d a)) m = true → l ≠ m →
      at_ l + 8 ≤ at_ m ∨ at_ m + 8 ≤ at_ l) → (∀ l, u.unperformed u.cur (laneMask l) = []) →
    ∃ t, exec (.boarrive h d a) s = .next t ∧ t.mem = u.mem ∧ t.arrivals = u.arrivals ∧
      ∀ l, bit (s.vOf (.boarrive h d a)) l = true →
        t.me.gv l d = BitVec.ofNat 32 (objGen (u.object (at_ l))) ∧
        objExp (t.object (at_ l)) = objExp (u.object (at_ l)) ∧
        (objPend (u.object (at_ l)) = 1 → objGen (t.object (at_ l)) = (objGen (u.object (at_ l)) + 1) % 2 ^ 16 ∧
          objPend (t.object (at_ l)) = objExp (u.object (at_ l))) ∧
        (1 < objPend (u.object (at_ l)) → objGen (t.object (at_ l)) = objGen (u.object (at_ l)) ∧
          objPend (t.object (at_ l)) = objPend (u.object (at_ l)) - 1) ∧
        ∀ r, r ≠ .g d → t.me.getReg l r = u.me.getReg l r) ∧
  ∀ h a b (s : State), s.Runs (.bowait h a b) → s.vOf (.bowait h a b) ≠ 0 → let u := s.atIssue (.bowait h a b)
    ∀ (at_ : Nat → Nat), s.AtChecks (.bowait h a b) (fun u => ∀ l, bit (s.vOf (.bowait h a b)) l = true →
      reach u u.me l .scr ((u.me.gv l a).setWidth 64) 8 false true =
        .locs ((List.range 8).map fun k => .scr (at_ l + k)) ∧ objBrk (u.object (at_ l)) = false ∧ u.accesses = [] ∧
        u.arrivals = []) →
    ∃ t, exec (.bowait h a b) s = .next t ∧ t.scr = u.scr ∧ t.mem = u.mem ∧
      (∀ l r, t.me.getReg l r = u.me.getReg l r) ∧
      ∀ l, bit (s.vOf (.bowait h a b)) l = true →
        (objGen (u.object (at_ l)) = (u.me.gv l b).toNat % 2 ^ 16 →
          (t.me.lane l).st = .waiting (.bowait (at_ l) (u.me.gv l a) ((u.me.gv l b).setWidth 16)) ∧
          (t.me.lane l).pc = (s.ex h).pc) ∧
        (objGen (u.object (at_ l)) ≠ (u.me.gv l b).toNat % 2 ^ 16 → t.me.lane l = u.me.lane l)

/-! ## System registers -/

namespace Sys2Proof.Claims

/-- What the system registers of a band read as in a lane (R107, R152, R212, R213, R348, R356 to R359), by number. -/
def sysTable (u : State) (l : Nat) : List (Nat × DWord) :=
  let b := u.me
  let w (v : Word) : DWord := v.setWidth 64
  [(0x000, BitVec.ofNat 64 (32 * b.num + l)), (0x001, BitVec.ofNat 64 l), (0x002, BitVec.ofNat 64 b.num),
   (0x008, BitVec.ofNat 64 (b.core % 256)), (0x009, BitVec.ofNat 64 (b.core % 256 / 64)),
   (0x00A, BitVec.ofNat 64 (b.core / 256)), (0x00B, BitVec.ofNat 64 b.quarter), (0x013, b.glo), (0x014, b.ghi),
   (0x016, u.localClock (b.core / 256)),
   (0x100, w b.check), (0x103, w (u.die (b.core / 256)).poolst), (0x105, w b.grvSelf), (0x107, w b.drst),
   (0x110, b.rgnPc), (0x111, w b.rgncnt), (0x112, w b.trapLane), (0x113, w (b.lane l).trapCode), (0x114, (b.lane l).trapPc),
   (0x115, (b.lane l).trapAddr), (0x116, (b.lane l).trapOrig), (0x117, w (u.die (b.core / 256)).rqerr),
   (0x200, b.segScr), (0x201, b.segStk), (0x202, b.segGrv), (0x203, b.segWs), (0x204, b.stkArea), (0x205, b.ptroot),
   (0x206, b.tvec), (0x207, w (u.core b.core).trctl), (0x208, (u.core b.core).trbuf), (0x209, (u.core b.core).racea),
   (0x20A, (u.core b.core).racepc), (0x101, w ((u.die (b.core / 256)).wsref u.cycle)), (0x20B, w (u.dbgctlOf b.core))] ++
  [0x003, 0x004, 0x005, 0x006, 0x007, 0x00C, 0x00D, 0x00E, 0x010, 0x011, 0x012, 0x015].map fun n => (n, u.sysValue b n)

/-- What a read of one system register writes. -/
def sysRegs (y : BitVec 10) (d : Reg) : List RegName := if sys64 y then [.g d, .g (d + 1)] else [.g d]

/-- Where a register that SWR writes changes with the next packet, and the bits of it that are kept (R68, R154, R212, R359). -/
def sysMask : List (Nat × DWord) :=
  [(0x200, 0x81FFFFFFFFFFFFFF), (0x201, 0x81FFFFFFFFFFFFFF), (0x202, 0x81FFFFFFFFFFFFFF), (0x203, 0x81FFFFFFFFFFFFFF),
   (0x204, 0xFFFFFFFFFFFFFFFF), (0x205, 0x000FFFFFFFFFF000), (0x206, 0x81FFFFFFFFFFFFFF)]

end Sys2Proof.Claims

/-- SRD and SWR. A read puts its system register or value, 4 cycles after issue, into g[D] or, of 64 bits, into pair(D),
in every lane of V. A write is kept for the packet that the band next enters, and then replaces the register but for the
bits that read as 0; no general register changes. TRAPPC is written in handler mode alone. -/
def Sys2Proof.Claims.SystemRegisters : Prop :=
  (∀ h d y (s : State), s.Runs (.srd h d y) → s.vOf (.srd h d y) ≠ 0 →
    ∃ t, exec (.srd h d y) s = .next t ∧
      (∀ l v, bit (s.vOf (.srd h d y)) l = true → (y.toNat, v) ∈ Claims.sysTable s l →
        t.me.gv l d = v.setWidth 32 ∧ (sys64 y = true → t.me.gv l (d + 1) = (v >>> 32).setWidth 32)) ∧
      (y.toNat ≠ 0x105 → y.toNat ≠ 0x117 → s.WordFrame t (.srd h d y) 4 (Claims.sysRegs y d) 0) ∧
      (y.toNat = 0x117 → (t.die (s.me.core / 256)).rqerr = if s.me.core / 256 < 9 then 0 else (t.die (s.me.core / 256)).rqerr)) ∧
  (∀ h a y (s : State), s.Runs (.swr h a y) → s.vOf (.swr h a y) ≠ 0 → let u := s.atIssue (.swr h a y)
    let low := lowest (s.vOf (.swr h a y))
    (y.toNat ≠ 0x114 ∨ u.me.handler = true →
      ∃ t w, exec (.swr h a y) s = .next t ∧
        t = { u.setMe { u.me with sysPend := u.me.sysPend ++ [w] } with free := u.free + 1 } ∧
        w.num = y.toNat ∧ w.lanes = s.vOf (.swr h a y) ∧
        (y.toNat ≠ 0x114 → w.vals = [if sys64 y = true then u.me.gv2 low a else (u.me.gv low a).setWidth 64]) ∧
        (y.toNat = 0x114 → ∀ l, bit (s.vOf (.swr h a y)) l = true → w.vals.getD l 0 = u.me.gv2 l a)) ∧
    (y.toNat = 0x114 → u.me.handler = false → exec (.swr h a y) s = .next { u with free := u.free + 1 })) ∧
  ∀ w : SysWrite, let v := w.vals.headD 0
    (∀ m, (w.num, m) ∈ Claims.sysMask → ∀ b : Band, (b.applySys w).lanes = b.lanes ∧ (b.applySys w).s = b.s ∧
      (match w.num with
        | 0x200 => (b.applySys w).segScr
        | 0x201 => (b.applySys w).segStk
        | 0x202 => (b.applySys w).segGrv
        | 0x203 => (b.applySys w).segWs
        | 0x204 => (b.applySys w).stkArea
        | 0x205 => (b.applySys w).ptroot
        | _ => (b.applySys w).tvec) = v &&& m) ∧
    (w.num = 0x100 ∨ w.num = 0x102 → ∀ b : Band,
      (b.applySys w).check = (if w.num = 0x100 then v.setWidth 32 &&& 1 else b.check) ∧
      (b.applySys w).fpctl =
        if w.num = 0x102 then ((b.fpctl &&& 0xFE00) &&& ~~~(v.setWidth 32)) ||| (v.setWidth 32 &&& 0x3F) else b.fpctl) ∧
    (w.num = 0x114 → ∀ (b : Band) l, l < 32 → bit w.lanes l = true → ((b.applySys w).lane l).trapPc = w.vals.getD l 0) ∧
    (w.num = 0x208 ∨ w.num = 0x209 → ∀ (s : State) core, (s.putCoreReg core w.num v).core core =
      { s.core core with
        trbuf := if w.num = 0x208 then v &&& ~~~0xFFF else (s.core core).trbuf
        racea := if w.num = 0x209 then (s.core core).racea &&& ~~~(v &&& 0xC000000000000000) else (s.core core).racea }) ∧
    ∀ (s : State) n cyc, n < s.bands.length →
      ((s.enterPacket n cyc).band n).sysPend = [] ∧
      ∀ l r, ((s.enterPacket n cyc).band n).getReg l r = (s.band n).getReg l r

/-! ## Crews that start -/

namespace Sys2Proof.Claims

/-- A band that starts (R24, R136, R139): its threads stand at the entry with every register 0 but the argument words
in s0 on; nothing is pending, held or masked. -/
def startsBand (s : State) (l : Launch) (ci core num : Nat) (b : Band) : Prop :=
  b.crew = ci ∧ b.num = num ∧ b.core = core ∧ b.gran = l.image.gran ∧ b.handler = false ∧ b.rgnOpen = false ∧ b.held = [] ∧
    b.trapLane = 0 ∧ b.priv = l.cfg.priv ∧ b.tvec = l.tvec ∧ b.fpctl = l.cfg.fpc.setWidth 32 ∧ b.anyBusy = false ∧
    b.ptroot = s.rootOf l.ctx ∧
    (∀ u : SReg, b.uv u = l.args.getD u.toNat 0) ∧
    ∀ t, t < 32 → (b.lane t).pc = l.image.entry ∧
      ((b.lane t).st = if num * 32 + t < l.nthr then .eligible else .absent) ∧
      (∀ r, b.gv t r = 0) ∧ (b.lane t).p = 0 ∧ (b.lane t).m = 0

/-- The kind of a crew by what its launch belongs to (R143, R284, R313, R326). -/
def kindOf : Origin → CrewKind
  | .cmd .. => .range
  | .sprout h => .sprout h
  | .repair p => .repair p
  | .graph n => .graph n

/-- The machine after one more crew of launch `li` has started on a core: its number, its bands, its scratchpad of
zeros, and the granules it takes. -/
def crewStarted (s t : State) (li core : Nat) (l : Launch) (num : Nat) : Prop :=
  ∃ c bs, t.crews = s.crews ++ [c] ∧ t.bands = s.bands ++ bs ∧ c.launch = li ∧ c.core = core ∧ c.num = num ∧
    c.running = true ∧ c.range = none ∧ c.barGen = 0 ∧ bs.length = l.image.bands ∧
    c.bands = (List.range l.image.bands).map (s.bands.length + ·) ∧
    (∀ (i : Nat) (h : i < bs.length), startsBand s l s.crews.length core i bs[i]) ∧
    (∀ k, k < l.image.scratch → t.scr.read (core * 2 ^ 18 + c.scrOff + k) = 0) ∧
    (t.core core).free = (s.core core).free - l.image.gran * l.image.bands ∧ (t.core core).l1 = [] ∧ t.mem = s.mem

end Sys2Proof.Claims

/-- CREW_START and SPROUT_START: a crew of a range launch starts on a core with room, with the lowest free number; the
crews of a resident launch start all at once; the oldest sprout of a grove starts with its twelve argument words. -/
def Obligations.CrewsStart : Prop :=
  (∀ (s : State) li core l q o, s.launch li = some l → s.holderOf li = none → s.launchRuns l = true → l.image.crews = 0 → s.holdsGrain li = true →
    s.diePlaces l.cfg.dieList l.image (core / 256) = true → core ∈ s.dieCores (core / 256) →
    s.roomFor core l.image = some (q, o) → (s.ctx l.ctx).isSome = true →
    ∃ t, exec (.crewStart li core) s = .next t ∧
      Claims.crewStarted s t li core l (s.freeNum li l.ctx (Claims.kindOf l.origin))) ∧
  (∀ (s : State) li core l s', s.launch li = some l → s.holderOf li = none → s.launchRuns l = true → l.image.crews ≠ 0 → l.toPlace ≠ [] →
    (s.ctx l.ctx).isSome = true →
    s.placeAll li l.image ((s.awakeFirst (s.launchCores l core)).length + l.toPlace.length)
      (s.awakeFirst (s.launchCores l core)) l.toPlace = some s' →
    ∃ t, exec (.crewStart li core) s = .next t ∧ t.crews.length = s.crews.length + l.toPlace.length ∧
      (t.launch li).map (·.toPlace) = some [] ∧ ((t.crews.drop s.crews.length).map (·.num)) = l.toPlace) ∧
  ∀ (s : State) grove core p w q o, s.sprouts.find? (·.grove == grove) = some p →
    (s.watches.find? fun w => w.handle == p.watch && w.ctx == p.ctx) = some w → s.ctxRuns p.ctx = true →
    core / 64 = grove → core ∉ s.boot.harvested →
    (((s.ctx p.ctx).map fun c => c.deflt).getD LaunchCfg.blank).dieList.contains (core / 256) = true →
    (s.die (core / 256)).parkReq = false →
    s.roomFor core { w.image with race := (((s.ctx p.ctx).map fun c => c.deflt).getD LaunchCfg.blank).race } = some (q, o) →
    ∃ t l, exec (.sproutStart grove core) s = .next t ∧ t.sprouts = s.sprouts.erase p ∧ t.launch s.launches.length = some l ∧
      l.args = sproutArgs w p ∧ l.noWork = true ∧ l.nthr = w.nthr ∧ l.parent = p.launch ∧ l.cfg.priv = false ∧
      ∃ c, t.crews = s.crews ++ [c] ∧ c.kind = .sprout w.handle ∧ c.depth = p.depth ∧ c.core = core ∧ c.running = true ∧
        c.bands.length = w.image.bands ∧
        ∀ b ∈ c.bands, ((t.band b).uv 0 = w.arg.setWidth 32 ∧ (t.band b).uv 2 = p.va.setWidth 32 ∧
          (t.band b).uv 9 = BitVec.ofNat 32 p.count ∧ (t.band b).uv 10 = BitVec.ofNat 32 p.depth)

/-! ## Units -/

/-- RESERVED_SLOT_GRANT, REMOTE_ENQUEUE_DELIVERY and REQ_ACK. A slot is granted while the ring has room
beside the grants outstanding: the slots that bands of the context hold for it and the entries on their way to it. An
entry that arrives is written at the tail of its ring, and TAIL becomes one more; one for which the ring has no room
waits (the model's reading, log entry 131); without a ring it is dropped, and RQERR counts it where it has no flag. The last answer for a flag makes it done, and a refused entry reports code 0x19 to its lane. -/
def Obligations.RemoteQueues : Prop :=
  (∀ (s : State) (r : SlotReq) g, s.slotReqs.find? (·.id == r.id) = some r → reqNode r.desc = s.boot.node →
    s.ringOf (s.ctxOf (s.band r.band)) r.desc = some g → r.band < s.bands.length →
    let ctx := s.ctxOf (s.band r.band)
    let used := (s.ringTail g + s.grantsOut ctx r.desc + 2 ^ 32 - s.ringHead g) % 2 ^ 32
    (s.ringNent g ≤ used → exec (.reservedSlotGrant r.id) s = .next s) ∧
    (used < s.ringNent g →
      ∃ t, exec (.reservedSlotGrant r.id) s = .next t ∧
        t = { s with bands := t.bands, slotReqs := s.slotReqs.filter fun e => e.id != r.id } ∧
        t.band r.band = { s.band r.band with slots := (s.band r.band).slots ++ [(r.lane, r.desc)] } ∧
        (∀ n, n ≠ r.band → t.band n = s.band n) ∧
        ((s.band r.band).ended = false → t.grantsOut ctx r.desc = s.grantsOut ctx r.desc + 1))) ∧
  (∀ (s : State) (m : ReqMsg), s.reqs.find? (·.id == m.id) = some m → m.result = none → s.reqBehind m = false →
    s.clear m.band (laneMask m.lane) m.id = true → s.pageWaits m.id = false → reqNode m.desc = s.boot.node →
    (∀ g, s.ringOf m.ctx m.desc = some g → s.ringNent g ≤ (s.ringTail g + 2 ^ 32 - s.ringHead g) % 2 ^ 32 →
      exec (.remoteEnqueueDelivery m.id) s = .next s) ∧
    (∀ g pa c e, s.ringOf m.ctx m.desc = some g → m.payload.length = 16 →
      (s.ringTail g + 2 ^ 32 - s.ringHead g) % 2 ^ 32 < s.ringNent g →
      let va := BitVec.ofNat 64 (s.mem.readLE g.pa 8) + BitVec.ofNat 64 (16 * (s.ringTail g % s.ringNent g))
      translate s.mem (s.rootOf m.ctx) va = .ok pa true c e → canonical va = true → va.toNat % 16 = 0 →
      bits (s.mem.readLE e 8) 59 1 = 0 → Claims.ready s pa 16 → Claims.ready s (g.pa + 0x10) 4 → (g.pa + 0x10) % 4 = 0 → paOk (g.pa + 0x10) = true →
      s.watches = [] → (pa + 16 ≤ g.pa + 0x10 ∨ g.pa + 0x14 ≤ pa) → s.ringTail g + 1 < 2 ^ 32 →
      (∀ s1, (s.unblock m.id).ctxWrite { s.laneWriter m.band m.lane m.word false with ctx := m.ctx, depth := 0 } va
        m.payload = .ok s1 → ∀ a ∈ s1.ptesAt (g.pa + 0x10), bits (s1.mem.readLE a 8) 59 1 = 0) →
      ∃ t, exec (.remoteEnqueueDelivery m.id) s = .next t ∧ t.mem.readN pa 16 = m.payload ∧
        s.ringTail g + 1 = t.ringTail g ∧
        (∀ k, (k < pa ∨ pa + 16 ≤ k) → (k < g.pa + 0x10 ∨ g.pa + 0x14 ≤ k) → t.mem.read k = s.mem.read k) ∧
        (m.flag = 15 → ∀ x ∈ t.reqs, x.id ≠ m.id) ∧ (m.flag ≠ 15 → { m with result := some true } ∈ t.reqs)) ∧
    (s.ringOf m.ctx m.desc = none → reqDie m.desc < 9 → (∀ c, s.ctx m.ctx = some c → c.eventRing = 0) →
      ∃ t, exec (.remoteEnqueueDelivery m.id) s = .next t ∧ t.mem = s.mem ∧
        (m.flag ≠ 15 → { m with result := some false } ∈ t.reqs ∧ t.dies = s.dies) ∧
        (m.flag = 15 → (∀ x ∈ t.reqs, x.id ≠ m.id) ∧ (t.die (reqDie m.desc)).rqerr =
          if (s.die (reqDie m.desc)).rqerr = 0xFFFFFFFF then 0xFFFFFFFF else (s.die (reqDie m.desc)).rqerr + 1))) ∧
  ∀ (s : State) (m : ReqMsg) ok, s.reqs.find? (·.id == m.id) = some m → m.result = some ok → m.band < s.bands.length →
    m.lane < 32 → s.savedQueue m.band = none → (s.quarterOf (s.band m.band)).stopped = false → s.holdFlags = false →
    ∃ t, exec (.reqAck m.id) s = .next t ∧ t = { s with bands := t.bands, reqs := s.reqs.filter fun e => e.id != m.id } ∧
      (∀ l, (t.band m.band).lane l = { (s.band m.band).lane l with reports := if l = m.lane ∧ ok = false ∧
          ((s.band m.band).lane l).live = true then ((s.band m.band).lane l).reports ++ [asyncTrap 0x19 0 m.desc m.word]
        else ((s.band m.band).lane l).reports }) ∧
      ((∀ x ∈ s.reqs, x.id ≠ m.id → ¬(x.band = m.band ∧ x.flag = m.flag)) → (t.band m.band).busy m.flag.toNat = false) ∧
      ((∃ x ∈ s.reqs, x.id ≠ m.id ∧ x.band = m.band ∧ x.flag = m.flag) → (t.band m.band).flags = (s.band m.band).flags)

/-- A watch operation has ended with an answer, which the lanes that still expect it have in D (R278). -/
def Sys2Proof.Claims.answered (s t : State) (o : WatchOp) (h : Nat) : Prop :=
  (t.band o.band).busy o.flag.toNat = false ∧ t.watchOps = (s.watchOps.filter fun x => x.id != o.id) ∧
    ((∀ l, bit o.lanes l = true → ((s.band o.band).lane l).live = true ∧ (∃ f ∈ (s.band o.band).inFlight, f.id = o.id ∧
        f.reg = .g o.d ∧ bit f.lanes l = true) ∧ (∀ f ∈ (s.band o.band).inFlight, f.id = o.id → bit f.raced l = false) ∧
        (s.band o.band).races s.cycle l (.g o.d) = false) →
      ∀ l, bit o.lanes l = true → (t.band o.band).gv l o.d = BitVec.ofNat 32 h)

/-- TLBINV_COMPLETE and WATCH_COMPLETE. An invalidation ends once no access that may have used its page is left. An
operation that arms a watch answers 0x80000001 where a slice has no entry left, 0x80000002 where the budget of the
grove does not allow it, and else installs its handler's records and arms it under a handle that is not 0, is below 2^31
and is in use nowhere in the context. -/
def Obligations.WatchAndTlbCompletions : Prop :=
  (∀ (s : State) (o : TlbOp), s.tlbs.find? (·.id == o.id) = some o → o.band < s.bands.length →
    (s.quarterOf (s.band o.band)).stopped = false → s.holdFlags = false →
    (s.tlbUsed o = true → exec (.tlbinvComplete o.id) s = .next s) ∧
    (s.tlbUsed o = false → ∃ t, exec (.tlbinvComplete o.id) s = .next t ∧
      t = { s with bands := t.bands, tlbs := s.tlbs.filter fun e => e.id != o.id } ∧
      (t.band o.band).busy o.flag.toNat = false ∧ ∀ l r, (t.band o.band).getReg l r = (s.band o.band).getReg l r)) ∧
  ∀ (s : State) (o : WatchOp) w pa c d e, s.watchOps.find? (·.id == o.id) = some o → o.arm = some w → o.book = none →
    s.clear o.band o.lanes o.id = true → s.pageWaits o.id = false → translate s.mem (s.rootOf w.ctx) w.base = .ok pa c d e →
    (s.quarterOf (s.band o.band)).stopped = false → s.holdFlags = false → o.band < s.bands.length →
    ((∃ x ∈ homeSlices pa w.len, 64 ≤ s.sliceUse x) →
      ∃ t, exec (.watchComplete o.id) s = .next t ∧ t.watches = s.watches ∧ Claims.answered s t o 0x80000001) ∧
    ((∀ x ∈ homeSlices pa w.len, s.sliceUse x < 64) → 256 < s.groveBudget w.grove + w.budget + 1 →
      ∃ t, exec (.watchComplete o.id) s = .next t ∧ t.watches = s.watches ∧ Claims.answered s t o 0x80000002) ∧
    ∀ s1, (∀ x ∈ homeSlices pa w.len, s.sliceUse x < 64) → s.groveBudget w.grove + w.budget + 1 ≤ 256 →
      (s.unblock o.id).installShapes w.ctx w.image.addr o.shapes = .ok (.ok s1) → s1.watches.length < 2 ^ 30 →
      (∀ x ∈ s1.books, x.id < s1.nextId) →
      Claims.ready s1 (w.desc + 15) 1 → s1.bands = s.bands → s1.holdFlags = false →
      (s1.quarterOf (s1.band o.band)).stopped = false →
      ∃ t h, exec (.watchComplete o.id) s = .next t ∧ 0 < h ∧ h < 2 ^ 31 ∧
        (∀ x ∈ s1.watches, x.ctx = w.ctx → x.handle ≠ h) ∧ t.mem.read (w.desc + 15) = 1 ∧
        { w with handle := h, pa := pa, slices := homeSlices pa w.len, st := 1 } ∈ t.watches ∧
        (∀ x ∈ s1.watches, x ∈ t.watches) ∧ Claims.answered s1 t o h

/-- A stream has moved its k-th tile of n: it goes on with the next, or is gone, with its flag done and the L1 of its core
dropped (R251, R307). -/
def Sys2Proof.Claims.moved (s t : State) (e : EngCmd) (op : EngOp) (k n : Nat) : Prop :=
  (k < n → t.findEngine e.id = some { e with op := op }) ∧
    (n ≤ k → t.findEngine e.id = none ∧ (e.issuer.band < s.bands.length →
      (s.quarterOf (s.band e.issuer.band)).stopped = false → s.holdFlags = false →
      (t.band e.issuer.band).busy e.issuer.flag.toNat = false ∧ (t.core (s.band e.issuer.band).core).l1 = []))

/-- STREAM_TILE and XFORM_COMPLETE. A stream into a full ring and one out of an empty ring do nothing but wait.
Otherwise a tile is moved: one coming in stands in its slot of the ring, row by row, and one going out has its rows
written to memory, and FILLED (FREED for one going out) becomes one more; after the last tile the command is gone and
its flag done. A transform of no tiles ends; one tile that is read and written lets it go on. -/
def Sys2Proof.Claims.EngineTiles : Prop :=
  (∀ (s : State) (e : EngCmd) isIn base ring ctrl nslot slotb first n k r ls v, s.findEngine e.id = some e →
    e.op = .strm isIn base ring ctrl nslot slotb first n k r → s.engineReady e = true → s.ringBusy e = false →
    scrLocs s (s.band e.issuer.band) ctrl 0 8 false = .ok ls → s.readLocs ls = v → nslot ≤ 256 →
    let u := s.unblock e.id
    (isIn = true → nslot ≤ (field v 0 4 + 2 ^ 32 - field v 4 4) % 2 ^ 32 → exec (.streamTile e.id) s = .next u) ∧
    (isIn = false → field v 0 4 = field v 4 4 → exec (.streamTile e.id) s = .next u) ∧
    (isIn = true → (field v 0 4 + 2 ^ 32 - field v 4 4) % 2 ^ 32 < nslot → ∀ d ws,
      readTile (u.engineRead e base) r (first + k) = .ok d →
      collect ((slotWrites r d).map fun w => (scrLocs u (s.band e.issuer.band) ring
        (field v 0 4 % nslot * slotb + w.1) w.2.length true).map fun l => (l, w.2)) = .ok ws →
      ∀ l4, scrLocs s (s.band e.issuer.band) ctrl 0 4 true = .ok l4 → l4.Nodup → l4.length = 4 → (∀ x ∈ l4, ∃ a, x = .scr a) →
      ∃ t, exec (.streamTile e.id) s = .next t ∧ t.readLocs l4 = leBytes (field v 0 4 + 1) 4 ∧ t.mem = s.mem ∧
        ((ws.map (·.1)).flatten.Nodup → (∀ w ∈ ws, w.1.length = w.2.length) → (∀ w ∈ ws, ∀ x ∈ w.1, x ∉ l4) →
          (∀ w ∈ ws, t.readLocs w.1 = w.2) ∧
          ∀ x, x ∉ l4 → (∀ w ∈ ws, x ∉ w.1) → t.readLoc x = s.readLoc x) ∧
        Claims.moved s t e (.strm isIn base ring ctrl nslot slotb first n (k + 1) r) (k + 1) n) ∧
    (isIn = false → field v 0 4 ≠ field v 4 4 → rSk r = 0 → ∀ rows ws s',
      collect ((List.range (rExt r 1)).map fun i => (scrLocs u (s.band e.issuer.band) ring
        (field v 4 4 % nslot * slotb + i * rSpitch r) (rRowScr r) false).map u.readLocs) = .ok rows →
      tileWrites r (first + k) { rows := rows, scales := [] } = .ok ws → u.engineWrite e base ws = .done s' →
      ∀ l4, scrLocs s' (s'.band e.issuer.band) ctrl 4 4 true = .ok l4 → l4.Nodup → l4.length = 4 → (∀ x ∈ l4, ∃ a, x = .scr a) →
      s'.engines = s.engines → s'.bands = s.bands → s'.holdFlags = s.holdFlags →
      s'.quarterOf (s.band e.issuer.band) = s.quarterOf (s.band e.issuer.band) →
      ∃ t, exec (.streamTile e.id) s = .next t ∧ t.readLocs l4 = leBytes (field v 4 4 + 1) 4 ∧ t.mem = s'.mem ∧
        (∀ x, x ∉ l4 → t.readLoc x = s'.readLoc x) ∧ Claims.enginePut u s' e base ws ∧
        Claims.moved s t e (.strm isIn base ring ctrl nslot slotb first n (k + 1) r) (k + 1) n)) ∧
  ∀ (s : State) (e : EngCmd) src dst a b xop first bo ftz, s.findEngine e.id = some e → s.engineReady e = true → e.node = none →
    (e.op = .xform src dst a b xop 0 first bo ftz →
      ∃ t, exec (.xformComplete e.id) s = .next t ∧ t = (s.unblock e.id).xformEnd e bo none ∧
        t.findEngine e.id = none) ∧
    ∀ ws s', e.op = .xform src dst a b xop 1 first bo ftz →
      xformTile ((s.unblock e.id).engineRead e src) a b xop ftz first = .ok (ws, none) →
      (s.unblock e.id).engineWrite e dst ws = .done s' →
      ∃ t, exec (.xformComplete e.id) s = .next t ∧ t = s'.xformEnd e bo none ∧ t.mem = s'.mem ∧
        Claims.enginePut (s.unblock e.id) s' e dst ws

/-- GRAPH_NODE_COMPLETE: a node that has ended with no successors gets STATUS 2, its GNODE's flag is done and it no longer
runs; a successor's PRED becomes one less, and a successor whose PRED reaches 0 joins the nodes that run, on behalf of
the same lanes. -/
def Sys2Proof.Claims.GraphNodes : Prop :=
  ∀ (s : State) (r : NodeRun) n pa w c e, s.nodes.find? (·.id == r.id) = some r → s.pageWaits r.id = false →
    s.nodeResult r = some .done → s.nodeRead r.ctx r.addr = .ok n → r.launch = none →
    (∀ x ∈ s.nodes, x.started = true) → s.watches = [] → r.id < s.nextId →
    translate s.mem (s.rootOf r.ctx) (r.addr + 2) = .ok pa w c e →
    Claims.ready s pa 2 → r.addr.toNat % 128 = 0 → bits (s.mem.readLE e 8) 59 1 = 0 →
    (field n 1 1 = 0 → ∃ t, exec (.graphNodeComplete r.id) s = .next t ∧ t.nodes = s.nodes.filter (fun x => x.id != r.id) ∧
      t.mem.read pa = 2 ∧ t.mem.read (pa + 1) = 0 ∧ (∀ k, k ≠ pa → k ≠ pa + 1 → t.mem.read k = s.mem.read k) ∧
      ∀ bi f, r.flag = some (bi, f) → bi < s.bands.length → (s.quarterOf (s.band bi)).stopped = false →
        s.holdFlags = false → (t.band bi).busy f.toNat = false ∧ (t.core (s.band bi).core).l1 = []) ∧
    (field n 1 1 = 1 → let a := BitVec.ofNat 64 (field n 0x40 8)
      ∀ pb w' c' e' p, a.toNat % 128 = 0 → translate s.mem (s.rootOf r.ctx) a = .ok pb w' c' e' →
        translate s.mem (s.rootOf r.ctx) (a + 4) = .ok (pb + 4) w' c' e' → Claims.ready s (pb + 4) 4 →
        s.succBusy r.ctx [a] = false → bits (s.mem.readLE e' 8) 59 1 = 0 → s.mem.readLE (pb + 4) 4 = p → p ≠ 0 →
        (pa + 2 ≤ pb ∨ pb + 128 ≤ pa) → (e + 8 ≤ pa ∨ pa + 2 ≤ e) →
        (∀ m : Memory, (∀ k, (k < pa ∨ pa + 2 ≤ k) → m.read k = s.mem.read k) →
          translate m (s.rootOf r.ctx) (a + 4) = .ok (pb + 4) w' c' e' ∧ canonical (a + 4) = true) →
        ∃ t, exec (.graphNodeComplete r.id) s = .next t ∧ (∀ y ∈ t.nodes, y.id ≠ r.id) ∧
          (1 < p → t.nodes = s.nodes.filter (fun x => x.id != r.id) ∧ t.mem.readLE (pb + 4) 4 = p - 1) ∧
          (p = 1 → (∃ y ∈ t.nodes, y.addr = a ∧ y.ctx = r.ctx ∧ y.queue = r.queue ∧ y.by_ = r.by_ ∧ y.flag = none) ∧
            (s.unitRuns r.by_.band = false → t.mem.readLE (pb + 4) 4 = 0)))

/-! ## The link unit -/

/-- The bytes of a map lie at `pm` on: not compressed, with no write waiting at them, in writable pages that await no
reclaim, and with no page table among them. -/
def Sys2Proof.Claims.mapAt (s : State) (ctx : Nat) (map : DWord) (n pm : Nat) : Prop :=
  Claims.ready s pm n ∧ ∀ m : Memory, (∀ k, (k < pm ∨ pm + n ≤ k) → m.read k = s.mem.read k) → ∀ o, o < n →
    canonical (map + BitVec.ofNat 64 o) = true ∧ ∃ z e,
      translate m (s.rootOf ctx) (map + BitVec.ofNat 64 o) = .ok (pm + o) true z e ∧ bits (m.readLE e 8) 59 1 = 0

/-- A plan has been published in bank `b` (R322): a read of the map finds CUR, the next VER and the plan's links in it. -/
def Sys2Proof.Claims.published (t : State) (ctx b : Nat) (p : LinkPlan) (next : Nat) : Prop :=
  ∃ h, t.ctxRead ctx p.map 128 = .ok h ∧ mCur h = b ∧ mVer h = (mVer p.hdr + 1) % 2 ^ 32 ∧ mNextlid h = next ∧
    mNlink h b = p.new.length ∧ t.readBank ctx p.map h b = .ok p.new

/-- LINK_PUBLISH, UNLINK_PUBLISH and UNLINK_COMPLETE, once the command may act. LINK and UNLINK first wait for a bank
that is free, and then check. A LINK whose checks pass puts its link, with the map's next LID and signature 1, into the
list at its index, and every later link gets a new signature; an UNLINK takes its link out, and with compaction later
links move down by its length. The list of links without overlays can then be read from the new bank of the map, with
CUR, VER, NLINK and NEXTLID. A LINK is then done, and its pass waits or has written its header in the overlay of its
link. An UNLINK is done when nothing holds what it removed. -/
def Obligations.LinkPublishes : Prop :=
  (∀ (s : State) (c : LinkCmd) h b, s.findLink c.id = some c → c.op = .link h → let u := s.unblock c.id
    u.linkReady c = true →
    (u.linkBank c b = .ok false → exec (.linkPublish c.id b) s = .next u) ∧
    ∀ p, u.linkPlan c h = .ok p →
    (∃ l k, p.rec_ = some l ∧ k ≤ p.old.length ∧ p.new = p.old.take k ++ l :: (p.old.drop k).map LinkRec.bump ∧ l.psig = 1 ∧
      l.lid = mNextlid p.hdr ∧ l.vlo < l.vhi ∧ l.base + l.vhi ≤ mRotn p.hdr ∧ p.old.length < mMaxl p.hdr ∧
      mapFieldsOk p.map p.hdr = true ∧
      mRotoff p.hdr + 4 * mRdim p.hdr * mRotn p.hdr ≤ ((u.ctx c.ctx).map (·.wsLen)).getD 0) ∧
    ∀ s0 s1, u.linkBank c b = .ok true → u.linkShapes c p = .ok s0 →
      s0.publish c b p [(0x28, leBytes (mNextlid p.hdr) 4), (0x2C, leBytes ((mVer p.hdr + 1) % 2 ^ 32) 4), (0x30, [0])] = .ok s1 →
      ∃ t, exec (.linkPublish c.id b) s = .next t ∧ t.findLink c.id = none ∧
        (∀ l, p.rec_ = some l → (l.ova = 0 → t.mem = s1.mem ∧ t.scr = s1.scr) ∧
          ∀ lo, runVa s1 (s1.rootOf c.ctx) l.ova 12 true = .ok lo → (∀ k, Loc.mem k ∈ lo → s1.compressed k = false) →
            (∀ e ∈ ptesVa s1 (s1.rootOf c.ctx) l.ova 12, bits (s1.mem.readLE e 8) 59 1 = 0) →
            (∀ m : Memory, (∀ k, Loc.mem k ∉ lo → m.read k = s1.mem.read k) →
              translate m (s1.rootOf c.ctx) (l.ova + 8) = translate s1.mem (s1.rootOf c.ctx) (l.ova + 8)) →
            ∀ x, x ∉ lo → t.readLoc x = s1.readLoc x) ∧
        (∀ sp pm, s0.linkPut c [(0x28, leBytes (mNextlid p.hdr) 4), (0x2C, leBytes ((mVer p.hdr + 1) % 2 ^ 32) 4),
            (0x30, [0])] = .ok sp →
          Claims.mapAt sp c.ctx p.map (128 + 256 * mMaxl p.hdr) pm → sp.mem.readN pm 128 = p.hdr →
          (∀ l ∈ p.old ++ p.new, l.ova = 0) →
          Claims.published t c.ctx b p ((mNextlid p.hdr + 1) % 2 ^ 32)) ∧
        (∃ q ∈ t.passes, q.map = p.map ∧ q.lid = mNextlid p.hdr ∧ q.psig = 1 ∧ q.ctx = c.ctx) ∧
        (c.issuer.band < s.bands.length → (s.quarterOf (s.band c.issuer.band)).stopped = false → s.holdFlags = false →
          (t.band c.issuer.band).busy c.issuer.flag.toNat = false)) ∧
  (∀ (s : State) (c : LinkCmd) cmp b, s.findLink c.id = some c → c.op = .unlink cmp → c.published = none →
    let u := s.unblock c.id
    u.linkReady c = true →
    (u.linkBank c b = .ok false → exec (.unlinkPublish c.id b) s = .next u) ∧
    ∀ p lid, u.unlinkPlan c cmp = .ok (p, lid) →
    (∃ k x, p.old[k]? = some x ∧ x.lid = lid ∧ p.rec_ = none ∧ p.new = p.old.take k ++ (p.old.drop (k + 1)).map (fun l =>
      if cmp then { l.bump with base := l.base - (x.vhi - x.vlo) } else l.bump)) ∧
    ∀ s1, u.linkBank c b = .ok true →
      u.publish c b p [(0x0C, leBytes ((mVer p.hdr + 1) % 2 ^ 32) 4), (0x10, [0])] = .ok s1 →
      ∃ t, exec (.unlinkPublish c.id b) s = .next t ∧
        t = ((s1.unwait c.id).setLink c.id fun c => { c with published := some (lid, p.map) }) ∧
        ∀ sp pm, u.linkPut c [(0x0C, leBytes ((mVer p.hdr + 1) % 2 ^ 32) 4), (0x10, [0])] = .ok sp →
          Claims.mapAt sp c.ctx p.map (128 + 256 * mMaxl p.hdr) pm → sp.mem.readN pm 128 = p.hdr →
          p.new.length ≤ mMaxl p.hdr → (∀ l ∈ p.old ++ p.new, l.ova = 0) →
          Claims.published t c.ctx b p (mNextlid p.hdr)) ∧
  ∀ (s : State) (c : LinkCmd) lid map, s.findLink c.id = some c → c.published = some (lid, map) →
    (s.oldCrewsEnded c.ctx map lid = true → s.linkHeld c.ctx map lid = false →
      ∃ t, exec (.unlinkComplete c.id) s = .next t ∧ t.findLink c.id = none ∧ t.mem = s.mem ∧
        (c.issuer.band < s.bands.length → (s.quarterOf (s.band c.issuer.band)).stopped = false → s.holdFlags = false →
          (t.band c.issuer.band).busy c.issuer.flag.toNat = false ∧
          (t.core (s.band c.issuer.band).core).l1 = [])) ∧
    (s.oldCrewsEnded c.ctx map lid = false ∨ s.linkHeld c.ctx map lid = true → exec (.unlinkComplete c.id) s = .next s)

/-- SEGRD_READ: a read that has captured a version of its map delivers its rows, VER and STATUS 0, and its flag is done;
one that a newer version has superseded ends with STATUS 1 and writes nothing else; one that must wait keeps its
version. -/
def Sys2Proof.Claims.SegmentReads : Prop :=
  ∀ (s : State) (c : LinkCmd) rw d kd vd ftz bank ver, s.findLink c.id = some c → c.op = .segrd rw d kd vd ftz →
    s.linkReady c = true → (s.core c.core).segrdTurn c.id = true → c.held = some (bank, ver) →
    (∀ x ∈ s.links, x.id = c.id → x = c) → c.issuer.band < s.bands.length →
    (s.quarterOf (s.band c.issuer.band)).stopped = false → s.holdFlags = false →
    ∀ p, s.segPrep c d kd vd bank = .ok p →
    (s.segWait c rw d p = .ok .wait → exec (.segrdRead c.id) s = .next s) ∧
    (∀ s1, s.segWait c rw d p = .ok .superseded → s.linkPut c [(0x28, leBytes ver 4), (0x2C, [1, 0])] = .ok s1 →
      ∃ t, exec (.segrdRead c.id) s = .next t ∧ t.findLink c.id = none ∧ t.mem = s1.mem ∧ t.scr = s1.scr ∧
        (t.band c.issuer.band).busy c.issuer.flag.toNat = false) ∧
    ∀ s1 rows ws s2, s.segWait c rw d p = .ok .go → s1 = s.setLink c.id (fun c => { c with strictOver := true }) →
      s1.segFind c d kd vd ftz p = .ok (rows, ws) → field d 0x12 1 = 1 →
      s1.linkPut c [(0x28, leBytes ver 4), (0x2C, [0, 0])] = .ok s2 → field d 0x18 4 < 16 → field d 0x1C 4 < 16 →
      field d 0x18 4 ≠ field d 0x1C 4 →
      ∃ t, exec (.segrdRead c.id) s = .next t ∧ t.findLink c.id = none ∧ t.mem = s2.mem ∧
        (t.band c.issuer.band).busy c.issuer.flag.toNat = false ∧ (t.core (s.band c.issuer.band).core).l1 = [] ∧
        ∀ i k, i < 32 → k < 32 →
          ((t.core c.core).tile (field d 0x18 4)).data.readLE (64 * i + 2 * k) 2 =
            (((rows.map (·.1)).getD i []).getD (field d 0x24 2 + k) 0) % 2 ^ 16 ∧
          ((t.core c.core).tile (field d 0x1C 4)).data.readLE (64 * i + 2 * k) 2 =
            (((rows.map (·.2.1)).getD i []).getD (field d 0x24 2 + k) 0) % 2 ^ 16

/-- The launch of a layer has begun, with its nine argument words (R326): the pass runs the layer. -/
def Sys2Proof.Claims.layerLaunched (s t : State) (p : Pass) (h : List Byte) (l : LinkRec) (layer nsel : Nat) : Prop :=
  ∃ x, t.launches = s.launches ++ [x] ∧ x.ctx = p.ctx ∧ x.queue = p.queue ∧ x.origin = .repair p.id ∧ x.grain = mRgrain h ∧
    x.args = [p.map.setWidth 32, (p.map >>> 32).setWidth 32, l.ova.setWidth 32, (l.ova >>> 32).setWidth 32,
      BitVec.ofNat 32 l.lid, BitVec.ofNat 32 layer, BitVec.ofNat 32 p.psig, BitVec.ofNat 32 nsel, BitVec.ofNat 32 l.sid] ∧
    (t.findPass p.id).map (fun y => (y.st, y.launches)) = some (.running layer, p.launches ++ [s.launches.length])

/-- REPAIR_PASS_START and REPAIR_LAYER_COMMIT. A pass whose link has no overlay completes; one with nothing to repair
writes its signature, CL and STATE and completes; any other launches layer 1. The end of a layer's launch commits the
layer: the last one completes the pass, and an earlier one is followed by the launch of the next. A superseded pass
commits nothing. -/
def Sys2Proof.Claims.RepairPasses : Prop :=
  (∀ (s : State) (p : Pass) h l pred nsel, s.findPass p.id = some p → s.pageWaits p.id = false → p.st = .waiting 0 →
    s.passLink p = .ok (h, some (l, pred, nsel)) → s.oldReader p h = false → s.oldCrewsEnded p.ctx p.map p.lid = true →
    (l.ova = 0 → ∃ t, exec (.repairPassStart p.id) s = .next t ∧ t = s.setPass p.id fun p => { p with st := .complete }) ∧
    (l.ova ≠ 0 → pred = false ∨ nsel = 0 ∨ mNlayer h ≤ 1 →
      s.writable p.ctx [(l.ova, leBytes p.psig 4 ++ [0, 0]), (l.ova + 8, leBytes nsel 4)] = .ok () →
      ∃ t, exec (.repairPassStart p.id) s = .next t ∧
        t = (s.hwWrites p.ctx [(l.ova, leBytes p.psig 4 ++ [0, 0]), (l.ova + 8, leBytes nsel 4)]).setPass p.id
          fun p => { p with st := .complete }) ∧
    ∀ info, l.ova ≠ 0 → pred = true → nsel ≠ 0 → 1 < mNlayer h →
      s.writable p.ctx [(l.ova, leBytes p.psig 4 ++ [0, 1]), (l.ova + 8, leBytes nsel 4)] = .ok () →
      s.readKernel p.ctx (mRepk h) = .ok (some info) → info.image.crews = 0 →
      ∃ t, exec (.repairPassStart p.id) s = .next t ∧ Claims.layerLaunched s t p h l 1 nsel) ∧
  ∀ (s : State) (p : Pass) li, s.findPass p.id = some p → s.pageWaits p.id = false → p.launches.getLast? = some li →
    s.launchOver li = true →
    (p.st = .superseded → ∃ t, exec (.repairLayerCommit p.id) s = .next t ∧ t.mem = s.mem ∧ t.passes = s.passes ∧
      (t.launch li).map (·.ended) = some true) ∧
    (∀ n h l pred nsel, p.st = .running n → s.passLink p = .ok (h, some (l, pred, nsel)) → n + 1 = mNlayer h →
      s.writable p.ctx [(l.ova + 4, [BitVec.ofNat 8 n, 2])] = .ok () →
      ∃ t, exec (.repairLayerCommit p.id) s = .next t ∧
        t.mem = ((s.endLaunch li).hwWrites p.ctx [(l.ova + 4, [BitVec.ofNat 8 n, 2])]).mem ∧
        (t.findPass p.id).map (·.st) = some .complete ∧ (t.launch li).map (·.ended) = some true) ∧
    ∀ n h l pred nsel (s2 : State) info g l2 pred2 nsel2, p.st = .running n →
      s.passLink p = .ok (h, some (l, pred, nsel)) → n + 1 ≠ mNlayer h →
      s.writable p.ctx [(l.ova + 4, [BitVec.ofNat 8 n, 1])] = .ok () →
      s2 = ((s.endLaunch li).hwWrites p.ctx [(l.ova + 4, [BitVec.ofNat 8 n, 1])]).setPass p.id (fun p =>
        { p with st := .waiting (n + 1) }) →
      s2.passLink p = .ok (g, some (l2, pred2, nsel2)) → s2.readKernel p.ctx (mRepk g) = .ok (some info) →
      info.image.crews = 0 →
      ∃ t, exec (.repairLayerCommit p.id) s = .next t ∧ t.mem = s2.mem ∧ Claims.layerLaunched s2 t p g l2 (n + 1) nsel2 ∧
        (t.launch li).map (·.ended) = some true

/-! ## Clearing, faults, errors and debug -/

/-- CLEARING_PAGE_RECLAIM and WAITING_WRITE_PERFORMED. The engine does nothing while it rests; else it takes, of the
pages in the first stage that yields one, the page that the event names: the entry of the page loses V, and a page of
stages 1 and 2 gives its sectors to the reserve up to its full size and then to the pool. A write that waits is tried
again with the sectors kept of other contexts' pages beside the free ones; a host write that finds its sectors is
performed and waits no more, and one of a queue's TAIL rings its doorbell. In stage 3 the page's sectors are kept and
serve the oldest write of another context at once, its context's BALQ falls by them, and its contents are lost. With no
page left, stage 4 refuses the write that still waits: REFUSED of its context becomes one more, memory keeps its bytes,
and the engine rests. That the fault handler's copy of a page of stages 1 and 2 is kept (log entry 82), and that the
sectors of stage 3 are kept apart for the write they are to serve (log entry 81), is the model's choice. -/
def Obligations.SectorsAndWaitingWrites : Prop :=
  (∀ (s : State) die ctx va, (s.die die).stage = 0 → exec (.clearingPageReclaim die ctx va) s = .next s) ∧
  (∀ (s : State) die ctx va p st f n, (s.die die).stage ≠ 0 → die < 9 →
    ¬(fullReserve ≤ (s.die die).reserve ∧ (s.die die).highMark ≤ (s.die die).pool) → (p, st, f, n) ∈ s.takeable die →
    (∀ x ∈ s.takeable die, st ≤ x.2.1) →
    (∀ x ∈ s.takeable die, x.2.1 = st → x.1.ctx = ctx → x.1.va = va57 va → x = (p, st, f, n)) → p.ctx = ctx → p.va = va57 va →
    st ≠ 3 → (p.pte + 8 ≤ f ∨ f + p.len ≤ p.pte) → p.e = s.mem.readLE p.pte 8 → 2 ^ 63 ≤ p.e →
    (s.acctAt die ctx + 12 ≤ p.pte ∨ p.pte + 8 ≤ s.acctAt die ctx) →
    ∃ t, exec (.clearingPageReclaim die ctx va) s = .next t ∧ t.mem.readLE p.pte 8 = p.e - 2 ^ 63 ∧
      (t.die die).reserve = (s.die die).reserve + min n (fullReserve - (s.die die).reserve) ∧
      (t.die die).pool = (s.die die).pool + (n - min n (fullReserve - (s.die die).reserve)) ∧
      (∀ d, d ≠ die → t.die d = s.die d) ∧ t.bands = s.bands ∧ (p.pte, copyOf s.mem f p.len) ∈ t.copies ∧
      ∀ k, f ≤ k → k < f + p.len → (k < s.acctAt die ctx ∨ s.acctAt die ctx + 12 ≤ k) → t.mem.read k = 0) ∧
  (∀ (s : State) die ctx va p f n, (s.die die).stage ≠ 0 → die < 9 →
    ¬(fullReserve ≤ (s.die die).reserve ∧ (s.die die).highMark ≤ (s.die die).pool) → (p, 3, f, n) ∈ s.takeable die →
    (∀ x ∈ s.takeable die, 3 ≤ x.2.1) →
    (∀ x ∈ s.takeable die, x.1.ctx = ctx → x.1.va = va57 va → x = (p, 3, f, n)) → p.ctx = ctx → p.va = va57 va →
    (p.pte + 8 ≤ f ∨ f + p.len ≤ p.pte) → p.e = s.mem.readLE p.pte 8 → 2 ^ 63 ≤ p.e →
    (s.acctAt die ctx + 12 ≤ p.pte ∨ p.pte + 8 ≤ s.acctAt die ctx) →
    (s.acctAt die ctx + 12 ≤ f ∨ f + p.len ≤ s.acctAt die ctx) →
    ∃ (s1 : State) (id : Nat), exec (.clearingPageReclaim die ctx va) s = .next ((s1.serveWrite die id).clearingRest die) ∧
      s1.oldestOther die ctx = some id ∧
      s1.die die = { s.die die with stage := 3, marks := (s.die die).marks ++ [(ctx, n)] } ∧
      s1.mem.readLE p.pte 8 = p.e - 2 ^ 63 ∧
      s1.mem.readLE (s.acctAt die ctx + 4) 4 + n = s.mem.readLE (s.acctAt die ctx + 4) 4 ∧
      (∀ x ∈ s1.copies, x.1 ≠ p.pte) ∧ (∀ k, f ≤ k → k < f + p.len → s1.mem.read k = 0) ∧ s1.bands = s.bands ∧
      ∀ d, d ≠ die → s1.die d = s.die d) ∧
  (∀ (s : State) die ctx va (c : CmdOp) bl w, (s.die die).stage ≠ 0 → die < 9 →
    ¬(fullReserve ≤ (s.die die).reserve ∧ (s.die die).highMark ≤ (s.die die).pool) → s.takeable die = [] →
    (s.die die).waiting = [c.id] → (s.die die).marks = [] → (∀ d, d ≠ die → c.id ∉ (s.die d).waiting) →
    s.cmds.find? (·.id == c.id) = some c → c.op = opHost →
    s.findAccess c.id = none → s.findEngine c.id = none → s.findSeq c.id = none → s.findLink c.id = none →
    s.reqs.find? (·.id == c.id) = none → s.books.find? (·.id == c.id) = none → s.nodes.find? (·.id == c.id) = none →
    s.watchOps.find? (·.id == c.id) = none → s.findFault c.id = none →
    State.hostWrite (s.unblock c.id) (c.queue - 65536) c.hostAddr c.hostBytes = .error (.sectors die bl w) →
    (∀ x, s.ctx (c.queue - 65536) = some x → x.eventRing = 0) →
    ∃ t, exec (.clearingPageReclaim die ctx va) s = .next t ∧ (t.die die).stage = 0 ∧ (t.die die).waiting = [] ∧
      t.cmds = s.cmds.filter (fun x => x.id != c.id) ∧ t.bands = s.bands ∧
      t.mem.readLE (s.acctAt die (c.queue - 65536) + 0x0C) 4 =
        (s.mem.readLE (s.acctAt die (c.queue - 65536) + 0x0C) 4 + 1) % 2 ^ 32 ∧
      ∀ k, (k < s.acctAt die (c.queue - 65536) + 0x0C ∨ s.acctAt die (c.queue - 65536) + 0x10 ≤ k) →
        t.mem.read k = s.mem.read k) ∧
  (∀ (s : State) id, s.waitDie id = none → exec (.waitingWritePerformed id) s = .next s) ∧
  ∀ (s : State) (c : CmdOp) die s', s.cmds.find? (·.id == c.id) = some c → c.op = opHost → s.waitDie c.id = some die →
    s.findAccess c.id = none → s.findEngine c.id = none → s.findSeq c.id = none → s.findLink c.id = none →
    s.reqs.find? (·.id == c.id) = none → s.books.find? (·.id == c.id) = none → s.nodes.find? (·.id == c.id) = none →
    s.watchOps.find? (·.id == c.id) = none → s.findFault c.id = none →
    State.hostWrite (State.unblock (s.setDie die
        { s.die die with pool := (s.die die).pool + s.keptFor die c.id }) c.id)
      (c.queue - 65536) c.hostAddr c.hostBytes = .ok s' →
    let r := State.rung (State.unwait { s' with cmds := s'.cmds.filter fun x => x.id != c.id } c.id)
      (c.queue - 65536) c.hostAddr c.hostBytes
    ∃ t, exec (.waitingWritePerformed c.id) s = .next t ∧ t = { r with dies := t.dies } ∧
      (State.ringsBell s' (c.queue - 65536) c.hostAddr c.hostBytes = false →
        t = { s' with cmds := s'.cmds.filter fun x => x.id != c.id, dies := t.dies })

/-- FAULT_RECORD and FAULT_REPLY. The fault service places the page of a record in the memory of R233: its entry gets
the frame and V, and the frame reads as zero. RESIDENT waits for the page; it makes a band ready that waits for its code
or for a word's page, and one that an abort parked once what the faulting word loads is written; a code of 0x09 or 0x0A
traps the lanes that an abort names. That a code is kept for the word that waits at its issue is the model's reading of
R444 and R445 (log entry 84). -/
def Obligations.FaultService : Prop :=
  (∀ (s : State) (f : FaultRec) p, s.findFault f.id = some f → f.placed = false → s.absentPage f.ctx f.va = some p →
    (∀ c ∈ s.copies, c.1 ≠ p.pte) → p.e < 2 ^ 63 →
    (p.pte + 8 ≤ s.freeFrame (s.placeFor f.core) p.len ∨ s.freeFrame (s.placeFor f.core) p.len + p.len ≤ p.pte) →
    ∃ t, exec (.faultRecord f.id) s = .next t ∧
      t.faults = s.faults.map (fun x => if x.id = f.id then { x with placed := true } else x) ∧
      t.mem.readLE p.pte 8 = p.e - bits p.e 16 36 * 2 ^ 16 +
        s.freeFrame (s.placeFor f.core) p.len % 2 ^ 52 / 2 ^ 16 * 2 ^ 16 + 2 ^ 63 ∧
      (∀ k, k < p.len → t.mem.read (s.freeFrame (s.placeFor f.core) p.len + k) = 0) ∧ t.bands = s.bands ∧
      (f.core / 256 = 15 → s.placeFor f.core = 15) ∧
      (f.core / 256 ≠ 15 → (s.die (f.core / 256)).poolst.toNat < 2 ^ 30 → s.placeFor f.core = f.core / 256)) ∧
  (∀ (s : State) (f : FaultRec), s.findFault f.id = some f → f.placed = true → exec (.faultRecord f.id) s = .next s) ∧
  (∀ (s : State) (f : FaultRec), s.findFault f.id = some f → s.resident f = false → exec (.faultReply f.id 0) s = .next s) ∧
  (∀ (s : State) (f : FaultRec), s.findFault f.id = some f → s.resident f = true → s.savedQueue f.band = none →
    f.band < s.bands.length → (f.kind = .fetch ∨ f.kind = .issue) → (s.band f.band).block = some .page →
    ∃ t, exec (.faultReply f.id 0) s = .next t ∧
      t = { s with bands := t.bands, faults := s.faults.filter fun x => x.id != f.id } ∧
      t.band f.band = { s.band f.band with block := none } ∧ ∀ n, n ≠ f.band → t.band n = s.band n) ∧
  (∀ (s : State) (f : FaultRec) l w, s.findFault f.id = some f → s.resident f = true → s.savedQueue f.band = none →
    f.band < s.bands.length → f.kind = .abort l w → (s.band f.band).block = some .parked →
    let ids := (s.accesses.filter fun a => a.band == f.band && a.word == w && a.flag == 15 && a.kind.hasDest).map (·.id)
    ∃ t, exec (.faultReply f.id 0) s = .next t ∧
      t = { s with bands := t.bands, faults := s.faults.filter fun x => x.id != f.id } ∧
      t.band f.band = { s.band f.band with block := if ids = [] then none else some (.fence ids false) } ∧
      ∀ n, n ≠ f.band → t.band n = s.band n) ∧
  (∀ (s : State) (f : FaultRec) code, s.findFault f.id = some f → code = 0x09 ∨ code = 0x0A → s.savedQueue f.band = none →
    f.band < s.bands.length → f.kind = .issue → (s.band f.band).block = some .page →
    ∃ t, exec (.faultReply f.id code) s = .next t ∧
      t = { s with bands := t.bands, faults := s.faults.filter fun x => x.id != f.id } ∧
      t.band f.band = { s.band f.band with block := none, pageCode := some (code, f.va) } ∧
      ∀ n, n ≠ f.band → t.band n = s.band n) ∧
  ∀ (s : State) (f : FaultRec) l va w code, s.findFault f.id = some f → code = 0x09 ∨ code = 0x0A → s.savedQueue f.band = none →
    f.band < s.bands.length → f.kind = .abort [(l, va)] w → l < 32 → ((s.band f.band).lane l).live = true →
    (s.band f.band).block = some .parked → s.accesses = [] →
    ∃ t, exec (.faultReply f.id code) s = .next t ∧ (t.band f.band).rgnOpen = false ∧ (t.band f.band).block = none ∧
      (t.band f.band).trapLane = (s.band f.band).trapLane ||| laneMask l ∧
      ((t.band f.band).lane l).st = .waiting .trap ∧
      ((t.band f.band).lane l).trapCode = 2 ^ 14 + code.setWidth 32 ∧
      ((t.band f.band).lane l).trapPc = (s.band f.band).rgnPc ∧ ((t.band f.band).lane l).trapAddr = va ∧
      ((t.band f.band).lane l).trapOrig = w ∧
      ∀ k, k ≠ l → (t.band f.band).lane k = (s.band f.band).lane k

namespace Sys2Proof.Claims

/-- No access of another crew to the scratchpad of this one is on its way (R216). -/
def undisturbed (s : State) (ci : Nat) (c : Crew) : Prop :=
  ∀ a ∈ s.accesses, (s.band a.band).crew ≠ ci → ∀ p ∈ a.parts, p.done = false →
    p.within (c.core * 2 ^ 18 + c.scrOff) c.scrLen = false

/-- The launch is stopped (R378): every crew of it has stopped and none is to start again, no task of it is left, and
its origin hears of code 0x16: a command that runs completes with STATUS 4. -/
def launchStopped (s : State) (li : Nat) (l : Launch) (t : State) : Prop :=
  ∃ s1 : State, s1.mem = s.mem ∧ s1.queues = s.queues ∧
    s1.launch li = some { l with toPlace := [], stripes := [], spill := [], ended := true } ∧
    (∀ i k, s1.crew i = some k → k.launch = li → k.running = false ∧ k.killed = false ∧ k.range = none) ∧
    (∀ i k, s.crew i = some k → k.launch = li → k.running = true → ∀ bi ∈ k.bands, bi < s.bands.length →
      (∀ n, n < 32 → ((s.band bi).lane n).live = true → ((s1.band bi).lane n).st = .exited) ∧
      (s1.band bi).held = [] ∧ (s1.band bi).rgnOpen = false) ∧
    (∀ bi, (∀ i k, s.crew i = some k → k.launch = li → k.running = true → bi ∉ k.bands) → s1.band bi = s.band bi) ∧
    (∀ n, ∀ x ∈ (s1.core n).deque, x.launch ≠ li) ∧
    t = match l.origin with
      | .cmd q a => if (s.runningOf q).bind (·.entry) = some a then s1.completeCmd q 4 0x16 else s1
      | .sprout h => s1.sproutEnds l.ctx h
      | .graph n => s1.setNode n fun r => { r with result := some (.failed 0x16) }
      | .repair _ => s1

end Sys2Proof.Claims

/-- UNCORRECTABLE_ERROR and CREW_RELAUNCH. An error in a crew's storage kills the crew: its lanes end, what it held
is free, and in a range launch that still has work the last grain of each band goes to the die's distributor. The crew of
an idempotent image starts again where there is room, with its number and the rest of its range; the launch of another
image stops, with every crew of it, and its command completes with STATUS 4 and code 0x16. A launch stops too in which an
error is found while a crew waits to start again (the model's reading of R378, log entry 113). -/
def Obligations.KilledCrews : Prop :=
  (∀ (s : State) ci c l, s.crew ci = some c → s.launch c.launch = some l → c.running = true → c.bands.Nodup →
    (∀ bi ∈ c.bands, bi < s.bands.length) →
    (l.image.idempotent = true → Claims.undisturbed s ci c →
      ∃ t k m, exec (.uncorrectableError ci) s = .next t ∧ t.crew ci = some k ∧
        k = { c with running := false, killed := true } ∧
        (∀ bi ∈ c.bands, ∀ n, n < 32 → ((s.band bi).lane n).live = true → ((t.band bi).lane n).st = .exited) ∧
        (∀ bi ∈ c.bands, (t.band bi).held = [] ∧ (t.band bi).rgnOpen = false) ∧
        (∀ bi, bi ∉ c.bands → t.band bi = s.band bi) ∧ t.mem = s.mem ∧
        (t.core c.core).free = (s.core c.core).free + (c.bands.map fun bi => (s.band bi).occupies).sum ∧
        t.launch c.launch = some m ∧ m = { l with spill := m.spill } ∧
        (l.image.crews ≠ 0 ∨ l.noWork = true → m = l) ∧
        (l.image.crews = 0 → l.noWork = false → ∀ bi ∈ c.bands, (s.band bi).glo.toNat < (s.band bi).ghi.toNat →
          ∃ x ∈ m.spill, x.1 = c.core / 256 ∧ x.2.launch = c.launch ∧
            x.2.range = { cur := (s.band bi).glo.toNat, hi := (s.band bi).ghi.toNat, grain := l.grain })) ∧
    (l.image.idempotent = false → (∀ x, s.ctx l.ctx = some x → x.eventRing = 0) →
      (∀ i k, s.crew i = some k → k.launch = c.launch → k.running = true → Claims.undisturbed s i k) →
      ∃ t, exec (.uncorrectableError ci) s = .next t ∧ Claims.launchStopped s c.launch l t)) ∧
  (∀ (s : State) ci c l, s.crew ci = some c → s.launch c.launch = some l → c.running = false → c.killed = false →
    exec (.uncorrectableError ci) s = .next s) ∧
  (∀ (s : State) ci c l, s.crew ci = some c → s.launch c.launch = some l → c.running = false → c.killed = true →
    (∀ x, s.ctx l.ctx = some x → x.eventRing = 0) →
    (∀ i k, s.crew i = some k → k.launch = c.launch → k.running = true → Claims.undisturbed s i k) →
    ∃ t, exec (.uncorrectableError ci) s = .next t ∧ Claims.launchStopped s c.launch l t) ∧
  ∀ (s : State) ci core c l q o, s.crew ci = some c → s.launch c.launch = some l → c.killed = true →
    s.launchRuns l = true → s.diePlaces l.cfg.dieList l.image (core / 256) = true → core ∈ s.dieCores (core / 256) →
    (c.kind.isSprout = true → core / 64 = c.core / 64) → s.roomFor core l.image = some (q, o) → (s.ctx l.ctx).isSome = true →
    ∃ t k, exec (.crewRelaunch ci core) s = .next t ∧ t.crew s.crews.length = some k ∧ k.num = c.num ∧ k.range = c.range ∧
      k.kind = c.kind ∧ k.core = core ∧ k.running = true ∧ k.killed = false ∧ (t.crew ci).map (·.killed) = some false ∧
      (∀ (i : Nat), i < l.image.bands → Claims.startsBand s l s.crews.length core i (t.band (s.bands.length + i)))

/-- HALT_BROADCAST, DRAIN_COMPLETE, and a BKPT that stops its quarter. The broadcast of a stopped context stops a quarter
that holds a band of it. A stopped quarter drains when no result is on its way: then every flag that is still busy has
an entry; with a stopped context in it, it waits for the broadcast. A BKPT under invasive halt with HBK makes the lanes of V wait at it, and they go on behind it. -/
def Obligations.StopsAndDrains : Prop :=
  (∀ (s : State) ctx n, ((s.ctx ctx).bind (·.stoppedBy)).isSome = true → s.bandsIn ctx n ≠ [] →
    (s.quarterAt n).escalated = false →
    ∃ t, exec (.haltBroadcast ctx n) s = .next t ∧ (t.quarterAt n).stopped = true ∧ (t.quarterAt n).escalated = true ∧
      ((∀ b, (s.band b).trapLane = 0 ∧ ∀ l, ((s.band b).lane l).reports = []) → t = { s with cores := t.cores } ∧
        ∀ k, k ≠ n → t.quarterAt k = s.quarterAt k)) ∧
  (∀ (s : State) ctx n, (s.ctx ctx).bind (·.stoppedBy) = none → exec (.haltBroadcast ctx n) s = .next s) ∧
  (∀ (s : State) n, s.drainReady n = false → exec (.drainComplete n) s = .next s) ∧
  (∀ (s : State) n, s.stoppedIn n ≠ [] → (s.quarterAt n).escalated = false → exec (.drainComplete n) s = .next s) ∧
  (∀ (s : State) n, s.drainReady n = true → s.pageWaits (dumpId n) = false → s.stoppedIn n = [] →
    ∃ t, exec (.drainComplete n) s = .next t ∧ t = { s with cores := t.cores } ∧ (t.quarterAt n).drained = true ∧
      (t.quarterAt n).stopped = true ∧
      (∀ p ∈ (t.quarterAt n).pendTable, p.st ≠ 2 → p ∈ (s.quarterAt n).pendTable) ∧
      (∀ p ∈ (s.quarterAt n).pendTable, p.st ≠ 2 → p ∈ (t.quarterAt n).pendTable) ∧
      ∀ bi ∈ s.residents (n / 4) (n % 4), ∀ f, f < 12 → (s.band bi).busy f = true →
        ∃ p ∈ (t.quarterAt n).pendTable, p.band = bi ∧ p.flag.toNat = f) ∧
  ∀ h tag (s : State), s.cur < s.bands.length → s.debug = 2 → (s.core s.me.core).dbgctl.getLsbD 0 = true →
    s.vOf (.bkpt h tag) ≠ 0 → (∀ b, (s.band b).trapLane = 0 ∧ ∀ l, ((s.band b).lane l).reports = []) →
    ∃ t, exec (.bkpt h tag) s = .next t ∧ t = { s with bands := t.bands, cores := t.cores, free := s.free + 1 } ∧
      (t.quarterOf t.me).stopped = true ∧ (∀ b, b ≠ s.cur → t.band b = s.band b) ∧
      (∀ l, bit (s.vOf (.bkpt h tag)) l = true → t.me.lane l =
        { s.me.lane l with st := .waiting .bkpt, resume := nextAfter s (s.ex h), pc := (s.ex h).pc }) ∧
      ∀ l, bit (s.vOf (.bkpt h tag)) l = false → t.me.lane l = s.me.lane l

/-- WS_REFRESH_START and END, TRANSECT_INTERVAL_END and STALL_SAMPLE. The refresh of the next bank of a weight store
begins 8,192 cycles after the one before. An interval that ends leaves its counters as a record to write, and they start
again at 0; TRANSECT_INTERVAL_END writes the oldest such record, and WR becomes one more. A sample counts issued, empty
slot or one reason, and moves the pointer to the next slot. Whose tables give the place of a record (log entry 60) and at
which cycles of the 2^SPER a sample falls (log entry 130) is the model's choice. -/
def Obligations.RefreshAndTrace : Prop :=
  (∀ (s : State) die, die < 9 → (s.die die).refBusy = false → (s.die die).refNext ≤ s.cycle →
    ∃ t, exec (.wsRefreshStart die) s = .next t ∧ t = { s with dies := t.dies } ∧ (∀ d, d ≠ die → t.die d = s.die d) ∧
      t.die die = { s.die die with refBusy := true, refNext := (s.die die).refNext + 8192 }) ∧
  (∀ (s : State) die, (s.die die).refBusy = true ∨ s.cycle < (s.die die).refNext → exec (.wsRefreshStart die) s = .next s) ∧
  (∀ (s : State) die, die < 9 → (s.die die).refBusy = true →
    ∃ t, exec (.wsRefreshEnd die) s = .next t ∧ t = { s with dies := t.dies } ∧ (∀ d, d ≠ die → t.die d = s.die d) ∧
      t.die die = { s.die die with refBusy := false, refBank := ((s.die die).refBank + 1) % 16 }) ∧
  (∀ (s : State) n, let x := (s.quarterAt n).transect
    let t := s.closeInterval n
    (s.traces (n / 4) = true → (t.quarterAt n).owed = (s.quarterAt n).owed ++ [x]) ∧
    (t.quarterAt n).transect.bins = Transect.blank.bins ∧ (t.quarterAt n).transect.unbinned = Transect.blank.unbinned ∧
    (t.quarterAt n).transect.samples = Transect.blank.samples ∧ (t.quarterAt n).transect.pointer = x.pointer ∧
    t = { s with cores := t.cores }) ∧
  (∀ (s : State) n, (s.quarterAt n).owed = [] → exec (.transectIntervalEnd n) s = .next s) ∧
  (∀ (s : State) n x r, (s.quarterAt n).owed = x :: r → x.nrec = 0 ∨ s.trArea (n / 4) = none →
    ∃ t, exec (.transectIntervalEnd n) s = .next t ∧ t = { s with cores := t.cores } ∧
      t.quarterAt n = { s.quarterAt n with owed := r }) ∧
  (∀ (s : State) n a pa w p x r, let c := s.core (n / 4)
    let va := c.trbuf + BitVec.ofNat 64 (0x100 + 256 * (s.mem.readLE (a + 0x80) 4 % x.nrec))
    (s.quarterAt n).owed = x :: r → x.nrec ≠ 0 →
    s.trArea (n / 4) = some a → canonical va = true → va.toNat % 256 = 0 →
    translate s.mem (s.rootOf c.l1ctx) va = .ok pa true w p →
    Claims.ready s pa 256 → Claims.ready s (a + 0x80) 4 → a % 256 = 0 → pa % 256 = 0 →
    bits (s.mem.readLE p 8) 59 1 = 0 → s.watches = [] → (pa + 256 ≤ a + 0x80 ∨ a + 0x84 ≤ pa) → paOk pa = true → paOk a = true →
    s.mem.readLE (a + 0x80) 4 + 1 < 2 ^ 32 →
    ∃ t s1 : State, exec (.transectIntervalEnd n) s = .next t ∧ (t.quarterAt n).owed = r ∧
      s1.mem.readLE pa 1 = n / 4 / 256 % 256 ∧ s1.mem.readLE (pa + 1) 1 = n / 4 % 256 ∧ s1.mem.readLE (pa + 2) 1 = n % 4 ∧
      s1.mem.readLE (pa + 4) 4 = (s.die (n / 4 / 256)).seq.toNat ∧ s1.mem.readLE (pa + 8) 8 = x.start % 2 ^ 64 ∧
      (∀ b k, b < 8 → k < 5 → s1.mem.readLE (pa + 0x10 + 20 * b + 4 * k) 4 = (x.bins.getD b []).getD k 0 % 2 ^ 32) ∧
      (∀ k, k < 5 → s1.mem.readLE (pa + 0xB0 + 4 * k) 4 = x.unbinned.getD k 0 % 2 ^ 32) ∧
      (∀ k, k < 13 → s1.mem.readLE (pa + 0xC4 + 4 * k) 4 = x.samples.getD k 0 % 2 ^ 32) ∧
      (∀ k, (k < pa ∨ pa + 256 ≤ k) → s1.mem.read k = s.mem.read k) ∧ s1.ctxs = s.ctxs ∧
      ((∀ e ∈ s1.ptesAt (a + 0x80), bits (s1.mem.readLE e 8) 59 1 = 0) →
        t.mem.readLE (a + 0x80) 4 = s.mem.readLE (a + 0x80) 4 + 1 ∧
        ∀ k, (k < a + 0x80 ∨ a + 0x84 ≤ k) → t.mem.read k = s1.mem.read k)) ∧
  ∀ (s : State) n, let c := s.core (n / 4)
    let x := (s.quarterAt n).transect
    let due := c.trUsed.getLsbD 30 = true ∧ (s.die (n / 4 / 256)).parked = false ∧ s.power ≠ .standby ∧
      (s.localClock (n / 4 / 256)).toNat % 2 ^ bits c.trUsed.toNat 16 4 = 0 ∧ x.sampled ≠ s.cycle + 1
    let issued := (s.quarterAt n).issued = true ∧ (s.quarterAt n).lastIssue = s.cycle
    (¬due → exec (.stallSample n) s = .next s) ∧
    (¬issued → (∃ g, s.quarterCandidate (n / 4) (n % 4) = some g ∧ g.2.1 ≤ s.cycle) → exec (.stallSample n) s = .next s) ∧
    (due → (issued ∨ s.quarterCandidate (n / 4) (n % 4) = none) →
      ∃ t y, exec (.stallSample n) s = .next t ∧ t = { s with cores := t.cores } ∧ (t.quarterAt n).transect = y ∧
        y = { x with samples := y.samples, pointer := (x.pointer + 1) % 8, sampled := s.cycle + 1 } ∧
        ((∀ bi ∈ s.residents (n / 4) (n % 4), (s.band bi).slot ≠ x.pointer) → y.samples = addAt x.samples 12 1) ∧
        ∀ bi, (s.residents (n / 4) (n % 4)).find? (fun i => (s.band i).slot == x.pointer) = some bi →
          s.security ≠ .locked ∨ c.trCtx = s.ctxOf (s.band bi) →
          ((s.band bi).issued = true → (s.band bi).lastIssue = s.cycle → y.samples = addAt x.samples 11 1) ∧
          ((s.band bi).issued = false ∨ (s.band bi).lastIssue ≠ s.cycle →
            y.samples = addAt x.samples (s.stallReason bi - 1) 1))

/-! ## Queues and commands -/

/-- QUEUE_DOORBELL, CONTROL_QUEUE_DOORBELL, QUEUE_MAP, SLICE_END and PREEMPT_COLLECTED. A doorbell writes TAIL after
the host's earlier writes, and an idle queue with commands begins to wait. The scheduler maps the waiting queue whose turn
it is, by PRI and then by the time it has waited, onto a free slot; without one it unmaps a victim, whose crews stop and
whose slot the waiting queue then takes. A queue whose units have all acknowledged is saved, and its crews hold nothing.
The moment at which a slice starts (log entry 90), that a slice which has ended begins anew with the next mapping (log
entry 122), and that a write of the host to TAIL through physical memory is the doorbell (log entry 105) is the model's
reading. -/
def Obligations.QueueScheduling : Prop :=
  (∀ (s : State) q tail d, q < 16384 → s.boot.ok = true →
    d = (s.mem.writeLE (s.boot.qtab + 64 * q + 0x10) 4 tail.toNat).readN (s.boot.qtab + 64 * q) 64 → s.descOk d = true →
    (s.queue q = none ∨ ∃ x, s.queue q = some x ∧ x.st = .idle ∧ x.ctx = field d 0x14 2) →
    s.hostPending = false → s.watches = [] → Claims.ready s (s.boot.qtab + 64 * q) 64 → s.boot.qtab % 4096 = 0 →
    ∃ t, exec (.queueDoorbell q tail) s = .next t ∧ t.mem.readLE (s.boot.qtab + 64 * q + 0x10) 4 = tail.toNat ∧
      (field d 0x0C 4 ≠ tail.toNat → (∃ x, t.queue q = some x ∧ x.st = .waiting ∧ x.ctx = field d 0x14 2 ∧
          x.since = (s.localClock 0).toNat) ∧ t.mem.read (s.boot.qtab + 64 * q + 0x20) = 1 ∧
        t.mem.read (s.boot.qtab + 64 * q + 0x21) = 0xFF) ∧
      (field d 0x0C 4 = tail.toNat → (∃ x, t.queue q = some x ∧ x.st = .idle) ∧
        t.mem = s.mem.writeLE (s.boot.qtab + 64 * q + 0x10) 4 tail.toNat) ∧
      (s.power = .standby → t.power = s.clock) ∧ (s.power ≠ .standby → t.power = s.power)) ∧
  (∀ (s : State) q (tail : Word), q < 16384 → s.hostPending = true →
    ∃ t, exec (.queueDoorbell q tail) s = .next t ∧ t = { s with cmds := t.cmds, nextId := t.nextId } ∧
      ∃ c, t.cmds = s.cmds ++ [c] ∧ c.op = opHost ∧ c.hostBytes = leBytes tail.toNat 4) ∧
  (∀ (s : State) (tail : Word), s.hostPending = false →
    ∃ t, exec (.controlQueueDoorbell tail) s = .next t ∧ t = { s with mem := t.mem } ∧
    t.mem.readLE (s.boot.ctlq + 0x10) 4 = tail.toNat ∧
    ∀ k, (k < s.boot.ctlq + 0x10 ∨ s.boot.ctlq + 0x14 ≤ k) → t.mem.read k = s.mem.read k) ∧
  (∀ (s : State) q x, s.queue q = some x →
    (x.st = .mapped → x.sliceOver = false → x.mapped + s.sliceOf q ≤ (s.localClock 0).toNat + x.used →
      ∃ t, exec (.sliceEnd q) s = .next t ∧ t = { s with queues := t.queues } ∧ t.queue q = some { x with sliceOver := true }) ∧
    ((s.localClock 0).toNat + x.used < x.mapped + s.sliceOf q → exec (.sliceEnd q) s = .next s)) ∧
  (∀ (s : State) w n r, s.nextWaiting = some w → s.queue w.id = some w → s.freeSlots = n :: r → w.saved = [] →
    w.id < 16384 → n < 256 → s.watches = [] → Claims.ready s (s.boot.qtab + 64 * w.id) 64 → s.boot.qtab % 4096 = 0 →
    ∃ t, exec (.queueMap w.id) s = .next t ∧
      t.queue w.id = some { w with st := .mapped, slot := some n, mapped := (s.localClock 0).toNat, sliceOver := false,
                                   heir := none } ∧
      t.mem.read (s.boot.qtab + 64 * w.id + 0x20) = 2 ∧ t.mem.read (s.boot.qtab + 64 * w.id + 0x21) = BitVec.ofNat 8 n ∧
      (∀ k, k ≠ s.boot.qtab + 64 * w.id + 0x20 → k ≠ s.boot.qtab + 64 * w.id + 0x21 → t.mem.read k = s.mem.read k) ∧
      ∀ q, q ≠ w.id → exec (.queueMap q) s = .next s) ∧
  (∀ (s : State) w m, m ∈ s.queues → m.st = .saved → m.heir = some w.id → (∀ x ∈ s.queues, x.heir.isSome = true → x = m) →
    s.queue w.id = some w → s.waits w = true → s.nextWaiting = some w) ∧
  (∀ (s : State) w, (∀ x ∈ s.queues, x.heir = none) → s.nextWaiting = some w ∨ s.nextClaimant = some w →
    s.waits w = true ∧ ∀ x ∈ s.queues, s.waits x = true → s.priOf w.id < s.priOf x.id ∨
      (s.priOf w.id = s.priOf x.id ∧ w.since ≤ x.since)) ∧
  (∀ (s : State) w m, s.nextClaimant = some w → s.freeSlots = [] →
    s.victim w = some m → s.queue m.id = some m → m.st = .mapped ∧ (s.priOf w.id < s.priOf m.id ∨
      (s.priOf w.id ≤ s.priOf m.id ∧ m.sliceOver = true)) ∧
    (s.stoppingCrews m.id = [] → (∀ l ∈ s.launches, l.queue ≠ m.id) →
      s.watches = [] → Claims.ready s (s.boot.qtab + 64 * m.id) 64 → s.boot.qtab % 4096 = 0 → m.id < 16384 →
      ∃ t, exec (.queueMap w.id) s = .next t ∧
        t.queue m.id = some { m with st := .stopping, heir := some w.id, stops := [],
                                     used := if m.sliceOver then 0 else m.used + (s.localClock 0).toNat - m.mapped } ∧
        t.mem.read (s.boot.qtab + 64 * m.id + 0x20) = 3) ∧
    ((∀ ci ∈ s.stoppingCrews m.id, ∀ c, s.crew ci = some c → ∀ bi ∈ c.bands, (s.band bi).rgnOpen = false ∧
        (s.band bi).held = [] ∧ (s.band bi).trapLane = 0 ∧ ∀ l, ((s.band bi).lane l).reports = []) →
      (∀ l ∈ s.launches, l.queue = m.id → ∀ p, l.origin ≠ .repair p) →
      ∃ t, exec (.queueMap w.id) s = .next t ∧ (t.queue m.id).map (·.stops) = some (s.stoppingCrews m.id) ∧
        ∀ ci ∈ s.stoppingCrews m.id, ∀ c, s.crew ci = some c → ∀ bi ∈ c.bands, bi < s.bands.length →
          (s.band bi).ended = false → (t.band bi).stopped = true)) ∧
  ∀ (s : State) q x, s.queue q = some x → x.id = q →
    (x.st ≠ .stopping → exec (.preemptCollected q) s = .next s) ∧
    (x.st = .stopping → s.repairsEnded q = true → s.pageWaits (saveId q) = false →
      (∀ ci ∈ s.stoppedCrews x, ∀ c, s.crew ci = some c → ∀ bi ∈ c.bands, s.acked bi = true) →
      (∀ t, s.saveQueue x = .ok t → exec (.preemptCollected q) s = .next t ∧ ∃ y, t.queue q = some y ∧ y.st = .saved ∧
        y.slot = none ∧ y.log = x.log ∧ y.stops = [] ∧
        ((∀ ci ∈ s.stoppedCrews x, ∀ c, s.crew ci = some c → Claims.undisturbed s ci c) →
          ∀ ci ∈ s.stoppedCrews x, (t.crew ci).map (·.running) = some false) ∧
        ((∀ z ∈ x.saved, (s.crew z.crew).isSome = true) →
          y.saved.map (·.crew) = x.saved.map (·.crew) ++ s.stoppedCrews x)) ∧
      (x.saved = [] → (∀ va, translate s.mem (s.rootOf x.ctx) va ≠ .absent) →
        (∀ ci ∈ s.stoppedCrews x, ∀ c, s.crew ci = some c → ∀ bi ∈ c.bands, (s.band bi).absentGran = 0) →
        ∃ t, exec (.preemptCollected q) s = .next t ∧ s.saveQueue x = .ok t) ∧
      ∀ va, s.saveQueue x = .error (.absent va) → exec (.preemptCollected q) s = .next (s.cpFault x.ctx (saveId q) va))

namespace Sys2Proof.Claims

/-- The commands of a queue, with the test by which each takes an entry (R434, R436, R437, R438). -/
def commandOf : Instr → Option (Nat × (Entry → Bool))
  | .launch q => some (q, fun e => e.op == 1)
  | .graph q => some (q, fun e => e.op == 2)
  | .gpset q => some (q, fun e => e.op == 3)
  | .waitv q => some (q, fun e => e.op == 4)
  | .writev q => some (q, fun e => e.op == 5)
  | .copy q => some (q, fun e => e.op == 6)
  | .wsload q => some (q, fun e => e.op == 7)
  | .ringreg q => some (q, fun e => e.op == 8)
  | .redset q => some (q, fun e => e.op == 9)
  | .coll q => some (q, fun e => e.op == 10)
  | .ctxsetTvec q => some (q, fun e => e.op == 11 && (prm e.ps 0).toNat == 0)
  | .ctxsetBalq q => some (q, fun e => e.op == 11 && (prm e.ps 0).toNat == 1)
  | .ctxsetDbase q => some (q, fun e => e.op == 11 && (prm e.ps 0).toNat == 2)
  | .ctxsetDslot q => some (q, fun e => e.op == 11 && (prm e.ps 0).toNat == 3)
  | .ctxsetDn q => some (q, fun e => e.op == 11 && (prm e.ps 0).toNat == 4)
  | .ctxsetLogmax q => some (q, fun e => e.op == 11 && (prm e.ps 0).toNat == 5)
  | .ctxsetEventRing q => some (q, fun e => e.op == 11 && (prm e.ps 0).toNat == 6)
  | .ctxsetDefaultLaunch q => some (q, fun e => e.op == 11 && (prm e.ps 0).toNat == 7)
  | .ctxnew => some (ctlq, fun e => e.op == 0x40)
  | .acct => some (ctlq, fun e => e.op == 0x42)
  | .poolset => some (ctlq, fun e => e.op == 0x43)
  | .dbgset => some (ctlq, fun e => e.op == 0x47)
  | .powerActive => some (ctlq, fun e => e.op == 0x48 && bits (prm e.ps 0).toNat 0 2 == 0)
  | .powerReducedClock => some (ctlq, fun e => e.op == 0x48 && bits (prm e.ps 0).toNat 0 2 == 1)
  | .powerDiePark => some (ctlq, fun e => e.op == 0x48 && bits (prm e.ps 0).toNat 0 2 == 2)
  | .powerStandby => some (ctlq, fun e => e.op == 0x48 && bits (prm e.ps 0).toNat 0 2 == 3)
  | _ => none

/-- No command of the queue waits; its next entry is `e`, which obeys the general rules of R434 and which the command
takes. -/
def begins (s : State) (i : Instr) (q : Nat) (e : Entry) : Prop :=
  s.cmdOf q = none ∧
    ∃ takes, commandOf i = some (q, takes) ∧ s.nextEntry q = .entry e ∧ takes e = true ∧ e.ok = true

end Sys2Proof.Claims

/-- The protocol of R434. Without an entry a command does nothing; an entry that breaks a general rule, or whose
operation is unknown, completes with STATUS 3; one that cannot be read completes with STATUS 4 and the code. A CMD_NOP
that completes has HEAD one higher, STATUS 1 and CODE 0 in its entry, and its queue runs nothing, or the next recorded
entry of its GRAPH. A command that waits for a page goes on waiting. That HEAD advances as the command begins is the
model's reading (log entry 66). -/
def Obligations.CommandProtocol : Prop :=
  (∀ (s : State) i q takes c, Claims.commandOf i = some (q, takes) → s.cmdOf q = some c → s.pageWaits c.id = true →
    exec i s = .next s) ∧
  (∀ (s : State) i q takes, Claims.commandOf i = some (q, takes) → s.cmdOf q = none →
    (s.nextEntry q = .none → exec i s = .next s) ∧
    ∀ e, s.nextEntry q = .entry e → takes e = true → e.ok = false →
      exec i s = .next ((s.startEntry q e).completeCmd q 3 0)) ∧
  (∀ (s : State) q, s.nextEntry q = .none → exec (.cmdNop q) s = .next s) ∧
  (∀ (s : State) q e, s.nextEntry q = .entry e → (e.op = 0 ∧ e.ok = false ∧ s.cmdOf q = none) ∨ opKnown q e.op = false →
    exec (.cmdNop q) s = .next ((s.startEntry q e).completeCmd q 3 0)) ∧
  (∀ (s : State) q a c va, s.nextEntry q = .halt a (.trap c va) →
    ∃ t e, exec (.cmdNop q) s = .next t ∧ e.at_ = a ∧ e.event = false ∧ t = (s.startEntry q e).completeCmd q 4 c) ∧
  (∀ (s : State) q e m pa c d x, s.nextEntry q = .entry e → q < 16384 → e.op = 0 → e.ok = true → unusedZero e.ps [] = true →
    e.event = false → s.runningOf q = none → s.cmdOf q = none → (s.queue q).isSome = true → e.at_.toNat % 64 = 0 →
    m = s.mem.writeLE (s.boot.qtab + 64 * q + 0x0C) 4 (s.qfield q 0x0C 4 + 1) → s.qfield q 0x0C 4 + 1 < 2 ^ 32 →
    translate m (s.rootOf (s.queueCtx q)) (e.at_ + 2) = .ok pa c d x → bits (m.readLE x 8) 59 1 = 0 →
    s.watches = [] → Claims.ready s pa 2 → Claims.ready s (s.boot.qtab + 64 * q) 64 →
    s.boot.qtab % 4096 = 0 → (pa + 2 ≤ s.boot.qtab + 64 * q ∨ s.boot.qtab + 64 * q + 64 ≤ pa) →
    ∃ t, exec (.cmdNop q) s = .next t ∧ t.runningOf q = none ∧ t.mem.readLE (s.boot.qtab + 64 * q + 0x0C) 4 = s.qfield q 0x0C 4 + 1 ∧
      t.mem.read pa = 1 ∧ t.mem.read (pa + 1) = 0 ∧ t.bands = s.bands ∧ t.ctxs = s.ctxs ∧
      ∀ k, k ≠ pa → k ≠ pa + 1 → (k < s.boot.qtab + 64 * q + 0x0C ∨ s.boot.qtab + 64 * q + 0x10 ≤ k) → t.mem.read k = s.mem.read k) ∧
  ∀ (s : State) q e (r : Running) g, s.nextEntry q = .entry e → q < 16384 → e.op = 0 → e.ok = true → unusedZero e.ps [] = true →
    e.event = false → s.runningOf q = some r → r.entry = none → r.graph = some g → s.cmdOf q = none → (s.queue q).isSome = true →
    g.event = false →
    ∃ t, exec (.cmdNop q) s = .next t ∧ t.bands = s.bands ∧
      (g.done + 1 < g.n → (t.runningOf q).map (·.graph) = some (some { g with done := g.done + 1 }) ∧
        (t.runningOf q).map (·.entry) = some none) ∧
      (g.n ≤ g.done + 1 → t.runningOf q = none)

/-- LAUNCH and LAUNCH_END. A launch that its descriptor and image allow begins: its record holds the image, the
settings, the arguments, and its range dealt to the dies as stripes; a resident launch that no placement could hold
completes with STATUS 2, and an invalid one with STATUS 3. The command completes with STATUS 1 when the launch has
ended. That the shapes of an image whose launch ends with STATUS 2 stay installed is the model's reading (log entry 79). -/
def Obligations.Launches : Prop :=
  (∀ (s : State) q e, Claims.begins s (.launch q) q e →
    let s1 := s.startEntry q e
    ((prm e.ps 0).toNat % 64 ≠ 0 ∨ s1.launchReq (s1.queueCtx q) e.ps = .ok none →
      exec (.launch q) s = .next (s1.completeCmd q 3 0)) ∧
    ∀ r s2, (prm e.ps 0).toNat % 64 = 0 → s1.launchReq (s1.queueCtx q) e.ps = .ok (some r) →
      s1.installShapes (s1.queueCtx q) r.info.image.addr r.info.shapes = .ok (.ok s2) → (s1.queue q).isSome = true →
      (∀ c ∈ s2.cmds, c.queue ≠ q) → r.info.image.crews = 0 →
      ∃ t l, exec (.launch q) s = .next t ∧ t = { s2 with launches := s2.launches ++ [l] } ∧ l.ctx = s1.queueCtx q ∧
        l.queue = q ∧ l.args = r.args ∧ l.grain = r.grain ∧ l.nthr = r.nthr ∧ l.cfg = r.cfg ∧ l.ended = false ∧
        (q ≠ ctlq → l.origin = .cmd q e.at_) ∧
        l.image = { r.info.image with race := r.cfg.race } ∧
        (r.hi ≤ r.lo → l.stripes = []) ∧ (r.cfg.stripe * r.grain ≠ 0 → ∀ (i : Nat) x, l.stripes[i]? = some x → x.2.cur = r.lo + i * (r.cfg.stripe * r.grain) ∧ x.2.cur < x.2.hi ∧
          x.2.hi = min (r.lo + (i + 1) * (r.cfg.stripe * r.grain)) r.hi ∧ x.2.grain = r.grain)) ∧
  (∀ (s : State) q e r s2, Claims.begins s (.launch q) q e → (prm e.ps 0).toNat % 64 = 0 →
    (s.startEntry q e).launchReq ((s.startEntry q e).queueCtx q) e.ps = .ok (some r) →
    (s.startEntry q e).installShapes ((s.startEntry q e).queueCtx q) r.info.image.addr r.info.shapes = .ok (.ok s2) →
    r.info.image.crews ≠ 0 →
    let b := s2.beginLaunch r ((s.startEntry q e).queueCtx q) q (.cmd q ((((s.startEntry q e).runningOf q).bind (·.entry)).getD 0)) none
    (b.2.placeable b.1 = false → exec (.launch q) s = .next (b.2.completeCmd q 2 0)) ∧
    (b.2.placeable b.1 = true → exec (.launch q) s = .next (b.2.dropCmd q))) ∧
  ∀ (s : State) li l q a, s.launch li = some l → l.origin = .cmd q a →
    (s.launchOver li = true → s.served q = true → (s.runningOf q).bind (·.entry) = some a →
      ∃ (t s1 : State), exec (.launchEnd li) s = .next t ∧ t = s1.completeCmd q 1 0 ∧ s1 = { s with launches := s1.launches } ∧
        s1.launch li = some { l with ended := true }) ∧
    (s.launchOver li = false → exec (.launchEnd li) s = .next s)

/-- GRAPH, WAITV, COPY, WSLOAD and COLL begin and leave the queue running: HEAD and the running entry are all that
changes, and a GRAPH goes on with its first recorded entry. One that breaks its rule completes with STATUS 3. -/
def Sys2Proof.Claims.CommandsThatGoOn : Prop :=
  (∀ (s : State) q e, Claims.begins s (.waitv q) q e →
    (unusedZero e.ps [0, 1] = true → (prm e.ps 0).toNat % 4 = 0 → exec (.waitv q) s = .next (s.startEntry q e)) ∧
    ((prm e.ps 0).toNat % 4 ≠ 0 → exec (.waitv q) s = .next ((s.startEntry q e).completeCmd q 3 0))) ∧
  (∀ (s : State) q e, Claims.begins s (.copy q) q e →
    (unusedZero e.ps [0, 1, 2] = true → exec (.copy q) s = .next (s.startEntry q e)) ∧
    (unusedZero e.ps [0, 1, 2] = false → exec (.copy q) s = .next ((s.startEntry q e).completeCmd q 3 0))) ∧
  (∀ (s : State) q e c, Claims.begins s (.wsload q) q e → s.ctx (s.queueCtx q) = some c →
    (unusedZero e.ps [0, 1, 2, 3] = true → (prm e.ps 1).toNat % 256 = 0 → (prm e.ps 2).toNat % 256 = 0 →
      (prm e.ps 1).toNat + (prm e.ps 2).toNat ≤ c.wsLen → exec (.wsload q) s = .next (s.startEntry q e)) ∧
    (c.wsLen < (prm e.ps 1).toNat + (prm e.ps 2).toNat → exec (.wsload q) s = .next ((s.startEntry q e).completeCmd q 3 0))) ∧
  (∀ (s : State) q e c, Claims.begins s (.coll q) q e → s.ctx (s.queueCtx q) = some c →
    ((∃ g ∈ c.reds, g.group = (prm e.ps 0).toNat % 256) → unusedZero e.ps [0, 1, 2, 3] = true → (prm e.ps 3).toNat % 8 = 0 →
      exec (.coll q) s = .next (s.startEntry q e)) ∧
    ((∀ g ∈ c.reds, g.group ≠ (prm e.ps 0).toNat % 256) → exec (.coll q) s = .next ((s.startEntry q e).completeCmd q 3 0))) ∧
  (∀ (s : State) q e, Claims.begins s (.graph q) q e → q < 16384 → (s.queue q).isSome = true → s.runningOf q = none →
    unusedZero e.ps [0, 1] = true → (prm e.ps 0).toNat % 64 = 0 → 1 ≤ (prm e.ps 1).toNat → (prm e.ps 1).toNat ≤ 65536 →
    ∃ t g, exec (.graph q) s = .next t ∧ t.mem = (s.startEntry q e).mem ∧ (t.runningOf q).bind (·.graph) = some g ∧
      (t.runningOf q).bind (·.entry) = none ∧ g.base = prm e.ps 0 ∧ g.n = (prm e.ps 1).toNat ∧ g.done = 0 ∧ g.entry = e.at_ ∧
      t.nextAt q = some (prm e.ps 0)) ∧
  ∀ (s : State) q e (r : Running), Claims.begins s (.graph q) q e → q < 16384 → s.runningOf q = some r → r.graph.isSome = true →
    exec (.graph q) s = .next ((s.startEntry q e).completeCmd q 3 0)

/-- GPSET, WRITEV, RINGREG and REDSET do their work and complete with STATUS 1: a graph parameter, a word of memory, a
receive ring, a reduction group. Entries on their way to a ring that is removed are dropped. REDSET with a member above
786,431 completes with STATUS 3 (the model's reading of R427 and R428, log entry 70). -/
def Sys2Proof.Claims.CommandsAtOnce : Prop :=
  (∀ (s : State) q e x, Claims.begins s (.gpset q) q e → (s.startEntry q e).queue q = some x → unusedZero e.ps [0, 1] = true →
    ∃ (t s1 : State), exec (.gpset q) s = .next t ∧ t = s1.completeCmd q 1 0 ∧ s1 = { s.startEntry q e with queues := s1.queues } ∧
      s1.queue q = some { x with gp := x.gp.setIfInBounds ((prm e.ps 0).toNat % 64) (prm e.ps 1) }) ∧
  (∀ (s : State) q e s1, Claims.begins s (.writev q) q e → unusedZero e.ps [0, 1] = true → (prm e.ps 0).toNat % 4 = 0 →
    (s.startEntry q e).ctxWrite ((s.startEntry q e).cmdWriter q) (prm e.ps 0) (leBytes ((prm e.ps 1).toNat % 2 ^ 32) 4) = .ok s1 →
    exec (.writev q) s = .next (s1.completeCmd q 1 0)) ∧
  (∀ (s : State) q e c va, Claims.begins s (.writev q) q e → unusedZero e.ps [0, 1] = true → (prm e.ps 0).toNat % 4 = 0 →
    (s.startEntry q e).ctxWrite ((s.startEntry q e).cmdWriter q) (prm e.ps 0) (leBytes ((prm e.ps 1).toNat % 2 ^ 32) 4) = .error (.trap c va) →
    exec (.writev q) s = .next ((s.startEntry q e).completeCmd q 4 c)) ∧
  (∀ (s : State) q e c, Claims.begins s (.ringreg q) q e → s.ctx (s.queueCtx q) = some c → c.id = s.queueCtx q →
    unusedZero e.ps [0, 1] = true → (prm e.ps 0).toNat % 16 < 9 → (prm e.ps 1).toNat % 32 = 0 → (prm e.ps 1).toNat < 2 ^ 48 →
    ((prm e.ps 1).toNat = 0 ∧ (∀ m ∈ (s.startEntry q e).reqs, ¬(m.ctx = c.id ∧ m.result = none ∧ reqNode m.desc = s.boot.node ∧
        reqDie m.desc = (prm e.ps 0).toNat % 16 ∧ reqRing m.desc = (prm e.ps 0).toNat / 256 % 256)) ∨
      (prm e.ps 1).toNat ≠ 0 ∧ ringHeaderOk (s.startEntry q e).mem ((prm e.ps 0).toNat % 16 * 2 ^ 48 + (prm e.ps 1).toNat) = true) →
    ∃ (t s1 : State) (k : Ctx), exec (.ringreg q) s = .next t ∧ t = s1.completeCmd q 1 0 ∧ s1 = { s.startEntry q e with ctxs := s1.ctxs } ∧
      s1.ctx (s.queueCtx q) = some k ∧ k = { c with rings := k.rings } ∧
      (∀ r, r.die = (prm e.ps 0).toNat % 16 → r.ring = (prm e.ps 0).toNat / 256 % 256 →
        (r ∈ k.rings ↔ (prm e.ps 1).toNat ≠ 0 ∧ r.header = (prm e.ps 1).toNat)) ∧
      ∀ r, ¬(r.die = (prm e.ps 0).toNat % 16 ∧ r.ring = (prm e.ps 0).toNat / 256 % 256) → (r ∈ k.rings ↔ r ∈ c.rings)) ∧
  (∀ (s : State) q e c, Claims.begins s (.ringreg q) q e → s.ctx (s.queueCtx q) = some c → c.id = s.queueCtx q →
    unusedZero e.ps [0, 1] = true → (prm e.ps 0).toNat % 16 < 9 → (prm e.ps 1).toNat = 0 →
    ∃ (t s1 : State), exec (.ringreg q) s = .next t ∧ t = s1.completeCmd q 1 0 ∧
      (∀ m ∈ s1.reqs, ¬(m.ctx = c.id ∧ m.result = none ∧ reqNode m.desc = s.boot.node ∧
        reqDie m.desc = (prm e.ps 0).toNat % 16 ∧ reqRing m.desc = (prm e.ps 0).toNat / 256 % 256)) ∧
      ∀ m ∈ s.reqs, m.flag ≠ 15 → m.ctx = c.id → m.result = none → reqNode m.desc = s.boot.node →
        reqDie m.desc = (prm e.ps 0).toNat % 16 → reqRing m.desc = (prm e.ps 0).toNat / 256 % 256 →
        ∃ x ∈ s1.reqs, x.id = m.id ∧ x.result = some false) ∧
  ∀ (s : State) q e c v, Claims.begins s (.redset q) q e → s.ctx (s.queueCtx q) = some c → c.id = s.queueCtx q → q < 16384 →
    let p2 := (prm e.ps 2).toNat
    let n := p2 % 2 ^ 32
    unusedZero e.ps [0, 1, 2, 3] = true → redOk (p2 / 2 ^ 32 % 8) (p2 / 2 ^ 36 % 8) = true → 2 ≤ n → n ≤ 2 ^ 20 →
    (p2 / 2 ^ 32 % 8 = 0 → -126 ≤ ((prm e.ps 3).setWidth 8).toInt) → (p2 / 2 ^ 32 % 8 ≠ 0 → prm e.ps 3 = 0) →
    (s.startEntry q e).ctxRead (s.queueCtx q) (prm e.ps 1) (4 * n) = .ok v →
    ((∃ i, i < n ∧ 786432 ≤ field v (4 * i) 4) → exec (.redset q) s = .next ((s.startEntry q e).completeCmd q 3 0)) ∧
    ((∀ i, i < n → field v (4 * i) 4 < 786432) →
      ∃ (t s1 : State) (k : Ctx) (g : RedGroup), exec (.redset q) s = .next t ∧ t = s1.completeCmd q 1 0 ∧ s1 = { s.startEntry q e with ctxs := s1.ctxs } ∧
        s1.ctx (s.queueCtx q) = some k ∧ k = { c with reds := k.reds } ∧ g ∈ k.reds ∧ g.group = (prm e.ps 0).toNat % 256 ∧
        g.op = p2 / 2 ^ 32 % 8 ∧ g.fmt = p2 / 2 ^ 36 % 8 ∧ g.count = p2 / 2 ^ 40 % 2 ^ 12 + 1 ∧
        g.wexp = ((prm e.ps 3).setWidth 8).toInt ∧ g.members.length = n ∧ ∀ i, i < n → g.members[i]? = some (field v (4 * i) 4))

/-- WAITV_SATISFIED, COPY_COMPLETE, WSLOAD_COMPLETE and COLL_RESULT complete their commands with STATUS 1: a WAITV when
its word has reached its value, a COPY when its bytes have moved, a WSLOAD when no window of a named die is open and its
bytes stand on each of them, a COLL when the reduction of all members' arrays and its status word are written. ISUM is
the exact sum, saturated once. Arrays that do not fit the member's group end the COLL with STATUS 3 (the model's reading
of R434, log entry 132); that the bytes of COPY and WSLOAD move at these events is its choice (log entry 76). -/
def Obligations.CommandsThatEnd : Prop :=
  (∀ (s : State) q ps v, s.under q 4 = some ps → s.cmdRead q (prm ps 0) 4 = .ok v →
    ((prm ps 1).toNat % 2 ^ 32 ≤ leNat v → exec (.waitvSatisfied q) s = .next (s.completeCmd q 1 0)) ∧
    (leNat v < (prm ps 1).toNat % 2 ^ 32 → ∃ t, exec (.waitvSatisfied q) s = .next t ∧ t.mem = s.mem ∧ t.runningOf q = s.runningOf q)) ∧
  (∀ (s : State) q ps v s1, s.under q 6 = some ps → s.ctxRead (s.queueCtx q) (prm ps 1) (prm ps 2).toNat = .ok v →
    ((prm ps 0).toNat + (prm ps 2).toNat ≤ (prm ps 1).toNat ∨ (prm ps 1).toNat + (prm ps 2).toNat ≤ (prm ps 0).toNat) →
    State.ctxWrite { s with free := s.free + 1 } (s.cmdWriter q) (prm ps 0) v = .ok s1 →
    exec (.copyComplete q) s = .next (s1.completeCmd q 1 0)) ∧
  (∀ (s : State) q ps c va, s.under q 6 = some ps → s.ctxRead (s.queueCtx q) (prm ps 1) (prm ps 2).toNat = .error (.trap c va) →
    exec (.copyComplete q) s = .next (s.completeCmd q 4 c)) ∧
  (∀ (s : State) q ps c v, s.under q 7 = some ps → s.ctx (s.queueCtx q) = some c →
    ((∃ d, d < 9 ∧ (prm ps 3).getLsbD d = true ∧ s.wsClosed d = false) → exec (.wsloadComplete q) s = .next s) ∧
    ((∀ d, d < 9 → (prm ps 3).getLsbD d = true → s.wsClosed d = true) →
      s.ctxRead (s.queueCtx q) (prm ps 0) (prm ps 2).toNat = .ok v → c.wsBase + (prm ps 1).toNat + v.length ≤ 2 ^ 28 →
      ∃ (t s1 : State), exec (.wsloadComplete q) s = .next t ∧ t = s1.completeCmd q 1 0 ∧ s1 = { s with ws := s1.ws } ∧
        ∀ d k, d < 9 → k < 2 ^ 28 → s1.ws.read (d * 2 ^ 28 + k) =
          if (prm ps 3).getLsbD d = true ∧ c.wsBase + (prm ps 1).toNat ≤ k ∧ k < c.wsBase + (prm ps 1).toNat + v.length then
            v.getD (k - (c.wsBase + (prm ps 1).toNat)) 0
          else s.ws.read (d * 2 ^ 28 + k))) ∧
  (∀ (s : State) q others ps g v s1 s2, s.under q 10 = some ps → s.redOf q ps = some g → others.length + 1 = g.members.length →
    (∀ x ∈ others, x.length = g.size * g.count) → q < 16384 →
    s.ctxRead (s.queueCtx q) (prm ps 1) (g.size * g.count) = .ok v →
    s.ctxWrite (s.cmdWriter q) (prm ps 2) (g.result (v :: others)).1 = .ok s1 →
    s1.ctxWrite (s.cmdWriter q) (prm ps 3) (leBytes (g.result (v :: others)).2 8) = .ok s2 →
    exec (.collResult q others) s = .next (s2.completeCmd q 1 0)) ∧
  (∀ (s : State) q others ps g, s.under q 10 = some ps → s.redOf q ps = some g →
    (others.length + 1 ≠ g.members.length ∨ ∃ x ∈ others, x.length ≠ g.size * g.count) →
    exec (.collResult q others) s = .next (s.completeCmd q 3 0)) ∧
  (∀ (g : RedGroup) (vs : List (List Byte)), g.op = 1 → g.fmt = 3 → (g.result vs).2 = 0 ∧
    ∀ i, i < g.count → (BitVec.ofNat 32 (field (g.result vs).1 (4 * i) 4)).toInt =
      max (-(2 ^ 31)) (min (2 ^ 31 - 1) ((vs.map fun v => (BitVec.ofNat 32 (field v (4 * i) 4)).toInt).sum)))

/-- CTXSET sets the trap vector, the dump area, the length of the reply log, the event ring and the default launch of the
queue's context, and the balloon quota of each named die, and completes with STATUS 1; a value that breaks its rule
completes with STATUS 3. A change of the dump area lets the next dump start with slot 0. -/
def Obligations.ContextItems : Prop :=
  (∀ (s : State) q e c i, Claims.begins s i q e → s.ctx (s.queueCtx q) = some c → c.id = s.queueCtx q →
    let v := prm e.ps 1
    let set (k : Ctx) : Prop := ∃ (t s1 : State), exec i s = .next t ∧ t = s1.completeCmd q 1 0 ∧
      s1 = { s.startEntry q e with ctxs := s1.ctxs } ∧ s1.ctx (s.queueCtx q) = some k ∧
      ∀ n, n ≠ s.queueCtx q → s1.ctx n = s.ctx n
    let bad : Prop := exec i s = .next ((s.startEntry q e).completeCmd q 3 0)
    unusedZero e.ps [0, 1] = true →
    (i = .ctxsetTvec q → (tvecOk v = true → set { c with tvec := v }) ∧ (tvecOk v = false → bad)) ∧
    (i = .ctxsetDbase q → (v.toNat % 4096 = 0 → set { c with dbase := v, dumpNext := 0 }) ∧ (v.toNat % 4096 ≠ 0 → bad)) ∧
    (i = .ctxsetDslot q → (v.toNat % 65536 = 0 → 65536 ≤ v.toNat → v.toNat ≤ 2 ^ 24 → set { c with dslot := v.toNat, dumpNext := 0 }) ∧
      (v.toNat = 0 ∨ 2 ^ 24 < v.toNat → bad)) ∧
    (i = .ctxsetDn q → (v.toNat ≤ 4096 → set { c with dn := v.toNat, dumpNext := 0 }) ∧ (4096 < v.toNat → bad)) ∧
    (i = .ctxsetLogmax q → (v.toNat < 2 ^ 32 → set { c with logMax := v.toNat }) ∧ (2 ^ 32 ≤ v.toNat → bad)) ∧
    (i = .ctxsetEventRing q → (v.toNat % 32 = 0 → set { c with eventRing := v }) ∧ (v.toNat % 32 ≠ 0 → bad)) ∧
    (i = .ctxsetDefaultLaunch q → v.toNat % 64 = 0 → q < 16384 → ∀ d,
      (s.startEntry q e).ctxRead (s.queueCtx q) v 128 = .ok d →
      (cfgOf d = none → bad) ∧ ∀ cfg, cfgOf d = some cfg → set { c with deflt := { cfg with priv := false } })) ∧
  ∀ (s : State) q e, Claims.begins s (.ctxsetBalq q) q e → unusedZero e.ps [0, 1, 2] = true → (prm e.ps 1).toNat < 2 ^ 32 →
    (∀ d d', d < 9 → d' < 9 → d ≠ d' → s.acctAt d (s.queueCtx q) + 8 ≤ s.acctAt d' (s.queueCtx q) + 4 ∨
      s.acctAt d' (s.queueCtx q) + 8 ≤ s.acctAt d (s.queueCtx q) + 4) →
    ∃ (t s1 : State), exec (.ctxsetBalq q) s = .next t ∧ t = s1.completeCmd q 1 0 ∧ s1 = { s.startEntry q e with mem := s1.mem } ∧
      ∀ d, d < 9 → s1.mem.readLE (s.acctAt d (s.queueCtx q) + 4) 4 =
        if (prm e.ps 2).getLsbD d then (prm e.ps 1).toNat else (s.startEntry q e).mem.readLE (s.acctAt d (s.queueCtx q) + 4) 4

/-! ## The control queue, power and reset -/

namespace Sys2Proof.Claims

/-- A command of the control queue that can go on begins: none of its operation is under way, and the next entry is
its own and obeys the general rules of R434. -/
def beginsControl (s : State) (op : Nat) (e : Entry) : Prop :=
  s.ctlUnder op = none ∧ s.cmdOf ctlq = none ∧ s.nextEntry ctlq = .entry e ∧ e.op = op ∧ e.ok = true

/-- A context that CTXNEW creates (R438). -/
def newCtx (ps : List DWord) (c : Ctx) : Prop :=
  c.id = (prm ps 0).toNat % 4096 ∧ c.ptroot = prm ps 1 ∧ c.shtab = prm ps 2 ∧ c.wsBase = (prm ps 3).toNat % 2 ^ 32 ∧
    c.wsLen = (prm ps 3).toNat / 2 ^ 32 ∧ c.priv = (prm ps 5).getLsbD 0 ∧ c.shapes = [] ∧ c.rings = [] ∧ c.reds = [] ∧
    c.tvec = 0 ∧ c.eventRing = 0 ∧ c.dn = 0 ∧ c.logMax = 0 ∧ c.stoppedBy = none ∧ c.halted = false

end Sys2Proof.Claims

/-- CTXNEW, CTXDEL, ACCT and POOLSET. A context is made with its tables, its shape table and its partition of zeros; its
accounting entries hold BALQ and zeros. A CTXDEL waits until the queues of the context are idle or saved; then the
context, its queues, its work and its watches are gone, and its partition holds zeros. ACCT writes the sixteen bytes of
each die to the buffer, and CLEAR makes each TAKEN 0. POOLSET sets the high mark of each named die. That a command which
names a context that does not exist completes with STATUS 3 is the model's reading (log entry 93). -/
def Obligations.ContextCommands : Prop :=
  (∀ (s : State) e, Claims.begins s .ctxnew ctlq e →
    ((s.ctx ((prm e.ps 0).toNat % 4096)).isSome = true → exec .ctxnew s = .next ((s.startEntry ctlq e).completeCmd ctlq 3 0)) ∧
    ((s.startEntry ctlq e).ctxnewOk e.ps = true →
      (∀ d d', d < 9 → d' < 9 → d ≠ d' → s.acctAt d ((prm e.ps 0).toNat % 4096) + 16 ≤ s.acctAt d' ((prm e.ps 0).toNat % 4096) ∨
        s.acctAt d' ((prm e.ps 0).toNat % 4096) + 16 ≤ s.acctAt d ((prm e.ps 0).toNat % 4096)) →
      ∃ (t s1 : State) (c : Ctx), exec .ctxnew s = .next t ∧ t = s1.completeCmd ctlq 1 0 ∧
        s1 = { s.startEntry ctlq e with ctxs := s.ctxs ++ [c], ws := s1.ws, mem := s1.mem } ∧ Claims.newCtx e.ps c ∧
        s1.ctx ((prm e.ps 0).toNat % 4096) = some c ∧
        (∀ d k, d < 9 → k < c.wsLen → s1.ws.read (d * 2 ^ 28 + c.wsBase + k) = 0) ∧
        ∀ d, d < 9 → s1.mem.readLE (s.acctAt d ((prm e.ps 0).toNat % 4096)) 16 = (prm e.ps 4).toNat % 2 ^ 32 * 2 ^ 32)) ∧
  (∀ (s : State) e, Claims.beginsControl s 0x41 e →
    (s.ctx ((prm e.ps 0).toNat % 4096) = none → exec .ctxdel s = .next ((s.startEntry ctlq e).completeCmd ctlq 3 0)) ∧
    ∀ c, s.ctx ((prm e.ps 0).toNat % 4096) = some c → unusedZero e.ps [0] = true →
      (s.queuesRest c.id = false → c.stoppedBy = none → exec .ctxdel s = .next (s.startEntry ctlq e)) ∧
      (s.queuesRest c.id = true → (∀ w ∈ s.watches, w.ctx = c.id) →
        ∃ (t s1 : State), exec .ctxdel s = .next t ∧ t = s1.completeCmd ctlq 1 0 ∧ s1.ctxs = s.ctxs.filter (fun x => x.id != c.id) ∧
          s1.queues = s.queues.filter (fun x => x.ctx != c.id) ∧ s1.watches = [] ∧
          s1.sprouts = s.sprouts.filter (fun p => p.ctx != c.id) ∧ (∀ x ∈ s1.engines, x.ctx ≠ c.id) ∧
          (∀ x ∈ s1.faults, x.ctx ≠ c.id) ∧ (∀ x ∈ s1.reqs, x.ctx ≠ c.id) ∧ (∀ x ∈ s1.links, x.ctx ≠ c.id) ∧
          (∀ x ∈ s1.passes, x.ctx ≠ c.id) ∧ (∀ x ∈ s1.nodes, x.ctx ≠ c.id) ∧
          (∀ l ∈ s1.launches, l.ctx = c.id → l.ended = true) ∧
          (∀ ci k, s1.crew ci = some k → ((s1.launch k.launch).map (·.ctx)) = some c.id → k.running = false) ∧
          ∀ d k, d < 9 → k < c.wsLen → s1.ws.read (d * 2 ^ 28 + c.wsBase + k) = 0)) ∧
  (∀ (s : State) e s2, Claims.begins s .acct ctlq e →
    let c := (prm e.ps 0).toNat % 4096
    (s.ctx c).isSome = true → unusedZero e.ps [0, 1, 2] = true → (prm e.ps 1).toNat < 2 ^ 52 → paOk (prm e.ps 1).toNat = true →
    (s.startEntry ctlq e).write (cpWriter 0 0 false) (prm e.ps 1).toNat
      ((List.range 9).map fun d => (s.startEntry ctlq e).mem.readN (s.acctAt d c) 16).flatten = some s2 →
    ((prm e.ps 2).getLsbD 0 = false → exec .acct s = .next (s2.completeCmd ctlq 1 0)) ∧
    ((prm e.ps 2).getLsbD 0 = true → s2.boot = s.boot →
      ∃ (t s3 : State), exec .acct s = .next t ∧ t = s3.completeCmd ctlq 1 0 ∧ s3 = { s2 with mem := s3.mem } ∧
        (∀ d, d < 9 → s3.mem.readLE (s.acctAt d c + 8) 4 = 0) ∧
        ∀ k, (∀ d, d < 9 → k < s.acctAt d c + 8 ∨ s.acctAt d c + 12 ≤ k) → s3.mem.read k = s2.mem.read k)) ∧
  ∀ (s : State) e, Claims.begins s .poolset ctlq e →
    (unusedZero e.ps [0, 1] = false → exec .poolset s = .next ((s.startEntry ctlq e).completeCmd ctlq 3 0)) ∧
    (unusedZero e.ps [0, 1] = true →
      ∃ (t s1 : State), exec .poolset s = .next t ∧ t = s1.completeCmd ctlq 1 0 ∧ s1 = { s.startEntry ctlq e with dies := s1.dies } ∧
        ∀ d, d < 9 → s1.die d = if (prm e.ps 0).getLsbD d then
          { (s.startEntry ctlq e).die d with highMark := (prm e.ps 1).toNat % 2 ^ 32 } else (s.startEntry ctlq e).die d)

/-- HALT, RESUME, DUMP and DBGSET. Without invasive halt HALT, RESUME and DUMP complete with STATUS 3. HALT stops every
quarter that holds a band of the context and completes when all have drained; with none it halts nothing. RESUME waits
for the drain, empties the tables and clears the stops, and with STEP the quarters step. DUMP waits for the drain and
writes the dump of each quarter; a fault on the way ends it with STATUS 4 and code 0x1B (the model's choice, log entry
128). That HALT of a context without a band halts nothing, and that RESUME and DUMP wait for the drain, is its reading of
R406 and R438 (log entry 94). DBGSET writes a debug register of the named core outside the locked state. -/
def Obligations.DebugCommands : Prop :=
  (∀ (s : State) e i op, (i = .halt ∧ op = 0x44) ∨ (i = .resume ∧ op = 0x45) ∨ (i = .dump ∧ op = 0x46) →
    Claims.beginsControl s op e → s.debug ≠ 2 ∨ s.power = .standby →
    exec i s = .next ((s.startEntry ctlq e).completeCmd ctlq 3 0)) ∧
  (∀ (s : State) e c, Claims.beginsControl s 0x44 e → s.ctx ((prm e.ps 0).toNat % 4096) = some c → unusedZero e.ps [0] = true →
    s.debug = 2 → s.power ≠ .standby → (∀ b, (s.band b).trapLane = 0 ∧ ∀ l, ((s.band b).lane l).reports = []) →
    ∃ (t s1 : State), exec .halt s = .next t ∧
      s1 = { s.startEntry ctlq e with cores := s1.cores, ctxs := s1.ctxs } ∧
      (t = if (s.quartersOf c.id).all fun n => (s1.quarterAt n).drained then s1.completeCmd ctlq 1 0 else s1) ∧
      (∀ n ∈ s.quartersOf c.id, (s1.quarterAt n).stopped = true ∧ ((s.quarterAt n).stopped = false → (s1.quarterAt n).drained = false)) ∧
      (∀ n, n ∉ s.quartersOf c.id → s1.quarterAt n = s.quarterAt n) ∧
      s1.ctx c.id = some { c with halted := c.halted || !(s.quartersOf c.id).isEmpty }) ∧
  (∀ (s : State) ps, s.ctlUnder 0x44 = some ps →
    ((∀ n ∈ s.quartersOf ((prm ps 0).toNat % 4096), (s.quarterAt n).drained = true) → exec .halt s = .next (s.completeCmd ctlq 1 0)) ∧
    ((∃ n ∈ s.quartersOf ((prm ps 0).toNat % 4096), (s.quarterAt n).drained = false) →
      ∃ t, exec .halt s = .next t ∧ t.ctlRunning = s.ctlRunning ∧ t.mem = s.mem)) ∧
  (∀ (s : State) e c, Claims.beginsControl s 0x45 e → s.ctx ((prm e.ps 0).toNat % 4096) = some c →
    c.id = (prm e.ps 0).toNat % 4096 → unusedZero e.ps [0, 1] = true →
    s.debug = 2 → s.power ≠ .standby →
    (s.haltedQuarters c.id = [] ∨ c.stoppedBy ≠ none → exec .resume s = .next ((s.startEntry ctlq e).completeCmd ctlq 3 0)) ∧
    (s.haltedQuarters c.id ≠ [] → c.stoppedBy = none →
      ((∃ n ∈ s.haltedQuarters c.id, (s.quarterAt n).drained = false) → exec .resume s = .next (s.startEntry ctlq e)) ∧
      ((∀ n ∈ s.haltedQuarters c.id, (s.quarterAt n).drained = true) →
        ∃ (t s1 : State), exec .resume s = .next t ∧ t = s1.completeCmd ctlq 1 0 ∧
          (∀ n ∈ s.haltedQuarters c.id, (s1.quarterAt n).stopped = false ∧ (s1.quarterAt n).pendTable = [] ∧
            ((prm e.ps 1).getLsbD 0 = true → (s1.quarterAt n).stepping = true)) ∧
          (s1.ctx c.id).map (·.halted) = some false ∧ s1.queues = s.queues ∧
          ∀ b l, ((s.band b).lane l).st = .waiting .bkpt → (s.band b).core * 4 + (s.band b).quarter ∈ s.haltedQuarters c.id →
            b ∈ s.residents (s.band b).core (s.band b).quarter → ((s1.band b).lane l).st = .eligible ∧
              ((s1.band b).lane l).pc = ((s.band b).lane l).resume))) ∧
  (∀ (s : State) e, Claims.beginsControl s 0x46 e → unusedZero e.ps [0] = true → s.debug = 2 → s.power ≠ .standby →
    let ns := s.haltedQuarters ((prm e.ps 0).toNat % 4096)
    (ns = [] → exec .dump s = .next ((s.startEntry ctlq e).completeCmd ctlq 3 0)) ∧
    ((∃ n ∈ ns, (s.quarterAt n).drained = false) → exec .dump s = .next (s.startEntry ctlq e)) ∧
    ∀ s2, ns ≠ [] → (∀ n ∈ ns, (s.quarterAt n).drained = true ∧ (s.startEntry ctlq e).pageWaits (dumpId n) = false) →
      (∀ x ∈ s.dumps, x.ctx ≠ (prm e.ps 0).toNat % 4096) →
      ((s.startEntry ctlq e).dumpAll ((prm e.ps 0).toNat % 4096) ns = .done s2 1 →
        exec .dump s = .next (s2.completeCmd ctlq 1 0)) ∧
      ∀ va, (s.startEntry ctlq e).dumpAll ((prm e.ps 0).toNat % 4096) ns = .halt s2 (.trap 0x1B va) →
        exec .dump s = .next (s2.completeCmd ctlq 4 0x1B)) ∧
  ∀ (s : State) e d core reg, Claims.begins s .dbgset ctlq e → d < 9 → core < 256 → prm e.ps 0 = BitVec.ofNat 64 (2 ^ d) →
    prm e.ps 1 = BitVec.ofNat 64 core → prm e.ps 2 = BitVec.ofNat 64 reg → 0x207 ≤ reg → reg ≤ 0x20B →
    unusedZero e.ps [0, 1, 2, 3] = true →
    (s.security = .locked ∨ (reg = 0x20B ∧ s.debug ≠ 2) → exec .dbgset s = .next ((s.startEntry ctlq e).completeCmd ctlq 3 0)) ∧
    (s.security ≠ .locked → (reg = 0x20B → s.debug = 2 ∧ s.power ≠ .standby) →
      exec .dbgset s = .next (((s.startEntry ctlq e).putCoreReg (d * 256 + core) reg (prm e.ps 3)).completeCmd ctlq 1 0))

/-- POWER, DIE_PARKED, STANDBY_ENTRY and RESET. The states active and reduced clock are set at once, and wake every die
outside standby; a die that is to park does so when no crew and no link command is on it, and the command completes with
the last; the package enters standby when every queue rests and no sprout is queued, and every die parks. After RESET no
context, queue or crew is left, the host's memory is unchanged, compressed memory reads 0, and MR0 has been extended; a
boot that fails holds the package in standby. What memory holds after a reset (log entry 71), that a package which leaves
standby keeps its dies parked (log entry 73), and that manufacturing has every debug level in force (log entry 98), is the
model's choice. -/
def Obligations.PowerAndReset : Prop :=
  (∀ (s : State) e i p, (i = .powerActive ∧ p = .active) ∨ (i = .powerReducedClock ∧ p = .reduced) → Claims.begins s i ctlq e →
    unusedZero e.ps [0] = true →
    ∃ (t s1 : State), exec i s = .next t ∧ t = s1.completeCmd ctlq 1 0 ∧
      s1 = { s.startEntry ctlq e with power := p, clock := p, dies := s1.dies } ∧
      ∀ d, d < 9 → s1.die d = if s.power = .standby then (s.startEntry ctlq e).die d
        else { (s.startEntry ctlq e).die d with parked := false, parkReq := false }) ∧
  (∀ (s : State) e, Claims.begins s .powerDiePark ctlq e → unusedZero e.ps [0, 1] = true →
    ∃ (t s1 : State), exec .powerDiePark s = .next t ∧ s1 = { s.startEntry ctlq e with dies := s1.dies } ∧
      (∀ d, d < 9 → s1.die d = if (prm e.ps 1).getLsbD d = true ∧ (s.die d).parked = false then
        { (s.startEntry ctlq e).die d with parkReq := true } else (s.startEntry ctlq e).die d) ∧
      t = if (List.range 9).any fun d => (prm e.ps 1).getLsbD d && (s1.die d).parkReq then s1 else s1.completeCmd ctlq 1 0) ∧
  (∀ (s : State) d, d < 9 → ((s.die d).parkReq = false ∨ (∃ c ∈ s.crews, c.running = true ∧ c.core / 256 = d) →
      exec (.dieParked d) s = .next s) ∧
    ((s.die d).parkReq = true → (∀ c ∈ s.crews, c.running = true → c.core / 256 ≠ d) → (∀ c ∈ s.links, c.die ≠ d) →
      ∃ (t s1 : State), exec (.dieParked d) s = .next t ∧ s1 = { s with dies := s1.dies } ∧
        s1.die d = { s.die d with parked := true, parkReq := false } ∧ (∀ n, n ≠ d → s1.die n = s.die n) ∧
        (s.powerUnder 2 = none → t = s1) ∧
        ∀ ps, s.powerUnder 2 = some ps → (∀ n, n < 9 → (prm ps 1).getLsbD n = true → (s1.die n).parkReq = false) →
          t = s1.completeCmd ctlq 1 0)) ∧
  (∀ (s : State) e, Claims.begins s .powerStandby ctlq e → unusedZero e.ps [0] = true →
    (s.anyHalted = false → exec .powerStandby s = .next (s.startEntry ctlq e)) ∧
    (s.anyHalted = true → exec .powerStandby s = .next ((s.startEntry ctlq e).completeCmd ctlq 3 0))) ∧
  (∀ (s : State) ps, s.powerUnder 3 = some ps →
    ((∃ x ∈ s.queues, x.st ≠ .idle ∧ x.st ≠ .saved) ∨ s.sprouts ≠ [] → exec .standbyEntry s = .next s) ∧
    ((∀ x ∈ s.queues, x.st = .idle ∨ x.st = .saved) → s.sprouts = [] →
      ∃ (t s1 : State), exec .standbyEntry s = .next t ∧ t = s1.completeCmd ctlq 1 0 ∧
        s1 = { s with power := .standby, dies := s1.dies } ∧ ∀ d, d < 9 → s1.die d = { s.die d with parked := true, parkReq := false })) ∧
  ∀ (s : State), s.mem.wf = true → s.security ≠ .authorized →
    ∃ t, exec .reset s = .next t ∧ t.ctxs = [] ∧ t.queues = [] ∧ t.crews = [] ∧ t.bands = [] ∧ t.launches = [] ∧ t.cores = [] ∧
      t.watches = [] ∧ t.sprouts = [] ∧ t.accesses = [] ∧ t.ctlRunning = none ∧ t.cycle = 0 ∧
      (∀ k, 15 * 2 ^ 48 ≤ k → t.mem.read k = s.mem.read k) ∧
      (∀ k, k < 15 * 2 ^ 48 → s.compressed k = true → t.mem.read k = 0) ∧
      t.heart.bootCount = s.heart.bootCount + 1 ∧ t.heart.nonce = none ∧
      (t.security = if s.boot.manufacturing then .manufacturing else .locked) ∧
      (t.debug = if s.boot.manufacturing then 2 else 0) ∧
      (t.boot.ok = (List.range 4).all bootVerifies) ∧
      (t.boot.ok = true → t.power = .active ∧ (∀ d, d < 9 → (t.die d).parked = false) ∧ t.heart.bootst = 0 ∧
        ∀ n, n < 4 → t.heart.mr.toArray.getD n [] =
          Digest.shake256 (List.replicate 64 0 ++ Digest.shake256 (Config.bootBody n))) ∧
      (t.boot.ok = false → t.power = .standby ∧ ∀ d, d < 9 → (t.die d).parked = true)

/-! ## The management channel, the host and failures -/

namespace Sys2Proof.Claims

/-- Heartwood has sent a response: it is the last, and the transcript holds the request and it (R433). -/
def spdmAnswered (s t : State) (msg resp : List Byte) (tr : List Byte) : Prop :=
  t.heart.responses = s.heart.responses ++ [resp] ∧ t.heart.transcript = tr ++ msg ++ resp ∧
    t = { s with heart := t.heart } ∧ t.heart.mr = s.heart.mr ∧ t.heart.nonce = s.heart.nonce

end Sys2Proof.Claims

/-- The requests of SPDM. GET_VERSION begins a transcript and a negotiation; GET_CAPABILITIES and NEGOTIATE_ALGORITHMS
follow; GET_DIGESTS, GET_CERTIFICATE, CHALLENGE and GET_MEASUREMENTS are answered after it: a digest and a portion of
the certificate chain, measurements, and an ECDSA signature over the transcript. Any other request receives ERROR with
UnsupportedRequest. The bytes of messages are those of log entry 18. -/
def Sys2Proof.Claims.SpdmRequests : Prop :=
  (∀ (s : State), ∃ t r, exec .getVersion s = .next t ∧ Claims.spdmAnswered s t [0x10, 0x84, 0, 0] ([0x10, 0x04, 0, 0] ++ r) [] ∧
    t.heart.version = true ∧ t.heart.caps = false ∧ t.heart.algs = false) ∧
  (∀ (s : State), ∃ t r, exec .getCapabilities s = .next t ∧ Claims.spdmAnswered s t [0x13, 0xE1, 0, 0] r s.heart.transcript ∧
    (s.heart.version = true → r.take 2 = [0x13, 0x61] ∧ t.heart.caps = true) ∧
    (s.heart.version = false → r = [0x13, 0x7F, 0x04, 0] ∧ t.heart.caps = s.heart.caps)) ∧
  (∀ (s : State) msg, ∃ t r, exec (.negotiateAlgorithms msg) s = .next t ∧ Claims.spdmAnswered s t msg r s.heart.transcript ∧
    (s.heart.version = true → s.heart.caps = true → r.take 2 = [0x13, 0x63] ∧ t.heart.algs = true) ∧
    (s.heart.version = false ∨ s.heart.caps = false → r = [0x13, 0x7F, 0x04, 0] ∧ t.heart.algs = s.heart.algs)) ∧
  (∀ (s : State), s.negotiated = true → ∃ t, exec .getDigests s = .next t ∧
    Claims.spdmAnswered s t [0x13, 0x81, 0, 0] ([0x13, 0x01, 0, 1] ++ Digest.sha384 Config.certificate) s.heart.transcript) ∧
  (∀ (s : State) msg, s.negotiated = true → ∃ t p, exec (.getCertificate msg) s = .next t ∧
    p = (Config.certificate.drop (field msg 4 2)).take (field msg 6 2) ∧
    Claims.spdmAnswered s t msg ([0x13, 0x02, 0, 0] ++ leBytes p.length 2 ++
      leBytes (Config.certificate.length - field msg 4 2 - p.length) 2 ++ p) s.heart.transcript) ∧
  (∀ (s : State) msg, s.negotiated = true → ∃ t body, exec (.challenge msg) s = .next t ∧ body.take 4 = [0x13, 0x03, 0, 1] ∧
    Claims.spdmAnswered s t msg (body ++ Config.ecdsaSign (s.heart.transcript ++ msg ++ body)) s.heart.transcript) ∧
  (∀ (s : State) n msg, s.negotiated = true → 1 ≤ n → n ≤ 8 → field msg 2 1 % 2 = 0 →
    ∃ t r x, exec (.getMeasurements n msg) s = .next t ∧ Claims.spdmAnswered s t msg r s.heart.transcript ∧
      r = [0x13, 0x60, 0, 0, 1] ++ leBytes (s.measurement n).length 3 ++ s.measurement n ++ x ∧
      (s.measurement n).drop 7 = s.heart.mr.toArray.getD (n - 1) []) ∧
  (∀ (s : State) n msg, s.negotiated = true → 1 ≤ n → n ≤ 8 → field msg 2 1 % 2 = 1 →
    ∃ t b, exec (.getMeasurements n msg) s = .next t ∧ b.take 4 = [0x13, 0x60, 0, 0] ∧
      Claims.spdmAnswered s t msg (b ++ Config.ecdsaSign (s.heart.transcript ++ msg ++ b)) s.heart.transcript) ∧
  (∀ (s : State) msg i, i = .getDigests ∧ msg = [0x13, 0x81, 0, 0] ∨ i = .getCertificate msg ∨ i = .challenge msg ∨
      (∃ n, i = .getMeasurements n msg) → s.negotiated = false →
    ∃ t, exec i s = .next t ∧ Claims.spdmAnswered s t msg [0x13, 0x7F, 0x04, 0] s.heart.transcript) ∧
  ∀ (s : State) msg, ∃ t, exec (.spdmUnsupportedRequest msg) s = .next t ∧
    Claims.spdmAnswered s t msg [0x13, 0x7F, 0x07, BitVec.ofNat 8 (field msg 1 1)] s.heart.transcript

/-- DEBUG_NONCE_REQUEST and DEBUG_TOKEN. A nonce replaces the outstanding one and is answered with the boot count. A token
uses the nonce up; one whose signature verifies, which names the outstanding nonce, the boot count, MR1 and a level of 1
or 2, enters debug-authorized with its level; any other leaves the security state. The host extends MR4 to MR7 alone. -/
def Sys2Proof.Claims.DebugTokens : Prop :=
  (∀ (s : State) n, n.length = 16 → ∃ t, exec (.debugNonceRequest n) s = .next t ∧ t.heart.nonce = some n ∧
    t.heart.responses = s.heart.responses ++ [[0x13, 0x7E, 0, 0] ++ leBytes s.heart.bootCount.toNat 4 ++ n] ∧
    t = { s with heart := t.heart }) ∧
  (∀ (s : State) (tok : List Byte), tok.length = 160 → ∃ (t : State) (st : Byte), exec (.debugToken tok) s = .next t ∧
    t.heart.nonce = none ∧
    t.heart.responses = s.heart.responses ++ [[0x13, 0x7E, 0, 0, st]] ∧
    (st = 0 ↔ Config.ecdsaVerify (tok.take 64) ((tok.drop 64).take 48) ((tok.drop 112).take 48) = true ∧
      s.heart.nonce = some ((tok.drop 40).take 16) ∧ leNat ((tok.drop 36).take 4) = s.heart.bootCount.toNat ∧
      tok.take 32 = (s.heart.mr.toArray.getD 1 []).take 32 ∧ (tok.getD 32 0 = 1 ∨ tok.getD 32 0 = 2) ∧
      (∀ x ∈ (tok.drop 33).take 3, x = 0) ∧ ∀ x ∈ (tok.drop 56).take 8, x = 0) ∧
    (st ≠ 0 ∨ s.security = .manufacturing → t.security = s.security ∧ t.debug = s.debug) ∧
    (st = 0 → s.security ≠ .manufacturing → t.security = .authorized ∧
      t.debug = (tok.getD 32 0).toNat) ∧
    t = { s with heart := t.heart, security := t.security, debug := t.debug }) ∧
  ∀ (s : State) n d, (¬(4 ≤ n ∧ n ≤ 7) → exec (.measurementExtend n d) s = .next s) ∧
    (4 ≤ n → n ≤ 7 → ∃ t, exec (.measurementExtend n d) s = .next t ∧ t = { s with heart := t.heart } ∧
      t.heart.mr.toArray.getD n [] = Digest.shake256 (s.heart.mr.toArray.getD n [] ++ d) ∧
      ∀ k, k ≠ n → t.heart.mr.toArray.getD k [] = s.heart.mr.toArray.getD k [])

/-- HOST_ACCESS and the failures that interrupt a job. The host reads without effect and writes through a context's
tables or, with 0, to physical memory, where an address that names no memory has no effect; a write of a TAIL comes after
the host's writes that wait. A flit with a CRC error is
replayed up to sixteen times and then marks its boundary failed; the failure of a boundary, of a memory or of a port of
the fabric stops the contexts that it concerns. That the error of the sixteenth replay fails a boundary and its count is
never cleared (log entry 68), which contexts a port's failure concerns (log entry 97), and that a read, or an access that
faults, changes nothing (log entry 99), is the model's choice. -/
def Obligations.HostAndFailures : Prop :=
  (∀ (s : State) a n, exec (.hostAccess 0 a n none) s = .next s) ∧
  (∀ (s : State) ctx a n v, ctx ≠ 0 → s.ctxRead ctx a n = .ok v → exec (.hostAccess ctx a n none) s = .next s) ∧
  (∀ (s : State) (a : DWord) n v, paOk (a.toNat % 2 ^ 52) = true → s.watches = [] →
    Claims.ready s (a.toNat % 2 ^ 52) v.length → s.ringsBell 0 a v = false →
    (∀ e ∈ s.ptesOver (a.toNat % 2 ^ 52) v.length, bits (s.mem.readLE e 8) 59 1 = 0) →
    ∃ t, exec (.hostAccess 0 a n (some v)) s = .next t ∧ t = { s with mem := t.mem } ∧
      ∀ k, t.mem.read k = if a.toNat % 2 ^ 52 ≤ k ∧ k < a.toNat % 2 ^ 52 + v.length then v.getD (k - a.toNat % 2 ^ 52) 0
        else s.mem.read k) ∧
  (∀ (s : State) (a : DWord) n v, s.hostPending = true → s.ringsBell 0 a v = true →
    exec (.hostAccess 0 a n (some v)) s = .next (s.hostWaits 0 a v).2) ∧
  (∀ (s : State) (a : DWord) n v, paOk (a.toNat % 2 ^ 52) = false → s.hostPending = false →
    exec (.hostAccess 0 a n (some v)) s = .next s) ∧
  (∀ (s : State) ctx (a : DWord) n v s1, ctx ≠ 0 → s.ctxWrite (hostWriter ctx) a v = .ok s1 →
    exec (.hostAccess ctx a n (some v)) s = .next s1) ∧
  (∀ (s : State) n, n < 12 →
    ((s.boundary n).replays < 17 → ∃ t, exec (.flitCrcError n) s = .next t ∧ t = { s with boundaries := t.boundaries } ∧
      t.boundary n = { s.boundary n with replays := (s.boundary n).replays + 1 } ∧ ∀ k, k ≠ n → t.boundary k = s.boundary k) ∧
    ((s.boundary n).replays < 17 → (s.boundary n).failed = false → exec (.dieBoundaryFailed n) s = .next s) ∧
    (17 ≤ (s.boundary n).replays → (∀ c ∈ s.ctxs, c.eventRing = 0) →
      ∃ t, exec (.dieBoundaryFailed n) s = .next t ∧ t = { s with boundaries := t.boundaries, ctxs := t.ctxs } ∧
        (t.boundary n).failed = true ∧
        ∀ k c, s.ctx k = some c → t.ctx k = some (if ∃ x ∈ s.traffic, x.1 = k ∧ crosses n x.2.1 x.2.2 = true then
          { c with stoppedBy := some (c.stoppedBy.getD 0) } else c))) ∧
  (∀ (s : State) k c, s.ctx k = some c → c.id = k → c.eventRing = 0 →
    ∃ t, exec (.memoryUncorrectableError k) s = .next t ∧ t = { s with ctxs := t.ctxs } ∧
      t.ctx k = some { c with stoppedBy := some (c.stoppedBy.getD 0) } ∧ ∀ n, n ≠ k → t.ctx n = s.ctx n) ∧
  ∀ (s : State) p, (24 ≤ p ∨ p ∈ s.failedPorts → exec (.choelatosPortFailure p) s = .next s) ∧
    (p < 24 → p ∉ s.failedPorts → (∀ c ∈ s.ctxs, c.eventRing = 0) →
      ∃ t, exec (.choelatosPortFailure p) s = .next t ∧ t.failedPorts = s.failedPorts ++ [p] ∧ t.mem = s.mem ∧ t.bands = s.bands ∧
        ∀ k c, s.ctx k = some c → k ∉ s.remote → t.ctx k = some c)

/-! ## Encoding, step and reset -/

/-- Words written out from the encoding tables decode to the instructions they stand for: one of each family. -/
def Obligations.DecodeWords : Prop :=
  decodeTableWord 32 0x38000000 = some (.nop ⟨false, false, 7⟩) ∧
  decodeTableWord 32 0x38800005 = some (.trap ⟨false, false, 7⟩ 1) ∧
  decodeTableWord 32 0x3A038E04 = some (.shlB32Imm ⟨false, false, 7⟩ 7 7 4) ∧
  decodeTableWord 32 0x39E28833 = some (.bpermB32 ⟨false, false, 7⟩ 5 4 (.g 6)) ∧
  decodeTableWord 32 0x3A431234 = some (.movi ⟨false, false, 7⟩ 3 0x1234) ∧
  decodeTableWord 32 0x3B2505FF = some (.cmpi ⟨false, false, 7⟩ .lt 1 2 (-1)) ∧
  decodeTableWord 32 0x39610044 = some (.mulI32 ⟨false, false, 7⟩ 2 0 (.u 8)) ∧
  decodeTableWord 32 0x0BA71002 = some (.ld ⟨false, false, 1⟩ 14 8 0 .n16 0) ∧
  decodeTableWord 32 0x3E019402 = some (.voteBallot ⟨false, false, 7⟩ 3 true 2) ∧
  decodeTableWord 32 0x3E400055 = some (.gbar ⟨false, false, 7⟩ 10) ∧
  decodeTableWord 32 0x3E650002 = some (.take ⟨false, false, 7⟩ 10) ∧
  decodeTableWord 32 0x3F800015 = some (.claim ⟨false, false, 7⟩ 0x15) ∧
  decodeTableWord 32 0x3F940048 = some (.mma ⟨false, false, 7⟩ false false 0 0 2 4) ∧
  decodeTableWord 32 0x3FAC1106 = some (.link ⟨false, false, 7⟩ 1 4 6) ∧
  decodeTableWord 32 0x3FC0210A = some (.watch ⟨false, false, 7⟩ 2 4 10) ∧
  decodeTableWord 32 0x3FC21000 = some (.srd ⟨false, false, 7⟩ 4 0)

/-- Decoding and encoding agree, for every instruction word: the word of a well-formed instruction decodes to it, and a
word that decodes is the word of a well-formed instruction, with the literal that it reads. No bit of a word is dropped,
and a reserved bit or code is refused. -/
def Obligations.EncodingRoundTrip : Prop :=
  (∀ i w lit, i.wf = true → encode i = some (w, lit) → decode w lit = .ok i) ∧
  ∀ w lit i, decode w lit = .ok i → i.wf = true ∧ ∃ l, encode i = some (w, l) ∧ ∀ v, l = some v → v = lit.getD 0

namespace Sys2Proof.Claims

/-- What an issue of one word does: the meaning of the word in the state that the issue prepares, and the end of the
issue (R14, R15, R132, R137). -/
def oneIssue (s : State) (bi cyc : Nat) (b : Band) (i : Instr) (lbit ybit : Bool) : Host.Outcome State Fault Refusal :=
  match exec i { (s.beginIssue bi cyc b (nextPc b.pc lbit)).countIssue bi i b.pc with
      latch := { Latch.blank with pc := b.pc, lbit := lbit } } with
  | .next t => .next (t.endIssue bi b.issueSet ybit (lastSlot b.pc lbit))
  | .fault f => .fault f
  | .refused r => .refused r

/-- The packet at the program counter of a band holds a word that decodes to `i` (R12, R446). -/
def fetches (s : State) (b : Band) (i : Instr) : Prop :=
  ∃ pa, fetchPa s b b.pc = .ok pa ∧
    decode (BitVec.ofNat 32 (slotWord (s.packetWords pa) (slotOf b.pc))) (slotLit (s.packetWords pa) (slotOf b.pc)) = .ok i

end Sys2Proof.Claims

/-- A step runs the decoded instruction. An event of the agenda is carried out as it is. Where a band is to issue one
word, the bytes at its program counter decode to that word, and the step is the word's meaning with the bookkeeping of
an issue around it, once a trace that runs has followed the clock up to its cycle. Which unit moves next is the agenda's
choice (the model's own, log entry 3). A band alone in its quarter that may issue, with a word that decodes and waits for nothing, is the
one that issues; of words that enter the matrix sequencer of a core those of an earlier cycle come first. -/
def Obligations.StepRunsDecoded : Prop :=
  (∀ (s : State) i r, s.agenda = .event i :: r → step s = exec i { s.observe with agenda := r }) ∧
  (∀ (s : State) core q r bi cyc b i lbit ybit, s.agenda = .issue core q :: r →
    State.issueOf { s.observe with agenda := r } core q = some (bi, cyc, b, .one i, lbit, ybit) →
    Claims.fetches { s.observe with agenda := r } b i ∧
    step s = Claims.oneIssue (State.upTo { s.observe with agenda := r } cyc) bi cyc b i lbit ybit) ∧
  (∀ (s : State) bi cyc b i lbit ybit, s.agenda = [] → (∀ e ∈ s.observe.late, e.hold = false) →
    s.observe.issueNext = some (bi, cyc, b, .one i, lbit, ybit) →
    Claims.fetches s.observe b i ∧ step s = Claims.oneIssue (s.observe.upTo cyc) bi cyc b i lbit ybit) ∧
  ∀ (s : State) core q r bi pa i, s.agenda = .issue core q :: r →
    let u : State := { s.observe with agenda := r }
    let b := u.prepared bi
    let p := u.packetWords pa
    let k := slotOf b.pc
    u.bandsOf core q = [bi] → u.mayIssue b = true → b.issueSet ≠ 0 → fetchPa u b b.pc = .ok pa →
    b.badLanes (ctlL p.1) = 0 → b.paged = none → decodeSlot p k = .ok i → chained (slotWord p k) = false →
    b.mustTake (endsRegion i && b.someLane u.cycle u.free i) = false → b.slotWaits p.1 k = false →
    (b.fallsThrough = false → packetError p k = false) → b.wordWaits i = false → b.absentGran = 0 →
    u.reqWaits bi b i = false → u.spawnWaits bi b i = false → u.ksetWaits b i = false → u.reqAsks bi b i = false →
    u.objectWaits bi b.issueSet i = false →
    (endsRegion i = true → b.rgnOpen = true → b.held = []) →
    (entersSeq i = true → ∀ n, n ≠ q → u.quarterCandidate core n = none) →
    ∃ cyc, u.cycle ≤ cyc ∧ step s = Claims.oneIssue (u.upTo cyc) bi cyc b i (ctlL p.1) (ctlY p.1)

/-- The package right after reset: active, with every die awake, locked, without a context, queue, crew or band; memory
holds nothing, and has its canonical form. That an unlisted byte reads 0 is the model's choice (log entry 2). -/
def Obligations.ResetState : Prop :=
  State.reset.power = .active ∧ State.reset.security = .locked ∧ State.reset.debug = 0 ∧ State.reset.ctxs = [] ∧
  State.reset.queues = [] ∧ State.reset.crews = [] ∧ State.reset.bands = [] ∧ State.reset.ctlRunning = none ∧
  (∀ d, d < 9 → (State.reset.die d).parked = false ∧ (State.reset.die d).rqerr = 0) ∧
  (∀ n, n < 8 → State.reset.heart.mr.toArray.getD n [] = List.replicate 64 0) ∧
  (∀ a, State.reset.mem.read a = 0) ∧ State.reset.memWf = true

/-- Every step keeps the canonical form of memory, of the weight stores and of the scratchpads: equal storage is equal
data, so that a byte that reads 0 is listed nowhere. -/
def Obligations.StepKeepsStorage : Prop :=
  ∀ (s t : State), s.memWf = true → step s = .next t → t.memWf = true

/-! ## Statements of several parts -/

/-- Words that write a pair of registers, carries and borrows among them, and the divide words, whose lanes with a
divisor of zero trap with code 0x0C and take no other effect. -/
def Obligations.PairAndDivideResults : Prop := Sys2Proof.Claims.PairResults ∧ Sys2Proof.Claims.DivideResults

/-- Compares and predicate logic write their predicate, and p7 goes on reading true; XSET, XIDX and WRX write an
index register or the element that it names. -/
def Obligations.PredicateAndWindowWrites : Prop := Sys2Proof.Claims.PredicateResults ∧ Sys2Proof.Claims.WindowWrites

/-- BRA, BRX, CALL, CALLX and RET send the lanes of V to their targets, and NOP, YIELD and the hints of WARM only
advance them. -/
def Obligations.ControlWords : Prop := Sys2Proof.Claims.TransfersOfControl ∧ Sys2Proof.Claims.IdleWords

/-- MEET, SETM and GETM write the meeting register and a pair, and EXIT ends the lanes of V and nothing more. -/
def Obligations.ThreadsMeetAndEnd : Prop := Sys2Proof.Claims.MeetingRegister ∧ Sys2Proof.Claims.ExitEndsLanes

/-- RGN opens a region at the next word, or closes the open one; in an open region a plain store is held in the
region store buffer and changes no storage. -/
def Obligations.Regions : Prop := Sys2Proof.Claims.RegionOpens ∧ Sys2Proof.Claims.RegionHoldsStores

/-- TRAP and BKPT enter the trap handler of their band, with the saved code, INFO and PC of each lane; a trap that
cannot be delivered stops the quarter and the context. -/
def Obligations.SoftwareTrapsTaken : Prop := Sys2Proof.Claims.SoftwareTraps ∧ Sys2Proof.Claims.UndeliveredTraps

/-- A TRET that every live lane of TRAPLANE reaches sends each to its TRAPPC and ends handler mode; one that not all
have reached waits. -/
def Obligations.TrapReturns : Prop := Sys2Proof.Claims.TrapReturn ∧ Sys2Proof.Claims.TrapReturnWaits

/-- The words of the FP pipe write their results 5 cycles after issue and make their conditions sticky; FCMP writes
a predicate by the values it compares. With FTZ clear, sums, differences, products and fused products of numbers are the
exact results rounded once, to within half a unit of the last place. -/
def Obligations.FloatValues : Prop :=
  Sys2Proof.Claims.FloatResults ∧ Sys2Proof.Claims.FloatCompare ∧ Sys2Proof.Claims.FloatArithmetic

/-- EX2, LG2, RCP, RSQ, SIN and COS enter their pipe with their flag busy, and SFU_COMPLETE writes the oldest of a
band. -/
def Obligations.SpecialFunctions : Prop := Sys2Proof.Claims.SpecialFunctionIssue ∧ Sys2Proof.Claims.SpecialFunctionComplete

/-- Rounding to an integer is to the nearest with ties to even, or toward zero, up or down, and a code of a floating
format that is no NaN rounds to itself in every mode, exactly. -/
def Obligations.RoundingAndCodes : Prop := Sys2Proof.Claims.RoundingModes ∧ Sys2Proof.Claims.FloatCodesExact

/-- Loads, stores, ordered accesses, ATOM and CAS enter one access for the lanes of V, and SLD one for its lowest
lane, with no register and no byte of storage changed at issue. -/
def Obligations.MemoryWords : Prop := Sys2Proof.Claims.MemoryWordsIssue ∧ Sys2Proof.Claims.UniformLoadIssue

/-- An address that is not canonical or not a multiple of its size fails its check, and a lane that fails a check
traps with its code and address and has no other effect. That a weight-store operand fails for its alignment alone,
without a check of a canonical address, is the model's choice (log entry 110). -/
def Obligations.MemoryChecks : Prop := Sys2Proof.Claims.MemoryTraps ∧ Sys2Proof.Claims.AddressChecks

/-- A performed store puts its bytes at its places and changes no other byte; a performed ATOM or CAS gives the old
value to its destination and writes what its operation gives. -/
def Obligations.StoresAndAtomics : Prop := Sys2Proof.Claims.StorePerformed ∧ Sys2Proof.Claims.AtomicPerformed ∧ Sys2Proof.Claims.AtomicOperations

/-- A FENCE with nothing pending drops the L1 lines that its acquire part asks for; one with a release part waits
for the stores of V; SHED drops lines and changes no storage. That the whole band waits at a FENCE, and not its issue set
alone, is the model's reading of R267 (log entry 17). -/
def Obligations.FencesAndCaches : Prop := Sys2Proof.Claims.FenceWithNothingPending ∧ Sys2Proof.Claims.FenceWaits ∧ Sys2Proof.Claims.CacheControl

/-- The lanes of V wait at the barrier of their crew or group until every live lane has arrived; then all go on, the
generation advances, and BCAST delivers the value of its root. -/
def Obligations.Barriers : Prop := Sys2Proof.Claims.CrewBarrier ∧ Sys2Proof.Claims.GroupBarrierWaits ∧ Sys2Proof.Claims.GroupBarrierReleases

/-- GROW and SHRINK change the register holding of a band, a waiting GROW is granted in its turn, and granules move
to their records and back. That a spill waits until the results in flight of its band are written is the model's
reading (log entry 61). -/
def Obligations.RegisterGrants : Prop := Sys2Proof.Claims.RegisterHolding ∧ Sys2Proof.Claims.GrowGrant ∧ Sys2Proof.Claims.RegisterGranules

/-- TAKE delivers the lowest grain of the range that its crew holds, or waits; a request is served from a deque, a
steal moves work to a thief, and a quiescent launch has no more work. -/
def Obligations.WorkDelivery : Prop := Sys2Proof.Claims.TakeDelivers ∧ Sys2Proof.Claims.WorkRequests

/-- SPAWN pushes the values of V in ascending lane order, and a steal moves spill entries or stripes with the work
of the launch unchanged. -/
def Obligations.WorkMoves : Prop := Sys2Proof.Claims.SpawnPushes ∧ Sys2Proof.Claims.StealMovesWork

/-- CLAIM and RELS take and give up slots, ACCZ blanks an accumulator, KSET arms a convergence register, and MMA
signs it and enters the multiply when all declared lanes have signed. -/
def Obligations.ClaimsAndConvergence : Prop := Sys2Proof.Claims.ClaimAndRelease ∧ Sys2Proof.Claims.MmaSigns

/-- CLAIM_GRANT, MMA_CHECK, MATRIX_TRANSFER_COMPLETE, DRAW_PERFORM and ACCEPT_PERFORM: what each puts into slots,
accumulators, storage and registers. -/
def Obligations.MatrixUnitEvents : Prop := Sys2Proof.Claims.MatrixEvents ∧ Sys2Proof.Claims.TransferCompletes ∧ Sys2Proof.Claims.DrawPerforms

/-- STRM and XFORM read their descriptor and enter one engine command, and GNODE writes one less predecessor into
its node, which joins those that run at 0. -/
def Obligations.EngineAndGraphWords : Prop := Sys2Proof.Claims.EngineWords ∧ Sys2Proof.Claims.GraphNodeWord

/-- TLBINV enters an invalidation, GPW writes a steering register, SRD reads a system register or value into its
destination, and SWR keeps a write for the next packet. That a write of a register of the core too is kept for the next
packet, and that one of a read-only register has no effect, is the model's reading (log entry 56). -/
def Obligations.SystemWordsAndRegisters : Prop := Sys2Proof.Claims.SystemWords ∧ Sys2Proof.Claims.SystemRegisters

/-- REQ asks for slots and sends one entry for each lane; BOINIT, BOARRIVE and BOWAIT work on the count, generation
and token of a barrier object. -/
def Obligations.EnqueueAndBarrierObjects : Prop := Sys2Proof.Claims.RemoteEnqueue ∧ Sys2Proof.Claims.BarrierObjects

/-- A stream moves one tile and its ring counter, a transform ends or goes on by a tile, and a node that ends has
its status written and its successors counted down. -/
def Obligations.TilesAndGraphNodes : Prop := Sys2Proof.Claims.EngineTiles ∧ Sys2Proof.Claims.GraphNodes

/-- SEGRD_READ walks the links of its map and loads keys and values, and a repair pass writes its signature, commits
its layers in order and completes. -/
def Obligations.SegmentsAndRepair : Prop := Sys2Proof.Claims.SegmentReads ∧ Sys2Proof.Claims.RepairPasses

/-- The commands that go on begin and leave their queue running, and those that end at once do their work and
complete with STATUS 1; a broken rule completes with STATUS 3. That HEAD advances as a command begins (log entry 66) and
that a REDSET member above 786,431 gives STATUS 3 (log entry 70) is the model's reading. -/
def Obligations.CommandsRun : Prop := Sys2Proof.Claims.CommandsThatGoOn ∧ Sys2Proof.Claims.CommandsAtOnce

/-- The requests of SPDM are answered in their order or with ERROR, a debug token that verifies enters
debug-authorized with its level, and the host extends MR4 to MR7 alone. The bytes of messages rest on log entry 18,
which is presumed. That a token taken in standby gives its level too, which is in force once the package is active, is the
model's reading (log entry 95). -/
def Obligations.SpdmAndDebugTokens : Prop := Sys2Proof.Claims.SpdmRequests ∧ Sys2Proof.Claims.DebugTokens
end

