-- ==== Sys2Proof/Laws/Decode.lean ====
section
/-!
SUPPORT. Reading back the fields that `packFields` packs.
-/

namespace Sys2Proof

theorem packFields_lt : (l : Fields) → packFields l < 2 ^ fieldBits l
  | [] => by simp [packFields, fieldBits]
  | ⟨n, v⟩ :: r => by
    have ih := packFields_lt r
    have hv := v.isLt
    simp only [packFields, fieldBits, pow_add]
    calc v.toNat * 2 ^ fieldBits r + packFields r
        < v.toNat * 2 ^ fieldBits r + 2 ^ fieldBits r := by omega
      _ = (v.toNat + 1) * 2 ^ fieldBits r := by ring
      _ ≤ 2 ^ n * 2 ^ fieldBits r := Nat.mul_le_mul_right _ hv

/-- The first field of the list is the one above the rest. -/
theorem fld_pack_head {n lo : Nat} (v : BitVec n) (r : Fields) (h : fieldBits r = lo) :
    fld (packFields (⟨n, v⟩ :: r)) lo n = v := by
  subst h
  have := packFields_lt r
  apply BitVec.eq_of_toNat_eq
  rw [fld, packFields, BitVec.toNat_ofNat, Nat.mul_comm, Nat.mul_add_div (by positivity),
    Nat.div_eq_of_lt this, Nat.add_zero, Nat.mod_eq_of_lt v.isLt]

/-- A field below the first one does not depend on it. -/
theorem fld_pack_tail {n m lo : Nat} (v : BitVec n) (r : Fields) (h : lo + m ≤ fieldBits r) :
    fld (packFields (⟨n, v⟩ :: r)) lo m = fld (packFields r) lo m := by
  obtain ⟨k, hk⟩ := Nat.exists_eq_add_of_le h
  apply BitVec.eq_of_toNat_eq
  have e : v.toNat * 2 ^ fieldBits r = 2 ^ lo * (2 ^ m * (v.toNat * 2 ^ k)) := by
    rw [hk, pow_add, pow_add]; ring
  rw [fld, fld, packFields, BitVec.toNat_ofNat, BitVec.toNat_ofNat, e,
    Nat.mul_add_div (by positivity), Nat.mul_add_mod]

/-- A 32-bit word holds its fields unchanged. -/
theorem toNat_ofNat_pack (l : Fields) (h : fieldBits l = 32) :
    (BitVec.ofNat 32 (packFields l)).toNat = packFields l := by
  have := packFields_lt l
  rw [BitVec.toNat_ofNat, Nat.mod_eq_of_lt (h ▸ this)]

theorem flag1_pack_head (b : Bool) (r : Fields) {lo : Nat} (h : fieldBits r = lo) :
    flag1 (packFields (bitOf b :: r)) lo = b := by
  rw [flag1, bitOf, fld_pack_head _ _ h]; cases b <;> rfl

theorem flag1_pack_tail {n lo : Nat} (v : BitVec n) (r : Fields) (h : lo + 1 ≤ fieldBits r) :
    flag1 (packFields (⟨n, v⟩ :: r)) lo = flag1 (packFields r) lo := by
  rw [flag1, flag1, fld_pack_tail _ _ h]

theorem Src.ofFields_fields (b : Src) : Src.ofFields b.sBit b.bField = b := by
  cases b with
  | g r => rfl
  | u r =>
    simp only [Src.ofFields, Src.sBit, Src.bField]
    simp

theorem CmpT.ofCode_code (t : CmpT) : CmpT.ofCode t.code = t := by cases t <;> rfl
theorem Cc.ofCode_code (t : Cc) : Cc.ofCode t.code = some t := by cases t <;> rfl
theorem FCc.ofCode_code (t : FCc) : FCc.ofCode t.code = t := by cases t <;> rfl
theorem Lop.ofCode_code (t : Lop) : Lop.ofCode t.code = some t := by cases t <;> rfl
theorem Size.ofCode_code (t : Size) : Size.ofCode t.code = some t := by cases t <;> rfl
theorem Space.ofCode_code (t : Space) : Space.ofCode t.code = t := by cases t <;> rfl
theorem Scope.ofCode_code (t : Scope) : Scope.ofCode t.code = some t := by cases t <;> rfl
theorem Order.ofCode_code (t : Order) : Order.ofCode t.code = some t := by cases t <;> rfl
theorem AType.ofCode_code (t : AType) : AType.ofCode t.code = some t := by cases t <;> rfl
theorem AOp.ofCode_code (t : AOp) : AOp.ofCode t.code = some t := by cases t <;> rfl
theorem Fmt.ofCode_code (t : Fmt) : Fmt.ofCode t.code = t := by cases t <;> rfl
theorem DrawMode.ofCode_code (t : DrawMode) : DrawMode.ofCode t.code = t := by cases t <;> rfl

/-- A word decodes through its own header and major. -/
theorem decode_word (h : Hdr) (m : BitVec 6) (f : Fields) (lit : Option Word)
    (hf : fieldBits f = 21) (hok : h.ok = true) :
    decode (word h m f) lit =
      decodeMajor m.toNat h
        (packFields (bitOf h.chain :: bitOf h.gneg :: ⟨3, h.gp⟩ :: ⟨6, m⟩ :: f)) lit := by
  have hw : (word h m f).toNat =
      packFields (bitOf h.chain :: bitOf h.gneg :: ⟨3, h.gp⟩ :: ⟨6, m⟩ :: f) :=
    toNat_ofNat_pack _ (by simp [fieldBits, bitOf, hf])
  have hh : decHdr (word h m f).toNat = h := by
    rw [hw, decHdr, flag1_pack_head _ _ (by simp [fieldBits, bitOf, hf]), bitOf,
      flag1_pack_tail _ _ (by simp [fieldBits, bitOf, hf]),
      flag1_pack_head _ _ (by simp [fieldBits, hf]), bitOf,
      fld_pack_tail _ _ (by simp [fieldBits, hf]), fld_pack_tail _ _ (by simp [fieldBits, hf]),
      fld_pack_head _ _ (by simp [fieldBits, hf])]
  have hm : fld (word h m f).toNat 21 6 = m := by
    rw [hw, bitOf, fld_pack_tail _ _ (by simp [fieldBits, bitOf, hf]), bitOf,
      fld_pack_tail _ _ (by simp [fieldBits, hf]), fld_pack_tail _ _ (by simp [fieldBits, hf]),
      fld_pack_head _ _ hf]
  rw [decode, hh, hm, hw, if_pos hok]

/-- A field of the format lies below the header and the major. -/
theorem fld_word (h : Hdr) (m : BitVec 6) (f : Fields) (lo n : Nat) (hf : fieldBits f = 21)
    (hn : lo + n ≤ 21) :
    fld (packFields (bitOf h.chain :: bitOf h.gneg :: ⟨3, h.gp⟩ :: ⟨6, m⟩ :: f)) lo n =
      fld (packFields f) lo n := by
  rw [bitOf, fld_pack_tail _ _ (by simp [fieldBits, bitOf, hf]; omega), bitOf,
    fld_pack_tail _ _ (by simp [fieldBits, hf]; omega),
    fld_pack_tail _ _ (by simp [fieldBits, hf]; omega), fld_pack_tail _ _ (by omega)]

end Sys2Proof
end

