-- ==== Sys2Proof/Laws/State.lean ====
section
/-!
SUPPORT. What each update of the state and of a band leaves in each field, true by definition.
-/

namespace Sys2Proof.Machine


/-! ## State.setBand -/

@[simp] theorem State.setBand_mem (s : State) (b : Nat) (x : Band) : (s.setBand b x).mem = s.mem := rfl
@[simp] theorem State.setBand_ws (s : State) (b : Nat) (x : Band) : (s.setBand b x).ws = s.ws := rfl
@[simp] theorem State.setBand_scr (s : State) (b : Nat) (x : Band) : (s.setBand b x).scr = s.scr := rfl
@[simp] theorem State.setBand_bands (s : State) (b : Nat) (x : Band) : (s.setBand b x).bands = s.bands.set b x := rfl
@[simp] theorem State.setBand_crews (s : State) (b : Nat) (x : Band) : (s.setBand b x).crews = s.crews := rfl
@[simp] theorem State.setBand_launches (s : State) (b : Nat) (x : Band) : (s.setBand b x).launches = s.launches := rfl
@[simp] theorem State.setBand_cores (s : State) (b : Nat) (x : Band) : (s.setBand b x).cores = s.cores := rfl
@[simp] theorem State.setBand_dies (s : State) (b : Nat) (x : Band) : (s.setBand b x).dies = s.dies := rfl
@[simp] theorem State.setBand_boundaries (s : State) (b : Nat) (x : Band) : (s.setBand b x).boundaries = s.boundaries := rfl
@[simp] theorem State.setBand_ctxs (s : State) (b : Nat) (x : Band) : (s.setBand b x).ctxs = s.ctxs := rfl
@[simp] theorem State.setBand_queues (s : State) (b : Nat) (x : Band) : (s.setBand b x).queues = s.queues := rfl
@[simp] theorem State.setBand_ctlRunning (s : State) (b : Nat) (x : Band) : (s.setBand b x).ctlRunning = s.ctlRunning := rfl
@[simp] theorem State.setBand_watches (s : State) (b : Nat) (x : Band) : (s.setBand b x).watches = s.watches := rfl
@[simp] theorem State.setBand_sprouts (s : State) (b : Nat) (x : Band) : (s.setBand b x).sprouts = s.sprouts := rfl
@[simp] theorem State.setBand_accesses (s : State) (b : Nat) (x : Band) : (s.setBand b x).accesses = s.accesses := rfl
@[simp] theorem State.setBand_late (s : State) (b : Nat) (x : Band) : (s.setBand b x).late = s.late := rfl
@[simp] theorem State.setBand_holdFlags (s : State) (b : Nat) (x : Band) : (s.setBand b x).holdFlags = s.holdFlags := rfl
@[simp] theorem State.setBand_arrivals (s : State) (b : Nat) (x : Band) : (s.setBand b x).arrivals = s.arrivals := rfl
@[simp] theorem State.setBand_sfus (s : State) (b : Nat) (x : Band) : (s.setBand b x).sfus = s.sfus := rfl
@[simp] theorem State.setBand_reqs (s : State) (b : Nat) (x : Band) : (s.setBand b x).reqs = s.reqs := rfl
@[simp] theorem State.setBand_slotReqs (s : State) (b : Nat) (x : Band) : (s.setBand b x).slotReqs = s.slotReqs := rfl
@[simp] theorem State.setBand_tlbs (s : State) (b : Nat) (x : Band) : (s.setBand b x).tlbs = s.tlbs := rfl
@[simp] theorem State.setBand_watchOps (s : State) (b : Nat) (x : Band) : (s.setBand b x).watchOps = s.watchOps := rfl
@[simp] theorem State.setBand_engines (s : State) (b : Nat) (x : Band) : (s.setBand b x).engines = s.engines := rfl
@[simp] theorem State.setBand_nodes (s : State) (b : Nat) (x : Band) : (s.setBand b x).nodes = s.nodes := rfl
@[simp] theorem State.setBand_links (s : State) (b : Nat) (x : Band) : (s.setBand b x).links = s.links := rfl
@[simp] theorem State.setBand_passes (s : State) (b : Nat) (x : Band) : (s.setBand b x).passes = s.passes := rfl
@[simp] theorem State.setBand_faults (s : State) (b : Nat) (x : Band) : (s.setBand b x).faults = s.faults := rfl
@[simp] theorem State.setBand_cmds (s : State) (b : Nat) (x : Band) : (s.setBand b x).cmds = s.cmds := rfl
@[simp] theorem State.setBand_books (s : State) (b : Nat) (x : Band) : (s.setBand b x).books = s.books := rfl
@[simp] theorem State.setBand_boot (s : State) (b : Nat) (x : Band) : (s.setBand b x).boot = s.boot := rfl
@[simp] theorem State.setBand_power (s : State) (b : Nat) (x : Band) : (s.setBand b x).power = s.power := rfl
@[simp] theorem State.setBand_clock (s : State) (b : Nat) (x : Band) : (s.setBand b x).clock = s.clock := rfl
@[simp] theorem State.setBand_copies (s : State) (b : Nat) (x : Band) : (s.setBand b x).copies = s.copies := rfl
@[simp] theorem State.setBand_security (s : State) (b : Nat) (x : Band) : (s.setBand b x).security = s.security := rfl
@[simp] theorem State.setBand_debug (s : State) (b : Nat) (x : Band) : (s.setBand b x).debug = s.debug := rfl
@[simp] theorem State.setBand_heart (s : State) (b : Nat) (x : Band) : (s.setBand b x).heart = s.heart := rfl
@[simp] theorem State.setBand_failedPorts (s : State) (b : Nat) (x : Band) : (s.setBand b x).failedPorts = s.failedPorts := rfl
@[simp] theorem State.setBand_dumps (s : State) (b : Nat) (x : Band) : (s.setBand b x).dumps = s.dumps := rfl
@[simp] theorem State.setBand_cycle (s : State) (b : Nat) (x : Band) : (s.setBand b x).cycle = s.cycle := rfl
@[simp] theorem State.setBand_nextId (s : State) (b : Nat) (x : Band) : (s.setBand b x).nextId = s.nextId := rfl
@[simp] theorem State.setBand_free (s : State) (b : Nat) (x : Band) : (s.setBand b x).free = s.free := rfl
@[simp] theorem State.setBand_agenda (s : State) (b : Nat) (x : Band) : (s.setBand b x).agenda = s.agenda := rfl
@[simp] theorem State.setBand_cur (s : State) (b : Nat) (x : Band) : (s.setBand b x).cur = s.cur := rfl
@[simp] theorem State.setBand_latch (s : State) (b : Nat) (x : Band) : (s.setBand b x).latch = s.latch := rfl

/-! ## State.setMe -/

@[simp] theorem State.setMe_mem (s : State) (x : Band) : (s.setMe x).mem = s.mem := rfl
@[simp] theorem State.setMe_ws (s : State) (x : Band) : (s.setMe x).ws = s.ws := rfl
@[simp] theorem State.setMe_scr (s : State) (x : Band) : (s.setMe x).scr = s.scr := rfl
@[simp] theorem State.setMe_bands (s : State) (x : Band) : (s.setMe x).bands = s.bands.set s.cur x := rfl
@[simp] theorem State.setMe_crews (s : State) (x : Band) : (s.setMe x).crews = s.crews := rfl
@[simp] theorem State.setMe_launches (s : State) (x : Band) : (s.setMe x).launches = s.launches := rfl
@[simp] theorem State.setMe_cores (s : State) (x : Band) : (s.setMe x).cores = s.cores := rfl
@[simp] theorem State.setMe_dies (s : State) (x : Band) : (s.setMe x).dies = s.dies := rfl
@[simp] theorem State.setMe_boundaries (s : State) (x : Band) : (s.setMe x).boundaries = s.boundaries := rfl
@[simp] theorem State.setMe_ctxs (s : State) (x : Band) : (s.setMe x).ctxs = s.ctxs := rfl
@[simp] theorem State.setMe_queues (s : State) (x : Band) : (s.setMe x).queues = s.queues := rfl
@[simp] theorem State.setMe_ctlRunning (s : State) (x : Band) : (s.setMe x).ctlRunning = s.ctlRunning := rfl
@[simp] theorem State.setMe_watches (s : State) (x : Band) : (s.setMe x).watches = s.watches := rfl
@[simp] theorem State.setMe_sprouts (s : State) (x : Band) : (s.setMe x).sprouts = s.sprouts := rfl
@[simp] theorem State.setMe_accesses (s : State) (x : Band) : (s.setMe x).accesses = s.accesses := rfl
@[simp] theorem State.setMe_late (s : State) (x : Band) : (s.setMe x).late = s.late := rfl
@[simp] theorem State.setMe_holdFlags (s : State) (x : Band) : (s.setMe x).holdFlags = s.holdFlags := rfl
@[simp] theorem State.setMe_arrivals (s : State) (x : Band) : (s.setMe x).arrivals = s.arrivals := rfl
@[simp] theorem State.setMe_sfus (s : State) (x : Band) : (s.setMe x).sfus = s.sfus := rfl
@[simp] theorem State.setMe_reqs (s : State) (x : Band) : (s.setMe x).reqs = s.reqs := rfl
@[simp] theorem State.setMe_slotReqs (s : State) (x : Band) : (s.setMe x).slotReqs = s.slotReqs := rfl
@[simp] theorem State.setMe_tlbs (s : State) (x : Band) : (s.setMe x).tlbs = s.tlbs := rfl
@[simp] theorem State.setMe_watchOps (s : State) (x : Band) : (s.setMe x).watchOps = s.watchOps := rfl
@[simp] theorem State.setMe_engines (s : State) (x : Band) : (s.setMe x).engines = s.engines := rfl
@[simp] theorem State.setMe_nodes (s : State) (x : Band) : (s.setMe x).nodes = s.nodes := rfl
@[simp] theorem State.setMe_links (s : State) (x : Band) : (s.setMe x).links = s.links := rfl
@[simp] theorem State.setMe_passes (s : State) (x : Band) : (s.setMe x).passes = s.passes := rfl
@[simp] theorem State.setMe_faults (s : State) (x : Band) : (s.setMe x).faults = s.faults := rfl
@[simp] theorem State.setMe_cmds (s : State) (x : Band) : (s.setMe x).cmds = s.cmds := rfl
@[simp] theorem State.setMe_books (s : State) (x : Band) : (s.setMe x).books = s.books := rfl
@[simp] theorem State.setMe_boot (s : State) (x : Band) : (s.setMe x).boot = s.boot := rfl
@[simp] theorem State.setMe_power (s : State) (x : Band) : (s.setMe x).power = s.power := rfl
@[simp] theorem State.setMe_clock (s : State) (x : Band) : (s.setMe x).clock = s.clock := rfl
@[simp] theorem State.setMe_copies (s : State) (x : Band) : (s.setMe x).copies = s.copies := rfl
@[simp] theorem State.setMe_security (s : State) (x : Band) : (s.setMe x).security = s.security := rfl
@[simp] theorem State.setMe_debug (s : State) (x : Band) : (s.setMe x).debug = s.debug := rfl
@[simp] theorem State.setMe_heart (s : State) (x : Band) : (s.setMe x).heart = s.heart := rfl
@[simp] theorem State.setMe_failedPorts (s : State) (x : Band) : (s.setMe x).failedPorts = s.failedPorts := rfl
@[simp] theorem State.setMe_dumps (s : State) (x : Band) : (s.setMe x).dumps = s.dumps := rfl
@[simp] theorem State.setMe_cycle (s : State) (x : Band) : (s.setMe x).cycle = s.cycle := rfl
@[simp] theorem State.setMe_nextId (s : State) (x : Band) : (s.setMe x).nextId = s.nextId := rfl
@[simp] theorem State.setMe_free (s : State) (x : Band) : (s.setMe x).free = s.free := rfl
@[simp] theorem State.setMe_agenda (s : State) (x : Band) : (s.setMe x).agenda = s.agenda := rfl
@[simp] theorem State.setMe_cur (s : State) (x : Band) : (s.setMe x).cur = s.cur := rfl
@[simp] theorem State.setMe_latch (s : State) (x : Band) : (s.setMe x).latch = s.latch := rfl

/-! ## State.setCrew -/

@[simp] theorem State.setCrew_mem (s : State) (c : Nat) (x : Crew) : (s.setCrew c x).mem = s.mem := rfl
@[simp] theorem State.setCrew_ws (s : State) (c : Nat) (x : Crew) : (s.setCrew c x).ws = s.ws := rfl
@[simp] theorem State.setCrew_scr (s : State) (c : Nat) (x : Crew) : (s.setCrew c x).scr = s.scr := rfl
@[simp] theorem State.setCrew_bands (s : State) (c : Nat) (x : Crew) : (s.setCrew c x).bands = s.bands := rfl
@[simp] theorem State.setCrew_crews (s : State) (c : Nat) (x : Crew) : (s.setCrew c x).crews = s.crews.set c x := rfl
@[simp] theorem State.setCrew_launches (s : State) (c : Nat) (x : Crew) : (s.setCrew c x).launches = s.launches := rfl
@[simp] theorem State.setCrew_cores (s : State) (c : Nat) (x : Crew) : (s.setCrew c x).cores = s.cores := rfl
@[simp] theorem State.setCrew_dies (s : State) (c : Nat) (x : Crew) : (s.setCrew c x).dies = s.dies := rfl
@[simp] theorem State.setCrew_boundaries (s : State) (c : Nat) (x : Crew) : (s.setCrew c x).boundaries = s.boundaries := rfl
@[simp] theorem State.setCrew_ctxs (s : State) (c : Nat) (x : Crew) : (s.setCrew c x).ctxs = s.ctxs := rfl
@[simp] theorem State.setCrew_queues (s : State) (c : Nat) (x : Crew) : (s.setCrew c x).queues = s.queues := rfl
@[simp] theorem State.setCrew_ctlRunning (s : State) (c : Nat) (x : Crew) : (s.setCrew c x).ctlRunning = s.ctlRunning := rfl
@[simp] theorem State.setCrew_watches (s : State) (c : Nat) (x : Crew) : (s.setCrew c x).watches = s.watches := rfl
@[simp] theorem State.setCrew_sprouts (s : State) (c : Nat) (x : Crew) : (s.setCrew c x).sprouts = s.sprouts := rfl
@[simp] theorem State.setCrew_accesses (s : State) (c : Nat) (x : Crew) : (s.setCrew c x).accesses = s.accesses := rfl
@[simp] theorem State.setCrew_late (s : State) (c : Nat) (x : Crew) : (s.setCrew c x).late = s.late := rfl
@[simp] theorem State.setCrew_holdFlags (s : State) (c : Nat) (x : Crew) : (s.setCrew c x).holdFlags = s.holdFlags := rfl
@[simp] theorem State.setCrew_arrivals (s : State) (c : Nat) (x : Crew) : (s.setCrew c x).arrivals = s.arrivals := rfl
@[simp] theorem State.setCrew_sfus (s : State) (c : Nat) (x : Crew) : (s.setCrew c x).sfus = s.sfus := rfl
@[simp] theorem State.setCrew_reqs (s : State) (c : Nat) (x : Crew) : (s.setCrew c x).reqs = s.reqs := rfl
@[simp] theorem State.setCrew_slotReqs (s : State) (c : Nat) (x : Crew) : (s.setCrew c x).slotReqs = s.slotReqs := rfl
@[simp] theorem State.setCrew_tlbs (s : State) (c : Nat) (x : Crew) : (s.setCrew c x).tlbs = s.tlbs := rfl
@[simp] theorem State.setCrew_watchOps (s : State) (c : Nat) (x : Crew) : (s.setCrew c x).watchOps = s.watchOps := rfl
@[simp] theorem State.setCrew_engines (s : State) (c : Nat) (x : Crew) : (s.setCrew c x).engines = s.engines := rfl
@[simp] theorem State.setCrew_nodes (s : State) (c : Nat) (x : Crew) : (s.setCrew c x).nodes = s.nodes := rfl
@[simp] theorem State.setCrew_links (s : State) (c : Nat) (x : Crew) : (s.setCrew c x).links = s.links := rfl
@[simp] theorem State.setCrew_passes (s : State) (c : Nat) (x : Crew) : (s.setCrew c x).passes = s.passes := rfl
@[simp] theorem State.setCrew_faults (s : State) (c : Nat) (x : Crew) : (s.setCrew c x).faults = s.faults := rfl
@[simp] theorem State.setCrew_cmds (s : State) (c : Nat) (x : Crew) : (s.setCrew c x).cmds = s.cmds := rfl
@[simp] theorem State.setCrew_books (s : State) (c : Nat) (x : Crew) : (s.setCrew c x).books = s.books := rfl
@[simp] theorem State.setCrew_boot (s : State) (c : Nat) (x : Crew) : (s.setCrew c x).boot = s.boot := rfl
@[simp] theorem State.setCrew_power (s : State) (c : Nat) (x : Crew) : (s.setCrew c x).power = s.power := rfl
@[simp] theorem State.setCrew_clock (s : State) (c : Nat) (x : Crew) : (s.setCrew c x).clock = s.clock := rfl
@[simp] theorem State.setCrew_copies (s : State) (c : Nat) (x : Crew) : (s.setCrew c x).copies = s.copies := rfl
@[simp] theorem State.setCrew_security (s : State) (c : Nat) (x : Crew) : (s.setCrew c x).security = s.security := rfl
@[simp] theorem State.setCrew_debug (s : State) (c : Nat) (x : Crew) : (s.setCrew c x).debug = s.debug := rfl
@[simp] theorem State.setCrew_heart (s : State) (c : Nat) (x : Crew) : (s.setCrew c x).heart = s.heart := rfl
@[simp] theorem State.setCrew_failedPorts (s : State) (c : Nat) (x : Crew) : (s.setCrew c x).failedPorts = s.failedPorts := rfl
@[simp] theorem State.setCrew_dumps (s : State) (c : Nat) (x : Crew) : (s.setCrew c x).dumps = s.dumps := rfl
@[simp] theorem State.setCrew_cycle (s : State) (c : Nat) (x : Crew) : (s.setCrew c x).cycle = s.cycle := rfl
@[simp] theorem State.setCrew_nextId (s : State) (c : Nat) (x : Crew) : (s.setCrew c x).nextId = s.nextId := rfl
@[simp] theorem State.setCrew_free (s : State) (c : Nat) (x : Crew) : (s.setCrew c x).free = s.free := rfl
@[simp] theorem State.setCrew_agenda (s : State) (c : Nat) (x : Crew) : (s.setCrew c x).agenda = s.agenda := rfl
@[simp] theorem State.setCrew_cur (s : State) (c : Nat) (x : Crew) : (s.setCrew c x).cur = s.cur := rfl
@[simp] theorem State.setCrew_latch (s : State) (c : Nat) (x : Crew) : (s.setCrew c x).latch = s.latch := rfl

/-! ## State.setLaunch -/

@[simp] theorem State.setLaunch_mem (s : State) (l : Nat) (x : Launch) : (s.setLaunch l x).mem = s.mem := rfl
@[simp] theorem State.setLaunch_ws (s : State) (l : Nat) (x : Launch) : (s.setLaunch l x).ws = s.ws := rfl
@[simp] theorem State.setLaunch_scr (s : State) (l : Nat) (x : Launch) : (s.setLaunch l x).scr = s.scr := rfl
@[simp] theorem State.setLaunch_bands (s : State) (l : Nat) (x : Launch) : (s.setLaunch l x).bands = s.bands := rfl
@[simp] theorem State.setLaunch_crews (s : State) (l : Nat) (x : Launch) : (s.setLaunch l x).crews = s.crews := rfl
@[simp] theorem State.setLaunch_launches (s : State) (l : Nat) (x : Launch) : (s.setLaunch l x).launches = s.launches.set l x := rfl
@[simp] theorem State.setLaunch_cores (s : State) (l : Nat) (x : Launch) : (s.setLaunch l x).cores = s.cores := rfl
@[simp] theorem State.setLaunch_dies (s : State) (l : Nat) (x : Launch) : (s.setLaunch l x).dies = s.dies := rfl
@[simp] theorem State.setLaunch_boundaries (s : State) (l : Nat) (x : Launch) : (s.setLaunch l x).boundaries = s.boundaries := rfl
@[simp] theorem State.setLaunch_ctxs (s : State) (l : Nat) (x : Launch) : (s.setLaunch l x).ctxs = s.ctxs := rfl
@[simp] theorem State.setLaunch_queues (s : State) (l : Nat) (x : Launch) : (s.setLaunch l x).queues = s.queues := rfl
@[simp] theorem State.setLaunch_ctlRunning (s : State) (l : Nat) (x : Launch) : (s.setLaunch l x).ctlRunning = s.ctlRunning := rfl
@[simp] theorem State.setLaunch_watches (s : State) (l : Nat) (x : Launch) : (s.setLaunch l x).watches = s.watches := rfl
@[simp] theorem State.setLaunch_sprouts (s : State) (l : Nat) (x : Launch) : (s.setLaunch l x).sprouts = s.sprouts := rfl
@[simp] theorem State.setLaunch_accesses (s : State) (l : Nat) (x : Launch) : (s.setLaunch l x).accesses = s.accesses := rfl
@[simp] theorem State.setLaunch_late (s : State) (l : Nat) (x : Launch) : (s.setLaunch l x).late = s.late := rfl
@[simp] theorem State.setLaunch_holdFlags (s : State) (l : Nat) (x : Launch) : (s.setLaunch l x).holdFlags = s.holdFlags := rfl
@[simp] theorem State.setLaunch_arrivals (s : State) (l : Nat) (x : Launch) : (s.setLaunch l x).arrivals = s.arrivals := rfl
@[simp] theorem State.setLaunch_sfus (s : State) (l : Nat) (x : Launch) : (s.setLaunch l x).sfus = s.sfus := rfl
@[simp] theorem State.setLaunch_reqs (s : State) (l : Nat) (x : Launch) : (s.setLaunch l x).reqs = s.reqs := rfl
@[simp] theorem State.setLaunch_slotReqs (s : State) (l : Nat) (x : Launch) : (s.setLaunch l x).slotReqs = s.slotReqs := rfl
@[simp] theorem State.setLaunch_tlbs (s : State) (l : Nat) (x : Launch) : (s.setLaunch l x).tlbs = s.tlbs := rfl
@[simp] theorem State.setLaunch_watchOps (s : State) (l : Nat) (x : Launch) : (s.setLaunch l x).watchOps = s.watchOps := rfl
@[simp] theorem State.setLaunch_engines (s : State) (l : Nat) (x : Launch) : (s.setLaunch l x).engines = s.engines := rfl
@[simp] theorem State.setLaunch_nodes (s : State) (l : Nat) (x : Launch) : (s.setLaunch l x).nodes = s.nodes := rfl
@[simp] theorem State.setLaunch_links (s : State) (l : Nat) (x : Launch) : (s.setLaunch l x).links = s.links := rfl
@[simp] theorem State.setLaunch_passes (s : State) (l : Nat) (x : Launch) : (s.setLaunch l x).passes = s.passes := rfl
@[simp] theorem State.setLaunch_faults (s : State) (l : Nat) (x : Launch) : (s.setLaunch l x).faults = s.faults := rfl
@[simp] theorem State.setLaunch_cmds (s : State) (l : Nat) (x : Launch) : (s.setLaunch l x).cmds = s.cmds := rfl
@[simp] theorem State.setLaunch_books (s : State) (l : Nat) (x : Launch) : (s.setLaunch l x).books = s.books := rfl
@[simp] theorem State.setLaunch_boot (s : State) (l : Nat) (x : Launch) : (s.setLaunch l x).boot = s.boot := rfl
@[simp] theorem State.setLaunch_power (s : State) (l : Nat) (x : Launch) : (s.setLaunch l x).power = s.power := rfl
@[simp] theorem State.setLaunch_clock (s : State) (l : Nat) (x : Launch) : (s.setLaunch l x).clock = s.clock := rfl
@[simp] theorem State.setLaunch_copies (s : State) (l : Nat) (x : Launch) : (s.setLaunch l x).copies = s.copies := rfl
@[simp] theorem State.setLaunch_security (s : State) (l : Nat) (x : Launch) : (s.setLaunch l x).security = s.security := rfl
@[simp] theorem State.setLaunch_debug (s : State) (l : Nat) (x : Launch) : (s.setLaunch l x).debug = s.debug := rfl
@[simp] theorem State.setLaunch_heart (s : State) (l : Nat) (x : Launch) : (s.setLaunch l x).heart = s.heart := rfl
@[simp] theorem State.setLaunch_failedPorts (s : State) (l : Nat) (x : Launch) : (s.setLaunch l x).failedPorts = s.failedPorts := rfl
@[simp] theorem State.setLaunch_dumps (s : State) (l : Nat) (x : Launch) : (s.setLaunch l x).dumps = s.dumps := rfl
@[simp] theorem State.setLaunch_cycle (s : State) (l : Nat) (x : Launch) : (s.setLaunch l x).cycle = s.cycle := rfl
@[simp] theorem State.setLaunch_nextId (s : State) (l : Nat) (x : Launch) : (s.setLaunch l x).nextId = s.nextId := rfl
@[simp] theorem State.setLaunch_free (s : State) (l : Nat) (x : Launch) : (s.setLaunch l x).free = s.free := rfl
@[simp] theorem State.setLaunch_agenda (s : State) (l : Nat) (x : Launch) : (s.setLaunch l x).agenda = s.agenda := rfl
@[simp] theorem State.setLaunch_cur (s : State) (l : Nat) (x : Launch) : (s.setLaunch l x).cur = s.cur := rfl
@[simp] theorem State.setLaunch_latch (s : State) (l : Nat) (x : Launch) : (s.setLaunch l x).latch = s.latch := rfl

/-! ## State.setCore -/

@[simp] theorem State.setCore_mem (s : State) (c : Core) : (s.setCore c).mem = s.mem := rfl
@[simp] theorem State.setCore_ws (s : State) (c : Core) : (s.setCore c).ws = s.ws := rfl
@[simp] theorem State.setCore_scr (s : State) (c : Core) : (s.setCore c).scr = s.scr := rfl
@[simp] theorem State.setCore_bands (s : State) (c : Core) : (s.setCore c).bands = s.bands := rfl
@[simp] theorem State.setCore_crews (s : State) (c : Core) : (s.setCore c).crews = s.crews := rfl
@[simp] theorem State.setCore_launches (s : State) (c : Core) : (s.setCore c).launches = s.launches := rfl
@[simp] theorem State.setCore_cores (s : State) (c : Core) : (s.setCore c).cores = setCoreIn s.cores c := rfl
@[simp] theorem State.setCore_dies (s : State) (c : Core) : (s.setCore c).dies = s.dies := rfl
@[simp] theorem State.setCore_boundaries (s : State) (c : Core) : (s.setCore c).boundaries = s.boundaries := rfl
@[simp] theorem State.setCore_ctxs (s : State) (c : Core) : (s.setCore c).ctxs = s.ctxs := rfl
@[simp] theorem State.setCore_queues (s : State) (c : Core) : (s.setCore c).queues = s.queues := rfl
@[simp] theorem State.setCore_ctlRunning (s : State) (c : Core) : (s.setCore c).ctlRunning = s.ctlRunning := rfl
@[simp] theorem State.setCore_watches (s : State) (c : Core) : (s.setCore c).watches = s.watches := rfl
@[simp] theorem State.setCore_sprouts (s : State) (c : Core) : (s.setCore c).sprouts = s.sprouts := rfl
@[simp] theorem State.setCore_accesses (s : State) (c : Core) : (s.setCore c).accesses = s.accesses := rfl
@[simp] theorem State.setCore_late (s : State) (c : Core) : (s.setCore c).late = s.late := rfl
@[simp] theorem State.setCore_holdFlags (s : State) (c : Core) : (s.setCore c).holdFlags = s.holdFlags := rfl
@[simp] theorem State.setCore_arrivals (s : State) (c : Core) : (s.setCore c).arrivals = s.arrivals := rfl
@[simp] theorem State.setCore_sfus (s : State) (c : Core) : (s.setCore c).sfus = s.sfus := rfl
@[simp] theorem State.setCore_reqs (s : State) (c : Core) : (s.setCore c).reqs = s.reqs := rfl
@[simp] theorem State.setCore_slotReqs (s : State) (c : Core) : (s.setCore c).slotReqs = s.slotReqs := rfl
@[simp] theorem State.setCore_tlbs (s : State) (c : Core) : (s.setCore c).tlbs = s.tlbs := rfl
@[simp] theorem State.setCore_watchOps (s : State) (c : Core) : (s.setCore c).watchOps = s.watchOps := rfl
@[simp] theorem State.setCore_engines (s : State) (c : Core) : (s.setCore c).engines = s.engines := rfl
@[simp] theorem State.setCore_nodes (s : State) (c : Core) : (s.setCore c).nodes = s.nodes := rfl
@[simp] theorem State.setCore_links (s : State) (c : Core) : (s.setCore c).links = s.links := rfl
@[simp] theorem State.setCore_passes (s : State) (c : Core) : (s.setCore c).passes = s.passes := rfl
@[simp] theorem State.setCore_faults (s : State) (c : Core) : (s.setCore c).faults = s.faults := rfl
@[simp] theorem State.setCore_cmds (s : State) (c : Core) : (s.setCore c).cmds = s.cmds := rfl
@[simp] theorem State.setCore_books (s : State) (c : Core) : (s.setCore c).books = s.books := rfl
@[simp] theorem State.setCore_boot (s : State) (c : Core) : (s.setCore c).boot = s.boot := rfl
@[simp] theorem State.setCore_power (s : State) (c : Core) : (s.setCore c).power = s.power := rfl
@[simp] theorem State.setCore_clock (s : State) (c : Core) : (s.setCore c).clock = s.clock := rfl
@[simp] theorem State.setCore_copies (s : State) (c : Core) : (s.setCore c).copies = s.copies := rfl
@[simp] theorem State.setCore_security (s : State) (c : Core) : (s.setCore c).security = s.security := rfl
@[simp] theorem State.setCore_debug (s : State) (c : Core) : (s.setCore c).debug = s.debug := rfl
@[simp] theorem State.setCore_heart (s : State) (c : Core) : (s.setCore c).heart = s.heart := rfl
@[simp] theorem State.setCore_failedPorts (s : State) (c : Core) : (s.setCore c).failedPorts = s.failedPorts := rfl
@[simp] theorem State.setCore_dumps (s : State) (c : Core) : (s.setCore c).dumps = s.dumps := rfl
@[simp] theorem State.setCore_cycle (s : State) (c : Core) : (s.setCore c).cycle = s.cycle := rfl
@[simp] theorem State.setCore_nextId (s : State) (c : Core) : (s.setCore c).nextId = s.nextId := rfl
@[simp] theorem State.setCore_free (s : State) (c : Core) : (s.setCore c).free = s.free := rfl
@[simp] theorem State.setCore_agenda (s : State) (c : Core) : (s.setCore c).agenda = s.agenda := rfl
@[simp] theorem State.setCore_cur (s : State) (c : Core) : (s.setCore c).cur = s.cur := rfl
@[simp] theorem State.setCore_latch (s : State) (c : Core) : (s.setCore c).latch = s.latch := rfl

/-! ## State.setDie -/

@[simp] theorem State.setDie_mem (s : State) (d : Nat) (x : Die) : (s.setDie d x).mem = s.mem := rfl
@[simp] theorem State.setDie_ws (s : State) (d : Nat) (x : Die) : (s.setDie d x).ws = s.ws := rfl
@[simp] theorem State.setDie_scr (s : State) (d : Nat) (x : Die) : (s.setDie d x).scr = s.scr := rfl
@[simp] theorem State.setDie_bands (s : State) (d : Nat) (x : Die) : (s.setDie d x).bands = s.bands := rfl
@[simp] theorem State.setDie_crews (s : State) (d : Nat) (x : Die) : (s.setDie d x).crews = s.crews := rfl
@[simp] theorem State.setDie_launches (s : State) (d : Nat) (x : Die) : (s.setDie d x).launches = s.launches := rfl
@[simp] theorem State.setDie_cores (s : State) (d : Nat) (x : Die) : (s.setDie d x).cores = s.cores := rfl
@[simp] theorem State.setDie_dies (s : State) (d : Nat) (x : Die) : (s.setDie d x).dies = s.dies.setIfInBounds d x := rfl
@[simp] theorem State.setDie_boundaries (s : State) (d : Nat) (x : Die) : (s.setDie d x).boundaries = s.boundaries := rfl
@[simp] theorem State.setDie_ctxs (s : State) (d : Nat) (x : Die) : (s.setDie d x).ctxs = s.ctxs := rfl
@[simp] theorem State.setDie_queues (s : State) (d : Nat) (x : Die) : (s.setDie d x).queues = s.queues := rfl
@[simp] theorem State.setDie_ctlRunning (s : State) (d : Nat) (x : Die) : (s.setDie d x).ctlRunning = s.ctlRunning := rfl
@[simp] theorem State.setDie_watches (s : State) (d : Nat) (x : Die) : (s.setDie d x).watches = s.watches := rfl
@[simp] theorem State.setDie_sprouts (s : State) (d : Nat) (x : Die) : (s.setDie d x).sprouts = s.sprouts := rfl
@[simp] theorem State.setDie_accesses (s : State) (d : Nat) (x : Die) : (s.setDie d x).accesses = s.accesses := rfl
@[simp] theorem State.setDie_late (s : State) (d : Nat) (x : Die) : (s.setDie d x).late = s.late := rfl
@[simp] theorem State.setDie_holdFlags (s : State) (d : Nat) (x : Die) : (s.setDie d x).holdFlags = s.holdFlags := rfl
@[simp] theorem State.setDie_arrivals (s : State) (d : Nat) (x : Die) : (s.setDie d x).arrivals = s.arrivals := rfl
@[simp] theorem State.setDie_sfus (s : State) (d : Nat) (x : Die) : (s.setDie d x).sfus = s.sfus := rfl
@[simp] theorem State.setDie_reqs (s : State) (d : Nat) (x : Die) : (s.setDie d x).reqs = s.reqs := rfl
@[simp] theorem State.setDie_slotReqs (s : State) (d : Nat) (x : Die) : (s.setDie d x).slotReqs = s.slotReqs := rfl
@[simp] theorem State.setDie_tlbs (s : State) (d : Nat) (x : Die) : (s.setDie d x).tlbs = s.tlbs := rfl
@[simp] theorem State.setDie_watchOps (s : State) (d : Nat) (x : Die) : (s.setDie d x).watchOps = s.watchOps := rfl
@[simp] theorem State.setDie_engines (s : State) (d : Nat) (x : Die) : (s.setDie d x).engines = s.engines := rfl
@[simp] theorem State.setDie_nodes (s : State) (d : Nat) (x : Die) : (s.setDie d x).nodes = s.nodes := rfl
@[simp] theorem State.setDie_links (s : State) (d : Nat) (x : Die) : (s.setDie d x).links = s.links := rfl
@[simp] theorem State.setDie_passes (s : State) (d : Nat) (x : Die) : (s.setDie d x).passes = s.passes := rfl
@[simp] theorem State.setDie_faults (s : State) (d : Nat) (x : Die) : (s.setDie d x).faults = s.faults := rfl
@[simp] theorem State.setDie_cmds (s : State) (d : Nat) (x : Die) : (s.setDie d x).cmds = s.cmds := rfl
@[simp] theorem State.setDie_books (s : State) (d : Nat) (x : Die) : (s.setDie d x).books = s.books := rfl
@[simp] theorem State.setDie_boot (s : State) (d : Nat) (x : Die) : (s.setDie d x).boot = s.boot := rfl
@[simp] theorem State.setDie_power (s : State) (d : Nat) (x : Die) : (s.setDie d x).power = s.power := rfl
@[simp] theorem State.setDie_clock (s : State) (d : Nat) (x : Die) : (s.setDie d x).clock = s.clock := rfl
@[simp] theorem State.setDie_copies (s : State) (d : Nat) (x : Die) : (s.setDie d x).copies = s.copies := rfl
@[simp] theorem State.setDie_security (s : State) (d : Nat) (x : Die) : (s.setDie d x).security = s.security := rfl
@[simp] theorem State.setDie_debug (s : State) (d : Nat) (x : Die) : (s.setDie d x).debug = s.debug := rfl
@[simp] theorem State.setDie_heart (s : State) (d : Nat) (x : Die) : (s.setDie d x).heart = s.heart := rfl
@[simp] theorem State.setDie_failedPorts (s : State) (d : Nat) (x : Die) : (s.setDie d x).failedPorts = s.failedPorts := rfl
@[simp] theorem State.setDie_dumps (s : State) (d : Nat) (x : Die) : (s.setDie d x).dumps = s.dumps := rfl
@[simp] theorem State.setDie_cycle (s : State) (d : Nat) (x : Die) : (s.setDie d x).cycle = s.cycle := rfl
@[simp] theorem State.setDie_nextId (s : State) (d : Nat) (x : Die) : (s.setDie d x).nextId = s.nextId := rfl
@[simp] theorem State.setDie_free (s : State) (d : Nat) (x : Die) : (s.setDie d x).free = s.free := rfl
@[simp] theorem State.setDie_agenda (s : State) (d : Nat) (x : Die) : (s.setDie d x).agenda = s.agenda := rfl
@[simp] theorem State.setDie_cur (s : State) (d : Nat) (x : Die) : (s.setDie d x).cur = s.cur := rfl
@[simp] theorem State.setDie_latch (s : State) (d : Nat) (x : Die) : (s.setDie d x).latch = s.latch := rfl

/-! ## State.setCtx -/

@[simp] theorem State.setCtx_mem (s : State) (x : Ctx) : (s.setCtx x).mem = s.mem := rfl
@[simp] theorem State.setCtx_ws (s : State) (x : Ctx) : (s.setCtx x).ws = s.ws := rfl
@[simp] theorem State.setCtx_scr (s : State) (x : Ctx) : (s.setCtx x).scr = s.scr := rfl
@[simp] theorem State.setCtx_bands (s : State) (x : Ctx) : (s.setCtx x).bands = s.bands := rfl
@[simp] theorem State.setCtx_crews (s : State) (x : Ctx) : (s.setCtx x).crews = s.crews := rfl
@[simp] theorem State.setCtx_launches (s : State) (x : Ctx) : (s.setCtx x).launches = s.launches := rfl
@[simp] theorem State.setCtx_cores (s : State) (x : Ctx) : (s.setCtx x).cores = s.cores := rfl
@[simp] theorem State.setCtx_dies (s : State) (x : Ctx) : (s.setCtx x).dies = s.dies := rfl
@[simp] theorem State.setCtx_boundaries (s : State) (x : Ctx) : (s.setCtx x).boundaries = s.boundaries := rfl
@[simp] theorem State.setCtx_ctxs (s : State) (x : Ctx) : (s.setCtx x).ctxs = s.ctxs.map fun c => if c.id == x.id then x else c := rfl
@[simp] theorem State.setCtx_queues (s : State) (x : Ctx) : (s.setCtx x).queues = s.queues := rfl
@[simp] theorem State.setCtx_ctlRunning (s : State) (x : Ctx) : (s.setCtx x).ctlRunning = s.ctlRunning := rfl
@[simp] theorem State.setCtx_watches (s : State) (x : Ctx) : (s.setCtx x).watches = s.watches := rfl
@[simp] theorem State.setCtx_sprouts (s : State) (x : Ctx) : (s.setCtx x).sprouts = s.sprouts := rfl
@[simp] theorem State.setCtx_accesses (s : State) (x : Ctx) : (s.setCtx x).accesses = s.accesses := rfl
@[simp] theorem State.setCtx_late (s : State) (x : Ctx) : (s.setCtx x).late = s.late := rfl
@[simp] theorem State.setCtx_holdFlags (s : State) (x : Ctx) : (s.setCtx x).holdFlags = s.holdFlags := rfl
@[simp] theorem State.setCtx_arrivals (s : State) (x : Ctx) : (s.setCtx x).arrivals = s.arrivals := rfl
@[simp] theorem State.setCtx_sfus (s : State) (x : Ctx) : (s.setCtx x).sfus = s.sfus := rfl
@[simp] theorem State.setCtx_reqs (s : State) (x : Ctx) : (s.setCtx x).reqs = s.reqs := rfl
@[simp] theorem State.setCtx_slotReqs (s : State) (x : Ctx) : (s.setCtx x).slotReqs = s.slotReqs := rfl
@[simp] theorem State.setCtx_tlbs (s : State) (x : Ctx) : (s.setCtx x).tlbs = s.tlbs := rfl
@[simp] theorem State.setCtx_watchOps (s : State) (x : Ctx) : (s.setCtx x).watchOps = s.watchOps := rfl
@[simp] theorem State.setCtx_engines (s : State) (x : Ctx) : (s.setCtx x).engines = s.engines := rfl
@[simp] theorem State.setCtx_nodes (s : State) (x : Ctx) : (s.setCtx x).nodes = s.nodes := rfl
@[simp] theorem State.setCtx_links (s : State) (x : Ctx) : (s.setCtx x).links = s.links := rfl
@[simp] theorem State.setCtx_passes (s : State) (x : Ctx) : (s.setCtx x).passes = s.passes := rfl
@[simp] theorem State.setCtx_faults (s : State) (x : Ctx) : (s.setCtx x).faults = s.faults := rfl
@[simp] theorem State.setCtx_cmds (s : State) (x : Ctx) : (s.setCtx x).cmds = s.cmds := rfl
@[simp] theorem State.setCtx_books (s : State) (x : Ctx) : (s.setCtx x).books = s.books := rfl
@[simp] theorem State.setCtx_boot (s : State) (x : Ctx) : (s.setCtx x).boot = s.boot := rfl
@[simp] theorem State.setCtx_power (s : State) (x : Ctx) : (s.setCtx x).power = s.power := rfl
@[simp] theorem State.setCtx_clock (s : State) (x : Ctx) : (s.setCtx x).clock = s.clock := rfl
@[simp] theorem State.setCtx_copies (s : State) (x : Ctx) : (s.setCtx x).copies = s.copies := rfl
@[simp] theorem State.setCtx_security (s : State) (x : Ctx) : (s.setCtx x).security = s.security := rfl
@[simp] theorem State.setCtx_debug (s : State) (x : Ctx) : (s.setCtx x).debug = s.debug := rfl
@[simp] theorem State.setCtx_heart (s : State) (x : Ctx) : (s.setCtx x).heart = s.heart := rfl
@[simp] theorem State.setCtx_failedPorts (s : State) (x : Ctx) : (s.setCtx x).failedPorts = s.failedPorts := rfl
@[simp] theorem State.setCtx_dumps (s : State) (x : Ctx) : (s.setCtx x).dumps = s.dumps := rfl
@[simp] theorem State.setCtx_cycle (s : State) (x : Ctx) : (s.setCtx x).cycle = s.cycle := rfl
@[simp] theorem State.setCtx_nextId (s : State) (x : Ctx) : (s.setCtx x).nextId = s.nextId := rfl
@[simp] theorem State.setCtx_free (s : State) (x : Ctx) : (s.setCtx x).free = s.free := rfl
@[simp] theorem State.setCtx_agenda (s : State) (x : Ctx) : (s.setCtx x).agenda = s.agenda := rfl
@[simp] theorem State.setCtx_cur (s : State) (x : Ctx) : (s.setCtx x).cur = s.cur := rfl
@[simp] theorem State.setCtx_latch (s : State) (x : Ctx) : (s.setCtx x).latch = s.latch := rfl

/-! ## State.setQueue -/

@[simp] theorem State.setQueue_mem (s : State) (x : Queue) : (s.setQueue x).mem = s.mem := rfl
@[simp] theorem State.setQueue_ws (s : State) (x : Queue) : (s.setQueue x).ws = s.ws := rfl
@[simp] theorem State.setQueue_scr (s : State) (x : Queue) : (s.setQueue x).scr = s.scr := rfl
@[simp] theorem State.setQueue_bands (s : State) (x : Queue) : (s.setQueue x).bands = s.bands := rfl
@[simp] theorem State.setQueue_crews (s : State) (x : Queue) : (s.setQueue x).crews = s.crews := rfl
@[simp] theorem State.setQueue_launches (s : State) (x : Queue) : (s.setQueue x).launches = s.launches := rfl
@[simp] theorem State.setQueue_cores (s : State) (x : Queue) : (s.setQueue x).cores = s.cores := rfl
@[simp] theorem State.setQueue_dies (s : State) (x : Queue) : (s.setQueue x).dies = s.dies := rfl
@[simp] theorem State.setQueue_boundaries (s : State) (x : Queue) : (s.setQueue x).boundaries = s.boundaries := rfl
@[simp] theorem State.setQueue_ctxs (s : State) (x : Queue) : (s.setQueue x).ctxs = s.ctxs := rfl
@[simp] theorem State.setQueue_queues (s : State) (x : Queue) : (s.setQueue x).queues = s.queues.map fun c => if c.id == x.id then x else c := rfl
@[simp] theorem State.setQueue_ctlRunning (s : State) (x : Queue) : (s.setQueue x).ctlRunning = s.ctlRunning := rfl
@[simp] theorem State.setQueue_watches (s : State) (x : Queue) : (s.setQueue x).watches = s.watches := rfl
@[simp] theorem State.setQueue_sprouts (s : State) (x : Queue) : (s.setQueue x).sprouts = s.sprouts := rfl
@[simp] theorem State.setQueue_accesses (s : State) (x : Queue) : (s.setQueue x).accesses = s.accesses := rfl
@[simp] theorem State.setQueue_late (s : State) (x : Queue) : (s.setQueue x).late = s.late := rfl
@[simp] theorem State.setQueue_holdFlags (s : State) (x : Queue) : (s.setQueue x).holdFlags = s.holdFlags := rfl
@[simp] theorem State.setQueue_arrivals (s : State) (x : Queue) : (s.setQueue x).arrivals = s.arrivals := rfl
@[simp] theorem State.setQueue_sfus (s : State) (x : Queue) : (s.setQueue x).sfus = s.sfus := rfl
@[simp] theorem State.setQueue_reqs (s : State) (x : Queue) : (s.setQueue x).reqs = s.reqs := rfl
@[simp] theorem State.setQueue_slotReqs (s : State) (x : Queue) : (s.setQueue x).slotReqs = s.slotReqs := rfl
@[simp] theorem State.setQueue_tlbs (s : State) (x : Queue) : (s.setQueue x).tlbs = s.tlbs := rfl
@[simp] theorem State.setQueue_watchOps (s : State) (x : Queue) : (s.setQueue x).watchOps = s.watchOps := rfl
@[simp] theorem State.setQueue_engines (s : State) (x : Queue) : (s.setQueue x).engines = s.engines := rfl
@[simp] theorem State.setQueue_nodes (s : State) (x : Queue) : (s.setQueue x).nodes = s.nodes := rfl
@[simp] theorem State.setQueue_links (s : State) (x : Queue) : (s.setQueue x).links = s.links := rfl
@[simp] theorem State.setQueue_passes (s : State) (x : Queue) : (s.setQueue x).passes = s.passes := rfl
@[simp] theorem State.setQueue_faults (s : State) (x : Queue) : (s.setQueue x).faults = s.faults := rfl
@[simp] theorem State.setQueue_cmds (s : State) (x : Queue) : (s.setQueue x).cmds = s.cmds := rfl
@[simp] theorem State.setQueue_books (s : State) (x : Queue) : (s.setQueue x).books = s.books := rfl
@[simp] theorem State.setQueue_boot (s : State) (x : Queue) : (s.setQueue x).boot = s.boot := rfl
@[simp] theorem State.setQueue_power (s : State) (x : Queue) : (s.setQueue x).power = s.power := rfl
@[simp] theorem State.setQueue_clock (s : State) (x : Queue) : (s.setQueue x).clock = s.clock := rfl
@[simp] theorem State.setQueue_copies (s : State) (x : Queue) : (s.setQueue x).copies = s.copies := rfl
@[simp] theorem State.setQueue_security (s : State) (x : Queue) : (s.setQueue x).security = s.security := rfl
@[simp] theorem State.setQueue_debug (s : State) (x : Queue) : (s.setQueue x).debug = s.debug := rfl
@[simp] theorem State.setQueue_heart (s : State) (x : Queue) : (s.setQueue x).heart = s.heart := rfl
@[simp] theorem State.setQueue_failedPorts (s : State) (x : Queue) : (s.setQueue x).failedPorts = s.failedPorts := rfl
@[simp] theorem State.setQueue_dumps (s : State) (x : Queue) : (s.setQueue x).dumps = s.dumps := rfl
@[simp] theorem State.setQueue_cycle (s : State) (x : Queue) : (s.setQueue x).cycle = s.cycle := rfl
@[simp] theorem State.setQueue_nextId (s : State) (x : Queue) : (s.setQueue x).nextId = s.nextId := rfl
@[simp] theorem State.setQueue_free (s : State) (x : Queue) : (s.setQueue x).free = s.free := rfl
@[simp] theorem State.setQueue_agenda (s : State) (x : Queue) : (s.setQueue x).agenda = s.agenda := rfl
@[simp] theorem State.setQueue_cur (s : State) (x : Queue) : (s.setQueue x).cur = s.cur := rfl
@[simp] theorem State.setQueue_latch (s : State) (x : Queue) : (s.setQueue x).latch = s.latch := rfl

/-! ## State.tickFree -/

@[simp] theorem State.tickFree_mem (s : State) : s.tickFree.mem = s.mem := rfl
@[simp] theorem State.tickFree_ws (s : State) : s.tickFree.ws = s.ws := rfl
@[simp] theorem State.tickFree_scr (s : State) : s.tickFree.scr = s.scr := rfl
@[simp] theorem State.tickFree_bands (s : State) : s.tickFree.bands = s.bands := rfl
@[simp] theorem State.tickFree_crews (s : State) : s.tickFree.crews = s.crews := rfl
@[simp] theorem State.tickFree_launches (s : State) : s.tickFree.launches = s.launches := rfl
@[simp] theorem State.tickFree_cores (s : State) : s.tickFree.cores = s.cores := rfl
@[simp] theorem State.tickFree_dies (s : State) : s.tickFree.dies = s.dies := rfl
@[simp] theorem State.tickFree_boundaries (s : State) : s.tickFree.boundaries = s.boundaries := rfl
@[simp] theorem State.tickFree_ctxs (s : State) : s.tickFree.ctxs = s.ctxs := rfl
@[simp] theorem State.tickFree_queues (s : State) : s.tickFree.queues = s.queues := rfl
@[simp] theorem State.tickFree_ctlRunning (s : State) : s.tickFree.ctlRunning = s.ctlRunning := rfl
@[simp] theorem State.tickFree_watches (s : State) : s.tickFree.watches = s.watches := rfl
@[simp] theorem State.tickFree_sprouts (s : State) : s.tickFree.sprouts = s.sprouts := rfl
@[simp] theorem State.tickFree_accesses (s : State) : s.tickFree.accesses = s.accesses := rfl
@[simp] theorem State.tickFree_late (s : State) : s.tickFree.late = s.late := rfl
@[simp] theorem State.tickFree_holdFlags (s : State) : s.tickFree.holdFlags = s.holdFlags := rfl
@[simp] theorem State.tickFree_arrivals (s : State) : s.tickFree.arrivals = s.arrivals := rfl
@[simp] theorem State.tickFree_sfus (s : State) : s.tickFree.sfus = s.sfus := rfl
@[simp] theorem State.tickFree_reqs (s : State) : s.tickFree.reqs = s.reqs := rfl
@[simp] theorem State.tickFree_slotReqs (s : State) : s.tickFree.slotReqs = s.slotReqs := rfl
@[simp] theorem State.tickFree_tlbs (s : State) : s.tickFree.tlbs = s.tlbs := rfl
@[simp] theorem State.tickFree_watchOps (s : State) : s.tickFree.watchOps = s.watchOps := rfl
@[simp] theorem State.tickFree_engines (s : State) : s.tickFree.engines = s.engines := rfl
@[simp] theorem State.tickFree_nodes (s : State) : s.tickFree.nodes = s.nodes := rfl
@[simp] theorem State.tickFree_links (s : State) : s.tickFree.links = s.links := rfl
@[simp] theorem State.tickFree_passes (s : State) : s.tickFree.passes = s.passes := rfl
@[simp] theorem State.tickFree_faults (s : State) : s.tickFree.faults = s.faults := rfl
@[simp] theorem State.tickFree_cmds (s : State) : s.tickFree.cmds = s.cmds := rfl
@[simp] theorem State.tickFree_books (s : State) : s.tickFree.books = s.books := rfl
@[simp] theorem State.tickFree_boot (s : State) : s.tickFree.boot = s.boot := rfl
@[simp] theorem State.tickFree_power (s : State) : s.tickFree.power = s.power := rfl
@[simp] theorem State.tickFree_clock (s : State) : s.tickFree.clock = s.clock := rfl
@[simp] theorem State.tickFree_copies (s : State) : s.tickFree.copies = s.copies := rfl
@[simp] theorem State.tickFree_security (s : State) : s.tickFree.security = s.security := rfl
@[simp] theorem State.tickFree_debug (s : State) : s.tickFree.debug = s.debug := rfl
@[simp] theorem State.tickFree_heart (s : State) : s.tickFree.heart = s.heart := rfl
@[simp] theorem State.tickFree_failedPorts (s : State) : s.tickFree.failedPorts = s.failedPorts := rfl
@[simp] theorem State.tickFree_dumps (s : State) : s.tickFree.dumps = s.dumps := rfl
@[simp] theorem State.tickFree_cycle (s : State) : s.tickFree.cycle = s.cycle := rfl
@[simp] theorem State.tickFree_nextId (s : State) : s.tickFree.nextId = s.nextId := rfl
@[simp] theorem State.tickFree_free (s : State) : s.tickFree.free = s.free + 1 := rfl
@[simp] theorem State.tickFree_agenda (s : State) : s.tickFree.agenda = s.agenda := rfl
@[simp] theorem State.tickFree_cur (s : State) : s.tickFree.cur = s.cur := rfl
@[simp] theorem State.tickFree_latch (s : State) : s.tickFree.latch = s.latch := rfl

/-! ## Band.setLane -/

@[simp] theorem Band.setLane_crew (b : Band) (t : Nat) (l : Lane) : (b.setLane t l).crew = b.crew := rfl
@[simp] theorem Band.setLane_num (b : Band) (t : Nat) (l : Lane) : (b.setLane t l).num = b.num := rfl
@[simp] theorem Band.setLane_core (b : Band) (t : Nat) (l : Lane) : (b.setLane t l).core = b.core := rfl
@[simp] theorem Band.setLane_quarter (b : Band) (t : Nat) (l : Lane) : (b.setLane t l).quarter = b.quarter := rfl
@[simp] theorem Band.setLane_slot (b : Band) (t : Nat) (l : Lane) : (b.setLane t l).slot = b.slot := rfl
@[simp] theorem Band.setLane_lanes (b : Band) (t : Nat) (l : Lane) : (b.setLane t l).lanes = b.lanes.setIfInBounds t l := rfl
@[simp] theorem Band.setLane_s (b : Band) (t : Nat) (l : Lane) : (b.setLane t l).s = b.s := rfl
@[simp] theorem Band.setLane_fpctl (b : Band) (t : Nat) (l : Lane) : (b.setLane t l).fpctl = b.fpctl := rfl
@[simp] theorem Band.setLane_fpLate (b : Band) (t : Nat) (l : Lane) : (b.setLane t l).fpLate = b.fpLate := rfl
@[simp] theorem Band.setLane_cursor (b : Band) (t : Nat) (l : Lane) : (b.setLane t l).cursor = b.cursor := rfl
@[simp] theorem Band.setLane_flags (b : Band) (t : Nat) (l : Lane) : (b.setLane t l).flags = b.flags := rfl
@[simp] theorem Band.setLane_unsettled (b : Band) (t : Nat) (l : Lane) : (b.setLane t l).unsettled = b.unsettled := rfl
@[simp] theorem Band.setLane_inFlight (b : Band) (t : Nat) (l : Lane) : (b.setLane t l).inFlight = b.inFlight := rfl
@[simp] theorem Band.setLane_lastIssue (b : Band) (t : Nat) (l : Lane) : (b.setLane t l).lastIssue = b.lastIssue := rfl
@[simp] theorem Band.setLane_nextPc (b : Band) (t : Nat) (l : Lane) : (b.setLane t l).nextPc = b.nextPc := rfl
@[simp] theorem Band.setLane_lastSet (b : Band) (t : Nat) (l : Lane) : (b.setLane t l).lastSet = b.lastSet := rfl
@[simp] theorem Band.setLane_issued (b : Band) (t : Nat) (l : Lane) : (b.setLane t l).issued = b.issued := rfl
@[simp] theorem Band.setLane_gran (b : Band) (t : Nat) (l : Lane) : (b.setLane t l).gran = b.gran := rfl
@[simp] theorem Band.setLane_absentGran (b : Band) (t : Nat) (l : Lane) : (b.setLane t l).absentGran = b.absentGran := rfl
@[simp] theorem Band.setLane_spilled (b : Band) (t : Nat) (l : Lane) : (b.setLane t l).spilled = b.spilled := rfl
@[simp] theorem Band.setLane_saved (b : Band) (t : Nat) (l : Lane) : (b.setLane t l).saved = b.saved := rfl
@[simp] theorem Band.setLane_check (b : Band) (t : Nat) (l : Lane) : (b.setLane t l).check = b.check := rfl
@[simp] theorem Band.setLane_drst (b : Band) (t : Nat) (l : Lane) : (b.setLane t l).drst = b.drst := rfl
@[simp] theorem Band.setLane_segScr (b : Band) (t : Nat) (l : Lane) : (b.setLane t l).segScr = b.segScr := rfl
@[simp] theorem Band.setLane_segStk (b : Band) (t : Nat) (l : Lane) : (b.setLane t l).segStk = b.segStk := rfl
@[simp] theorem Band.setLane_segGrv (b : Band) (t : Nat) (l : Lane) : (b.setLane t l).segGrv = b.segGrv := rfl
@[simp] theorem Band.setLane_segWs (b : Band) (t : Nat) (l : Lane) : (b.setLane t l).segWs = b.segWs := rfl
@[simp] theorem Band.setLane_stkArea (b : Band) (t : Nat) (l : Lane) : (b.setLane t l).stkArea = b.stkArea := rfl
@[simp] theorem Band.setLane_grvSelf (b : Band) (t : Nat) (l : Lane) : (b.setLane t l).grvSelf = b.grvSelf := rfl
@[simp] theorem Band.setLane_tvec (b : Band) (t : Nat) (l : Lane) : (b.setLane t l).tvec = b.tvec := rfl
@[simp] theorem Band.setLane_ptroot (b : Band) (t : Nat) (l : Lane) : (b.setLane t l).ptroot = b.ptroot := rfl
@[simp] theorem Band.setLane_trapLane (b : Band) (t : Nat) (l : Lane) : (b.setLane t l).trapLane = b.trapLane := rfl
@[simp] theorem Band.setLane_handler (b : Band) (t : Nat) (l : Lane) : (b.setLane t l).handler = b.handler := rfl
@[simp] theorem Band.setLane_rgnPc (b : Band) (t : Nat) (l : Lane) : (b.setLane t l).rgnPc = b.rgnPc := rfl
@[simp] theorem Band.setLane_rgnOpen (b : Band) (t : Nat) (l : Lane) : (b.setLane t l).rgnOpen = b.rgnOpen := rfl
@[simp] theorem Band.setLane_rgnAborts (b : Band) (t : Nat) (l : Lane) : (b.setLane t l).rgnAborts = b.rgnAborts := rfl
@[simp] theorem Band.setLane_held (b : Band) (t : Nat) (l : Lane) : (b.setLane t l).held = b.held := rfl
@[simp] theorem Band.setLane_glo (b : Band) (t : Nat) (l : Lane) : (b.setLane t l).glo = b.glo := rfl
@[simp] theorem Band.setLane_ghi (b : Band) (t : Nat) (l : Lane) : (b.setLane t l).ghi = b.ghi := rfl
@[simp] theorem Band.setLane_priv (b : Band) (t : Nat) (l : Lane) : (b.setLane t l).priv = b.priv := rfl
@[simp] theorem Band.setLane_stopped (b : Band) (t : Nat) (l : Lane) : (b.setLane t l).stopped = b.stopped := rfl
@[simp] theorem Band.setLane_block (b : Band) (t : Nat) (l : Lane) : (b.setLane t l).block = b.block := rfl
@[simp] theorem Band.setLane_closing (b : Band) (t : Nat) (l : Lane) : (b.setLane t l).closing = b.closing := rfl
@[simp] theorem Band.setLane_paged (b : Band) (t : Nat) (l : Lane) : (b.setLane t l).paged = b.paged := rfl
@[simp] theorem Band.setLane_pageCode (b : Band) (t : Nat) (l : Lane) : (b.setLane t l).pageCode = b.pageCode := rfl
@[simp] theorem Band.setLane_sysPend (b : Band) (t : Nat) (l : Lane) : (b.setLane t l).sysPend = b.sysPend := rfl
@[simp] theorem Band.setLane_gang (b : Band) (t : Nat) (l : Lane) : (b.setLane t l).gang = b.gang := rfl
@[simp] theorem Band.setLane_slots (b : Band) (t : Nat) (l : Lane) : (b.setLane t l).slots = b.slots := rfl

/-! ## Band.mapLanes -/

@[simp] theorem Band.mapLanes_crew (b : Band) (m : BitVec 32) (f : Nat → Lane → Lane) : (b.mapLanes m f).crew = b.crew := rfl
@[simp] theorem Band.mapLanes_num (b : Band) (m : BitVec 32) (f : Nat → Lane → Lane) : (b.mapLanes m f).num = b.num := rfl
@[simp] theorem Band.mapLanes_core (b : Band) (m : BitVec 32) (f : Nat → Lane → Lane) : (b.mapLanes m f).core = b.core := rfl
@[simp] theorem Band.mapLanes_quarter (b : Band) (m : BitVec 32) (f : Nat → Lane → Lane) : (b.mapLanes m f).quarter = b.quarter := rfl
@[simp] theorem Band.mapLanes_slot (b : Band) (m : BitVec 32) (f : Nat → Lane → Lane) : (b.mapLanes m f).slot = b.slot := rfl
@[simp] theorem Band.mapLanes_lanes (b : Band) (m : BitVec 32) (f : Nat → Lane → Lane) : (b.mapLanes m f).lanes = b.lanes.mapFinIdx fun i l _ => if bit m i then f i l else l := rfl
@[simp] theorem Band.mapLanes_s (b : Band) (m : BitVec 32) (f : Nat → Lane → Lane) : (b.mapLanes m f).s = b.s := rfl
@[simp] theorem Band.mapLanes_fpctl (b : Band) (m : BitVec 32) (f : Nat → Lane → Lane) : (b.mapLanes m f).fpctl = b.fpctl := rfl
@[simp] theorem Band.mapLanes_fpLate (b : Band) (m : BitVec 32) (f : Nat → Lane → Lane) : (b.mapLanes m f).fpLate = b.fpLate := rfl
@[simp] theorem Band.mapLanes_cursor (b : Band) (m : BitVec 32) (f : Nat → Lane → Lane) : (b.mapLanes m f).cursor = b.cursor := rfl
@[simp] theorem Band.mapLanes_flags (b : Band) (m : BitVec 32) (f : Nat → Lane → Lane) : (b.mapLanes m f).flags = b.flags := rfl
@[simp] theorem Band.mapLanes_unsettled (b : Band) (m : BitVec 32) (f : Nat → Lane → Lane) : (b.mapLanes m f).unsettled = b.unsettled := rfl
@[simp] theorem Band.mapLanes_inFlight (b : Band) (m : BitVec 32) (f : Nat → Lane → Lane) : (b.mapLanes m f).inFlight = b.inFlight := rfl
@[simp] theorem Band.mapLanes_lastIssue (b : Band) (m : BitVec 32) (f : Nat → Lane → Lane) : (b.mapLanes m f).lastIssue = b.lastIssue := rfl
@[simp] theorem Band.mapLanes_nextPc (b : Band) (m : BitVec 32) (f : Nat → Lane → Lane) : (b.mapLanes m f).nextPc = b.nextPc := rfl
@[simp] theorem Band.mapLanes_lastSet (b : Band) (m : BitVec 32) (f : Nat → Lane → Lane) : (b.mapLanes m f).lastSet = b.lastSet := rfl
@[simp] theorem Band.mapLanes_issued (b : Band) (m : BitVec 32) (f : Nat → Lane → Lane) : (b.mapLanes m f).issued = b.issued := rfl
@[simp] theorem Band.mapLanes_gran (b : Band) (m : BitVec 32) (f : Nat → Lane → Lane) : (b.mapLanes m f).gran = b.gran := rfl
@[simp] theorem Band.mapLanes_absentGran (b : Band) (m : BitVec 32) (f : Nat → Lane → Lane) : (b.mapLanes m f).absentGran = b.absentGran := rfl
@[simp] theorem Band.mapLanes_spilled (b : Band) (m : BitVec 32) (f : Nat → Lane → Lane) : (b.mapLanes m f).spilled = b.spilled := rfl
@[simp] theorem Band.mapLanes_saved (b : Band) (m : BitVec 32) (f : Nat → Lane → Lane) : (b.mapLanes m f).saved = b.saved := rfl
@[simp] theorem Band.mapLanes_check (b : Band) (m : BitVec 32) (f : Nat → Lane → Lane) : (b.mapLanes m f).check = b.check := rfl
@[simp] theorem Band.mapLanes_drst (b : Band) (m : BitVec 32) (f : Nat → Lane → Lane) : (b.mapLanes m f).drst = b.drst := rfl
@[simp] theorem Band.mapLanes_segScr (b : Band) (m : BitVec 32) (f : Nat → Lane → Lane) : (b.mapLanes m f).segScr = b.segScr := rfl
@[simp] theorem Band.mapLanes_segStk (b : Band) (m : BitVec 32) (f : Nat → Lane → Lane) : (b.mapLanes m f).segStk = b.segStk := rfl
@[simp] theorem Band.mapLanes_segGrv (b : Band) (m : BitVec 32) (f : Nat → Lane → Lane) : (b.mapLanes m f).segGrv = b.segGrv := rfl
@[simp] theorem Band.mapLanes_segWs (b : Band) (m : BitVec 32) (f : Nat → Lane → Lane) : (b.mapLanes m f).segWs = b.segWs := rfl
@[simp] theorem Band.mapLanes_stkArea (b : Band) (m : BitVec 32) (f : Nat → Lane → Lane) : (b.mapLanes m f).stkArea = b.stkArea := rfl
@[simp] theorem Band.mapLanes_grvSelf (b : Band) (m : BitVec 32) (f : Nat → Lane → Lane) : (b.mapLanes m f).grvSelf = b.grvSelf := rfl
@[simp] theorem Band.mapLanes_tvec (b : Band) (m : BitVec 32) (f : Nat → Lane → Lane) : (b.mapLanes m f).tvec = b.tvec := rfl
@[simp] theorem Band.mapLanes_ptroot (b : Band) (m : BitVec 32) (f : Nat → Lane → Lane) : (b.mapLanes m f).ptroot = b.ptroot := rfl
@[simp] theorem Band.mapLanes_trapLane (b : Band) (m : BitVec 32) (f : Nat → Lane → Lane) : (b.mapLanes m f).trapLane = b.trapLane := rfl
@[simp] theorem Band.mapLanes_handler (b : Band) (m : BitVec 32) (f : Nat → Lane → Lane) : (b.mapLanes m f).handler = b.handler := rfl
@[simp] theorem Band.mapLanes_rgnPc (b : Band) (m : BitVec 32) (f : Nat → Lane → Lane) : (b.mapLanes m f).rgnPc = b.rgnPc := rfl
@[simp] theorem Band.mapLanes_rgnOpen (b : Band) (m : BitVec 32) (f : Nat → Lane → Lane) : (b.mapLanes m f).rgnOpen = b.rgnOpen := rfl
@[simp] theorem Band.mapLanes_rgnAborts (b : Band) (m : BitVec 32) (f : Nat → Lane → Lane) : (b.mapLanes m f).rgnAborts = b.rgnAborts := rfl
@[simp] theorem Band.mapLanes_held (b : Band) (m : BitVec 32) (f : Nat → Lane → Lane) : (b.mapLanes m f).held = b.held := rfl
@[simp] theorem Band.mapLanes_glo (b : Band) (m : BitVec 32) (f : Nat → Lane → Lane) : (b.mapLanes m f).glo = b.glo := rfl
@[simp] theorem Band.mapLanes_ghi (b : Band) (m : BitVec 32) (f : Nat → Lane → Lane) : (b.mapLanes m f).ghi = b.ghi := rfl
@[simp] theorem Band.mapLanes_priv (b : Band) (m : BitVec 32) (f : Nat → Lane → Lane) : (b.mapLanes m f).priv = b.priv := rfl
@[simp] theorem Band.mapLanes_stopped (b : Band) (m : BitVec 32) (f : Nat → Lane → Lane) : (b.mapLanes m f).stopped = b.stopped := rfl
@[simp] theorem Band.mapLanes_block (b : Band) (m : BitVec 32) (f : Nat → Lane → Lane) : (b.mapLanes m f).block = b.block := rfl
@[simp] theorem Band.mapLanes_closing (b : Band) (m : BitVec 32) (f : Nat → Lane → Lane) : (b.mapLanes m f).closing = b.closing := rfl
@[simp] theorem Band.mapLanes_paged (b : Band) (m : BitVec 32) (f : Nat → Lane → Lane) : (b.mapLanes m f).paged = b.paged := rfl
@[simp] theorem Band.mapLanes_pageCode (b : Band) (m : BitVec 32) (f : Nat → Lane → Lane) : (b.mapLanes m f).pageCode = b.pageCode := rfl
@[simp] theorem Band.mapLanes_sysPend (b : Band) (m : BitVec 32) (f : Nat → Lane → Lane) : (b.mapLanes m f).sysPend = b.sysPend := rfl
@[simp] theorem Band.mapLanes_gang (b : Band) (m : BitVec 32) (f : Nat → Lane → Lane) : (b.mapLanes m f).gang = b.gang := rfl
@[simp] theorem Band.mapLanes_slots (b : Band) (m : BitVec 32) (f : Nat → Lane → Lane) : (b.mapLanes m f).slots = b.slots := rfl

/-! ## Band.setBusy -/

@[simp] theorem Band.setBusy_crew (b : Band) (f : Flag) (p : Pipe) : (b.setBusy f p).crew = b.crew := rfl
@[simp] theorem Band.setBusy_num (b : Band) (f : Flag) (p : Pipe) : (b.setBusy f p).num = b.num := rfl
@[simp] theorem Band.setBusy_core (b : Band) (f : Flag) (p : Pipe) : (b.setBusy f p).core = b.core := rfl
@[simp] theorem Band.setBusy_quarter (b : Band) (f : Flag) (p : Pipe) : (b.setBusy f p).quarter = b.quarter := rfl
@[simp] theorem Band.setBusy_slot (b : Band) (f : Flag) (p : Pipe) : (b.setBusy f p).slot = b.slot := rfl
@[simp] theorem Band.setBusy_lanes (b : Band) (f : Flag) (p : Pipe) : (b.setBusy f p).lanes = b.lanes := rfl
@[simp] theorem Band.setBusy_s (b : Band) (f : Flag) (p : Pipe) : (b.setBusy f p).s = b.s := rfl
@[simp] theorem Band.setBusy_fpctl (b : Band) (f : Flag) (p : Pipe) : (b.setBusy f p).fpctl = b.fpctl := rfl
@[simp] theorem Band.setBusy_fpLate (b : Band) (f : Flag) (p : Pipe) : (b.setBusy f p).fpLate = b.fpLate := rfl
@[simp] theorem Band.setBusy_cursor (b : Band) (f : Flag) (p : Pipe) : (b.setBusy f p).cursor = b.cursor := rfl
@[simp] theorem Band.setBusy_flags (b : Band) (f : Flag) (p : Pipe) : (b.setBusy f p).flags = b.flags.setIfInBounds f.toNat (some p) := rfl
@[simp] theorem Band.setBusy_unsettled (b : Band) (f : Flag) (p : Pipe) : (b.setBusy f p).unsettled = b.unsettled := rfl
@[simp] theorem Band.setBusy_inFlight (b : Band) (f : Flag) (p : Pipe) : (b.setBusy f p).inFlight = b.inFlight := rfl
@[simp] theorem Band.setBusy_lastIssue (b : Band) (f : Flag) (p : Pipe) : (b.setBusy f p).lastIssue = b.lastIssue := rfl
@[simp] theorem Band.setBusy_nextPc (b : Band) (f : Flag) (p : Pipe) : (b.setBusy f p).nextPc = b.nextPc := rfl
@[simp] theorem Band.setBusy_lastSet (b : Band) (f : Flag) (p : Pipe) : (b.setBusy f p).lastSet = b.lastSet := rfl
@[simp] theorem Band.setBusy_issued (b : Band) (f : Flag) (p : Pipe) : (b.setBusy f p).issued = b.issued := rfl
@[simp] theorem Band.setBusy_gran (b : Band) (f : Flag) (p : Pipe) : (b.setBusy f p).gran = b.gran := rfl
@[simp] theorem Band.setBusy_absentGran (b : Band) (f : Flag) (p : Pipe) : (b.setBusy f p).absentGran = b.absentGran := rfl
@[simp] theorem Band.setBusy_spilled (b : Band) (f : Flag) (p : Pipe) : (b.setBusy f p).spilled = b.spilled := rfl
@[simp] theorem Band.setBusy_saved (b : Band) (f : Flag) (p : Pipe) : (b.setBusy f p).saved = b.saved := rfl
@[simp] theorem Band.setBusy_check (b : Band) (f : Flag) (p : Pipe) : (b.setBusy f p).check = b.check := rfl
@[simp] theorem Band.setBusy_drst (b : Band) (f : Flag) (p : Pipe) : (b.setBusy f p).drst = b.drst := rfl
@[simp] theorem Band.setBusy_segScr (b : Band) (f : Flag) (p : Pipe) : (b.setBusy f p).segScr = b.segScr := rfl
@[simp] theorem Band.setBusy_segStk (b : Band) (f : Flag) (p : Pipe) : (b.setBusy f p).segStk = b.segStk := rfl
@[simp] theorem Band.setBusy_segGrv (b : Band) (f : Flag) (p : Pipe) : (b.setBusy f p).segGrv = b.segGrv := rfl
@[simp] theorem Band.setBusy_segWs (b : Band) (f : Flag) (p : Pipe) : (b.setBusy f p).segWs = b.segWs := rfl
@[simp] theorem Band.setBusy_stkArea (b : Band) (f : Flag) (p : Pipe) : (b.setBusy f p).stkArea = b.stkArea := rfl
@[simp] theorem Band.setBusy_grvSelf (b : Band) (f : Flag) (p : Pipe) : (b.setBusy f p).grvSelf = b.grvSelf := rfl
@[simp] theorem Band.setBusy_tvec (b : Band) (f : Flag) (p : Pipe) : (b.setBusy f p).tvec = b.tvec := rfl
@[simp] theorem Band.setBusy_ptroot (b : Band) (f : Flag) (p : Pipe) : (b.setBusy f p).ptroot = b.ptroot := rfl
@[simp] theorem Band.setBusy_trapLane (b : Band) (f : Flag) (p : Pipe) : (b.setBusy f p).trapLane = b.trapLane := rfl
@[simp] theorem Band.setBusy_handler (b : Band) (f : Flag) (p : Pipe) : (b.setBusy f p).handler = b.handler := rfl
@[simp] theorem Band.setBusy_rgnPc (b : Band) (f : Flag) (p : Pipe) : (b.setBusy f p).rgnPc = b.rgnPc := rfl
@[simp] theorem Band.setBusy_rgnOpen (b : Band) (f : Flag) (p : Pipe) : (b.setBusy f p).rgnOpen = b.rgnOpen := rfl
@[simp] theorem Band.setBusy_rgnAborts (b : Band) (f : Flag) (p : Pipe) : (b.setBusy f p).rgnAborts = b.rgnAborts := rfl
@[simp] theorem Band.setBusy_held (b : Band) (f : Flag) (p : Pipe) : (b.setBusy f p).held = b.held := rfl
@[simp] theorem Band.setBusy_glo (b : Band) (f : Flag) (p : Pipe) : (b.setBusy f p).glo = b.glo := rfl
@[simp] theorem Band.setBusy_ghi (b : Band) (f : Flag) (p : Pipe) : (b.setBusy f p).ghi = b.ghi := rfl
@[simp] theorem Band.setBusy_priv (b : Band) (f : Flag) (p : Pipe) : (b.setBusy f p).priv = b.priv := rfl
@[simp] theorem Band.setBusy_stopped (b : Band) (f : Flag) (p : Pipe) : (b.setBusy f p).stopped = b.stopped := rfl
@[simp] theorem Band.setBusy_block (b : Band) (f : Flag) (p : Pipe) : (b.setBusy f p).block = b.block := rfl
@[simp] theorem Band.setBusy_closing (b : Band) (f : Flag) (p : Pipe) : (b.setBusy f p).closing = b.closing := rfl
@[simp] theorem Band.setBusy_paged (b : Band) (f : Flag) (p : Pipe) : (b.setBusy f p).paged = b.paged := rfl
@[simp] theorem Band.setBusy_pageCode (b : Band) (f : Flag) (p : Pipe) : (b.setBusy f p).pageCode = b.pageCode := rfl
@[simp] theorem Band.setBusy_sysPend (b : Band) (f : Flag) (p : Pipe) : (b.setBusy f p).sysPend = b.sysPend := rfl
@[simp] theorem Band.setBusy_gang (b : Band) (f : Flag) (p : Pipe) : (b.setBusy f p).gang = b.gang := rfl
@[simp] theorem Band.setBusy_slots (b : Band) (f : Flag) (p : Pipe) : (b.setBusy f p).slots = b.slots := rfl

/-! ## Band.setDone -/

@[simp] theorem Band.setDone_crew (b : Band) (f : Flag) : (b.setDone f).crew = b.crew := rfl
@[simp] theorem Band.setDone_num (b : Band) (f : Flag) : (b.setDone f).num = b.num := rfl
@[simp] theorem Band.setDone_core (b : Band) (f : Flag) : (b.setDone f).core = b.core := rfl
@[simp] theorem Band.setDone_quarter (b : Band) (f : Flag) : (b.setDone f).quarter = b.quarter := rfl
@[simp] theorem Band.setDone_slot (b : Band) (f : Flag) : (b.setDone f).slot = b.slot := rfl
@[simp] theorem Band.setDone_lanes (b : Band) (f : Flag) : (b.setDone f).lanes = b.lanes := rfl
@[simp] theorem Band.setDone_s (b : Band) (f : Flag) : (b.setDone f).s = b.s := rfl
@[simp] theorem Band.setDone_fpctl (b : Band) (f : Flag) : (b.setDone f).fpctl = b.fpctl := rfl
@[simp] theorem Band.setDone_fpLate (b : Band) (f : Flag) : (b.setDone f).fpLate = b.fpLate := rfl
@[simp] theorem Band.setDone_cursor (b : Band) (f : Flag) : (b.setDone f).cursor = b.cursor := rfl
@[simp] theorem Band.setDone_flags (b : Band) (f : Flag) : (b.setDone f).flags = b.flags.setIfInBounds f.toNat none := rfl
@[simp] theorem Band.setDone_unsettled (b : Band) (f : Flag) : (b.setDone f).unsettled = b.unsettled := rfl
@[simp] theorem Band.setDone_inFlight (b : Band) (f : Flag) : (b.setDone f).inFlight = b.inFlight := rfl
@[simp] theorem Band.setDone_lastIssue (b : Band) (f : Flag) : (b.setDone f).lastIssue = b.lastIssue := rfl
@[simp] theorem Band.setDone_nextPc (b : Band) (f : Flag) : (b.setDone f).nextPc = b.nextPc := rfl
@[simp] theorem Band.setDone_lastSet (b : Band) (f : Flag) : (b.setDone f).lastSet = b.lastSet := rfl
@[simp] theorem Band.setDone_issued (b : Band) (f : Flag) : (b.setDone f).issued = b.issued := rfl
@[simp] theorem Band.setDone_gran (b : Band) (f : Flag) : (b.setDone f).gran = b.gran := rfl
@[simp] theorem Band.setDone_absentGran (b : Band) (f : Flag) : (b.setDone f).absentGran = b.absentGran := rfl
@[simp] theorem Band.setDone_spilled (b : Band) (f : Flag) : (b.setDone f).spilled = b.spilled := rfl
@[simp] theorem Band.setDone_saved (b : Band) (f : Flag) : (b.setDone f).saved = b.saved := rfl
@[simp] theorem Band.setDone_check (b : Band) (f : Flag) : (b.setDone f).check = b.check := rfl
@[simp] theorem Band.setDone_drst (b : Band) (f : Flag) : (b.setDone f).drst = b.drst := rfl
@[simp] theorem Band.setDone_segScr (b : Band) (f : Flag) : (b.setDone f).segScr = b.segScr := rfl
@[simp] theorem Band.setDone_segStk (b : Band) (f : Flag) : (b.setDone f).segStk = b.segStk := rfl
@[simp] theorem Band.setDone_segGrv (b : Band) (f : Flag) : (b.setDone f).segGrv = b.segGrv := rfl
@[simp] theorem Band.setDone_segWs (b : Band) (f : Flag) : (b.setDone f).segWs = b.segWs := rfl
@[simp] theorem Band.setDone_stkArea (b : Band) (f : Flag) : (b.setDone f).stkArea = b.stkArea := rfl
@[simp] theorem Band.setDone_grvSelf (b : Band) (f : Flag) : (b.setDone f).grvSelf = b.grvSelf := rfl
@[simp] theorem Band.setDone_tvec (b : Band) (f : Flag) : (b.setDone f).tvec = b.tvec := rfl
@[simp] theorem Band.setDone_ptroot (b : Band) (f : Flag) : (b.setDone f).ptroot = b.ptroot := rfl
@[simp] theorem Band.setDone_trapLane (b : Band) (f : Flag) : (b.setDone f).trapLane = b.trapLane := rfl
@[simp] theorem Band.setDone_handler (b : Band) (f : Flag) : (b.setDone f).handler = b.handler := rfl
@[simp] theorem Band.setDone_rgnPc (b : Band) (f : Flag) : (b.setDone f).rgnPc = b.rgnPc := rfl
@[simp] theorem Band.setDone_rgnOpen (b : Band) (f : Flag) : (b.setDone f).rgnOpen = b.rgnOpen := rfl
@[simp] theorem Band.setDone_rgnAborts (b : Band) (f : Flag) : (b.setDone f).rgnAborts = b.rgnAborts := rfl
@[simp] theorem Band.setDone_held (b : Band) (f : Flag) : (b.setDone f).held = b.held := rfl
@[simp] theorem Band.setDone_glo (b : Band) (f : Flag) : (b.setDone f).glo = b.glo := rfl
@[simp] theorem Band.setDone_ghi (b : Band) (f : Flag) : (b.setDone f).ghi = b.ghi := rfl
@[simp] theorem Band.setDone_priv (b : Band) (f : Flag) : (b.setDone f).priv = b.priv := rfl
@[simp] theorem Band.setDone_stopped (b : Band) (f : Flag) : (b.setDone f).stopped = b.stopped := rfl
@[simp] theorem Band.setDone_block (b : Band) (f : Flag) : (b.setDone f).block = b.block := rfl
@[simp] theorem Band.setDone_closing (b : Band) (f : Flag) : (b.setDone f).closing = b.closing := rfl
@[simp] theorem Band.setDone_paged (b : Band) (f : Flag) : (b.setDone f).paged = b.paged := rfl
@[simp] theorem Band.setDone_pageCode (b : Band) (f : Flag) : (b.setDone f).pageCode = b.pageCode := rfl
@[simp] theorem Band.setDone_sysPend (b : Band) (f : Flag) : (b.setDone f).sysPend = b.sysPend := rfl
@[simp] theorem Band.setDone_gang (b : Band) (f : Flag) : (b.setDone f).gang = b.gang := rfl
@[simp] theorem Band.setDone_slots (b : Band) (f : Flag) : (b.setDone f).slots = b.slots := rfl

end Sys2Proof.Machine
end

