-- ==== Sys2Proof/Laws/Regs.lean ====
section
/-!
SUPPORT. Lane masks, lanes and registers: what a read and a write of a register do (R6, R7, R19).
-/

namespace Sys2Proof.Machine

/-! ## Lane masks -/

theorem testBit_foldl_range (f : Nat → Bool) (n j : Nat) :
    ((List.range n).foldl (fun a i => if f i then a + 2 ^ i else a) 0).testBit j = (decide (j < n) && f j) ∧
      (List.range n).foldl (fun a i => if f i then a + 2 ^ i else a) 0 < 2 ^ n := by
  induction n with
  | zero => simp
  | succ n ih =>
    rw [List.range_succ, List.foldl_append]
    simp only [List.foldl_cons, List.foldl_nil]
    obtain ⟨h1, h2⟩ := ih
    generalize (List.range n).foldl (fun a i => if f i then a + 2 ^ i else a) 0 = a at h1 h2
    by_cases hf : f n = true
    · rw [if_pos hf]
      refine ⟨?_, by rw [pow_succ]; omega⟩
      rw [Nat.add_comm]
      rcases Nat.lt_trichotomy j n with h | h | h
      · rw [Nat.testBit_two_pow_add_gt h, h1]; simp [h, Nat.lt_succ_of_lt h]
      · subst h; rw [Nat.testBit_two_pow_add_eq, h1]; simp [hf]
      · have : 2 ^ n + a < 2 ^ j := by
          have : 2 ^ (n + 1) ≤ 2 ^ j := Nat.pow_le_pow_right (by decide) h
          rw [pow_succ] at this; omega
        have h' : ¬j < n + 1 := by omega
        rw [Nat.testBit_lt_two_pow this]; simp [h']
    · rw [if_neg hf]
      refine ⟨?_, by rw [pow_succ]; omega⟩
      rw [h1]
      rcases Nat.lt_trichotomy j n with h | h | h
      · simp [h, Nat.lt_succ_of_lt h]
      · subst h; simp [hf]
      · have h' : ¬j < n + 1 := by omega
        have h3 : ¬j < n := by omega
        simp [h', h3]

@[simp] theorem bit_maskOf (f : Nat → Bool) (j : Nat) : bit (maskOf f) j = (decide (j < 32) && f j) := by
  obtain ⟨h1, h2⟩ := testBit_foldl_range f 32 j
  rw [bit, maskOf, BitVec.getLsbD_ofNat]
  by_cases h : j < 32
  · simp [h, h1]
  · simp [h]

theorem bit_lt {m : BitVec 32} {j : Nat} (h : bit m j = true) : j < 32 := by
  by_contra hc
  rw [bit, BitVec.getLsbD_of_ge _ _ (by omega)] at h
  exact Bool.false_ne_true h

@[simp] theorem bit_zero (j : Nat) : bit 0 j = false := by simp [bit]
@[simp] theorem bit_and (a b : BitVec 32) (j : Nat) : bit (a &&& b) j = (bit a j && bit b j) := by simp [bit]
theorem bit_andNot (a b : BitVec 32) (j : Nat) : bit (a &&& ~~~b) j = (bit a j && !bit b j) := by
  by_cases h : j < 32
  · simp [bit, h]
  · have : a.getLsbD j = false := BitVec.getLsbD_of_ge _ _ (by omega)
    simp [bit, this]

@[simp] theorem mem_lanesOf (m : BitVec 32) (j : Nat) : j ∈ lanesOf m ↔ bit m j = true := by
  simp only [lanesOf, List.mem_filter, List.mem_range]
  exact ⟨fun h => h.2, fun h => ⟨bit_lt h, h⟩⟩

theorem eq_zero_of_bits {m : BitVec 32} (h : ∀ j, bit m j = false) : m = 0 := by
  apply BitVec.eq_of_getLsbD_eq
  intro i hi
  simpa [bit] using h i

theorem lanesOf_eq_nil {m : BitVec 32} : lanesOf m = [] ↔ m = 0 := by
  constructor
  · intro h
    apply eq_zero_of_bits
    intro j
    by_contra hc
    have : j ∈ lanesOf m := by simpa using hc
    simp [h] at this
  · rintro rfl
    simp [lanesOf, bit]

@[simp] theorem maskOfList_nil : maskOfList [] = 0 := by
  apply eq_zero_of_bits; intro j; simp [maskOfList]

/-! ## Lanes -/

theorem Band.lane_of_lt (b : Band) {t : Nat} (h : t < 32) : b.lane t = b.lanes[t] := by
  simp [Band.lane, Array.getD, h]

theorem Band.lane_of_ge (b : Band) {t : Nat} (h : ¬t < 32) : b.lane t = .blank := by
  simp [Band.lane, Array.getD, h]

theorem Band.lane_congr {b c : Band} (h : b.lanes = c.lanes) (t : Nat) : b.lane t = c.lane t := by
  rw [Band.lane, Band.lane, h]

@[simp] theorem Band.lane_mapLanes (b : Band) (m : BitVec 32) (f : Nat → Lane → Lane) (t : Nat) :
    (b.mapLanes m f).lane t = if bit m t then f t (b.lane t) else b.lane t := by
  by_cases h : t < 32
  · rw [Band.lane_of_lt _ h, Band.lane_of_lt _ h]
    simp [Band.mapLanes]
  · rw [Band.lane_of_ge _ h, Band.lane_of_ge _ h, if_neg]
    intro hb
    exact h (bit_lt hb)

theorem Band.lane_setLane (b : Band) (t u : Nat) (l : Lane) :
    (b.setLane t l).lane u = if t = u ∧ u < 32 then l else b.lane u := by
  by_cases h : u < 32
  · rw [Band.lane_of_lt _ h, Band.lane_of_lt _ h]
    simp only [Band.setLane, h, and_true]
    rw [Vector.getElem_setIfInBounds]
  · rw [Band.lane_of_ge _ h, Band.lane_of_ge _ h, if_neg]
    intro hb
    exact h hb.2

/-! ## Bands of the state -/

@[simp] theorem State.band_setBand (s : State) (b c : Nat) (x : Band) :
    (s.setBand b x).band c = if b = c ∧ c < s.bands.length then x else s.band c := by
  simp only [State.band, State.setBand, List.getD_eq_getElem?_getD, List.getElem?_set]
  by_cases h : b = c
  · subst h
    by_cases hl : b < s.bands.length <;> simp [hl]
  · simp [h]

theorem State.me_setMe (s : State) (x : Band) (h : s.cur < s.bands.length) : (s.setMe x).me = x := by
  simp [State.me, State.setMe, h]

theorem State.setBand_setBand (s : State) (b : Nat) (x y : Band) : (s.setBand b x).setBand b y = s.setBand b y := by
  simp [State.setBand]

theorem State.setMe_setMe (s : State) (x y : Band) : (s.setMe x).setMe y = s.setMe y := by
  simp [State.setMe, State.setBand_setBand]

theorem State.setMe_me (s : State) (h : s.cur < s.bands.length) : s.setMe s.me = s := by
  have : s.bands.set s.cur (s.band s.cur) = s.bands := by
    simp [State.band, List.getD_eq_getElem?_getD, h]
  rw [State.setMe, State.me, State.setBand, this]

/-! ## Reads -/

/-- A read that is certain is the settled value (R19, R21). -/
theorem Band.readReg_certain {b : Band} {now t : Nat} {r : RegName} (k : Nat)
    (h : b.earlyRead now t r = false) : b.readReg now k t r = b.getReg t r := by
  simp only [Band.earlyRead, Bool.or_eq_false_iff, List.any_eq_false] at h
  have hm : ∀ p ∈ b.unsettled.mapIdx fun i e => (i, e), p.2 ∈ b.unsettled := by
    intro p hp
    obtain ⟨i, hi, rfl⟩ := List.mem_mapIdx.1 hp
    exact List.getElem_mem hi
  simp only [Band.readReg]
  generalize b.getReg t r = v0
  generalize (b.unsettled.mapIdx fun i e => (i, e)) = us at hm
  induction us generalizing v0 with
  | nil => rfl
  | cons e us ih =>
    simp only [List.foldl_cons]
    rw [if_neg]
    · exact ih v0 fun x hx => hm x (by simp [hx])
    · intro hc
      apply h.1 e.2 (hm e (by simp))
      simp only [Bool.and_eq_true] at hc ⊢
      exact hc.1

/-- A band with no result outstanding reads settled values. -/
theorem Band.earlyRead_of_quiet {b : Band} (h : b.quiet = true) (now t : Nat) (r : RegName) :
    b.earlyRead now t r = false := by
  simp only [Band.quiet, Bool.and_eq_true, List.isEmpty_iff] at h
  simp [Band.earlyRead, h.1, h.2]

theorem Band.openWrite_of_quiet {b : Band} (h : b.quiet = true) (due : Nat) (p : Pipe) (t : Nat) (r : RegName) :
    b.openWrite due p t r = false := by
  simp only [Band.quiet, Bool.and_eq_true, List.isEmpty_iff] at h
  simp [Band.openWrite, Band.races, h.1, h.2]

theorem Band.stallViolation_of_quiet {b : Band} (h : b.quiet = true) (x : Ex) (t : Nat) (i : Instr) :
    b.stallViolation x t i = false := by
  simp [Band.stallViolation, Band.earlyRead_of_quiet h, Band.openWrite_of_quiet h]

theorem Band.keeps_of_openWrite {b : Band} {due t : Nat} {p : Pipe} {r : RegName} (k : Nat)
    (h : b.openWrite due p t r = false) : b.keeps due k t r = false := by
  simp only [Band.openWrite, Bool.or_eq_false_iff] at h
  simp [Band.keeps, h.1]

/-! ## Writes -/

/-- The value that a write leaves in a register: its width bounds it, and p7 reads true (R6). -/
def RegName.fit (r : RegName) (v : DWord) : DWord :=
  match r with
  | .g _ | .x _ | .s _ => (v.setWidth 32).setWidth 64
  | .p r => if r == 7 || v.getLsbD 0 then 1 else 0
  | .m => v

theorem Lane.pred_setPred (l : Lane) (r q : PReg) (v : Bool) :
    (l.setPred r v).pred q = if q = r then (r == 7 || v) else l.pred q := by
  by_cases hr : r = 7
  · subst hr
    by_cases hq : q = 7#3 <;> simp [Lane.setPred, Lane.pred, hq]
  · have hr' : (r == 7) = false := by simpa using hr
    simp only [Lane.setPred, hr', Bool.false_eq_true, if_false, Lane.pred]
    have hlt := r.isLt
    have hlq := q.isLt
    by_cases hq : q = r
    · subst hq
      simp only [hr', Bool.false_or, if_true]
      cases v <;> simp <;> omega
    · have hn : ¬q.toNat = r.toNat := fun h => hq (BitVec.eq_of_toNat_eq h)
      rw [if_neg hq]
      congr 1
      cases v
      · simp only [Bool.false_eq_true, if_false, BitVec.getLsbD_and, BitVec.getLsbD_not, BitVec.getLsbD_shiftLeft,
          BitVec.getLsbD_one]
        have : q.toNat < 8 := by omega
        have h3 : (decide (q.toNat < r.toNat) || decide (r.toNat < q.toNat)) = true := by simp; omega
        simp only [this, decide_true, Bool.true_and]
        by_cases h4 : q.toNat < r.toNat
        · simp [h4]
        · have : ¬q.toNat - r.toNat = 0 := by omega
          simp [this]
      · simp only [if_true, BitVec.getLsbD_or, BitVec.getLsbD_shiftLeft, BitVec.getLsbD_one]
        by_cases h4 : q.toNat < r.toNat
        · simp [h4]
        · have : ¬q.toNat - r.toNat = 0 := by omega
          simp [this]

theorem Lane.get_put (l : Lane) (r q : RegName) (v : DWord) :
    (l.put r v).get q = if q = r ∧ r.uniform = false then r.fit v else l.get q := by
  cases r with
  | s r => simp [Lane.put, RegName.uniform]
  | m => cases q <;> simp [Lane.put, Lane.get, RegName.uniform, RegName.fit, Lane.pred]
  | g r =>
    cases q with
    | g q =>
      simp only [Lane.put, Lane.get, RegName.uniform, RegName.fit, RegName.g.injEq, and_true, Vector.getElem_set]
      by_cases h : q = r
      · subst h; simp
      · have : ¬r.toNat = q.toNat := fun e => h (BitVec.eq_of_toNat_eq e.symm)
        simp [h, this]
    | _ => simp [Lane.put, Lane.get, Lane.pred]
  | x r =>
    cases q with
    | x q =>
      simp only [Lane.put, Lane.get, RegName.uniform, RegName.fit, RegName.x.injEq, and_true, Vector.getElem_set]
      by_cases h : q = r
      · subst h; simp
      · have : ¬r.toNat = q.toNat := fun e => h (BitVec.eq_of_toNat_eq e.symm)
        simp [h, this]
    | _ => simp [Lane.put, Lane.get, Lane.pred]
  | p r =>
    have other : ∀ q, (∀ p, q ≠ .p p) → (l.setPred r (v.getLsbD 0)).get q = l.get q := by
      intro q hq
      cases q with
      | p p => exact absurd rfl (hq p)
      | _ => simp only [Lane.setPred]; split <;> rfl
    cases q with
    | p q =>
      simp only [Lane.put, Lane.get, RegName.uniform, RegName.fit, RegName.p.injEq, and_true, Lane.pred_setPred]
      by_cases h : q = r <;> simp [h]
    | _ => simp only [Lane.put]; rw [other _ (by simp)]; simp

theorem Lane.put_frame (l : Lane) (r : RegName) (v : DWord) :
    l.put r v = { l with g := (l.put r v).g, p := (l.put r v).p, x := (l.put r v).x, m := (l.put r v).m } := by
  cases r with
  | p r => simp only [Lane.put, Lane.setPred]; split <;> rfl
  | _ => rfl

theorem Band.getReg_congr {b c : Band} (hl : b.lanes = c.lanes) (hs : b.s = c.s) (t : Nat) (r : RegName) :
    b.getReg t r = c.getReg t r := by
  cases r <;> simp [Band.getReg, hs, Band.lane_congr hl]

/-- A write of lanes writes exactly its register in exactly its lanes (R19). -/
theorem Band.getReg_writeLanes (b : Band) (due k : Nat) (m : BitVec 32) (r : RegName) (v : Nat → DWord)
    (hr : r.uniform = false) (hk : ∀ t, bit m t = true → b.keeps due k t r = false) (t : Nat) (q : RegName) :
    (b.writeLanes due k m r v).getReg t q = if bit m t = true ∧ q = r then r.fit (v t) else b.getReg t q := by
  have hl : (b.note due k m r v).lane t = b.lane t := rfl
  cases q with
  | s u =>
    have : ¬(bit m t = true ∧ RegName.s u = r) := by rintro ⟨-, rfl⟩; simp [RegName.uniform] at hr
    rw [if_neg this]; rfl
  | _ =>
    simp only [Band.getReg, Band.writeLanes, Band.lane_mapLanes, hl]
    by_cases hb : bit m t = true
    · simp only [hb, if_true, hk t hb, Bool.false_eq_true, if_false, true_and, Lane.get_put, hr, and_true]
    · simp [hb]

/-- What a write of lanes leaves alone. -/
theorem Band.lane_writeLanes (b : Band) (due k : Nat) (m : BitVec 32) (r : RegName) (v : Nat → DWord) (t : Nat) :
    (b.writeLanes due k m r v).lane t =
      { b.lane t with g := ((b.writeLanes due k m r v).lane t).g, p := ((b.writeLanes due k m r v).lane t).p,
                      x := ((b.writeLanes due k m r v).lane t).x, m := ((b.writeLanes due k m r v).lane t).m } := by
  have hl : (b.note due k m r v).lane t = b.lane t := rfl
  simp only [Band.writeLanes, Band.lane_mapLanes, hl]
  split
  · split
    · rfl
    · exact Lane.put_frame _ _ _
  · rfl

theorem Band.lane_writeLanes_off (b : Band) (due k : Nat) (m : BitVec 32) (r : RegName) (v : Nat → DWord) (t : Nat)
    (h : bit m t = false) : (b.writeLanes due k m r v).lane t = b.lane t := by
  have hl : (b.note due k m r v).lane t = b.lane t := rfl
  simp [Band.writeLanes, hl, h]

theorem Band.writeLanes_frame (b : Band) (due k : Nat) (m : BitVec 32) (r : RegName) (v : Nat → DWord) :
    b.writeLanes due k m r v =
      { b with lanes := (b.writeLanes due k m r v).lanes, unsettled := (b.writeLanes due k m r v).unsettled,
               inFlight := (b.writeLanes due k m r v).inFlight } := rfl

/-- The results that a write of lanes leaves unsettled (R19). -/
theorem Band.unsettled_writeLanes (b : Band) (due k : Nat) (m : BitVec 32) (r : RegName) (v : Nat → DWord)
    (e : Unsettled) (h : e ∈ (b.writeLanes due k m r v).unsettled) : e ∈ b.unsettled ∨ (e.reg = r ∧ e.due = due) := by
  simp only [Band.writeLanes, Band.note, Band.mapLanes_unsettled, List.mem_append] at h
  split at h
  · exact .inl (by simpa using h)
  · rcases h with h | h
    · exact .inl h
    · obtain ⟨t, -, rfl⟩ := List.mem_map.1 h
      exact .inr ⟨rfl, rfl⟩

theorem Band.inFlight_writeLanes (b : Band) (due k : Nat) (m : BitVec 32) (r : RegName) (v : Nat → DWord) :
    (b.writeLanes due k m r v).inFlight.map (fun f => (f.id, f.pipe, f.reg, f.lanes)) =
      b.inFlight.map fun f => (f.id, f.pipe, f.reg, f.lanes) := by
  simp only [Band.writeLanes, Band.note, Band.mapLanes_inFlight, List.map_map]
  apply List.map_congr_left
  intro f _
  simp only [Function.comp]
  split <;> rfl

/-- A write of a uniform register. -/
theorem Band.getReg_writeU (b : Band) (due k : Nat) (u : SReg) (v : Word)
    (hk : b.keeps due k 0 (.s u) = false) (t : Nat) (q : RegName) :
    (b.writeU due k u v).getReg t q = if q = .s u then v.setWidth 64 else b.getReg t q := by
  have hn : ∀ q, (b.note due k 1 (.s u) fun _ => v.setWidth 64).getReg t q = b.getReg t q := fun q => by
    cases q <;> rfl
  simp only [Band.writeU, hk, Bool.false_eq_true, if_false]
  cases q with
  | s w =>
    simp only [Band.getReg, Band.putReg, RegName.s.injEq, Vector.getElem_set]
    by_cases h : w = u
    · subst h; simp
    · have : ¬u.toNat = w.toNat := fun e => h (BitVec.eq_of_toNat_eq e.symm)
      simp only [this, if_false, h]
      exact hn (.s w)
  | _ => rw [if_neg (by simp)]; rfl

end Sys2Proof.Machine
end

