-- ==== Sys2Proof/Laws/Run.lean ====
section
/-!
SUPPORT. What one word at issue does once it passes its checks, and what the writes of its results do.
-/

namespace Sys2Proof.Machine

/-! ## V lies in the issue set -/

theorem Band.guarded_le (b : Band) (now k : Nat) (h : Hdr) (set : BitVec 32) (l : Nat)
    (hl : bit (b.guarded now k h set) l = true) : bit set l = true := by
  unfold Band.guarded at hl
  split at hl
  · split at hl
    · exact absurd hl (by simp [bit])
    · exact hl
  · simp only [bit_maskOf, Bool.and_eq_true] at hl
    exact hl.2.1

theorem State.vOf_le (s : State) (i : Instr) (l : Nat) (h : bit (s.vOf i) l = true) : bit (s.setOf i) l = true :=
  Band.guarded_le _ _ _ _ _ _ h

/-! ## Advance -/

@[simp] theorem State.advance_cur (s : State) (x : Ex) (m : BitVec 32) : (s.advance x m).cur = s.cur := by
  simp only [State.advance]; split <;> rfl

theorem State.advance_state (s : State) (x : Ex) (m : BitVec 32) :
    s.advance x m = { s with bands := (s.advance x m).bands } := by
  simp only [State.advance]; split <;> rfl

@[simp] theorem State.advance_length (s : State) (x : Ex) (m : BitVec 32) :
    (s.advance x m).bands.length = s.bands.length := by
  simp only [State.advance]; split <;> simp

theorem State.advance_other (s : State) (x : Ex) (m : BitVec 32) (b : Nat) (h : b ≠ s.cur) :
    (s.advance x m).band b = s.band b := by
  simp only [State.advance]; split
  · rfl
  · rw [State.setMe, State.band_setBand, if_neg]; rintro ⟨rfl, -⟩; exact h rfl

/-- What `advance` does to one lane. -/
theorem State.advance_lane (s : State) (x : Ex) (m : BitVec 32) (hb : s.cur < s.bands.length) (l : Nat) :
    (s.advance x m).me.lane l =
      if s.latch.pair ≠ 3 ∧ bit x.set l = true ∧ bit m l = false ∧ bit s.latch.moved l = false then
        match (s.me.lane l).st with
        | .waiting .trap => s.me.lane l
        | .waiting _ => { s.me.lane l with resume := nextPc x.pc x.lbit }
        | _ => { s.me.lane l with pc := nextPc x.pc x.lbit, released := false, returned := false }
      else s.me.lane l := by
  by_cases hp : s.latch.pair = 3
  · simp [State.advance, hp]
  · have he : s.advance x m = s.setMe (s.me.mapLanes (x.set &&& ~~~m &&& ~~~s.latch.moved) fun _ l =>
      match l.st with
      | .waiting .trap => l
      | .waiting _ => { l with resume := nextPc x.pc x.lbit }
      | _ => { l with pc := nextPc x.pc x.lbit, released := false, returned := false }) := by
      simp only [State.advance, hp, if_false] <;> rfl
    rw [he, State.me_setMe _ _ hb, Band.lane_mapLanes, bit_andNot, bit_andNot]
    congr 1
    simp only [hp, ne_eq, not_false_eq_true, true_and, Bool.and_eq_true, Bool.not_eq_true', and_assoc]

theorem State.advance_band (s : State) (x : Ex) (m : BitVec 32) (hb : s.cur < s.bands.length) :
    (s.advance x m).me = { s.me with lanes := (s.advance x m).me.lanes } := by
  by_cases hp : s.latch.pair = 3
  · simp only [State.advance, hp, if_true]
  · simp only [State.advance, hp, if_false, State.me_setMe _ _ hb]; rfl

theorem State.advance_lane_frame (s : State) (x : Ex) (m : BitVec 32) (hb : s.cur < s.bands.length) (l : Nat) :
    (s.advance x m).me.lane l =
      { s.me.lane l with pc := ((s.advance x m).me.lane l).pc, released := ((s.advance x m).me.lane l).released,
                         returned := ((s.advance x m).me.lane l).returned, resume := ((s.advance x m).me.lane l).resume } := by
  rw [State.advance_lane s x m hb]
  split
  · split <;> rfl
  · rfl

theorem State.advance_getReg (s : State) (x : Ex) (m : BitVec 32) (hb : s.cur < s.bands.length) (l : Nat) (r : RegName) :
    (s.advance x m).me.getReg l r = s.me.getReg l r := by
  have h1 := State.advance_band s x m hb
  have h2 := State.advance_lane_frame s x m hb l
  cases r with
  | s u => rw [Band.getReg, Band.getReg, h1]
  | p q => simp only [Band.getReg]; rw [h2]; rfl
  | _ => simp only [Band.getReg]; rw [h2]; rfl

theorem State.advance_readReg (s : State) (x : Ex) (m : BitVec 32) (hb : s.cur < s.bands.length) (now k l : Nat) (r : RegName) :
    (s.advance x m).me.readReg now k l r = s.me.readReg now k l r := by
  simp only [Band.readReg]
  rw [State.advance_getReg s x m hb, State.advance_band s x m hb]

theorem State.advance_keeps (s : State) (x : Ex) (m : BitVec 32) (hb : s.cur < s.bands.length) (due k l : Nat) (r : RegName) :
    (s.advance x m).me.keeps due k l r = s.me.keeps due k l r := by
  simp only [Band.keeps, Band.races]
  rw [State.advance_band s x m hb]

/-! ## One word -/

/-- A word that passes its checks and raises no deferred trap: its region ends if it ends one, its issue set goes
on, and its body acts if V is not empty. -/
theorem runWord_passes (i : Instr) (deferred : State → Ex → Nat → Option Trap) (body : Ex → State → State) (s : State)
    (h : preciseTraps s (s.ex i.hdr) i = [])
    (hd : ∀ l, bit (s.vOf i) l = true → deferred (s.after i) (s.ex i.hdr) l = none) :
    runWord i deferred body s =
      (if s.vOf i = 0 then s.atIssue i else body (s.ex i.hdr) (s.atIssue i)).tickFree := by
  have hf : ((lanesOf (s.vOf i)).filterMap fun t => (deferred (s.after i) (s.ex i.hdr) t).map fun q => (t, q)) = [] := by
    rw [List.filterMap_eq_nil_iff]
    intro l hl
    rw [hd l (by simpa using hl)]; rfl
  have e : (s.ex i.hdr).v &&& ~~~(0 : BitVec 32) = (s.ex i.hdr).v := by
    rw [show ~~~(0 : BitVec 32) = BitVec.allOnes 32 from rfl, BitVec.and_allOnes]
  unfold runWord
  dsimp only
  rw [h]
  dsimp only
  unfold State.after State.vOf at hf
  rw [hf, maskOfList_nil, e]
  rfl

theorem plainWord_passes (i : Instr) (body : Ex → State → State) (s : State)
    (h : preciseTraps s (s.ex i.hdr) i = []) :
    plainWord i body s = (if s.vOf i = 0 then s.atIssue i else body (s.ex i.hdr) (s.atIssue i)).tickFree :=
  runWord_passes i noTrap body s h fun _ _ => rfl

/-- A word that ends no region acts in the state itself. -/
theorem State.after_eq (s : State) (i : Instr) (h : endsRegion i = false) : s.after i = s := by
  simp [State.after, h]

/-- So does every word of a band with no open region. -/
theorem State.after_closed (s : State) (i : Instr) (h : s.me.rgnOpen = false) : s.after i = s := by
  simp only [State.after, State.endRegion]
  rw [show (s.band s.cur).rgnOpen = false from h]
  simp

/-! ## Reads of a word -/

/-- A register that the word names as a source reads as its settled value. -/
theorem State.Runs.read {s : State} {i : Instr} (h : s.Runs i) {l : Nat} (hl : bit (s.vOf i) l = true)
    {r : RegName} (hr : r ∈ (s.after i).me.readsIn (s.ex i.hdr) l i) (k : Nat) :
    (s.atIssue i).me.readReg s.cycle k l r = (s.after i).me.getReg l r := by
  rw [State.atIssue, State.advance_readReg _ _ _ h.band]
  apply Band.readReg_certain
  have := h.certain l hl
  simp only [Band.stallViolation, Bool.or_eq_false_iff, List.any_eq_false] at this
  exact by simpa [State.ex] using this.1 r hr

/-- A register that the word writes takes the value that it writes. -/
theorem State.Runs.write {s : State} {i : Instr} (h : s.Runs i) {l : Nat} (hl : bit (s.vOf i) l = true)
    {r : RegName} (hr : r ∈ (s.after i).me.writesIn (s.ex i.hdr) l i) (k : Nat) :
    (s.atIssue i).me.keeps (writeDue i (s.ex i.hdr)) k l r = false := by
  rw [State.atIssue, State.advance_keeps _ _ _ h.band]
  have := h.certain l hl
  simp only [Band.stallViolation, Bool.or_eq_false_iff, List.any_eq_false] at this
  exact Band.keeps_of_openWrite k (by simpa using this.2 r hr)

theorem mem_gs_zero (n : Nat) (r : Reg) (h : 0 < n) : RegName.g r ∈ gs n r := by
  simp only [gs, List.mem_map, List.mem_range]
  exact ⟨0, h, by simp⟩

theorem mem_gs_one (n : Nat) (r : Reg) (h : 1 < n) : RegName.g (r + 1) ∈ gs n r := by
  simp only [gs, List.mem_map, List.mem_range]
  exact ⟨1, h, rfl⟩

end Sys2Proof.Machine
end

