-- ==== Sys2Proof/Laws/Frame.lean ====
section
/-!
SUPPORT. Words that act on registers alone: what their writes leave unchanged, and what each shape of word does.
-/

namespace Sys2Proof.Machine

/-! ## Writes of registers of one band -/

/-- What writes of the registers `rs` in the lanes of `m`, settled by cycle `due`, leave unchanged. -/
structure Band.RegFrame (b c : Band) (m : BitVec 32) (rs : List RegName) (due : Nat) : Prop where
  band : c = { b with lanes := c.lanes, s := c.s, unsettled := c.unsettled, inFlight := c.inFlight }
  regs : ∀ l r, r ∉ rs → c.getReg l r = b.getReg l r
  outside : ∀ l r, bit m l = false → r.uniform = false → c.getReg l r = b.getReg l r
  lane : ∀ l, c.lane l = { b.lane l with g := (c.lane l).g, p := (c.lane l).p, x := (c.lane l).x, m := (c.lane l).m }
  others : ∀ l, bit m l = false → c.lane l = b.lane l
  late : ∀ e ∈ c.unsettled, e ∈ b.unsettled ∨ (e.reg ∈ rs ∧ e.due = due)
  flights : c.inFlight.map (fun f => (f.id, f.pipe, f.reg, f.lanes)) =
    b.inFlight.map fun f => (f.id, f.pipe, f.reg, f.lanes)

theorem Band.RegFrame.refl (b : Band) (m : BitVec 32) (rs : List RegName) (due : Nat) : b.RegFrame b m rs due :=
  ⟨rfl, fun _ _ _ => rfl, fun _ _ _ _ => rfl, fun _ => rfl, fun _ _ => rfl, fun _ h => .inl h, rfl⟩

theorem Band.RegFrame.trans {a b c : Band} {m : BitVec 32} {rs : List RegName} {due : Nat}
    (h : a.RegFrame b m rs due) (k : b.RegFrame c m rs due) : a.RegFrame c m rs due := by
  refine ⟨?_, fun l r hr => (k.regs l r hr).trans (h.regs l r hr), fun l r hl hr =>
    (k.outside l r hl hr).trans (h.outside l r hl hr), fun l => ?_, fun l hl => (k.others l hl).trans (h.others l hl),
    fun e he => ?_, k.flights.trans h.flights⟩
  · have := k.band; rw [h.band] at this; exact this
  · have := k.lane l; rw [h.lane l] at this; exact this
  · rcases k.late e he with h1 | h1
    · exact h.late e h1
    · exact .inr h1

theorem Band.RegFrame.mono {a b : Band} {m : BitVec 32} {rs rs' : List RegName} {due : Nat}
    (h : a.RegFrame b m rs due) (hs : ∀ r ∈ rs, r ∈ rs') : a.RegFrame b m rs' due :=
  ⟨h.band, fun l r hr => h.regs l r fun h => hr (hs r h), h.outside, h.lane, h.others,
    fun e he => (h.late e he).imp id fun p => ⟨hs _ p.1, p.2⟩, h.flights⟩

theorem Band.RegFrame.sub {a b : Band} {m m' : BitVec 32} {rs : List RegName} {due : Nat}
    (h : a.RegFrame b m rs due) (hs : ∀ l, bit m l = true → bit m' l = true) : a.RegFrame b m' rs due := by
  have hm : ∀ l, bit m' l = false → bit m l = false := fun l hl => by
    cases hc : bit m l with
    | false => rfl
    | true => rw [hs l hc] at hl; exact hl
  exact ⟨h.band, h.regs, fun l r hl => h.outside l r (hm l hl), h.lane, fun l hl => h.others l (hm l hl), h.late,
    h.flights⟩

theorem Band.regFrame_writeLanes (b : Band) (due k : Nat) (m : BitVec 32) (r : RegName) (v : Nat → DWord)
    (hr : r.uniform = false) : b.RegFrame (b.writeLanes due k m r v) m [r] due := by
  have hn : ∀ t, (b.note due k m r v).lane t = b.lane t := fun _ => rfl
  refine ⟨b.writeLanes_frame due k m r v, fun l q hq => ?_, fun l q hl hq => ?_, fun l => b.lane_writeLanes due k m r v l,
    fun l hl => b.lane_writeLanes_off due k m r v l hl, fun e he => ?_, b.inFlight_writeLanes due k m r v⟩
  · have hq' : q ≠ r := by simpa using hq
    cases q with
    | s u => rfl
    | _ =>
      simp only [Band.getReg, Band.writeLanes, Band.lane_mapLanes, hn]
      split
      · split
        · rfl
        · rw [Lane.get_put, if_neg (fun h => hq' h.1)]
      · rfl
  · cases q with
    | s u => simp [RegName.uniform] at hq
    | _ => simp only [Band.getReg, b.lane_writeLanes_off due k m r v l hl]
  · rcases b.unsettled_writeLanes due k m r v e he with h | h
    · exact .inl h
    · exact .inr ⟨by simp [h.1], h.2⟩

theorem Band.regFrame_writeU (b : Band) (due k : Nat) (u : SReg) (v : Word) (m : BitVec 32) :
    b.RegFrame (b.writeU due k u v) m [.s u] due := by
  have hs : b.writeU due k u v = b.note due k 1 (.s u) (fun _ => v.setWidth 64) ∨
      b.writeU due k u v = (b.note due k 1 (.s u) fun _ => v.setWidth 64).putReg 0 (.s u) (v.setWidth 64) := by
    simp only [Band.writeU]
    split
    · exact .inl rfl
    · exact .inr rfl
  have hl : ∀ l, (b.writeU due k u v).lane l = b.lane l := by rcases hs with h | h <;> intro l <;> rw [h] <;> rfl
  have hun : (b.writeU due k u v).unsettled = (b.note due k 1 (.s u) fun _ => v.setWidth 64).unsettled := by
    rcases hs with h | h <;> rw [h] <;> rfl
  have hin : (b.writeU due k u v).inFlight = (b.note due k 1 (.s u) fun _ => v.setWidth 64).inFlight := by
    rcases hs with h | h <;> rw [h] <;> rfl
  refine ⟨?_, fun l q hq => ?_, fun l q _ hq => ?_, fun l => ?_, fun l _ => hl l, fun e he => ?_, ?_⟩
  · rcases hs with h | h <;> rw [h] <;> rfl
  · cases q with
    | s w =>
      have hw : ¬u.toNat = w.toNat := fun e => hq (by simp [BitVec.eq_of_toNat_eq e])
      rcases hs with h | h <;> rw [h]
      · rfl
      · simp only [Band.getReg, Band.putReg, Vector.getElem_set, hw, if_false]; rfl
    | _ => simp only [Band.getReg, hl]
  · cases q with
    | s u => simp [RegName.uniform] at hq
    | _ => simp only [Band.getReg, hl]
  · rw [hl]
  · rw [hun] at he
    simp only [Band.note, List.mem_append, reduceCtorEq, if_false] at he
    rcases he with h | h
    · exact .inl h
    · obtain ⟨t, -, rfl⟩ := List.mem_map.1 h
      exact .inr ⟨by simp, rfl⟩
  · rw [hin]
    simp only [Band.note, List.map_map]
    apply List.map_congr_left
    intro f _
    simp only [Function.comp]
    split <;> rfl

/-! ## The state at issue -/

/-- A word whose body only writes registers of its band. -/
theorem State.wordFrame_of (s : State) (i : Instr) (hb : (s.after i).cur < (s.after i).bands.length) (lat : Nat)
    (rs : List RegName) (c : Band) (hc : (s.atIssue i).me.RegFrame c (s.vOf i) rs (s.cycle + lat)) :
    s.WordFrame ((s.atIssue i).setMe c).tickFree i lat rs 0 := by
  have hbA : (s.atIssue i).cur < (s.atIssue i).bands.length := by simpa [State.atIssue] using hb
  have hme : (((s.atIssue i).setMe c).tickFree).me = c := State.me_setMe (s.atIssue i) c hbA
  have hband : (s.atIssue i).me = { (s.after i).me with lanes := (s.atIssue i).me.lanes } :=
    State.advance_band _ _ _ hb
  refine ⟨?_, by simp [State.atIssue], fun b hbn => ?_, ?_, ?_, fun l r h => ?_, fun l r h1 h2 => ?_, fun l => ?_,
    fun l hl => ?_, fun l h => ?_, fun e he => ?_, ?_⟩
  · have := State.advance_state (s.after i) (s.ex i.hdr) 0
    rw [State.atIssue, this]; rfl
  · have h1 : (((s.atIssue i).setMe c).tickFree).band b = ((s.atIssue i).setMe c).band b := rfl
    rw [h1, State.setMe, State.band_setBand, if_neg, State.atIssue, State.advance_other _ _ _ _ hbn]
    rintro ⟨h, -⟩
    exact hbn (by simpa [State.atIssue] using h.symm)
  · rw [hme]
    have := hc.band
    rw [hband] at this
    rw [this]
  · rw [hme, hc.band, hband]
    simp [Band.stick, stickyOf]
  · rw [hme, hc.regs l r h, State.atIssue, State.advance_getReg _ _ _ hb]
  · rw [hme, hc.outside l r h1 h2, State.atIssue, State.advance_getReg _ _ _ hb]
  · rw [hme]
    have := hc.lane l
    rw [State.atIssue, State.advance_lane_frame _ _ _ hb l] at this
    rw [this]
  · rw [hme, hc.others l]
    · rw [State.atIssue, State.advance_lane _ _ _ hb l, if_neg]
      rintro ⟨-, h, -⟩
      rw [show bit (s.ex i.hdr).set l = false from hl] at h
      exact Bool.false_ne_true h
    · cases hv : bit (s.vOf i) l with
      | false => rfl
      | true => rw [s.vOf_le i l hv] at hl; exact hl
  · obtain ⟨h1, h2, h3, h4⟩ := h
    rw [hme, hc.lane l]
    simp only
    rw [State.atIssue, State.advance_lane _ _ _ hb l, if_pos ⟨h3, h1, by simp [bit], h2⟩, h4]
  · rw [hme] at he
    rcases hc.late e he with h | h
    · rw [hband] at h; exact .inl h
    · exact .inr h
  · rw [hme, hc.flights, hband]

/-- A word with no effect beyond its issue. -/
theorem State.wordFrame_none (s : State) (i : Instr) (hb : (s.after i).cur < (s.after i).bands.length) (lat : Nat)
    (rs : List RegName) : s.WordFrame (s.atIssue i).tickFree i lat rs 0 := by
  have hbA : (s.atIssue i).cur < (s.atIssue i).bands.length := by simpa [State.atIssue] using hb
  have := s.wordFrame_of i hb lat rs (s.atIssue i).me (.refl _ _ _ _)
  rwa [State.setMe_me _ hbA] at this

/-- A word that writes one lane register in each lane of V. -/
theorem State.word_writes (s : State) (i : Instr) (h : s.Runs i) (lat : Nat)
    (hlat : writeDue i (s.ex i.hdr) = s.cycle + lat) (r : RegName) (hu : r.uniform = false) (hw : r ∈ dstsOf i)
    (v : State → Ex → Nat → DWord) :
    ∃ t, plainWord i (fun x s => s.setMe (s.me.writeLanes (x.now + lat) x.k x.v r (v s x))) s = t ∧
      s.WordFrame t i lat [r] 0 ∧
      ∀ l, bit (s.vOf i) l = true → t.me.getReg l r = r.fit (v (s.atIssue i) (s.ex i.hdr) l) := by
  have hbA : (s.atIssue i).cur < (s.atIssue i).bands.length := by simpa [State.atIssue] using h.band
  refine ⟨_, rfl, ?_⟩
  rw [plainWord_passes i _ s h.passes]
  by_cases h0 : s.vOf i = 0
  · rw [if_pos h0]
    exact ⟨s.wordFrame_none i h.band lat [r], fun l hl => absurd hl (by rw [h0]; simp [bit])⟩
  · rw [if_neg h0]
    refine ⟨s.wordFrame_of i h.band lat [r] _ (Band.regFrame_writeLanes _ _ _ _ _ _ hu), fun l hl => ?_⟩
    have hme : ∀ c, (((s.atIssue i).setMe c).tickFree).me = c := fun c => State.me_setMe (s.atIssue i) c hbA
    rw [hme, Band.getReg_writeLanes _ _ _ _ _ _ hu, if_pos ⟨hl, rfl⟩]
    intro l hl
    have := h.write (r := r) hl (by simp [Band.writesIn, hw]) (s.ex i.hdr).k
    rw [hlat] at this
    exact this

end Sys2Proof.Machine
end

