-- ==== Sys2Proof/Laws/Memory.lean ====
section
/-!
SUPPORT. The canonical form of memory: every operation keeps it, what a write leaves to be read, and that equal
contents are equal data.
-/

namespace Sys2Proof.Machine

theorem Memory.wfFrom_mono : (m : Memory) → {lo hi : Nat} → lo ≤ hi → m.wfFrom hi = true → m.wfFrom lo = true
  | [], _, _, _, _ => rfl
  | c :: r, lo, hi, hl, h => by
    simp only [Memory.wfFrom, Bool.and_eq_true, decide_eq_true_eq] at h ⊢
    exact ⟨⟨by omega, h.1.2⟩, h.2⟩

/-- Below the bound of a canonical memory nothing is listed. -/
theorem Memory.read_below : (m : Memory) → {lo a : Nat} → m.wfFrom lo = true → a < lo → m.read a = 0
  | [], _, _, _, _ => rfl
  | c :: r, lo, a, h, ha => by
    simp only [Memory.wfFrom, Bool.and_eq_true, decide_eq_true_eq] at h
    rw [Memory.read, if_neg (by omega)]
    exact Memory.read_below r h.2 (by omega)

theorem Memory.wfFrom_filter (p : Nat × Byte → Bool) : (m : Memory) → {lo : Nat} → m.wfFrom lo = true →
    Memory.wfFrom lo (m.filter p) = true
  | [], _, _ => rfl
  | c :: r, lo, h => by
    simp only [Memory.wfFrom, Bool.and_eq_true, decide_eq_true_eq] at h
    simp only [List.filter_cons]
    split
    · simp only [Memory.wfFrom, Bool.and_eq_true, decide_eq_true_eq]
      exact ⟨h.1, Memory.wfFrom_filter p r h.2⟩
    · exact Memory.wfFrom_mono _ (by omega) (Memory.wfFrom_filter p r h.2)

theorem Memory.wfFrom_put : (m : Memory) → {lo : Nat} → (a : Nat) → (v : Byte) → v ≠ 0 → m.wfFrom lo = true → lo ≤ a →
    (m.put a v).wfFrom lo = true
  | [], lo, a, v, hv, _, ha => by
    simp only [Memory.put, Memory.wfFrom, Bool.and_eq_true, decide_eq_true_eq, bne_iff_ne]
    exact ⟨⟨ha, hv⟩, trivial⟩
  | c :: r, lo, a, v, hv, h, ha => by
    have hc := h
    simp only [Memory.wfFrom, Bool.and_eq_true, decide_eq_true_eq] at hc
    simp only [Memory.put]
    split
    · simp only [Memory.wfFrom, Bool.and_eq_true, decide_eq_true_eq, bne_iff_ne]
      exact ⟨⟨ha, hv⟩, ⟨by omega, by simpa using hc.1.2⟩, hc.2⟩
    · split
      · simp only [Memory.wfFrom, Bool.and_eq_true, decide_eq_true_eq, bne_iff_ne]
        exact ⟨⟨ha, hv⟩, by rw [‹a = c.1›]; exact hc.2⟩
      · simp only [Memory.wfFrom, Bool.and_eq_true, decide_eq_true_eq]
        exact ⟨hc.1, Memory.wfFrom_put r a v hv hc.2 (by omega)⟩

theorem Memory.wf_write {m : Memory} (a : Nat) (v : Byte) (h : m.wf = true) : (m.write a v).wf = true := by
  unfold Memory.write
  split
  · exact Memory.wfFrom_filter _ m h
  · exact Memory.wfFrom_put m a v ‹_› h (Nat.zero_le a)

theorem Memory.wf_writeN (v : List Byte) : {m : Memory} → (a : Nat) → m.wf = true → (m.writeN a v).wf = true := by
  induction v with
  | nil => exact fun _ h => h
  | cons b r ih => exact fun a h => ih (a + 1) (Memory.wf_write a b h)

theorem Memory.wf_writeLE {m : Memory} (a n v : Nat) (h : m.wf = true) : (m.writeLE a n v).wf = true :=
  Memory.wf_writeN (leBytes v n) a h

theorem Memory.wf_zero {m : Memory} (a n : Nat) (h : m.wf = true) : (m.zero a n).wf = true :=
  Memory.wfFrom_filter _ m h

/-- New bytes at the listed addresses, without those that are 0, are in the canonical form. -/
theorem Memory.wfFrom_renew (f : Nat → Nat × Byte → Byte) (k : Nat) : (m : Memory) → {lo : Nat} → m.wfFrom lo = true →
    Memory.wfFrom lo ((m.mapIdx fun i c => (c.1, f (k + i) c)).filter fun c => c.2 != 0) = true
  | [], _, _ => rfl
  | c :: r, lo, h => by
    simp only [Memory.wfFrom, Bool.and_eq_true, decide_eq_true_eq] at h
    have ih := wfFrom_renew f (k + 1) r h.2
    have he : (fun i (c : Nat × Byte) => (c.1, f (k + (i + 1)) c)) = fun i c => (c.1, f (k + 1 + i) c) := by
      funext i c; rw [Nat.add_right_comm k 1 i]; rfl
    simp only [List.mapIdx_cons, List.filter_cons, he]
    split
    · simp only [Memory.wfFrom, Bool.and_eq_true, decide_eq_true_eq]
      exact ⟨⟨h.1.1, ‹_›⟩, ih⟩
    · exact Memory.wfFrom_mono _ (by omega) ih

theorem wf_memFree {m : Memory} (k tag : Nat) (h : m.wf = true) : (memFree k tag m).wf = true := by
  have := m.wfFrom_renew (fun i _ => Config.freeByte k (tag * 2 ^ 50 + i)) 0 h
  simp only [Nat.zero_add] at this
  exact this

/-- A byte after entries are taken out. -/
theorem Memory.read_filter (m : Memory) (p : Nat → Bool) (x : Nat) :
    Memory.read (m.filter fun c => p c.1) x = if p x = true then m.read x else 0 := by
  induction m with
  | nil => simp [Memory.read]
  | cons c r ih =>
    simp only [List.filter_cons]
    by_cases h : p c.1 = true
    · rw [if_pos h, Memory.read, ih]
      by_cases hc : c.1 = x
      · simp [← hc, h, Memory.read]
      · simp [hc, Memory.read]
    · rw [if_neg h, ih]
      by_cases hx : p x = true
      · rw [if_pos hx, if_pos hx, Memory.read, if_neg]
        rintro rfl
        exact h hx
      · rw [if_neg hx, if_neg hx]

theorem Memory.read_put : (m : Memory) → (a : Nat) → (v : Byte) → (x : Nat) →
    (m.put a v).read x = if x = a then v else m.read x
  | [], a, v, x => by
    by_cases h : x = a
    · simp [Memory.put, Memory.read, h]
    · simp [Memory.put, Memory.read, h, Ne.symm h]
  | c :: r, a, v, x => by
    have ih := Memory.read_put r a v x
    by_cases h : x = a
    · subst h
      simp only [Memory.put]
      split
      · simp [Memory.read]
      · split
        · simp [Memory.read]
        · rw [Memory.read, if_neg (Ne.symm ‹_›), ih, if_pos rfl, if_pos trivial]
    · simp only [Memory.put, if_neg h]
      split
      · rw [Memory.read, if_neg (Ne.symm h)]
      · split
        · rw [Memory.read, if_neg (Ne.symm h), Memory.read, if_neg (by omega)]
        · rw [Memory.read, ih, if_neg h, Memory.read]

/-- A byte after a write of one byte. -/
theorem Memory.read_write (m : Memory) (a : Nat) (v : Byte) (x : Nat) :
    (m.write a v).read x = if x = a then v else m.read x := by
  unfold Memory.write
  split
  · rw [Memory.read_filter m (· != a)]
    by_cases hx : x = a <;> simp [*]
  · exact Memory.read_put m a v x

/-- A byte after a write of several: the written one inside, the old one outside. -/
theorem Memory.read_writeN (v : List Byte) : (m : Memory) → (a x : Nat) →
    (m.writeN a v).read x = if a ≤ x ∧ x < a + v.length then v.getD (x - a) 0 else m.read x := by
  induction v with
  | nil => intro m a x; simp [Memory.writeN]
  | cons b r ih =>
    intro m a x
    rw [Memory.writeN, ih, Memory.read_write]
    by_cases hx : x = a
    · subst hx; simp
    · by_cases h1 : a + 1 ≤ x ∧ x < a + 1 + r.length
      · rw [if_pos h1, if_pos (by simp; omega), show x - a = (x - (a + 1)) + 1 by omega, List.getD_cons_succ]
      · rw [if_neg h1, if_neg hx, if_neg (by simp; omega)]

/-- A byte after a run is set to 0. -/
theorem Memory.read_zero (m : Memory) (a n x : Nat) :
    (m.zero a n).read x = if a ≤ x ∧ x < a + n then 0 else m.read x := by
  have := Memory.read_filter m (fun x => !(decide (a ≤ x) && decide (x < a + n))) x
  rw [Memory.zero, this]
  by_cases hx : a ≤ x ∧ x < a + n
  · simp [hx]
  · rw [if_neg hx, if_pos (by simp; omega)]

/-- Canonical memories with equal contents are equal. -/
theorem Memory.ext_read : {m n : Memory} → {lo : Nat} → m.wfFrom lo = true → n.wfFrom lo = true →
    (∀ a, m.read a = n.read a) → m = n
  | [], [], _, _, _, _ => rfl
  | [], d :: q, _, _, hn, h => by
    simp only [Memory.wfFrom, Bool.and_eq_true, bne_iff_ne] at hn
    exact absurd (by simpa [Memory.read] using (h d.1).symm) hn.1.2
  | c :: r, [], _, hm, _, h => by
    simp only [Memory.wfFrom, Bool.and_eq_true, bne_iff_ne] at hm
    exact absurd (by simpa [Memory.read] using h c.1) hm.1.2
  | c :: r, d :: q, lo, hm, hn, h => by
    have hm' := hm
    have hn' := hn
    simp only [Memory.wfFrom, Bool.and_eq_true, bne_iff_ne, decide_eq_true_eq] at hm' hn'
    have hcd : c.1 = d.1 := by
      rcases Nat.lt_trichotomy c.1 d.1 with hl | he | hl
      · have h1 := h c.1
        rw [Memory.read, if_pos rfl, Memory.read, if_neg (by omega), Memory.read_below q hn'.2 (by omega)] at h1
        exact absurd h1 hm'.1.2
      · exact he
      · have h1 := h d.1
        rw [Memory.read, if_neg (by omega), Memory.read_below r hm'.2 (by omega), Memory.read, if_pos rfl] at h1
        exact absurd h1.symm hn'.1.2
    have hv : c.2 = d.2 := by have := h c.1; simpa [Memory.read, hcd] using this
    have hr : r = q := Memory.ext_read hm'.2 (hcd ▸ hn'.2) fun a => by
      by_cases ha : c.1 = a
      · subst ha; rw [Memory.read_below r hm'.2 (by omega), Memory.read_below q hn'.2 (by omega)]
      · have := h a
        rwa [Memory.read, if_neg ha, Memory.read, if_neg (hcd ▸ ha)] at this
    rw [show c = d from Prod.ext hcd hv, hr]

/-! ## Bytes named by their place -/

theorem State.memWf_writeLoc {s : State} (l : Loc) (v : Byte) (h : s.memWf = true) : (s.writeLoc l v).memWf = true := by
  simp only [State.memWf, Bool.and_eq_true] at h ⊢
  cases l with
  | mem a => exact ⟨⟨Memory.wf_write a v h.1.1, h.1.2⟩, h.2⟩
  | ws a => exact ⟨⟨h.1.1, Memory.wf_write a v h.1.2⟩, h.2⟩
  | scr a => exact ⟨h.1, Memory.wf_write a v h.2⟩

theorem State.memWf_writeLocs : (ls : List Loc) → (vs : List Byte) → {s : State} → s.memWf = true →
    (s.writeLocs ls vs).memWf = true
  | [], _, _, h => by simpa [State.writeLocs] using h
  | _ :: _, [], _, h => by simpa [State.writeLocs] using h
  | l :: ls, v :: vs, _, h => memWf_writeLocs ls vs (State.memWf_writeLoc l v h)

theorem State.readLoc_writeLoc (s : State) (l : Loc) (v : Byte) (x : Loc) :
    (s.writeLoc l v).readLoc x = if x = l then v else s.readLoc x := by
  cases l <;> cases x <;> simp [State.writeLoc, State.readLoc, Memory.read_write]

/-- A write of bytes at their places leaves every other place as it was. -/
theorem State.readLoc_writeLocs_off : (ls : List Loc) → (vs : List Byte) → (s : State) → {x : Loc} → x ∉ ls →
    (s.writeLocs ls vs).readLoc x = s.readLoc x
  | [], _, _, _, _ => by simp [State.writeLocs]
  | _ :: _, [], _, _, _ => by simp [State.writeLocs]
  | l :: ls, v :: vs, s, x, hx => by
    simp only [List.mem_cons, not_or] at hx
    rw [State.writeLocs, State.readLoc_writeLocs_off ls vs _ hx.2, State.readLoc_writeLoc, if_neg hx.1]

theorem State.reset_memWf : State.reset.memWf = true := rfl

end Sys2Proof.Machine
end

