-- ==== Sys2Proof/Laws/PerInstr.lean ====
section
/-!
SUPPORT. For each instruction: the fields that its encoding fills below the header are 21 bits wide (R44, R46).
-/

namespace Sys2Proof.Laws

/-- The encoding of an instruction fills exactly the bits below the header. -/
def FormatWidth.Statement (i : Instr) : Prop := ∀ m f lit, encBody i = some (m, f, lit) → fieldBits f = 21

/-- An instruction with its fields written out. -/
theorem formatWidth_of {i : Instr} {m : BitVec 6} {f : Fields} {lit : Option Word} (h : encBody i = some (m, f, lit))
    (w : fieldBits f = 21) : FormatWidth.Statement i := by
  rintro _ _ _ k
  obtain ⟨rfl, rfl, rfl⟩ := by simpa using h.symm.trans k
  exact w

/-- An event has no encoding. -/
theorem formatWidth_event {i : Instr} (h : encBody i = none) : FormatWidth.Statement i := by
  intro _ _ _ k
  rw [h] at k
  exact nomatch k

theorem FormatWidth.nop : ∀ a, FormatWidth.Statement (.nop a) :=
  fun _ => formatWidth_of rfl rfl

theorem FormatWidth.yield : ∀ a, FormatWidth.Statement (.yield a) :=
  fun _ => formatWidth_of rfl rfl

theorem FormatWidth.bkpt : ∀ a b, FormatWidth.Statement (.bkpt a b) :=
  fun _ _ => formatWidth_of rfl rfl

theorem FormatWidth.bra : ∀ a b, FormatWidth.Statement (.bra a b) :=
  fun _ _ => formatWidth_of rfl rfl

theorem FormatWidth.brx : ∀ a b, FormatWidth.Statement (.brx a b) :=
  fun _ _ => formatWidth_of rfl rfl

theorem FormatWidth.call : ∀ a b c, FormatWidth.Statement (.call a b c) :=
  fun _ _ _ => formatWidth_of rfl rfl

theorem FormatWidth.callx : ∀ a b c, FormatWidth.Statement (.callx a b c) :=
  fun _ _ _ => formatWidth_of rfl rfl

theorem FormatWidth.ret : ∀ a b, FormatWidth.Statement (.ret a b) :=
  fun _ _ => formatWidth_of rfl rfl

theorem FormatWidth.exit : ∀ a, FormatWidth.Statement (.exit a) :=
  fun _ => formatWidth_of rfl rfl

theorem FormatWidth.meet : ∀ a b c, FormatWidth.Statement (.meet a b c) :=
  fun _ _ _ => formatWidth_of rfl rfl

theorem FormatWidth.setm : ∀ a b, FormatWidth.Statement (.setm a b) :=
  fun _ _ => formatWidth_of rfl rfl

theorem FormatWidth.getm : ∀ a b, FormatWidth.Statement (.getm a b) :=
  fun _ _ => formatWidth_of rfl rfl

theorem FormatWidth.rgn : ∀ a, FormatWidth.Statement (.rgn a) :=
  fun _ => formatWidth_of rfl rfl

theorem FormatWidth.trap : ∀ a b, FormatWidth.Statement (.trap a b) :=
  fun _ _ => formatWidth_of rfl rfl

theorem FormatWidth.addI32 : ∀ a b c d, FormatWidth.Statement (.addI32 a b c d) :=
  fun _ _ _ _ => formatWidth_of rfl rfl

theorem FormatWidth.subI32 : ∀ a b c d, FormatWidth.Statement (.subI32 a b c d) :=
  fun _ _ _ _ => formatWidth_of rfl rfl

theorem FormatWidth.addxN32 : ∀ a b c d, FormatWidth.Statement (.addxN32 a b c d) :=
  fun _ _ _ _ => formatWidth_of rfl rfl

theorem FormatWidth.subxN32 : ∀ a b c d, FormatWidth.Statement (.subxN32 a b c d) :=
  fun _ _ _ _ => formatWidth_of rfl rfl

theorem FormatWidth.addI64 : ∀ a b c d, FormatWidth.Statement (.addI64 a b c d) :=
  fun _ _ _ _ => formatWidth_of rfl rfl

theorem FormatWidth.subI64 : ∀ a b c d, FormatWidth.Statement (.subI64 a b c d) :=
  fun _ _ _ _ => formatWidth_of rfl rfl

theorem FormatWidth.mulwI32 : ∀ a b c d, FormatWidth.Statement (.mulwI32 a b c d) :=
  fun _ _ _ _ => formatWidth_of rfl rfl

theorem FormatWidth.madwI32 : ∀ a b c d, FormatWidth.Statement (.madwI32 a b c d) :=
  fun _ _ _ _ => formatWidth_of rfl rfl

theorem FormatWidth.addI32Imm : ∀ a b c d, FormatWidth.Statement (.addI32Imm a b c d) :=
  fun _ _ _ _ => formatWidth_of rfl rfl

theorem FormatWidth.mulI32 : ∀ a b c d, FormatWidth.Statement (.mulI32 a b c d) :=
  fun _ _ _ _ => formatWidth_of rfl rfl

theorem FormatWidth.mulhiI32 : ∀ a b c d, FormatWidth.Statement (.mulhiI32 a b c d) :=
  fun _ _ _ _ => formatWidth_of rfl rfl

theorem FormatWidth.mulhiN32 : ∀ a b c d, FormatWidth.Statement (.mulhiN32 a b c d) :=
  fun _ _ _ _ => formatWidth_of rfl rfl

theorem FormatWidth.madI32 : ∀ a b c d, FormatWidth.Statement (.madI32 a b c d) :=
  fun _ _ _ _ => formatWidth_of rfl rfl

theorem FormatWidth.divI32 : ∀ a b c d, FormatWidth.Statement (.divI32 a b c d) :=
  fun _ _ _ _ => formatWidth_of rfl rfl

theorem FormatWidth.divN32 : ∀ a b c d, FormatWidth.Statement (.divN32 a b c d) :=
  fun _ _ _ _ => formatWidth_of rfl rfl

theorem FormatWidth.remI32 : ∀ a b c d, FormatWidth.Statement (.remI32 a b c d) :=
  fun _ _ _ _ => formatWidth_of rfl rfl

theorem FormatWidth.remN32 : ∀ a b c d, FormatWidth.Statement (.remN32 a b c d) :=
  fun _ _ _ _ => formatWidth_of rfl rfl

theorem FormatWidth.andB32 : ∀ a b c d, FormatWidth.Statement (.andB32 a b c d) :=
  fun _ _ _ _ => formatWidth_of rfl rfl

theorem FormatWidth.orB32 : ∀ a b c d, FormatWidth.Statement (.orB32 a b c d) :=
  fun _ _ _ _ => formatWidth_of rfl rfl

theorem FormatWidth.xorB32 : ∀ a b c d, FormatWidth.Statement (.xorB32 a b c d) :=
  fun _ _ _ _ => formatWidth_of rfl rfl

theorem FormatWidth.andnB32 : ∀ a b c d, FormatWidth.Statement (.andnB32 a b c d) :=
  fun _ _ _ _ => formatWidth_of rfl rfl

theorem FormatWidth.minI32 : ∀ a b c d, FormatWidth.Statement (.minI32 a b c d) :=
  fun _ _ _ _ => formatWidth_of rfl rfl

theorem FormatWidth.minN32 : ∀ a b c d, FormatWidth.Statement (.minN32 a b c d) :=
  fun _ _ _ _ => formatWidth_of rfl rfl

theorem FormatWidth.maxI32 : ∀ a b c d, FormatWidth.Statement (.maxI32 a b c d) :=
  fun _ _ _ _ => formatWidth_of rfl rfl

theorem FormatWidth.maxN32 : ∀ a b c d, FormatWidth.Statement (.maxN32 a b c d) :=
  fun _ _ _ _ => formatWidth_of rfl rfl

theorem FormatWidth.shlB32 : ∀ a b c d, FormatWidth.Statement (.shlB32 a b c d) :=
  fun _ _ _ _ => formatWidth_of rfl rfl

theorem FormatWidth.shrN32 : ∀ a b c d, FormatWidth.Statement (.shrN32 a b c d) :=
  fun _ _ _ _ => formatWidth_of rfl rfl

theorem FormatWidth.shrI32 : ∀ a b c d, FormatWidth.Statement (.shrI32 a b c d) :=
  fun _ _ _ _ => formatWidth_of rfl rfl

theorem FormatWidth.bpermB32 : ∀ a b c d, FormatWidth.Statement (.bpermB32 a b c d) :=
  fun _ _ _ _ => formatWidth_of rfl rfl

theorem FormatWidth.shlB32Imm : ∀ a b c d, FormatWidth.Statement (.shlB32Imm a b c d) :=
  fun _ _ _ _ => formatWidth_of rfl rfl

theorem FormatWidth.shrN32Imm : ∀ a b c d, FormatWidth.Statement (.shrN32Imm a b c d) :=
  fun _ _ _ _ => formatWidth_of rfl rfl

theorem FormatWidth.shrI32Imm : ∀ a b c d, FormatWidth.Statement (.shrI32Imm a b c d) :=
  fun _ _ _ _ => formatWidth_of rfl rfl

theorem FormatWidth.rotB32 : ∀ a b c d, FormatWidth.Statement (.rotB32 a b c d) :=
  fun _ _ _ _ => formatWidth_of rfl rfl

theorem FormatWidth.popcB32 : ∀ a b c, FormatWidth.Statement (.popcB32 a b c) :=
  fun _ _ _ => formatWidth_of rfl rfl

theorem FormatWidth.clzB32 : ∀ a b c, FormatWidth.Statement (.clzB32 a b c) :=
  fun _ _ _ => formatWidth_of rfl rfl

theorem FormatWidth.absI32 : ∀ a b c, FormatWidth.Statement (.absI32 a b c) :=
  fun _ _ _ => formatWidth_of rfl rfl

theorem FormatWidth.negI32 : ∀ a b c, FormatWidth.Statement (.negI32 a b c) :=
  fun _ _ _ => formatWidth_of rfl rfl

theorem FormatWidth.bfxN32 : ∀ a b c d, FormatWidth.Statement (.bfxN32 a b c d) :=
  fun _ _ _ _ => formatWidth_of rfl rfl

theorem FormatWidth.bfxI32 : ∀ a b c d, FormatWidth.Statement (.bfxI32 a b c d) :=
  fun _ _ _ _ => formatWidth_of rfl rfl

theorem FormatWidth.bfiB32 : ∀ a b c d, FormatWidth.Statement (.bfiB32 a b c d) :=
  fun _ _ _ _ => formatWidth_of rfl rfl

theorem FormatWidth.movi : ∀ a b c, FormatWidth.Statement (.movi a b c) :=
  fun _ _ _ => formatWidth_of rfl rfl

theorem FormatWidth.movhi : ∀ a b c, FormatWidth.Statement (.movhi a b c) :=
  fun _ _ _ => formatWidth_of rfl rfl

theorem FormatWidth.cmp : ∀ a b c d e f, FormatWidth.Statement (.cmp a b c d e f) :=
  fun _ _ _ _ _ _ => formatWidth_of rfl rfl

theorem FormatWidth.cmpi : ∀ a b c d e, FormatWidth.Statement (.cmpi a b c d e) :=
  fun _ _ _ _ _ => formatWidth_of rfl rfl

theorem FormatWidth.fcmp : ∀ a b c d e, FormatWidth.Statement (.fcmp a b c d e) :=
  fun _ _ _ _ _ => formatWidth_of rfl rfl

theorem FormatWidth.sel : ∀ a b c d e, FormatWidth.Statement (.sel a b c d e) :=
  fun _ _ _ _ _ => formatWidth_of rfl rfl

theorem FormatWidth.movB32 : ∀ a b c, FormatWidth.Statement (.movB32 a b c) :=
  fun _ _ _ => formatWidth_of rfl rfl

theorem FormatWidth.movB64 : ∀ a b c, FormatWidth.Statement (.movB64 a b c) :=
  fun _ _ _ => formatWidth_of rfl rfl

theorem FormatWidth.movLit : ∀ a b c, FormatWidth.Statement (.movLit a b c) :=
  fun _ _ _ => formatWidth_of rfl rfl

theorem FormatWidth.movB32S : ∀ a b c, FormatWidth.Statement (.movB32S a b c) :=
  fun _ _ _ => formatWidth_of rfl rfl

theorem FormatWidth.xset : ∀ a b c, FormatWidth.Statement (.xset a b c) :=
  fun _ _ _ => formatWidth_of rfl rfl

theorem FormatWidth.xidx : ∀ a b c, FormatWidth.Statement (.xidx a b c) :=
  fun _ _ _ => formatWidth_of rfl rfl

theorem FormatWidth.rdx : ∀ a b c, FormatWidth.Statement (.rdx a b c) :=
  fun _ _ _ => formatWidth_of rfl rfl

theorem FormatWidth.wrx : ∀ a b c, FormatWidth.Statement (.wrx a b c) :=
  fun _ _ _ => formatWidth_of rfl rfl

theorem FormatWidth.plop : ∀ a b c d e f g, FormatWidth.Statement (.plop a b c d e f g) :=
  fun _ _ _ _ _ _ _ => formatWidth_of rfl rfl

theorem FormatWidth.ld : ∀ a b c d e f, FormatWidth.Statement (.ld a b c d e f) :=
  fun _ _ _ _ _ _ => formatWidth_of rfl rfl

theorem FormatWidth.st : ∀ a b c d e f, FormatWidth.Statement (.st a b c d e f) :=
  fun _ _ _ _ _ _ => formatWidth_of rfl rfl

theorem FormatWidth.addF32 : ∀ a b c d, FormatWidth.Statement (.addF32 a b c d) :=
  fun _ _ _ _ => formatWidth_of rfl rfl

theorem FormatWidth.subF32 : ∀ a b c d, FormatWidth.Statement (.subF32 a b c d) :=
  fun _ _ _ _ => formatWidth_of rfl rfl

theorem FormatWidth.mulF32 : ∀ a b c d, FormatWidth.Statement (.mulF32 a b c d) :=
  fun _ _ _ _ => formatWidth_of rfl rfl

theorem FormatWidth.fmaF32 : ∀ a b c d, FormatWidth.Statement (.fmaF32 a b c d) :=
  fun _ _ _ _ => formatWidth_of rfl rfl

theorem FormatWidth.minF32 : ∀ a b c d, FormatWidth.Statement (.minF32 a b c d) :=
  fun _ _ _ _ => formatWidth_of rfl rfl

theorem FormatWidth.maxF32 : ∀ a b c d, FormatWidth.Statement (.maxF32 a b c d) :=
  fun _ _ _ _ => formatWidth_of rfl rfl

theorem FormatWidth.absF32 : ∀ a b c, FormatWidth.Statement (.absF32 a b c) :=
  fun _ _ _ => formatWidth_of rfl rfl

theorem FormatWidth.negF32 : ∀ a b c, FormatWidth.Statement (.negF32 a b c) :=
  fun _ _ _ => formatWidth_of rfl rfl

theorem FormatWidth.addF16x2 : ∀ a b c d, FormatWidth.Statement (.addF16x2 a b c d) :=
  fun _ _ _ _ => formatWidth_of rfl rfl

theorem FormatWidth.mulF16x2 : ∀ a b c d, FormatWidth.Statement (.mulF16x2 a b c d) :=
  fun _ _ _ _ => formatWidth_of rfl rfl

theorem FormatWidth.fmaF16x2 : ∀ a b c d, FormatWidth.Statement (.fmaF16x2 a b c d) :=
  fun _ _ _ _ => formatWidth_of rfl rfl

theorem FormatWidth.maxF16x2 : ∀ a b c d, FormatWidth.Statement (.maxF16x2 a b c d) :=
  fun _ _ _ _ => formatWidth_of rfl rfl

theorem FormatWidth.addBf16x2 : ∀ a b c d, FormatWidth.Statement (.addBf16x2 a b c d) :=
  fun _ _ _ _ => formatWidth_of rfl rfl

theorem FormatWidth.mulBf16x2 : ∀ a b c d, FormatWidth.Statement (.mulBf16x2 a b c d) :=
  fun _ _ _ _ => formatWidth_of rfl rfl

theorem FormatWidth.fmaBf16x2 : ∀ a b c d, FormatWidth.Statement (.fmaBf16x2 a b c d) :=
  fun _ _ _ _ => formatWidth_of rfl rfl

theorem FormatWidth.maxBf16x2 : ∀ a b c d, FormatWidth.Statement (.maxBf16x2 a b c d) :=
  fun _ _ _ _ => formatWidth_of rfl rfl

theorem FormatWidth.pmergeF32 : ∀ a b c d, FormatWidth.Statement (.pmergeF32 a b c d) :=
  fun _ _ _ _ => formatWidth_of rfl rfl

theorem FormatWidth.cvt : ∀ a b c d e f, FormatWidth.Statement (.cvt a b c d e f) :=
  fun _ _ _ _ _ _ => formatWidth_of rfl rfl

theorem FormatWidth.scalex : ∀ a b c d, FormatWidth.Statement (.scalex a b c d) :=
  fun _ _ _ _ => formatWidth_of rfl rfl

theorem FormatWidth.ex2F32 : ∀ a b c d, FormatWidth.Statement (.ex2F32 a b c d) :=
  fun _ _ _ _ => formatWidth_of rfl rfl

theorem FormatWidth.lg2F32 : ∀ a b c d, FormatWidth.Statement (.lg2F32 a b c d) :=
  fun _ _ _ _ => formatWidth_of rfl rfl

theorem FormatWidth.rcpF32 : ∀ a b c d, FormatWidth.Statement (.rcpF32 a b c d) :=
  fun _ _ _ _ => formatWidth_of rfl rfl

theorem FormatWidth.rsqF32 : ∀ a b c d, FormatWidth.Statement (.rsqF32 a b c d) :=
  fun _ _ _ _ => formatWidth_of rfl rfl

theorem FormatWidth.sinF32 : ∀ a b c d, FormatWidth.Statement (.sinF32 a b c d) :=
  fun _ _ _ _ => formatWidth_of rfl rfl

theorem FormatWidth.cosF32 : ∀ a b c d, FormatWidth.Statement (.cosF32 a b c d) :=
  fun _ _ _ _ => formatWidth_of rfl rfl

theorem FormatWidth.uaddI32 : ∀ a b c d, FormatWidth.Statement (.uaddI32 a b c d) :=
  fun _ _ _ _ => formatWidth_of rfl rfl

theorem FormatWidth.usubI32 : ∀ a b c d, FormatWidth.Statement (.usubI32 a b c d) :=
  fun _ _ _ _ => formatWidth_of rfl rfl

theorem FormatWidth.umulI32 : ∀ a b c d, FormatWidth.Statement (.umulI32 a b c d) :=
  fun _ _ _ _ => formatWidth_of rfl rfl

theorem FormatWidth.umovlB32 : ∀ a b c, FormatWidth.Statement (.umovlB32 a b c) :=
  fun _ _ _ => formatWidth_of rfl rfl

theorem FormatWidth.uandB32 : ∀ a b c d, FormatWidth.Statement (.uandB32 a b c d) :=
  fun _ _ _ _ => formatWidth_of rfl rfl

theorem FormatWidth.uorB32 : ∀ a b c d, FormatWidth.Statement (.uorB32 a b c d) :=
  fun _ _ _ _ => formatWidth_of rfl rfl

theorem FormatWidth.ushlB32 : ∀ a b c d, FormatWidth.Statement (.ushlB32 a b c d) :=
  fun _ _ _ _ => formatWidth_of rfl rfl

theorem FormatWidth.ushrN32 : ∀ a b c d, FormatWidth.Statement (.ushrN32 a b c d) :=
  fun _ _ _ _ => formatWidth_of rfl rfl

theorem FormatWidth.sld : ∀ a b c d e f g, FormatWidth.Statement (.sld a b c d e f g) :=
  fun _ _ _ _ _ _ _ => formatWidth_of rfl rfl

theorem FormatWidth.voteAll : ∀ a b c d, FormatWidth.Statement (.voteAll a b c d) :=
  fun _ _ _ _ => formatWidth_of rfl rfl

theorem FormatWidth.voteAny : ∀ a b c d, FormatWidth.Statement (.voteAny a b c d) :=
  fun _ _ _ _ => formatWidth_of rfl rfl

theorem FormatWidth.voteBallot : ∀ a b c d, FormatWidth.Statement (.voteBallot a b c d) :=
  fun _ _ _ _ => formatWidth_of rfl rfl

theorem FormatWidth.rdfl : ∀ a b c, FormatWidth.Statement (.rdfl a b c) :=
  fun _ _ _ => formatWidth_of rfl rfl

theorem FormatWidth.shflIdx : ∀ a b c d, FormatWidth.Statement (.shflIdx a b c d) :=
  fun _ _ _ _ => formatWidth_of rfl rfl

theorem FormatWidth.shflUp : ∀ a b c d, FormatWidth.Statement (.shflUp a b c d) :=
  fun _ _ _ _ => formatWidth_of rfl rfl

theorem FormatWidth.shflDown : ∀ a b c d, FormatWidth.Statement (.shflDown a b c d) :=
  fun _ _ _ _ => formatWidth_of rfl rfl

theorem FormatWidth.shflXor : ∀ a b c d, FormatWidth.Statement (.shflXor a b c d) :=
  fun _ _ _ _ => formatWidth_of rfl rfl

theorem FormatWidth.bar : ∀ a, FormatWidth.Statement (.bar a) :=
  fun _ => formatWidth_of rfl rfl

theorem FormatWidth.gbar : ∀ a b, FormatWidth.Statement (.gbar a b) :=
  fun _ _ => formatWidth_of rfl rfl

theorem FormatWidth.bcast : ∀ a b c d, FormatWidth.Statement (.bcast a b c d) :=
  fun _ _ _ _ => formatWidth_of rfl rfl

theorem FormatWidth.grow : ∀ a b, FormatWidth.Statement (.grow a b) :=
  fun _ _ => formatWidth_of rfl rfl

theorem FormatWidth.shrink : ∀ a b, FormatWidth.Statement (.shrink a b) :=
  fun _ _ => formatWidth_of rfl rfl

theorem FormatWidth.take : ∀ a b, FormatWidth.Statement (.take a b) :=
  fun _ _ => formatWidth_of rfl rfl

theorem FormatWidth.spawn : ∀ a b, FormatWidth.Statement (.spawn a b) :=
  fun _ _ => formatWidth_of rfl rfl

theorem FormatWidth.req : ∀ a b c d e, FormatWidth.Statement (.req a b c d e) :=
  fun _ _ _ _ _ => formatWidth_of rfl rfl

theorem FormatWidth.boinit : ∀ a b c, FormatWidth.Statement (.boinit a b c) :=
  fun _ _ _ => formatWidth_of rfl rfl

theorem FormatWidth.boarrive : ∀ a b c, FormatWidth.Statement (.boarrive a b c) :=
  fun _ _ _ => formatWidth_of rfl rfl

theorem FormatWidth.bowait : ∀ a b c, FormatWidth.Statement (.bowait a b c) :=
  fun _ _ _ => formatWidth_of rfl rfl

theorem FormatWidth.ldSpace : ∀ a b c d e f g, FormatWidth.Statement (.ldSpace a b c d e f g) :=
  fun _ _ _ _ _ _ _ => formatWidth_of rfl rfl

theorem FormatWidth.stSpace : ∀ a b c d e f g, FormatWidth.Statement (.stSpace a b c d e f g) :=
  fun _ _ _ _ _ _ _ => formatWidth_of rfl rfl

theorem FormatWidth.atom : ∀ a b c d e f g, FormatWidth.Statement (.atom a b c d e f g) :=
  fun _ _ _ _ _ _ _ => formatWidth_of rfl rfl

theorem FormatWidth.cas : ∀ a b c d e f, FormatWidth.Statement (.cas a b c d e f) :=
  fun _ _ _ _ _ _ => formatWidth_of rfl rfl

theorem FormatWidth.ldAtomic : ∀ a b c d e, FormatWidth.Statement (.ldAtomic a b c d e) :=
  fun _ _ _ _ _ => formatWidth_of rfl rfl

theorem FormatWidth.stAtomic : ∀ a b c d e, FormatWidth.Statement (.stAtomic a b c d e) :=
  fun _ _ _ _ _ => formatWidth_of rfl rfl

theorem FormatWidth.fence : ∀ a b c, FormatWidth.Statement (.fence a b c) :=
  fun _ _ _ => formatWidth_of rfl rfl

theorem FormatWidth.shedDropL1 : ∀ a b c, FormatWidth.Statement (.shedDropL1 a b c) :=
  fun _ _ _ => formatWidth_of rfl rfl

theorem FormatWidth.shedCleanGrove : ∀ a b c, FormatWidth.Statement (.shedCleanGrove a b c) :=
  fun _ _ _ => formatWidth_of rfl rfl

theorem FormatWidth.shedDropL1All : ∀ a, FormatWidth.Statement (.shedDropL1All a) :=
  fun _ => formatWidth_of rfl rfl

theorem FormatWidth.warmGrove : ∀ a b c, FormatWidth.Statement (.warmGrove a b c) :=
  fun _ _ _ => formatWidth_of rfl rfl

theorem FormatWidth.warmL1 : ∀ a b c, FormatWidth.Statement (.warmL1 a b c) :=
  fun _ _ _ => formatWidth_of rfl rfl

theorem FormatWidth.claim : ∀ a b, FormatWidth.Statement (.claim a b) :=
  fun _ _ => formatWidth_of rfl rfl

theorem FormatWidth.rels : ∀ a b, FormatWidth.Statement (.rels a b) :=
  fun _ _ => formatWidth_of rfl rfl

theorem FormatWidth.kset : ∀ a b c d, FormatWidth.Statement (.kset a b c d) :=
  fun _ _ _ _ => formatWidth_of rfl rfl

theorem FormatWidth.ldt : ∀ a b c d e, FormatWidth.Statement (.ldt a b c d e) :=
  fun _ _ _ _ _ => formatWidth_of rfl rfl

theorem FormatWidth.stt : ∀ a b c d e, FormatWidth.Statement (.stt a b c d e) :=
  fun _ _ _ _ _ => formatWidth_of rfl rfl

theorem FormatWidth.accz : ∀ a b, FormatWidth.Statement (.accz a b) :=
  fun _ _ => formatWidth_of rfl rfl

theorem FormatWidth.accld : ∀ a b c d, FormatWidth.Statement (.accld a b c d) :=
  fun _ _ _ _ => formatWidth_of rfl rfl

theorem FormatWidth.accst : ∀ a b c d, FormatWidth.Statement (.accst a b c d) :=
  fun _ _ _ _ => formatWidth_of rfl rfl

theorem FormatWidth.accstBf16 : ∀ a b c d, FormatWidth.Statement (.accstBf16 a b c d) :=
  fun _ _ _ _ => formatWidth_of rfl rfl

theorem FormatWidth.accstF16 : ∀ a b c d, FormatWidth.Statement (.accstF16 a b c d) :=
  fun _ _ _ _ => formatWidth_of rfl rfl

theorem FormatWidth.mxsave : ∀ a b c, FormatWidth.Statement (.mxsave a b c) :=
  fun _ _ _ => formatWidth_of rfl rfl

theorem FormatWidth.mxrest : ∀ a b c, FormatWidth.Statement (.mxrest a b c) :=
  fun _ _ _ => formatWidth_of rfl rfl

theorem FormatWidth.draw : ∀ a b c d e f, FormatWidth.Statement (.draw a b c d e f) :=
  fun _ _ _ _ _ _ => formatWidth_of rfl rfl

theorem FormatWidth.accept : ∀ a b c d e f, FormatWidth.Statement (.accept a b c d e f) :=
  fun _ _ _ _ _ _ => formatWidth_of rfl rfl

theorem FormatWidth.mma : ∀ a b c d e f g, FormatWidth.Statement (.mma a b c d e f g) :=
  fun _ _ _ _ _ _ _ => formatWidth_of rfl rfl

theorem FormatWidth.strmIn : ∀ a b c d e, FormatWidth.Statement (.strmIn a b c d e) :=
  fun _ _ _ _ _ => formatWidth_of rfl rfl

theorem FormatWidth.strmOut : ∀ a b c d e, FormatWidth.Statement (.strmOut a b c d e) :=
  fun _ _ _ _ _ => formatWidth_of rfl rfl

theorem FormatWidth.gnode : ∀ a b c, FormatWidth.Statement (.gnode a b c) :=
  fun _ _ _ => formatWidth_of rfl rfl

theorem FormatWidth.xform : ∀ a b c d e f, FormatWidth.Statement (.xform a b c d e f) :=
  fun _ _ _ _ _ _ => formatWidth_of rfl rfl

theorem FormatWidth.link : ∀ a b c d, FormatWidth.Statement (.link a b c d) :=
  fun _ _ _ _ => formatWidth_of rfl rfl

theorem FormatWidth.unlink : ∀ a b c, FormatWidth.Statement (.unlink a b c) :=
  fun _ _ _ => formatWidth_of rfl rfl

theorem FormatWidth.unlinkCmp : ∀ a b c, FormatWidth.Statement (.unlinkCmp a b c) :=
  fun _ _ _ => formatWidth_of rfl rfl

theorem FormatWidth.segrd : ∀ a b c, FormatWidth.Statement (.segrd a b c) :=
  fun _ _ _ => formatWidth_of rfl rfl

theorem FormatWidth.segrdRw : ∀ a b c, FormatWidth.Statement (.segrdRw a b c) :=
  fun _ _ _ => formatWidth_of rfl rfl

theorem FormatWidth.gpw : ∀ a b c d, FormatWidth.Statement (.gpw a b c d) :=
  fun _ _ _ _ => formatWidth_of rfl rfl

theorem FormatWidth.watch : ∀ a b c d, FormatWidth.Statement (.watch a b c d) :=
  fun _ _ _ _ => formatWidth_of rfl rfl

theorem FormatWidth.unwatch : ∀ a b c, FormatWidth.Statement (.unwatch a b c) :=
  fun _ _ _ => formatWidth_of rfl rfl

theorem FormatWidth.srd : ∀ a b c, FormatWidth.Statement (.srd a b c) :=
  fun _ _ _ => formatWidth_of rfl rfl

theorem FormatWidth.swr : ∀ a b c, FormatWidth.Statement (.swr a b c) :=
  fun _ _ _ => formatWidth_of rfl rfl

theorem FormatWidth.tret : ∀ a, FormatWidth.Statement (.tret a) :=
  fun _ => formatWidth_of rfl rfl

theorem FormatWidth.tlbinv : ∀ a b c, FormatWidth.Statement (.tlbinv a b c) :=
  fun _ _ _ => formatWidth_of rfl rfl

theorem FormatWidth.loadComplete : ∀ a, FormatWidth.Statement (.loadComplete a) :=
  fun _ => formatWidth_event rfl

theorem FormatWidth.storePerformed : ∀ a, FormatWidth.Statement (.storePerformed a) :=
  fun _ => formatWidth_event rfl

theorem FormatWidth.sfuComplete : ∀ a, FormatWidth.Statement (.sfuComplete a) :=
  fun _ => formatWidth_event rfl

theorem FormatWidth.watchComplete : ∀ a, FormatWidth.Statement (.watchComplete a) :=
  fun _ => formatWidth_event rfl

theorem FormatWidth.sproutStart : ∀ a b, FormatWidth.Statement (.sproutStart a b) :=
  fun _ _ => formatWidth_event rfl

theorem FormatWidth.crewStart : ∀ a b, FormatWidth.Statement (.crewStart a b) :=
  fun _ _ => formatWidth_event rfl

theorem FormatWidth.growGrant : ∀ a, FormatWidth.Statement (.growGrant a) :=
  fun _ => formatWidth_event rfl

theorem FormatWidth.registerSpill : ∀ a, FormatWidth.Statement (.registerSpill a) :=
  fun _ => formatWidth_event rfl

theorem FormatWidth.granuleFill : ∀ a b, FormatWidth.Statement (.granuleFill a b) :=
  fun _ _ => formatWidth_event rfl

theorem FormatWidth.claimGrant : ∀ a, FormatWidth.Statement (.claimGrant a) :=
  fun _ => formatWidth_event rfl

theorem FormatWidth.mmaCheck : ∀ a, FormatWidth.Statement (.mmaCheck a) :=
  fun _ => formatWidth_event rfl

theorem FormatWidth.matrixTransferComplete : ∀ a, FormatWidth.Statement (.matrixTransferComplete a) :=
  fun _ => formatWidth_event rfl

theorem FormatWidth.drawPerform : ∀ a, FormatWidth.Statement (.drawPerform a) :=
  fun _ => formatWidth_event rfl

theorem FormatWidth.acceptPerform : ∀ a, FormatWidth.Statement (.acceptPerform a) :=
  fun _ => formatWidth_event rfl

theorem FormatWidth.workRequestServed : ∀ a b, FormatWidth.Statement (.workRequestServed a b) :=
  fun _ _ => formatWidth_event rfl

theorem FormatWidth.stealMessage : ∀ a b, FormatWidth.Statement (.stealMessage a b) :=
  fun _ _ => formatWidth_event rfl

theorem FormatWidth.terminationRound : ∀ a, FormatWidth.Statement (.terminationRound a) :=
  fun _ => formatWidth_event rfl

theorem FormatWidth.streamTile : ∀ a, FormatWidth.Statement (.streamTile a) :=
  fun _ => formatWidth_event rfl

theorem FormatWidth.xformComplete : ∀ a, FormatWidth.Statement (.xformComplete a) :=
  fun _ => formatWidth_event rfl

theorem FormatWidth.graphNodeComplete : ∀ a, FormatWidth.Statement (.graphNodeComplete a) :=
  fun _ => formatWidth_event rfl

theorem FormatWidth.linkPublish : ∀ a b, FormatWidth.Statement (.linkPublish a b) :=
  fun _ _ => formatWidth_event rfl

theorem FormatWidth.unlinkPublish : ∀ a b, FormatWidth.Statement (.unlinkPublish a b) :=
  fun _ _ => formatWidth_event rfl

theorem FormatWidth.unlinkComplete : ∀ a, FormatWidth.Statement (.unlinkComplete a) :=
  fun _ => formatWidth_event rfl

theorem FormatWidth.segrdRead : ∀ a, FormatWidth.Statement (.segrdRead a) :=
  fun _ => formatWidth_event rfl

theorem FormatWidth.repairLayerCommit : ∀ a, FormatWidth.Statement (.repairLayerCommit a) :=
  fun _ => formatWidth_event rfl

theorem FormatWidth.repairPassStart : ∀ a, FormatWidth.Statement (.repairPassStart a) :=
  fun _ => formatWidth_event rfl

theorem FormatWidth.tlbinvComplete : ∀ a, FormatWidth.Statement (.tlbinvComplete a) :=
  fun _ => formatWidth_event rfl

theorem FormatWidth.remoteEnqueueDelivery : ∀ a, FormatWidth.Statement (.remoteEnqueueDelivery a) :=
  fun _ => formatWidth_event rfl

theorem FormatWidth.reqAck : ∀ a, FormatWidth.Statement (.reqAck a) :=
  fun _ => formatWidth_event rfl

theorem FormatWidth.clearingPageReclaim : ∀ a b c, FormatWidth.Statement (.clearingPageReclaim a b c) :=
  fun _ _ _ => formatWidth_event rfl

theorem FormatWidth.waitingWritePerformed : ∀ a, FormatWidth.Statement (.waitingWritePerformed a) :=
  fun _ => formatWidth_event rfl

theorem FormatWidth.faultRecord : ∀ a, FormatWidth.Statement (.faultRecord a) :=
  fun _ => formatWidth_event rfl

theorem FormatWidth.faultReply : ∀ a b, FormatWidth.Statement (.faultReply a b) :=
  fun _ _ => formatWidth_event rfl

theorem FormatWidth.trapEntry : ∀ a, FormatWidth.Statement (.trapEntry a) :=
  fun _ => formatWidth_event rfl

theorem FormatWidth.asyncTrapReport : ∀ a b, FormatWidth.Statement (.asyncTrapReport a b) :=
  fun _ _ => formatWidth_event rfl

theorem FormatWidth.uncorrectableError : ∀ a, FormatWidth.Statement (.uncorrectableError a) :=
  fun _ => formatWidth_event rfl

theorem FormatWidth.crewRelaunch : ∀ a b, FormatWidth.Statement (.crewRelaunch a b) :=
  fun _ _ => formatWidth_event rfl

theorem FormatWidth.haltBroadcast : ∀ a b, FormatWidth.Statement (.haltBroadcast a b) :=
  fun _ _ => formatWidth_event rfl

theorem FormatWidth.drainComplete : ∀ a, FormatWidth.Statement (.drainComplete a) :=
  fun _ => formatWidth_event rfl

theorem FormatWidth.wsRefreshStart : ∀ a, FormatWidth.Statement (.wsRefreshStart a) :=
  fun _ => formatWidth_event rfl

theorem FormatWidth.wsRefreshEnd : ∀ a, FormatWidth.Statement (.wsRefreshEnd a) :=
  fun _ => formatWidth_event rfl

theorem FormatWidth.transectIntervalEnd : ∀ a, FormatWidth.Statement (.transectIntervalEnd a) :=
  fun _ => formatWidth_event rfl

theorem FormatWidth.stallSample : ∀ a, FormatWidth.Statement (.stallSample a) :=
  fun _ => formatWidth_event rfl

theorem FormatWidth.queueDoorbell : ∀ a b, FormatWidth.Statement (.queueDoorbell a b) :=
  fun _ _ => formatWidth_event rfl

theorem FormatWidth.controlQueueDoorbell : ∀ a, FormatWidth.Statement (.controlQueueDoorbell a) :=
  fun _ => formatWidth_event rfl

theorem FormatWidth.queueMap : ∀ a, FormatWidth.Statement (.queueMap a) :=
  fun _ => formatWidth_event rfl

theorem FormatWidth.sliceEnd : ∀ a, FormatWidth.Statement (.sliceEnd a) :=
  fun _ => formatWidth_event rfl

theorem FormatWidth.preemptCollected : ∀ a, FormatWidth.Statement (.preemptCollected a) :=
  fun _ => formatWidth_event rfl

theorem FormatWidth.launchEnd : ∀ a, FormatWidth.Statement (.launchEnd a) :=
  fun _ => formatWidth_event rfl

theorem FormatWidth.cmdNop : ∀ a, FormatWidth.Statement (.cmdNop a) :=
  fun _ => formatWidth_event rfl

theorem FormatWidth.launch : ∀ a, FormatWidth.Statement (.launch a) :=
  fun _ => formatWidth_event rfl

theorem FormatWidth.graph : ∀ a, FormatWidth.Statement (.graph a) :=
  fun _ => formatWidth_event rfl

theorem FormatWidth.gpset : ∀ a, FormatWidth.Statement (.gpset a) :=
  fun _ => formatWidth_event rfl

theorem FormatWidth.waitv : ∀ a, FormatWidth.Statement (.waitv a) :=
  fun _ => formatWidth_event rfl

theorem FormatWidth.waitvSatisfied : ∀ a, FormatWidth.Statement (.waitvSatisfied a) :=
  fun _ => formatWidth_event rfl

theorem FormatWidth.writev : ∀ a, FormatWidth.Statement (.writev a) :=
  fun _ => formatWidth_event rfl

theorem FormatWidth.copy : ∀ a, FormatWidth.Statement (.copy a) :=
  fun _ => formatWidth_event rfl

theorem FormatWidth.wsload : ∀ a, FormatWidth.Statement (.wsload a) :=
  fun _ => formatWidth_event rfl

theorem FormatWidth.ringreg : ∀ a, FormatWidth.Statement (.ringreg a) :=
  fun _ => formatWidth_event rfl

theorem FormatWidth.redset : ∀ a, FormatWidth.Statement (.redset a) :=
  fun _ => formatWidth_event rfl

theorem FormatWidth.coll : ∀ a, FormatWidth.Statement (.coll a) :=
  fun _ => formatWidth_event rfl

theorem FormatWidth.ctxsetTvec : ∀ a, FormatWidth.Statement (.ctxsetTvec a) :=
  fun _ => formatWidth_event rfl

theorem FormatWidth.ctxsetBalq : ∀ a, FormatWidth.Statement (.ctxsetBalq a) :=
  fun _ => formatWidth_event rfl

theorem FormatWidth.ctxsetDbase : ∀ a, FormatWidth.Statement (.ctxsetDbase a) :=
  fun _ => formatWidth_event rfl

theorem FormatWidth.ctxsetDslot : ∀ a, FormatWidth.Statement (.ctxsetDslot a) :=
  fun _ => formatWidth_event rfl

theorem FormatWidth.ctxsetDn : ∀ a, FormatWidth.Statement (.ctxsetDn a) :=
  fun _ => formatWidth_event rfl

theorem FormatWidth.ctxsetLogmax : ∀ a, FormatWidth.Statement (.ctxsetLogmax a) :=
  fun _ => formatWidth_event rfl

theorem FormatWidth.ctxsetEventRing : ∀ a, FormatWidth.Statement (.ctxsetEventRing a) :=
  fun _ => formatWidth_event rfl

theorem FormatWidth.ctxsetDefaultLaunch : ∀ a, FormatWidth.Statement (.ctxsetDefaultLaunch a) :=
  fun _ => formatWidth_event rfl

theorem FormatWidth.ctxnew : FormatWidth.Statement .ctxnew :=
  formatWidth_event rfl

theorem FormatWidth.ctxdel : FormatWidth.Statement .ctxdel :=
  formatWidth_event rfl

theorem FormatWidth.acct : FormatWidth.Statement .acct :=
  formatWidth_event rfl

theorem FormatWidth.poolset : FormatWidth.Statement .poolset :=
  formatWidth_event rfl

theorem FormatWidth.halt : FormatWidth.Statement .halt :=
  formatWidth_event rfl

theorem FormatWidth.resume : FormatWidth.Statement .resume :=
  formatWidth_event rfl

theorem FormatWidth.dump : FormatWidth.Statement .dump :=
  formatWidth_event rfl

theorem FormatWidth.dbgset : FormatWidth.Statement .dbgset :=
  formatWidth_event rfl

theorem FormatWidth.powerActive : FormatWidth.Statement .powerActive :=
  formatWidth_event rfl

theorem FormatWidth.powerReducedClock : FormatWidth.Statement .powerReducedClock :=
  formatWidth_event rfl

theorem FormatWidth.powerDiePark : FormatWidth.Statement .powerDiePark :=
  formatWidth_event rfl

theorem FormatWidth.powerStandby : FormatWidth.Statement .powerStandby :=
  formatWidth_event rfl

theorem FormatWidth.dieParked : ∀ a, FormatWidth.Statement (.dieParked a) :=
  fun _ => formatWidth_event rfl

theorem FormatWidth.standbyEntry : FormatWidth.Statement .standbyEntry :=
  formatWidth_event rfl

theorem FormatWidth.reset : FormatWidth.Statement .reset :=
  formatWidth_event rfl

theorem FormatWidth.getVersion : FormatWidth.Statement .getVersion :=
  formatWidth_event rfl

theorem FormatWidth.getCapabilities : FormatWidth.Statement .getCapabilities :=
  formatWidth_event rfl

theorem FormatWidth.negotiateAlgorithms : ∀ a, FormatWidth.Statement (.negotiateAlgorithms a) :=
  fun _ => formatWidth_event rfl

theorem FormatWidth.getDigests : FormatWidth.Statement .getDigests :=
  formatWidth_event rfl

theorem FormatWidth.getCertificate : ∀ a, FormatWidth.Statement (.getCertificate a) :=
  fun _ => formatWidth_event rfl

theorem FormatWidth.challenge : ∀ a, FormatWidth.Statement (.challenge a) :=
  fun _ => formatWidth_event rfl

theorem FormatWidth.getMeasurements : ∀ a b, FormatWidth.Statement (.getMeasurements a b) :=
  fun _ _ => formatWidth_event rfl

theorem FormatWidth.spdmUnsupportedRequest : ∀ a, FormatWidth.Statement (.spdmUnsupportedRequest a) :=
  fun _ => formatWidth_event rfl

theorem FormatWidth.debugNonceRequest : ∀ a, FormatWidth.Statement (.debugNonceRequest a) :=
  fun _ => formatWidth_event rfl

theorem FormatWidth.debugToken : ∀ a, FormatWidth.Statement (.debugToken a) :=
  fun _ => formatWidth_event rfl

theorem FormatWidth.measurementExtend : ∀ a b, FormatWidth.Statement (.measurementExtend a b) :=
  fun _ _ => formatWidth_event rfl

theorem FormatWidth.hostAccess : ∀ a b c d, FormatWidth.Statement (.hostAccess a b c d) :=
  fun _ _ _ _ => formatWidth_event rfl

theorem FormatWidth.flitCrcError : ∀ a, FormatWidth.Statement (.flitCrcError a) :=
  fun _ => formatWidth_event rfl

theorem FormatWidth.dieBoundaryFailed : ∀ a, FormatWidth.Statement (.dieBoundaryFailed a) :=
  fun _ => formatWidth_event rfl

theorem FormatWidth.memoryUncorrectableError : ∀ a, FormatWidth.Statement (.memoryUncorrectableError a) :=
  fun _ => formatWidth_event rfl

theorem FormatWidth.choelatosPortFailure : ∀ a, FormatWidth.Statement (.choelatosPortFailure a) :=
  fun _ => formatWidth_event rfl

theorem FormatWidth.copyComplete : ∀ a, FormatWidth.Statement (.copyComplete a) :=
  fun _ => formatWidth_event rfl

theorem FormatWidth.wsloadComplete : ∀ a, FormatWidth.Statement (.wsloadComplete a) :=
  fun _ => formatWidth_event rfl

theorem FormatWidth.collResult : ∀ a b, FormatWidth.Statement (.collResult a b) :=
  fun _ _ => formatWidth_event rfl

theorem FormatWidth.reservedSlotGrant : ∀ a, FormatWidth.Statement (.reservedSlotGrant a) :=
  fun _ => formatWidth_event rfl

end Sys2Proof.Laws
end

