-- ==== Sys2Proof/Laws/Writes.lean ====
section
/-! SUPPORT. Writes to memory in a state where nothing else takes part in them: no watch, no line of an L1, no shadow
entry, no write that lacks sectors. Such a write changes memory alone. -/

namespace Sys2Proof.Machine

/-- Nothing but memory takes part in a write: no watch checks it, no L1 line and no shadow entry follows it, and no
block waits for sectors. -/
def State.calm (s : State) : Bool :=
  s.watches.isEmpty && s.dies.toList.all (·.blocks.isEmpty) && s.cores.all fun c => c.l1.isEmpty && c.shadow.isEmpty

/-- A byte of memory below the compressed part of die 0. -/
def State.low (s : State) (a : Nat) : Prop := a ≤ s.boot.uncompressed.getD 0 0 ∧ a ≤ 2 ^ 48

theorem State.calm_core {s : State} (h : s.calm = true) (id : Nat) : (s.core id).l1 = [] ∧ (s.core id).shadow = [] := by
  simp only [State.calm, Bool.and_eq_true, List.all_eq_true, List.isEmpty_iff] at h
  unfold State.core
  cases hc : s.cores.find? (·.id == id) with
  | none => exact ⟨rfl, rfl⟩
  | some c => exact h.2 c (List.mem_of_find?_eq_some hc)

theorem State.clearRcl_mem (l : List Nat) : (s : State) → ∃ m, s.clearRcl l = { s with mem := m } := by
  unfold State.clearRcl
  induction l with
  | nil => exact fun s => ⟨s.mem, rfl⟩
  | cons a r ih =>
    intro s
    rw [List.foldl_cons]
    dsimp only
    split
    · exact ih _
    · exact ih s

theorem State.clearShadow_calm {s : State} (h : s.calm = true) (ls : List Loc) : s.clearShadow ls = s := by
  unfold State.clearShadow
  induction scrWords ls with
  | nil => rfl
  | cons a r ih =>
    rw [List.foldl_cons]
    simp only [(s.calm_core h a.1).2, List.isEmpty_nil, if_true, ih]

theorem State.postAll_nil (s : State) (n : Nat) : s.postAll n [] = s := by cases n <;> rfl

theorem State.low_blocks {s : State} {a n : Nat} (h : s.low (a + n)) : ∀ b ∈ blocksOf a n, s.compressed (b * 256) = false := by
  intro b hb
  unfold blocksOf at hb
  split at hb
  · cases hb
  · obtain ⟨i, hi, rfl⟩ := List.mem_map.mp hb
    have hi := List.mem_range.mp hi
    have hlt : (a / 256 + i) * 256 < a + n := by omega
    obtain ⟨h1, h2⟩ := h
    have hd : dieOfPa ((a / 256 + i) * 256) = 0 := by unfold dieOfPa bits; omega
    have hb : bits ((a / 256 + i) * 256) 0 48 = (a / 256 + i) * 256 := by unfold bits; omega
    simp only [State.compressed, hd, hb, Bool.and_eq_false_iff, decide_eq_false_iff_not]
    exact .inr (by omega)

/-- A write of bytes in memory that is not compressed. -/
theorem State.write_calm {s : State} (h : s.calm = true) (w : Writer) {a : Nat} {v : List Byte}
    (hc : ∀ b ∈ blocksOf a v.length, s.compressed (b * 256) = false) : ∃ m, s.write w a v = some { s with mem := m } := by
  have hb : s.blocked (blocksOf a v.length) = false := by
    simp only [State.calm, Bool.and_eq_true, List.all_eq_true, List.isEmpty_iff] at h
    simp only [State.blocked, List.any_eq_false, Bool.not_eq_true]
    exact fun d hd x hx => by rw [h.1.2 d hd] at hx; cases hx
  have hf : ((blocksOf a v.length).filter fun b => s.compressed (b * 256)) = [] :=
    List.filter_eq_nil_iff.mpr fun b hm => by simp [hc b hm]
  have hw : s.watches = [] := by
    simp only [State.calm, Bool.and_eq_true, List.isEmpty_iff] at h
    exact h.1.1
  have ht : ∀ m, ({ s with mem := m } : State).touchL1 w a v = { s with mem := m } := fun m => by
    have : (({ s with mem := m } : State).core (w.die * 256 + w.core)).l1 = [] := (calm_core (s := { s with mem := m }) h _).1
    simp [State.touchL1, this]
  refine ⟨s.mem.writeN a v, ?_⟩
  have hp : s.putMem w.ctx w.book a v = some { s with mem := s.mem.writeN a v } := by
    simp [State.putMem, hb, hf, State.charge]
  have hk : ∀ m, ({ s with mem := m } : State).checkWatches w s.mem a v.length = ({ s with mem := m }, []) := fun m => by
    simp [State.checkWatches, hw]
  rw [State.write, State.write1, hp, Option.map_some, ht, hk, Option.map_some, State.post, State.postAll_nil]

/-- A run of bytes low in memory is written. -/
theorem State.writeRuns_calm (w : Writer) : (n : Nat) → {s : State} → s.calm = true → {ls : List Loc} → {v : List Byte} →
    (∀ l ∈ ls, ∃ a, l = .mem a ∧ s.low (a + v.length)) → ∃ m, s.writeRuns w n ls v = some { s with mem := m }
  | 0, s, _, _, _, _ => ⟨s.mem, by rw [State.writeRuns]⟩
  | n + 1, s, _, [], _, _ => ⟨s.mem, by rw [State.writeRuns]; exact Nat.succ_ne_zero n⟩
  | n + 1, s, h, l :: ls, v, hm => by
    obtain ⟨a, rfl, hl⟩ := hm l (.head ls)
    have mono : ∀ {x k : Nat}, k ≤ v.length → s.low (x + v.length) → s.low (x + k) := fun hk hx => ⟨by have := hx.1; omega, by have := hx.2; omega⟩
    obtain ⟨m, e⟩ := State.write_calm h w (a := a) (v := v.take (runLen (.mem a :: ls)))
      (State.low_blocks (mono (by rw [List.length_take]; exact Nat.min_le_right _ _) hl))
    obtain ⟨m', e'⟩ := State.writeRuns_calm w n (s := { s with mem := m }) h (ls := (Loc.mem a :: ls).drop (runLen (.mem a :: ls)))
      (v := v.drop (runLen (.mem a :: ls))) (fun l hl => by
        obtain ⟨x, hx, hl⟩ := hm l (List.mem_of_mem_drop hl)
        exact ⟨x, hx, mono (by rw [List.length_drop]; omega) hl⟩)
    exact ⟨m', by rw [State.writeRuns]; simp only [e, e']⟩

/-- Runs of bytes low in memory are written one after another. -/
theorem State.writeAll_calm (w : Writer) : (ps : List ((DWord × List Loc) × List Nat × List Byte)) → {s : State} → s.calm = true →
    (∀ p ∈ ps, ∀ l ∈ p.1.2, ∃ a, l = .mem a ∧ s.low (a + p.2.2.length)) → ∃ m, s.writeAll w ps = .ok { s with mem := m }
  | [], s, _, _ => ⟨s.mem, rfl⟩
  | (l, p, v) :: r, s, h, hm => by
    obtain ⟨m0, e0⟩ := State.clearRcl_mem p s
    obtain ⟨m, e⟩ := State.writeRuns_calm w l.2.length (s := { s with mem := m0 }) h (ls := l.2) (v := v) (hm _ (.head r))
    obtain ⟨m', e'⟩ := State.writeAll_calm w r (s := { s with mem := m }) h (fun p hp => hm p (.tail _ hp))
    exact ⟨m', by rw [State.writeAll, e0, State.clearShadow_calm (s := { s with mem := m0 }) h, e]; exact e'⟩

/-- The writes of a command whose places are low in memory. -/
theorem State.writeOut_calm {s : State} (h : s.calm = true) (w : Writer) {at_ : Int → Nat → RunAt} {ps : List (Int × List Byte)}
    (hm : ∀ p ∈ (ps.map fun p => cutAll p.1 p.2).flatten, ∃ ls, (at_ p.1 p.2.length).locs = .ok ls ∧
      ∀ l ∈ ls, ∃ a, l = .mem a ∧ s.low (a + p.2.length)) : ∃ m, s.writeOut w at_ ps = .done { s with mem := m } := by
  unfold State.writeOut
  generalize hr : (((ps.map fun p => cutAll p.1 p.2).flatten).map fun p => (at_ p.1 p.2.length, p.2)) = rs
  have hm : ∀ r ∈ rs, ∃ ls, r.1.locs = .ok ls ∧ ∀ l ∈ ls, ∃ a, l = .mem a ∧ s.low (a + r.2.length) := by
    rw [← hr]
    intro r h
    obtain ⟨p, hp, rfl⟩ := List.mem_map.mp h
    exact hm p hp
  dsimp only
  split
  · rename_i e
    obtain ⟨r, h, hf⟩ := List.exists_of_findSome?_eq_some e
    obtain ⟨ls, e, -⟩ := hm r h
    rw [e] at hf; cases hf
  · split
    · rename_i e
      obtain ⟨r, h, hf⟩ := List.exists_of_findSome?_eq_some e
      obtain ⟨ls, e, -⟩ := hm r h
      rw [e] at hf; cases hf
    · obtain ⟨m, e⟩ := State.writeAll_calm w (s := s) (ps := rs.filterMap fun r => match r.1.locs with
        | .ok l => some ((r.1.va, l), r.1.ptes, r.2)
        | .error _ => none) h (by
          intro p hp l hl
          obtain ⟨r, h, hx⟩ := List.mem_filterMap.mp hp
          obtain ⟨ls, e, hs⟩ := hm r h
          simp only [e, Option.some.injEq] at hx
          subst hx
          exact hs l hl)
      refine ⟨m, ?_⟩
      split
      · rename_i s' e'
        exact congrArg Written.done (Except.ok.inj (e'.symm.trans e))
      · rename_i e'
        cases e'.symm.trans e

end Sys2Proof.Machine
end

