-- ==== Sys2Proof/Tests/Slice0.lean ====
section
/-!
SUPPORT. Tests: ill-formed instructions that the checks refuse, words written out from the encoding tables, results
that the spec states, and for each statement with hypotheses a state and operands that meet them.
-/

namespace Sys2Proof.Tests

open Sys2Proof.Machine

set_option Elab.async false

/-- An unguarded header, and one guarded by p0. -/
def hd : Hdr := ⟨false, false, 7⟩
def hp : Hdr := ⟨false, false, 0⟩

/-! ## Ill-formed instructions, each check by one term -/

theorem test_wf_good : (Instr.addI64 hd 2 4 (.g 6)).wf = true := by decide
theorem test_wf_guard : (Instr.nop ⟨false, true, 7⟩).wf = false := by decide
theorem test_wf_store_size : (Instr.st hd 2 4 0 .i8 0).wf = false := by decide
theorem test_wf_sld_size : (Instr.sld hd 4 4 0 .gen .b128 0).wf = false := by decide
theorem test_wf_req_size : (Instr.req hd 4 4 0 .b32).wf = false := by decide
theorem test_wf_cvt_types : (Instr.cvt hd 2 4 .f16 .f16 false).wf = false := by decide
theorem test_wf_scalex_type : (Instr.scalex hd 2 4 .f16).wf = false := by decide
theorem test_wf_atom_type : (Instr.atom hd 2 4 6 .inc .i32 ⟨0, .device, .relaxed, .gen⟩).wf = false := by decide
theorem test_wf_cas_type : (Instr.cas hd 2 4 6 .i32 ⟨0, .device, .relaxed, .gen⟩).wf = false := by decide
theorem test_wf_load_order : (Instr.ldAtomic hd 2 4 .b32 ⟨0, .device, .release, .gen⟩).wf = false := by decide
theorem test_wf_store_order : (Instr.stAtomic hd 4 2 .b32 ⟨0, .device, .acquire, .gen⟩).wf = false := by decide
theorem test_wf_fence_order : (Instr.fence hd .device .relaxed).wf = false := by decide
theorem test_wf_claim_mask : (Instr.claim hd 0).wf = false := by decide
theorem test_wf_xform_code : (Instr.xform hd 0 4 0 0 6).wf = false := by decide
theorem test_wf_srd_number : (Instr.srd hd 2 0x019).wf = false := by decide
theorem test_wf_swr_read_only : (Instr.swr hd 2 0x107).wf = false := by decide
theorem test_wf_pair : (Instr.getm hd 3).wf = false := by decide
theorem test_wf_pair_uniform : (Instr.addI64 hd 2 4 (.u 1)).wf = false := by decide
theorem test_wf_quad : (Instr.pmergeF32 hd 4 8 6).wf = false := by decide
theorem test_wf_flag : (Instr.ex2F32 hd 2 4 12).wf = false := by decide
theorem test_wf_address : (Instr.ldSpace hd 2 3 0 .global .b32 0).wf = false := by decide
theorem test_wf_scratch_address : (Instr.ldSpace hd 2 3 0 .scr .b32 0).wf = true := by decide
theorem test_wf_parameters : (Instr.draw hd .temp 0 2 0 4).wf = false := by decide
theorem test_wf_system_pair : (Instr.srd hd 3 0x204).wf = false := by decide

/-! ## Words from the encodings of the spec -/

-- R78, R79, R80, R158, R160, R76: the words that these rules write out
theorem test_decode_shl : decode 0x3A038E04 none = .ok (.shlB32Imm hd 7 7 4) := by decide
theorem test_decode_bperm : decode 0x39E28833 none = .ok (.bpermB32 hd 5 4 (.g 6)) := by decide
theorem test_decode_movi : decode 0x3A431234 none = .ok (.movi hd 3 0x1234) := by decide
theorem test_decode_cmpi : decode 0x3B2505FF none = .ok (.cmpi hd .lt 1 2 (-1)) := by decide
theorem test_decode_ballot : decode 0x3E019402 none = .ok (.voteBallot hd 3 true 2) := by decide
theorem test_decode_shfl : decode 0x3E228A07 none = .ok (.shflXor hd 5 5 (.u 0)) := by decide
-- majors 0x00 and 0x04 in the Z format, N in bits 1:0 and the tag above (R46, R53)
theorem test_decode_trap : decode 0x38800005 none = .ok (.trap hd 1) := by decide
theorem test_decode_rgn : decode 0x38800000 none = .ok (.rgn hd) := by decide
-- 0x33, N = 2, B[8:3] = 0, D = 10 (R61)
theorem test_decode_take : decode 0x3E650002 none = .ok (.take hd 10) := by decide
-- E format of majors 0x3D and 0x3E: OP[20:16] SB[15:12] A[11:6] C[5:0] (R67)
theorem test_decode_link : decode 0x3FAC1106 none = .ok (.link hd 1 4 6) := by decide
theorem test_decode_unlink : decode 0x3FAD2100 none = .ok (.unlink hd 2 4) := by decide
theorem test_decode_segrd : decode 0x3FB00200 none = .ok (.segrd hd 0 8) := by decide
theorem test_decode_gpw : decode 0x3FB42142 none = .ok (.gpw hd 2 5 2) := by decide
theorem test_decode_watch : decode 0x3FC0210A none = .ok (.watch hd 2 4 10) := by decide
theorem test_decode_tret : decode 0x3FC40000 none = .ok (.tret hd) := by decide
theorem test_decode_tlbinv : decode 0x3FC81100 none = .ok (.tlbinv hd 1 4) := by decide
theorem test_decode_srd : decode 0x3FC21000 none = .ok (.srd hd 4 0) := by decide
-- the words that R177, R196, R200, R270 and the listing of bbnd derive
theorem test_decode_mul : decode 0x39610044 none = .ok (.mulI32 hd 2 0 (.u 8)) := by decide
theorem test_decode_ld : decode 0x0BA71002 none = .ok (.ld ⟨false, false, 1⟩ 14 8 0 .n16 0) := by decide
theorem test_decode_claim : decode 0x3F800015 none = .ok (.claim hd 0x15) := by decide
theorem test_decode_ldt : decode 0x3F841210 (some 7) = .ok (.ldt hd 1 2 4 7) := by decide
theorem test_decode_mma : decode 0x3F940048 none = .ok (.mma hd false false 0 0 2 4) := by decide
theorem test_decode_boinit : decode 0x3EA00828 none = .ok (.boinit hd 4 5) := by decide
theorem test_decode_gbar : decode 0x3E400055 none = .ok (.gbar hd 10) := by decide
theorem test_decode_atom : decode 0x3F4CB4B0 (some 0xF1082000) =
    .ok (.atom hd 25 26 22 .min .i32 ⟨15, .device, .relaxed, .global⟩) := by decide
theorem test_decode_st_atomic : (decode 0x4F4C3402 (some 0x30786000)).isOk = true := by decide
theorem test_decode_strm : (decode 0x3FA01084 (some 5)).isOk = true := by decide
-- a reserved code, a reserved guard and a field that must be 0 are refused (R51)
theorem test_decode_reserved : (decode 0x38A00000 none).isOk = false := by decide
theorem test_decode_guard : (decode 0x78000000 none).isOk = false := by decide
theorem test_decode_zero_field : (decode 0x38000010 none).isOk = false := by decide

/-! ## States for the witnesses -/

/-- A band of one crew whose lowest `n` lanes stand at a word, with tables that map its code and a page of data. -/
def t0 (n : Nat) : State :=
  let s := State.withFetchWord State.reset 32 0x38000000
  s.setMe { s.me.mapLanes 0xFFFFFFFF fun t l => { l with pc := 0x800004, st := if t < n then .eligible else .absent } with
    tvec := 0x8000000000800004 }

/-- The same with new values of g[r] in its two lowest lanes. -/
def put (s : State) (r : Nat) (f : Nat → Nat) : State :=
  s.setMe (s.me.mapLanes 3 fun t l => { l with g := l.g.setIfInBounds r (BitVec.ofNat 32 (f t)) })

/-- The same with a changed band. -/
def upd (s : State) (f : Band → Band) : State := s.setMe (f s.me)

/-- The checks of `Runs`, as a test. -/
def runs (s : State) (i : Instr) : Bool :=
  decide ((s.after i).cur < (s.after i).bands.length) && (preciseTraps s (s.ex i.hdr) i).isEmpty &&
    ((List.range 32).all fun l => !bit (s.vOf i) l || !(s.after i).me.stallViolation (s.ex i.hdr) l i) &&
    ((List.range 32).all fun l => !bit (s.vOf i) l || (match (s.after i).me.window (s.ex i.hdr) l i with
      | some (.error _) => false
      | _ => true)) && s.vOf i != 0

theorem runs_of {s : State} {i : Instr} (h : runs s i = true) : s.Runs i ∧ s.vOf i ≠ 0 := by
  simp only [runs, Bool.and_eq_true, decide_eq_true_eq, List.isEmpty_iff, List.all_eq_true, List.mem_range,
    Bool.or_eq_true, Bool.not_eq_true', bne_iff_ne] at h
  refine ⟨⟨⟨h.1.1.1.1, h.1.1.1.2⟩, fun l hl => (h.1.1.2 l (bit_lt hl)).resolve_left (by simp [hl]), fun l hl e he => ?_⟩, h.2⟩
  simpa [he] using (h.1.2 l (bit_lt hl)).resolve_left (by simp [hl])

/-- What holds of the 32 lanes of a band, and of a blank one, holds of every lane number. -/
theorem every_lane {b : Band} {P : Lane → Prop} (h : ∀ l, l < 32 → P (b.lane l)) (h0 : P .blank) (l : Nat) : P (b.lane l) := by
  by_cases hl : l < 32
  · exact h l hl
  · rw [b.lane_of_ge hl]; exact h0

/-- What holds of the lanes of a mask below 32 holds of all its lanes. -/
theorem in_mask {m : BitVec 32} {P : Nat → Prop} (h : ∀ l, l < 32 → bit m l = true → P l) (l : Nat) (hl : bit m l = true) :
    P l := h l (bit_lt hl) hl

/-- What holds of the 16 convergence registers of a core, and of a blank one, holds of every number. -/
theorem every_conv {c : Core} {P : Conv → Prop} (h : ∀ k, k < 16 → P (c.conv k)) (h0 : P .blank) (k : Nat) : P (c.conv k) := by
  by_cases hk : k < 16
  · exact h k hk
  · have : c.conv k = .blank := by simp [Core.conv, Array.getD, hk]
    rw [this]; exact h0

/-- A property of what an optional value holds. -/
theorem of_some {α : Type} {P : α → Prop} {o : Option α} (h : ∀ c ∈ o, P c) (c : α) (hc : o = some c) : P c := h c hc

theorem atChecks_of {s : State} {i : Instr} {p : State → Prop} (h : p s ∧ p (s.after i) ∧ p (s.atIssue i)) : s.AtChecks i p := h

/-- A check that answers the same in the three states in which it is made. -/
theorem atChecks_some {α : Type} {s : State} {i : Instr} {f : State → Option α}
    (h : (f s).isSome = true ∧ f (s.after i) = f s ∧ f (s.atIssue i) = f s) : ∃ y, s.AtChecks i fun u => f u = some y := by
  obtain ⟨y, hy⟩ := Option.isSome_iff_exists.mp h.1
  exact ⟨y, hy, h.2.1.trans hy, h.2.2.trans hy⟩

theorem atChecks_ok {α : Type} {s : State} {i : Instr} {f : State → Except Halt α}
    (h : (f s).isOk = true ∧ f (s.after i) = f s ∧ f (s.atIssue i) = f s) : ∃ y, s.AtChecks i fun u => f u = .ok y := by
  cases hs : f s with
  | error e => simp [hs, Except.isOk, Except.toBool] at h
  | ok y => exact ⟨y, hs, h.2.1.trans hs, h.2.2.trans hs⟩

/-! ## Integer, control and trap words -/

theorem witness_IntegerResults : (Claims.intWord (.mulhiI32 hd 1 2 (.g 3))).isSome = true ∧
    (t0 2).Runs (.mulhiI32 hd 1 2 (.g 3)) ∧ (t0 2).vOf (.mulhiI32 hd 1 2 (.g 3)) ≠ 0 :=
  ⟨by decide, runs_of (by decide +kernel)⟩

theorem witness_ShiftAndFieldResults : (Claims.shiftWord (.bfxI32 hd 1 2 (.u 3))).isSome = true ∧
    (t0 2).Runs (.bfxI32 hd 1 2 (.u 3)) ∧ (t0 2).vOf (.bfxI32 hd 1 2 (.u 3)) ≠ 0 :=
  ⟨by decide, runs_of (by decide +kernel)⟩

theorem witness_PairResults : (Claims.pairWord (.subxN32 hd 62 2 (.g 3))).isSome = true ∧
    (t0 2).Runs (.subxN32 hd 62 2 (.g 3)) ∧ (t0 2).vOf (.subxN32 hd 62 2 (.g 3)) ≠ 0 :=
  ⟨by decide, runs_of (by decide +kernel)⟩

theorem witness_PredicateResults : (Claims.predWord (.cmp hd .n64 .le 7 2 (.g 4))).isSome = true ∧
    (t0 2).Runs (.cmp hd .n64 .le 7 2 (.g 4)) ∧ (t0 2).vOf (.cmp hd .n64 .le 7 2 (.g 4)) ≠ 0 :=
  ⟨by decide, runs_of (by decide +kernel)⟩

/-- A lane with a divisor and one without. -/
def tDiv : State := put (t0 2) 3 id

theorem witness_DivideResults : (Claims.divWord (.divI32 hd 1 2 (.g 3))).isSome = true ∧
    (tDiv.Runs (.divI32 hd 1 2 (.g 3)) ∧ tDiv.vOf (.divI32 hd 1 2 (.g 3)) ≠ 0) ∧ tDiv.me.handler = false ∧
    tDiv.me.gv 1 3 ≠ 0 ∧ tDiv.me.gv 0 3 = 0 ∧ bit (tDiv.vOf (.divI32 hd 1 2 (.g 3))) 1 = true :=
  ⟨by decide, runs_of (by decide +kernel), by decide +kernel, by decide +kernel, by decide +kernel, by decide +kernel⟩

/-- Index registers whose windows hold one element. -/
def tWin : State := upd (t0 2) fun b => b.mapLanes 0xFFFFFFFF fun _ l => { l with x := l.x.set 1 0x04010000 }

theorem witness_WindowWrites : tWin.Runs (.xset hd 1 2) ∧ tWin.Runs (.xidx hd 1 2) ∧ tWin.Runs (.wrx hd 1 2) ∧
    tWin.vOf (.wrx hd 1 2) ≠ 0 :=
  ⟨(runs_of (by decide +kernel)).1, (runs_of (by decide +kernel)).1, runs_of (by decide +kernel)⟩

/-- Lanes that hold an address to go to. -/
def tGo : State := put (t0 2) 4 fun _ => 0x800008

theorem witness_TransfersOfControl : ((Claims.targetWord (.bra hd 1)).isSome = true ∧
    (t0 2).Runs (.bra hd 1) ∧ (t0 2).vOf (.bra hd 1) ≠ 0) ∧ tGo.Runs (.callx hd 2 4) ∧ tGo.Runs (.ret hd 4) :=
  ⟨⟨by decide, runs_of (by decide +kernel)⟩, (runs_of (by decide +kernel)).1, (runs_of (by decide +kernel)).1⟩

theorem witness_IdleWords : Claims.idleWord (.warmL1 hd 2 4) = true ∧ (t0 2).Starts (.warmL1 hd 2 4) ∧
    (t0 2).Starts (.yield hd) ∧ (t0 2).vOf (.yield hd) ≠ 0 :=
  ⟨by decide, (runs_of (by decide +kernel)).1.1, (runs_of (by decide +kernel)).1.1, by decide +kernel⟩

theorem witness_MeetingRegister : (t0 2).Runs (.meet hd 2 4) ∧ (t0 2).Runs (.setm hd 2) ∧ (t0 2).Runs (.getm hd 2) ∧
    (t0 2).vOf (.getm hd 2) ≠ 0 :=
  ⟨(runs_of (by decide +kernel)).1, (runs_of (by decide +kernel)).1, runs_of (by decide +kernel)⟩

theorem witness_ExitEndsLanes : (t0 2).Starts (.exit hd) ∧
    ∀ k, (((((t0 2).after (.exit hd)).core ((t0 2).after (.exit hd)).me.core).conv k).st ≠ .armed) :=
  ⟨(runs_of (by decide +kernel)).1.1, every_conv (P := fun c => c.st ≠ .armed) (by decide +kernel) (by decide)⟩

theorem witness_RegionOpens : (t0 2).Starts (.rgn hd) ∧ (t0 2).vOf (.rgn hd) ≠ 0 ∧
    ((t0 2).after (.rgn hd)).me.handler = false ∧
    ∀ l, l < 32 → (((t0 2).after (.rgn hd)).me.lane l).live = true → bit ((t0 2).vOf (.rgn hd)) l = true :=
  ⟨(runs_of (by decide +kernel)).1.1, by decide +kernel, by decide +kernel, by decide +kernel⟩

/-- With a second lane elsewhere. -/
def tPart : State := upd (t0 2) fun b => b.mapLanes 2 fun _ l => { l with pc := 0x800008 }

theorem witness_RegionOpens_part : tPart.Starts (.rgn hd) ∧ tPart.vOf (.rgn hd) ≠ 0 ∧
    ((tPart.after (.rgn hd)).me.lane 1).live = true ∧ bit (tPart.vOf (.rgn hd)) 1 = false :=
  ⟨(runs_of (by decide +kernel)).1.1, by decide +kernel, by decide +kernel, by decide +kernel⟩

/-- A lane that waits for the handler beside the one that traps. -/
def tMask : State := upd (t0 2) fun b =>
  { b.mapLanes 2 fun _ l => { l with st := .waiting .trap, trapCode := 0x0C } with trapLane := 2 }

theorem handlerOk_of {s : State} {b : Band} (h : (b.tvec.getLsbD 63 && (s.targetTrap b (tvecEntry b.tvec)).isNone) = true) :
    Claims.handlerOk s b := by
  simpa [Claims.handlerOk] using h

theorem witness_SoftwareTraps : Claims.softTrap tMask (.bkpt hd 9) = some (0x1A, 9) ∧ tMask.cur < tMask.bands.length ∧
    tMask.vOf (.bkpt hd 9) ≠ 0 ∧ tMask.me.handler = false ∧ tMask.me.rgnOpen = false ∧
    (∀ l, (tMask.me.lane l).reports = []) ∧ tMask.me.check.getLsbD 0 = false ∧ Claims.handlerOk tMask tMask.me ∧
    bit (tMask.vOf (.bkpt hd 9)) 1 = false ∧ bit tMask.me.trapLane 1 = true ∧ (tMask.me.lane 1).live = true :=
  ⟨by decide +kernel, by decide +kernel, by decide +kernel, by decide +kernel, by decide +kernel,
    every_lane (P := fun l => l.reports = []) (by decide +kernel) rfl, by decide +kernel, handlerOk_of (by decide +kernel),
    by decide +kernel, by decide +kernel, by decide +kernel⟩

/-- With no handler. -/
def tBare : State := upd (t0 2) fun b => { b with tvec := 0 }

theorem witness_UndeliveredTraps : Claims.softTrap tBare (.trap hd 9) = some (0x18, 9) ∧ tBare.cur < tBare.bands.length ∧
    tBare.vOf (.trap hd 9) ≠ 0 ∧ tBare.me.handler = false ∧ tBare.me.rgnOpen = false ∧ tBare.me.trapLane = 0 ∧
    (∀ l, (tBare.me.lane l).reports = []) ∧ tBare.me.check.getLsbD 0 = false ∧ tBare.me.quarter < 4 ∧
    (tBare.quarterOf tBare.me).stopCode = 0 ∧ ¬Claims.handlerOk tBare tBare.me ∧ (∀ c, tBare.ctx (tBare.ctxOf tBare.me) = some c → c.eventRing = 0) ∧
    (tBare.ctx (tBare.ctxOf tBare.me)).isSome = true :=
  ⟨by decide +kernel, by decide +kernel, by decide +kernel, by decide +kernel, by decide +kernel, by decide +kernel,
    every_lane (P := fun l => l.reports = []) (by decide +kernel) rfl, by decide +kernel, by decide +kernel, by decide +kernel,
    fun h => absurd h.1 (by decide +kernel), of_some (by decide +kernel), by decide +kernel⟩

/-- In the handler, with a trapped lane at its TRET. -/
def tRet (other : LaneSt) : State := upd (t0 1) fun b =>
  { b.mapLanes 2 fun _ l => { l with st := other, pc := 0x800004 } with trapLane := 3, handler := true }

theorem witness_TrapReturn : (tRet .eligible).Starts (.tret hd) ∧ (tRet .eligible).me.handler = true ∧
    (tRet .eligible).vOf (.tret hd) ≠ 0 ∧
    (∀ l, bit ((tRet .eligible).vOf (.tret hd)) l = true → bit (tRet .eligible).me.trapLane l = true) ∧
    ∀ l, bit (tRet .eligible).me.trapLane l = true → ((tRet .eligible).me.lane l).live = true →
      bit ((tRet .eligible).vOf (.tret hd)) l = true :=
  ⟨(runs_of (by decide +kernel)).1.1, by decide +kernel, by decide +kernel, in_mask (by decide +kernel),
    in_mask (by decide +kernel)⟩

theorem witness_TrapReturnWaits : (tRet .held).Starts (.tret hd) ∧ (tRet .held).vOf (.tret hd) ≠ 0 ∧
    bit (tRet .held).me.trapLane 1 = true ∧ ((tRet .held).me.lane 1).live = true ∧
    bit ((tRet .held).vOf (.tret hd)) 1 = false ∧ ((tRet .held).me.lane 1).st ≠ .waiting .tret :=
  ⟨(runs_of (by decide +kernel)).1.1, by decide +kernel, by decide +kernel, by decide +kernel, by decide +kernel,
    by decide +kernel⟩

/-- Every live lane masked. -/
def tAll : State := upd (t0 2) fun b => { b.mapLanes 3 fun _ l => { l with st := .waiting .trap } with trapLane := 3 }

/-- A lane with a report. -/
def tRep : State := upd (t0 2) fun b => b.mapLanes 1 fun _ l => { l with reports := [asyncTrap 0x13 3 0x1234 0x800004] }

theorem witness_PendingTraps : (0 < tAll.bands.length ∧ tAll.mayIssue (tAll.prepared 0) = true ∧
      (tAll.prepared 0).issueSet = 0 ∧ (tAll.prepared 0).trapPending = true ∧ (tAll.prepared 0).rgnOpen = false ∧
      (∀ l, ((tAll.prepared 0).lane l).reports = []) ∧ Claims.handlerOk tAll (tAll.prepared 0)) ∧
    0 < tRep.bands.length ∧ ((tRep.band 0).lane 0).reports ≠ [] ∧ ((tRep.band 0).lane 0).st = .eligible ∧
    (tRep.band 0).handler = false ∧ bit (tRep.band 0).trapLane 0 = false :=
  ⟨⟨by decide +kernel, by decide +kernel, by decide +kernel, by decide +kernel, by decide +kernel,
    every_lane (P := fun l => l.reports = []) (by decide +kernel) rfl, handlerOk_of (by decide +kernel)⟩, by decide +kernel⟩

/-- g[r] of a lane after a word. -/
def outG (s : State) (i : Instr) (l : Nat) (r : Reg) : Option Word :=
  match exec i s with
  | .next t => some (t.me.gv l r)
  | _ => none

/-- The operands of the examples of R77 and R78. -/
def tPerm (a b : Nat) : State := put (put (t0 1) 4 fun _ => a) 6 fun _ => b

-- R78: the rows of its table for a = 0x12A3F87C; R77: its example
theorem test_bperm_signed : outG (tPerm 0x12A3F87C 0x000F9584) (.bpermB32 hd 5 4 (.g 6)) 0 5 = some 0xFFF807FC := by
  decide +kernel
theorem test_bperm_codes : outG (tPerm 0x12A3F87C 0x0000CDCC) (.bpermB32 hd 5 4 (.g 6)) 0 5 = some 0x00FF0000 := by
  decide +kernel
theorem test_bfx : outG (tPerm 0xA0000000 0x00000C1C) (.bfxI32 hd 5 4 (.g 6)) 0 5 = some 0xFFFFFFFA := by decide +kernel
-- R75: a count of 32 or more; R76: the absolute value of the most negative number
theorem test_shr_large : outG (tPerm 0x80000000 0xFFFFFFFF) (.shrI32 hd 5 4 (.g 6)) 0 5 = some 0xFFFFFFFF := by decide +kernel
theorem test_abs_min : outG (tPerm 0x80000000 0) (.absI32 hd 5 4) 0 5 = some 0x80000000 := by decide +kernel
-- R71: the carry out of 0xFFFFFFFF + 0 with a carry in
theorem test_addx_carry : outG (put (tPerm 0xFFFFFFFF 0) 9 fun _ => 1) (.addxN32 hd 8 4 (.g 6)) 0 9 = some 1 := by decide +kernel
-- R72: the upper half of a signed product
theorem test_mulhi : outG (tPerm 0xFFFFFFFF 2) (.mulhiI32 hd 5 4 (.g 6)) 0 5 = some 0xFFFFFFFF := by decide +kernel

/-! ## Floating point -/

/-- Operands 1.0 and 3.0 in lane 0, +∞ and −∞ in lane 1, with every trap enabled. -/
def tFp : State := upd (put (put (t0 2) 2 fun t => if t = 0 then 0x3F800000 else 0x7F800000) 3
  fun t => if t = 0 then 0x40400000 else 0xFF800000) fun b => { b with fpctl := 0x3E }

theorem witness_FloatResults : ∃ d n f, Claims.fpWord (.addF32 hp 1 2 (.g 3)) = some (d, n, f) ∧
    ((upd tFp fun b => b.mapLanes 1 fun _ l => { l with p := 1 }).Runs (.addF32 hp 1 2 (.g 3)) ∧
      (upd tFp fun b => b.mapLanes 1 fun _ l => { l with p := 1 }).vOf (.addF32 hp 1 2 (.g 3)) ≠ 0) ∧
    ∀ l, bit ((upd tFp fun b => b.mapLanes 1 fun _ l => { l with p := 1 }).vOf (.addF32 hp 1 2 (.g 3))) l = true →
      enabledCond (upd tFp fun b => b.mapLanes 1 fun _ l => { l with p := 1 }).me.fpctl
        (f (upd tFp fun b => b.mapLanes 1 fun _ l => { l with p := 1 }).me l).2 = false :=
  ⟨_, _, _, rfl, runs_of (by decide +kernel), in_mask (by decide +kernel)⟩

theorem witness_FloatTraps : ∃ d n f, Claims.fpWord (.addF32 hd 1 2 (.g 3)) = some (d, n, f) ∧
    (tFp.Runs (.addF32 hd 1 2 (.g 3)) ∧ tFp.vOf (.addF32 hd 1 2 (.g 3)) ≠ 0) ∧ tFp.me.handler = false ∧
    bit (tFp.vOf (.addF32 hd 1 2 (.g 3))) 1 = true ∧ enabledCond tFp.me.fpctl (f tFp.me 1).2 = true :=
  ⟨_, _, _, rfl, runs_of (by decide +kernel), by decide +kernel, by decide +kernel, by decide +kernel⟩

theorem witness_FloatCompare : (t0 2).Runs (.fcmp hd .un 3 2 (.g 4)) ∧ (t0 2).vOf (.fcmp hd .un 3 2 (.g 4)) ≠ 0 :=
  runs_of (by decide +kernel)

/-- An operand of 1.0. -/
def tOne : State := put (t0 2) 2 fun _ => 0x3F800000

theorem witness_FloatArithmetic : ∀ x ∈ [(fF32, 8, 23, 127, 0x3F800001, 0x33800000, 0xBF800000), (fBf16, 8, 7, 127, 0x3F81, 0x3B80, 0xBF80),
      (fF16, 5, 10, 15, 0x3C01, 0x1000, 0xBC00)],
    Claims.isNum x.2.1 x.2.2.1 x.2.2.2.2.1 ∧ Claims.isNum x.2.1 x.2.2.1 x.2.2.2.2.2.1 ∧ Claims.isNum x.2.1 x.2.2.1 x.2.2.2.2.2.2 ∧
    (x.1.fadd false x.2.2.2.2.1 x.2.2.2.2.2.1).2 &&& cOF = 0 ∧ (x.1.fsub false x.2.2.2.2.1 x.2.2.2.2.2.1).2 &&& cOF = 0 ∧
    (x.1.fmul false x.2.2.2.2.1 x.2.2.2.2.2.1).2 &&& cOF = 0 ∧
    (x.1.ffma false x.2.2.2.2.1 x.2.2.2.2.2.1 x.2.2.2.2.2.2).2 &&& cOF = 0 := by
  unfold Claims.isNum
  decide +kernel

theorem witness_SpecialFunctionIssue : ∃ d sb f, Claims.sfuWord (.rcpF32 hd 1 2 3) = some (d, sb, f) ∧
    (tOne.Runs (.rcpF32 hd 1 2 3) ∧ tOne.vOf (.rcpF32 hd 1 2 3) ≠ 0) ∧
    ∀ l, bit (tOne.vOf (.rcpF32 hd 1 2 3)) l = true → enabledCond tOne.me.fpctl (f tOne.me l).2 = false :=
  ⟨_, _, _, rfl, runs_of (by decide +kernel), in_mask (by decide +kernel)⟩

/-- A special function in flight. -/
def oSfu : SfuOp := { id := 9, band := 0, word := 0, d := 1, flag := 3, lanes := 3, vals := [5, 6], conds := 0 }
def tSfu : State := upd { t0 2 with sfus := [oSfu], nextId := 20 } fun b =>
  { b with inFlight := [⟨9, .sfu, .g 1, 3, 0⟩] }

theorem witness_SpecialFunctionComplete : 0 < tSfu.bands.length ∧ tSfu.sfus.find? (·.band == 0) = some oSfu ∧
    ((tSfu.quarterOf (tSfu.band 0)).stopped = false ∧ tSfu.holdFlags = false) ∧ oSfu.vals.length = (lanesOf oSfu.lanes).length ∧
    (∀ l, bit oSfu.lanes l = true → ((tSfu.band 0).lane l).live = true) ∧
    (tSfu.band 0).inFlight.filter (·.id == oSfu.id) = [⟨oSfu.id, .sfu, .g oSfu.d, oSfu.lanes, 0⟩] ∧
    ∀ l, bit oSfu.lanes l = true → (tSfu.band 0).races tSfu.cycle l (.g oSfu.d) = false :=
  ⟨by decide +kernel, by decide +kernel, by decide +kernel, by decide +kernel, in_mask (by decide +kernel), by decide +kernel,
    in_mask (by decide +kernel)⟩

-- R104: a tie goes to the even neighbour
theorem test_round_tie : roundNat .rne false 5 1 = (2, true) ∧ roundNat .ru false 5 1 = (3, true) := by decide

theorem witness_FloatCodesExact : fE4m3 ∈ [fF32, fBf16, fF16, fE4m3, fE5m2, fE2m3, fE3m2, fE2m1] ∧ 0x7E < 2 * fE4m3.signBit ∧
    (fE4m3.val false 0x7E).isNan = false := by decide +kernel

/-! ## Memory words -/

theorem locs_of {r : Reach} (h : (match r with | .locs _ => true | _ => false) = true) : ∃ ls, r = .locs ls := by
  cases r <;> simp at h
  exact ⟨_, rfl⟩

/-- Addresses of a mapped page in g4:g5, and one in the scratchpad in g6. -/
def tMem : State := put (put (t0 2) 4 fun t => 0x900000 + 16 * t) 6 fun t => 64 + 8 * t

theorem witness_MemoryWordsIssue : ∃ m, Claims.memOp (.ld hd 8 4 3 .b64 8) = some m ∧
    (tMem.Runs (.ld hd 8 4 3 .b64 8) ∧ tMem.vOf (.ld hd 8 4 3 .b64 8) ≠ 0) ∧
    (tMem.after (.ld hd 8 4 3 .b64 8)).me.rgnOpen = false ∧
    ∀ l, bit (tMem.vOf (.ld hd 8 4 3 .b64 8)) l = true → ∃ ls, Claims.reaches (tMem.after (.ld hd 8 4 3 .b64 8)) m l = .locs ls :=
  ⟨_, rfl, runs_of (by decide +kernel), by decide +kernel,
    in_mask fun l hl hb => locs_of ((by decide +kernel : ∀ l, l < 32 → bit (tMem.vOf (.ld hd 8 4 3 .b64 8)) l = true →
      (match Claims.reaches (tMem.after (.ld hd 8 4 3 .b64 8)) ((Claims.memOp (.ld hd 8 4 3 .b64 8)).get rfl) l with
        | .locs _ => true
        | _ => false) = true) l hl hb)⟩

theorem witness_MemoryWordsIssue_atom : ∃ m, Claims.memOp (.atom hd 8 6 10 .add .n32 ⟨15, .crew, .acqRel, .scr⟩) = some m ∧
    (tMem.Runs (.atom hd 8 6 10 .add .n32 ⟨15, .crew, .acqRel, .scr⟩) ∧
      tMem.vOf (.atom hd 8 6 10 .add .n32 ⟨15, .crew, .acqRel, .scr⟩) ≠ 0) :=
  ⟨_, rfl, runs_of (by decide +kernel)⟩

/-- A uniform address. -/
def tUni : State := upd (t0 2) fun b => { b with s := b.s.set 4 0x900010 }

theorem witness_UniformLoadIssue : (tUni.Runs (.sld hd 2 4 3 .global .b64 8) ∧ tUni.vOf (.sld hd 2 4 3 .global .b64 8) ≠ 0) ∧
    tUni.me.rgnOpen = false ∧ ∃ ls, reach tUni tUni.me (lowest (tUni.vOf (.sld hd 2 4 3 .global .b64 8))) .global
      (tUni.me.uv2 4 + (8 : Word).signExtend 64) 8 false false = .locs ls :=
  ⟨runs_of (by decide +kernel), by decide +kernel, locs_of (by decide +kernel)⟩

/-- An address that is not a multiple of 4 in lane 1. -/
def tOdd : State := put (t0 2) 4 fun t => 0x900000 + t

theorem witness_MemoryTraps : ∃ m, Claims.memOp (.st hd 8 4 3 .b32 0) = some m ∧
    (tOdd.Runs (.st hd 8 4 3 .b32 0) ∧ tOdd.vOf (.st hd 8 4 3 .b32 0) ≠ 0) ∧
    (tOdd.after (.st hd 8 4 3 .b32 0)).me.rgnOpen = false ∧ (tOdd.after (.st hd 8 4 3 .b32 0)).me.handler = false ∧
    bit (tOdd.vOf (.st hd 8 4 3 .b32 0)) 1 = true ∧ Claims.reaches (tOdd.after (.st hd 8 4 3 .b32 0)) m 1 = .trap 0x06 :=
  ⟨_, rfl, runs_of (by decide +kernel), by decide +kernel, by decide +kernel, by decide +kernel, by decide +kernel⟩

/-- In an open region. -/
def tRgn : State := upd tMem fun b => { b with rgnOpen := true, rgnPc := 0x800004 }
/-- With a load of an earlier word that is still to be performed. -/
def tRgnLd : State :=
  { tRgn with nextId := 20, accesses := [{ id := 5, band := 0, word := 0x800004, kind := .load 40 .b32, sp := .gen, flag := 15,
                                           scope := .band, order := .relaxed, parts := [], after := [], also := 0 }] }

theorem witness_RegionHoldsStores : ∃ m, Claims.memOp (.st hd 8 4 3 .b32 0) = some m ∧ m.kind = .store ∧
    ((tRgn.Runs (.st hd 8 4 3 .b32 0) ∧ tRgn.vOf (.st hd 8 4 3 .b32 0) ≠ 0) ∧ tRgn.loadsBefore tRgn.cur tRgn.nextId = []) ∧
    ((tRgnLd.Runs (.st hd 8 4 3 .b32 0) ∧ tRgnLd.vOf (.st hd 8 4 3 .b32 0) ≠ 0) ∧ m.flag.toNat < 12 ∧
      tRgnLd.loadsBefore tRgnLd.cur tRgnLd.nextId ≠ []) ∧ tRgn.me.rgnOpen = true ∧
    ∀ l, bit (tRgn.vOf (.st hd 8 4 3 .b32 0)) l = true → (resolve tRgn tRgn.me m.sp (m.addr tRgn.me l)).holdable = true ∧
      ∃ ls, Claims.reaches tRgn m l = .locs ls :=
  ⟨_, rfl, rfl, ⟨runs_of (by decide +kernel), by decide +kernel⟩, ⟨runs_of (by decide +kernel), by decide +kernel⟩,
    by decide +kernel, in_mask fun l hl hb => ⟨(by decide +kernel : ∀ l, l < 32 → bit (tRgn.vOf (.st hd 8 4 3 .b32 0)) l = true →
        (resolve tRgn tRgn.me .gen (((Claims.memOp (.st hd 8 4 3 .b32 0)).get rfl).addr tRgn.me l)).holdable = true) l hl hb,
      locs_of ((by decide +kernel : ∀ l, l < 32 → bit (tRgn.vOf (.st hd 8 4 3 .b32 0)) l = true →
      (match Claims.reaches tRgn ((Claims.memOp (.st hd 8 4 3 .b32 0)).get rfl) l with
        | .locs _ => true
        | _ => false) = true) l hl hb)⟩⟩

theorem witness_AddressChecks : canonical 0x0100000000000000 = false ∧ canonical 0x900001 = true ∧
    (0x900001 : DWord).toNat % 4 ≠ 0 := by decide

/-- One access of one lane, of each kind, on the same bytes: scratchpad bytes 64 to 67. -/
def pt : Part := { lane := 0, va := 64, locs := [.scr 64, .scr 65, .scr 66, .scr 67], ptes := [], data := [1, 2, 3, 4],
                   cmp := [0, 0, 0, 0], held := [], done := false, absent := false }
def acc (k : AccKind) : Access := { id := 9, band := 0, word := 0x800004, kind := k, sp := .scr, flag := 3, scope := .band,
                                    order := .relaxed, parts := [pt], after := [], also := 0 }
def tAcc (k : AccKind) : State := upd { t0 1 with accesses := [acc k], nextId := 20 } fun b =>
  { b.setBusy 3 .memory with inFlight := k.dests.map fun r => ⟨9, .memory, r, 1, 0⟩ }

theorem witness_LoadComplete : (tAcc (.load 8 .i16)).oldestLoad 0 = some (acc (.load 8 .i16)) ∧
    (AccKind.load 8 .i16).isLoad = true ∧ Claims.alone (tAcc (.load 8 .i16)) (acc (.load 8 .i16)) pt ∧
    Claims.expects (tAcc (.load 8 .i16)) (acc (.load 8 .i16)) pt ∧ Claims.oldest (tAcc (.load 8 .i16)) (acc (.load 8 .i16)) ∧ pt.held = [] ∧
    ((tAcc (.load 8 .i16)).holdFlags = false ∧ Claims.lateFree (tAcc (.load 8 .i16)) 9) ∧
    ((tAcc (.load 8 .i16)).core ((tAcc (.load 8 .i16)).band 0).core).l1 = [] :=
  ⟨by decide +kernel, rfl, by unfold Claims.alone; decide +kernel, by unfold Claims.expects; decide +kernel,
    by unfold Claims.oldest; decide +kernel, rfl,
    ⟨by decide +kernel, by unfold Claims.lateFree; decide +kernel⟩, by decide +kernel⟩

theorem witness_StorePerformed : (acc .store).kind = .store ∧ Claims.alone (tAcc .store) (acc .store) pt ∧
    Claims.plainPlaces (tAcc .store) pt ∧ pt.data.length = pt.locs.length ∧ (tAcc .store).holdFlags = false ∧
    Claims.lateFree (tAcc .store) 9 ∧ (tAcc .store).loadsBefore 0 9 = [] ∧
    State.loadsBefore { tAcc .store with accesses := [acc .store, { acc (.load 40 .b32) with id := 5 }] } 0 9 ≠ [] :=
  ⟨rfl, by unfold Claims.alone; decide +kernel,
    ⟨by decide, by decide, by decide +kernel, fun x hx => .inl (by simp [pt] at hx; rcases hx with rfl | rfl | rfl | rfl <;> exact ⟨_, rfl⟩)⟩,
    rfl, by decide +kernel, by unfold Claims.lateFree; decide +kernel, by decide +kernel⟩

theorem witness_AtomicPerformed (k : AccKind) (hk : k ∈ [AccKind.atom 8 .inc .n32, AccKind.cas 8 .b32]) :
    (tAcc k).oldestLoad 0 = some (acc k) ∧ Claims.alone (tAcc k) (acc k) pt ∧ Claims.expects (tAcc k) (acc k) pt ∧
    Claims.oldest (tAcc k) (acc k) ∧ Claims.plainPlaces (tAcc k) pt := by
  simp only [List.mem_cons, List.not_mem_nil, or_false] at hk
  rcases hk with rfl | rfl <;>
    exact ⟨by decide +kernel, by unfold Claims.alone; decide +kernel, by unfold Claims.expects; decide +kernel,
      by unfold Claims.oldest; decide +kernel, ⟨by decide, by decide, by decide +kernel, fun x hx => .inl (by simp [pt] at hx; rcases hx with rfl | rfl | rfl | rfl <;> exact ⟨_, rfl⟩)⟩⟩

-- R262: inc and dec at the ends of their range
theorem test_atomics : aop .inc .n32 5 5 = 0 ∧ aop .dec .n32 0 7 = 7 ∧ aop .dec .n32 9 7 = 7 ∧
    aop .min .i32 0xFFFFFFFF 1 = 0xFFFFFFFF ∧ aop .min .n32 0xFFFFFFFF 1 = 1 := by decide

theorem core_seq_nil {s : State} (h : s.cores = []) (c : Nat) : (s.core c).seq = [] := by
  simp [State.core, h, Core.blank]

theorem witness_FenceWithNothingPending : (t0 2).Starts (.fence hd .device .acqRel) ∧
    (t0 2).vOf (.fence hd .device .acqRel) ≠ 0 ∧ ((t0 2).after (.fence hd .device .acqRel)).accesses = [] ∧
    ∀ c, (((t0 2).after (.fence hd .device .acqRel)).core c).seq = [] :=
  ⟨(runs_of (by decide +kernel)).1.1, by decide +kernel, by decide +kernel, core_seq_nil (by decide +kernel)⟩

theorem witness_FenceWaits : (tAcc .store).Starts (.fence hd .crew .release) ∧
    ∃ a ∈ ((tAcc .store).after (.fence hd .crew .release)).accesses,
      a.band = ((tAcc .store).after (.fence hd .crew .release)).cur ∧ (a.kind = .store ∨ a.kind = .storeOrd) ∧
      ∃ p ∈ a.parts, p.done = false ∧ bit ((tAcc .store).vOf (.fence hd .crew .release)) p.lane = true :=
  ⟨(runs_of (by decide +kernel)).1.1, by decide +kernel⟩

theorem witness_CacheControl : (t0 2).Starts (.shedDropL1All hd) ∧ (t0 2).vOf (.shedDropL1All hd) ≠ 0 ∧
    tMem.Runs (.shedDropL1 hd 4 6) ∧ tMem.Runs (.shedCleanGrove hd 4 6) ∧
    ∀ l, bit (tMem.vOf (.shedDropL1 hd 4 6)) l = true → canonical (tMem.me.gv2 l 4) = true :=
  ⟨(runs_of (by decide +kernel)).1.1, by decide +kernel, (runs_of (by decide +kernel)).1, (runs_of (by decide +kernel)).1,
    in_mask (by decide +kernel)⟩

/-! ## Cooperation and tasks -/

theorem witness_ExchangeResults : (Claims.voteWord (.voteAny hd 1 true 2)).isSome = true ∧
    ((t0 2).Runs (.voteAny hd 1 true 2) ∧ (t0 2).vOf (.voteAny hd 1 true 2) ≠ 0) ∧
    (Claims.shflLane (.shflUp hd 1 2 (.g 3))).isSome = true ∧ (t0 2).Runs (.shflUp hd 1 2 (.g 3)) :=
  ⟨by decide, runs_of (by decide +kernel), by decide, (runs_of (by decide +kernel)).1⟩

theorem witness_UniformResults : (Claims.uniWord (.rdfl hd 1 2)).isSome = true ∧ (t0 2).Runs (.rdfl hd 1 2) ∧
    (t0 2).vOf (.rdfl hd 1 2) ≠ 0 :=
  ⟨by decide, runs_of (by decide +kernel)⟩

theorem witness_CrewBarrier : tPart.Starts (.bar hd) ∧ tPart.vOf (.bar hd) ≠ 0 ∧
    (∃ c, (tPart.after (.bar hd)).crew (tPart.after (.bar hd)).me.crew = some c ∧ c.running = true ∧
      ∃ n ∈ c.bands, Claims.missing (tPart.after (.bar hd)) (tPart.vOf (.bar hd)) n fun st => decide (st = .waiting .crewBar)) ∧
    (t0 2).Starts (.bar hd) ∧ (t0 2).vOf (.bar hd) ≠ 0 ∧
    ∃ c, ((t0 2).after (.bar hd)).crew ((t0 2).after (.bar hd)).me.crew = some c ∧ c.running = true ∧
      ((t0 2).after (.bar hd)).cur ∈ c.bands ∧ Claims.nothingPending ((t0 2).after (.bar hd)) ∧
      (∀ n ∈ c.bands, ¬Claims.missing ((t0 2).after (.bar hd)) ((t0 2).vOf (.bar hd)) n
        fun st => decide (st = .waiting .crewBar)) ∧
      ∀ l, bit ((t0 2).vOf (.bar hd)) l = true → (((t0 2).after (.bar hd)).me.lane l).live = true :=
  ⟨(runs_of (by decide +kernel)).1.1, by decide +kernel,
    ⟨Crew.blank, by decide +kernel, rfl, 0, by decide, 1, by decide +kernel⟩,
    (runs_of (by decide +kernel)).1.1, by decide +kernel, Crew.blank, by decide +kernel, rfl, by decide +kernel,
    ⟨by decide +kernel, core_seq_nil (by decide +kernel)⟩, by unfold Claims.missing; decide +kernel, in_mask (by decide +kernel)⟩

/-- A group of the one crew of the launch. -/
def grp0 : Group := { index := 0, members := [0], gen := 0 }
def tGrp (s : State) : State :=
  { s with launches := s.launches.map fun l => { l with groups := [grp0], image := { l.image with crews := 1 } } }

theorem witness_GroupBarrierWaits : (tGrp tPart).Runs (.bcast hd 8 2 4) ∧ (tGrp tPart).vOf (.bcast hd 8 2 4) ≠ 0 ∧
    ((tGrp tPart).after (.bcast hd 8 2 4)).groupFor ((tGrp tPart).after (.bcast hd 8 2 4)).me
      (((tGrp tPart).after (.bcast hd 8 2 4)).me.uv 4) = some (0, grp0) ∧
    (∃ l, ((tGrp tPart).after (.bcast hd 8 2 4)).launchOf ((tGrp tPart).after (.bcast hd 8 2 4)).me = some l ∧
      rootOf (((tGrp tPart).after (.bcast hd 8 2 4)).me.uv 4) < l.image.crews) ∧
    ((tGrp tPart).after (.bcast hd 8 2 4)).memberCrew 0 0 = some 0 ∧ 0 ∈ ((tGrp tPart).after (.bcast hd 8 2 4)).taking 0 ∧
    Claims.missing ((tGrp tPart).after (.bcast hd 8 2 4)) ((tGrp tPart).vOf (.bcast hd 8 2 4)) 0 (·.atGroup grp0.index) :=
  ⟨(runs_of (by decide +kernel)).1, (runs_of (by decide +kernel)).2, by decide +kernel,
    ⟨_, Option.eq_some_of_isSome (by decide +kernel), by decide +kernel⟩, by decide +kernel, by decide +kernel, 1, by decide +kernel⟩

theorem witness_GroupBarrierReleases : (tGrp (t0 2)).Runs (.gbar hd 4) ∧ (tGrp (t0 2)).vOf (.gbar hd 4) ≠ 0 ∧
    ((tGrp (t0 2)).after (.gbar hd 4)).groupFor ((tGrp (t0 2)).after (.gbar hd 4)).me
      (((tGrp (t0 2)).after (.gbar hd 4)).me.uv 4) = some (0, grp0) ∧
    (((tGrp (t0 2)).after (.gbar hd 4)).launch 0).map (·.groups) = some [grp0] ∧
    ((tGrp (t0 2)).after (.gbar hd 4)).crew ((tGrp (t0 2)).after (.gbar hd 4)).me.crew = some Crew.blank ∧
    ((tGrp (t0 2)).after (.gbar hd 4)).memberCrew 0 0 = some ((tGrp (t0 2)).after (.gbar hd 4)).me.crew ∧
    Crew.blank.bands = [((tGrp (t0 2)).after (.gbar hd 4)).cur] ∧ Crew.blank.running = true ∧
    (∀ x ∈ ((tGrp (t0 2)).after (.gbar hd 4)).crews, x.killed = false) ∧
    Claims.nothingPending ((tGrp (t0 2)).after (.gbar hd 4)) ∧
    (∀ k, k < 32 → ((((tGrp (t0 2)).after (.gbar hd 4)).me.lane k).live = true ↔ bit ((tGrp (t0 2)).vOf (.gbar hd 4)) k = true)) ∧
    (tGrp (t0 2)).Runs (.bcast hd 8 2 4) ∧ rootOf (((tGrp (t0 2)).after (.bcast hd 8 2 4)).me.uv 4) = Crew.blank.num ∧ Crew.blank.num < 1 ∧
    ((tGrp (t0 2)).after (.bcast hd 8 2 4)).me.absentIn [.g 8] = [] :=
  ⟨(runs_of (by decide +kernel)).1, (runs_of (by decide +kernel)).2, by decide +kernel, by decide +kernel, by decide +kernel,
    by decide +kernel, by decide +kernel, rfl, by decide +kernel, ⟨by decide +kernel, core_seq_nil (by decide +kernel)⟩,
    by decide +kernel, (runs_of (by decide +kernel)).1, by decide +kernel⟩

/-- A band of two granules, with five free on its core. -/
def tGran : State := let s := upd (t0 2) fun b => { b with gran := 2 }
  s.setCore { s.core 0 with free := 5 }

/-- Another band of the core waits in GROW for more than is free. -/
def tBehind : State :=
  let s : State := { tGran with bands := tGran.bands ++ (tGran.bands.take 1).map fun b =>
    { b with num := 1, block := some (.grow 8 3 0x800004) } }
  s.setCore { s.core 0 with growQ := [1] }

theorem witness_RegisterHolding : (tGran.Starts (.grow hd 1) ∧ tGran.vOf (.grow hd 1) ≠ 0 ∧ (1 : BitVec 3).toNat + 1 ≤ tGran.me.gran) ∧
    (tGran.Starts (.grow hd 3) ∧ tGran.me.gran ≤ (3 : BitVec 3).toNat ∧ (tGran.core tGran.me.core).growQ = [] ∧
      (3 : BitVec 3).toNat + 1 - tGran.me.occupies ≤ (tGran.core tGran.me.core).free) ∧
    (tGran.Starts (.grow hd 7) ∧ (tGran.core tGran.me.core).free < (7 : BitVec 3).toNat + 1 - tGran.me.occupies) ∧
    (tGran.Starts (.shrink hd 0) ∧ (0 : BitVec 3).toNat + 1 < tGran.me.gran) ∧
    (tGran.Starts (.shrink hd 1) ∧ tGran.me.gran ≤ (1 : BitVec 3).toNat + 1) ∧
    (tBehind.Starts (.grow hd 2) ∧ tBehind.vOf (.grow hd 2) ≠ 0 ∧ tBehind.me.gran ≤ (2 : BitVec 3).toNat ∧
      (tBehind.core tBehind.me.core).growQ = [1] ∧ 1 ≠ tBehind.cur ∧ (tBehind.band 1).block = some (.grow 8 3 0x800004) ∧
      (tBehind.core tBehind.me.core).free < 8 - (tBehind.band 1).occupies) ∧
    tBehind.Starts (.shrink hd 0) ∧ tBehind.vOf (.shrink hd 0) ≠ 0 ∧ (0 : BitVec 3).toNat + 1 < tBehind.me.gran ∧
      tBehind.cur ∉ (tBehind.core tBehind.me.core).growQ :=
  ⟨⟨(runs_of (by decide +kernel)).1.1, by decide +kernel⟩, ⟨(runs_of (by decide +kernel)).1.1, by decide +kernel⟩,
    ⟨(runs_of (by decide +kernel)).1.1, by decide +kernel⟩, ⟨(runs_of (by decide +kernel)).1.1, by decide +kernel⟩,
    ⟨(runs_of (by decide +kernel)).1.1, by decide +kernel⟩, ⟨(runs_of (by decide +kernel)).1.1, by decide +kernel⟩,
    (runs_of (by decide +kernel)).1.1, by decide +kernel⟩

/-- The band waits in GROW, with `n` granules free on its core. -/
def tGrow (n : Nat) : State := let s := upd (t0 2) fun b => { b with gran := 2, block := some (.grow 5 3 0x800004) }
  s.setCore { s.core 0 with free := n, growQ := [0] }

theorem witness_GrowGrant : (∀ n ∈ [2, 3], ((tGrow n).core 0).growQ = [0] ∧ 0 < (tGrow n).bands.length ∧
      ((tGrow n).band 0).block = some (.grow 5 3 0x800004)) ∧
    5 - ((tGrow 3).band 0).occupies ≤ ((tGrow 3).core 0).free ∧ ((tGrow 2).core 0).free < 5 - ((tGrow 2).band 0).occupies := by
  decide +kernel

/-- A granule of the band is in a record, and its word names one of its registers. -/
def tFill : State := let s := State.withFetchWord State.reset 32 0x390C8418
  upd s fun b => { b with absentGran := 8, saved := [(3, 0x900000)] }

/-- Two bands of a core wait in GROW, the second the younger. -/
def tGrow2 : State :=
  let s := tGrow 2
  let s : State := { s with bands := s.bands ++ (s.bands.take 1).map fun b => { b with num := 1 } }
  s.setCore { s.core 0 with growQ := [0, 1] }
/-- The granule is that of the destination of a load that is to be performed. -/
def tFillTarget : State := { tFill with
  accesses := [{ id := 5, band := 0, word := 0x800000, kind := .load 25 .b32, sp := .gen, flag := 3, scope := .band, order := .relaxed,
                 after := [], parts := [] }], nextId := 20 }

/-- The spill area of the band's queue, in the page of data. -/
def tSpill : State := { tGrow 2 with mem := (tGrow 2).mem.writeLE 0x100028 8 0x900000 }

/-- Memories that agree below the page of data agree on the tables. -/
theorem same_below {m m' : Memory} (h : ∀ k, k < 0x900000 → m.read k = m'.read k) {a : Nat} (ha : a + 8 ≤ 0x900000) :
    m.readLE a 8 = m'.readLE a 8 := by
  have hn : ∀ n a, a + n ≤ 0x900000 → m.readN a n = m'.readN a n := by
    intro n
    induction n with
    | zero => exact fun _ _ => rfl
    | succ n ih => exact fun a ha => by rw [Memory.readN, Memory.readN, h a (by omega), ih (a + 1) (by omega)]
  rw [Memory.readLE, Memory.readLE, hn 8 a ha]

/-- The walk to the page of data, of which it reads nothing. -/
theorem walk_data {s : State} {ctx : Nat} {m : Memory} {va : DWord} {pa : Nat} (h : ∀ k, k < 0x900000 → m.read k = s.mem.read k)
    (hv : 0x800000 + bits (va57 va) 0 21 = pa ∧ bits (va57 va) 48 9 = 0 ∧ bits (va57 va) 39 9 = 0 ∧ bits (va57 va) 30 9 = 0 ∧
      bits (va57 va) 21 9 = 4)
    (ht : bits (s.rootOf ctx).toNat 12 40 * 2 ^ 12 = 0x10000 ∧ s.mem.readLE 0x10000 8 = 0xC000000000011000 ∧
      s.mem.readLE 0x11000 8 = 0xC000000000012000 ∧ s.mem.readLE 0x12000 8 = 0xC000000000013000 ∧
      s.mem.readLE 0x13020 8 = 0xF100000000800000) :
    translate m (s.rootOf ctx) va = .ok pa true true 0x13020 ∧ bits (m.readLE 0x13020 8) 59 1 = 0 := by
  obtain ⟨rfl, hb⟩ := hv
  obtain ⟨ht, hs0, hs1, hs2, hs3⟩ := ht
  have h0 := (same_below h (a := 0x10000) (by decide)).trans hs0
  have h1 := (same_below h (a := 0x11000) (by decide)).trans hs1
  have h2 := (same_below h (a := 0x12000) (by decide)).trans hs2
  have h3 := (same_below h (a := 0x13020) (by decide)).trans hs3
  have hp : pteTable 0xC000000000011000 = .table 0x11000 ∧ pteTable 0xC000000000012000 = .table 0x12000 ∧
      pteTable 0xC000000000013000 = .table 0x13000 ∧ bits 0xF100000000800000 56 1 = 1 ∧
      pteLeaf 0xF100000000800000 true = .leaf 0x800000 true true false := by decide
  have e0 : entryAt m 0x10000 (bits (va57 va) 48 9) = 0xC000000000011000 := by rw [entryAt, hb.1]; exact h0
  have e1 : entryAt m 0x11000 (bits (va57 va) 39 9) = 0xC000000000012000 := by rw [entryAt, hb.2.1]; exact h1
  have e2 : entryAt m 0x12000 (bits (va57 va) 30 9) = 0xC000000000013000 := by rw [entryAt, hb.2.2.1]; exact h2
  have e3 : walkLeaf m (va57 va) 0x13000 = .ok (0x800000 + bits (va57 va) 0 21) true true 0x13020 := by
    have ha : 0x13000 + 8 * 4 = 0x13020 := rfl
    simp only [walkLeaf, hb.2.2.2, ha, h3, hp.2.2.2.1, hp.2.2.2.2, beq_self_eq_true, if_true]
  refine ⟨?_, by rw [h3]; decide⟩
  rw [Machine.translate, ht]
  simp only [walkFrom, e0, e1, e2, hp.1, hp.2.1, hp.2.2.1, e3]

theorem witness_RegisterGranules_spill : let s := tSpill
    let cand := (s.coreBands 0).filter fun n => (s.core 0).growQ.contains n && !(s.band n).spilled
    (0 ∈ cand ∧ (∀ y ∈ cand, y ≠ 0 → s.younger 0 y = true ∧ s.younger y 0 = false) ∧ (s.band 0).quiet = true ∧
      s.targets 0 = [] ∧ (∀ n ∈ s.coreBands 0, n ∈ s.stuckSet 0) ∧ s.spillAbsent 0 = none ∧
      (0x900000 : DWord).toNat = field (s.qdesc (s.bandQueue 0)) 0x28 8 + 8192 * (32 * 0 + 8 * (s.band 0).quarter + (s.band 0).slot) ∧
      (s.band 0).gran = 2 ∧ (s.band 0).absentGran = 0) ∧
    ∀ i, i < 2 → Claims.ready s (0x900000 + 1024 * i) 1024 ∧
      ∀ m : Memory, (∀ k, (k < 0x900000 ∨ 0x900800 ≤ k) → m.read k = s.mem.read k) → ∃ w z e,
        translate m (s.rootOf (s.ctxOf (s.band 0))) (0x900000 + BitVec.ofNat 64 (1024 * i)) = .ok (0x900000 + 1024 * i) w z e ∧
        bits (m.readLE e 8) 59 1 = 0 :=
  ⟨by decide +kernel, fun i hi => ⟨by unfold Claims.ready; revert i; decide +kernel, fun _ hm => ⟨true, true, 0x13020, walk_data (fun k hk => hm k (.inl hk))
    (by revert i; decide) (by decide +kernel)⟩⟩⟩

/-- A band that waits for a page of the spill area. -/
def tSpillOut : State := { tSpill with
  mem := tSpill.mem.writeLE 0x100028 8 0xB00000 |>.writeLE 0x13028 8 0x4100000000A00000
  faults := [{ id := 4, ctx := 1, band := 0, core := 0, va := 0xB00000, kind := .engine (spillId 0), placed := false }] }

theorem witness_RegisterGranules_absent : (tSpillOut.spillAbsent 0).isSome = true ∧ tSpillOut.pageWaits (spillId 0) = true := by
  decide +kernel

theorem witness_RegisterGranules : (∀ x ∈ [(tGrow 2, 0), (tGrow2, 1)], let s : State := x.1
      let cand := (s.coreBands 0).filter fun n => (s.core 0).growQ.contains n && !(s.band n).spilled
      s.spillAbsent x.2 = none ∧ x.2 ∈ cand ∧ (∀ y ∈ cand, y ≠ x.2 → s.younger x.2 y = true ∧ s.younger y x.2 = false) ∧ (s.band x.2).quiet = true ∧
      ∀ n ∈ s.coreBands 0, n ∈ s.stuckSet 0) ∧
    3 ∈ tFillTarget.targetGranules 0 ∧
    0 < tFill.bands.length ∧ (tFill.band 0).spilled = false ∧ (tFill.band 0).stopped = false ∧
    (tFill.quarterOf (tFill.band 0)).stopped = false ∧ tFill.mayIssue (tFill.band 0) = true ∧
    3 ∈ tFill.wantedGranules 0 ∧ (tFill.band 0).saved.find? (·.1 == 3) = some (3, 0x900000) ∧
    ((tFill.ctxRead (tFill.ctxOf (tFill.band 0)) 0x900000 1024).isOk) = true := by decide +kernel

/-- The crew holds a range, and its launch perhaps no more work. -/
def tTake (r : Option Range) (no : Bool) : State :=
  { t0 2 with crews := (t0 2).crews.map fun c => { c with range := r }
              launches := (t0 2).launches.map fun l => { l with noWork := no } }

theorem witness_TakeDelivers : ∀ x ∈ [(some ⟨10, 17, 4⟩, false), (none, true), (some ⟨17, 17, 4⟩, false)],
    (tTake x.1 x.2).Runs (.take hd 8) ∧ (tTake x.1 x.2).vOf (.take hd 8) ≠ 0 ∧
      ((tTake x.1 x.2).after (.take hd 8)).crew ((tTake x.1 x.2).after (.take hd 8)).me.crew =
        some { Crew.blank with range := x.1 } ∧
      (((tTake x.1 x.2).after (.take hd 8)).launch 0).map (fun l => (l.paused, l.noWork)) = some (false, x.2) := by
  intro x hx
  simp only [List.mem_cons, List.not_mem_nil, or_false] at hx
  rcases hx with rfl | rfl | rfl <;>
    exact ⟨(runs_of (by decide +kernel)).1, (runs_of (by decide +kernel)).2, by decide +kernel, by decide +kernel⟩

/-- Values to push, NOWORK in lane 1. -/
def tPush : State := put (put (t0 2) 8 fun t => if t = 1 then 0xFFFFFFFF else 100) 9 fun t => if t = 1 then 0xFFFFFFFF else 0

/-- A core whose deque holds 64 tasks. -/
def tPushFull : State := tPush.setCore { tPush.core 0 with deque := List.replicate 64 ⟨0, 0, ⟨1, 2, 1⟩, []⟩ }

theorem witness_SpawnPushes : ∀ x ∈ [(tPush, 0), (tPushFull, 64)], x.1.Runs (.spawn hd 8) ∧ x.1.me.rgnOpen = false ∧
    x.1.me.handler = false ∧ (x.1.pushAll x.1.cur (spawnTasks x.1.me (x.1.ex hd) 8)).isSome = true ∧
    (x.1.core x.1.me.core).deque.length = x.2 ∧ bit (x.1.vOf (.spawn hd 8)) 1 = true ∧ x.1.me.gv2 1 8 = NOWORK ∧
    (x.1.launch 0).isSome = true := by
  intro x hx
  simp only [List.mem_cons, List.not_mem_nil, or_false] at hx
  rcases hx with rfl | rfl <;> exact ⟨(runs_of (by decide +kernel)).1, by decide +kernel⟩

/-- Its lanes wait in TAKE on a core, with a task in the core's deque, or with a stripe on another die. -/
def tReq (core : Nat) (d : List Task) : State :=
  let s := upd (t0 2) fun b => { b.mapLanes 3 fun _ l => { l with st := .waiting (.take 7 8), resume := 0x800008 } with core := core }
  let s : State := { s with crews := s.crews.map fun c => { c with core := core } }
  s.setCore { s.core core with deque := d }
def task0 : Task := { launch := 0, crew := 0, range := ⟨10, 17, 4⟩, after := [] }
def tSteal : State := { tReq 256 [] with launches := (tReq 256 []).launches.map fun l => { l with stripes := [(0, ⟨0, 9, 1⟩)] } }

theorem witness_WorkRequests : (0 < (tReq 0 [task0]).bands.length ∧ ((tReq 0 [task0]).band 0).takeRequest = some (7, 8, 3) ∧
      ((tReq 0 [task0]).band 0).quiet = true ∧ ((tReq 0 [task0]).crew ((tReq 0 [task0]).band 0).crew) = some Crew.blank ∧
      (((tReq 0 [task0]).launch 0).map (·.paused)) = some false ∧ Crew.blank.range = none ∧
      ((tReq 0 [task0]).core 0).deque = [task0] ∧ (tReq 0 [task0]).performed task0.after = true ∧ (((tReq 0 [task0]).levels 0 0 0).head? = some [.deque 0 0])) ∧
    ((∃ l, tSteal.launch 0 = some l ∧ 1 ∈ l.cfg.dieList ∧ l.holds 1 = false ∧ l.paused = false ∧
        (diesAfter l.cfg.dieList 1).find? l.holds = some 0) ∧ tSteal.hungry 0 1 = true) ∧
    ((tReq 0 []).launch 0).isSome = true ∧ (tReq 0 []).quiescent 0 = true :=
  ⟨by decide +kernel, ⟨⟨_, Option.eq_some_of_isSome (by decide +kernel), by decide +kernel⟩, by decide +kernel⟩, by decide +kernel⟩

/-! ## The matrix and draw units -/

/-- A crew that holds every slot, with the address of a mapped page in g4:g5 and draw parameters in s0 to s7. -/
def tOwn : State :=
  let s := upd (put (t0 2) 4 fun _ => 0x900000) fun b => { b with s := ((b.s.set 0 200).set 1 0x3F800000).set 2 5 }
  s.setCore ((List.range 16).foldl (fun c n => c.setOwner n (some 0)) (s.core 0))

theorem witness_SequencerWords : ∃ sb op rs, (tOwn.Runs (.accstF16 hd 3 2 4) ∧ tOwn.vOf (.accstF16 hd 3 2 4) ≠ 0 ∧ tOwn.me.pageCode = none) ∧
    tOwn.AtChecks (.accstF16 hd 3 2 4) (fun u => Claims.seqEntry u (lowest (tOwn.vOf (.accstF16 hd 3 2 4))) (.accstF16 hd 3 2 4) =
      some (sb, op, rs)) :=
  ⟨3, .accst 2 0x900000 (.global 0x900000) 2 false, [],
    ⟨(runs_of (by decide +kernel)).1, (runs_of (by decide +kernel)).2, by decide +kernel⟩, atChecks_of (by decide +kernel)⟩

theorem witness_SequencerWords_draw : ∃ sb op rs, (tOwn.Runs (.draw hd .temp 15 30 2 0) ∧ tOwn.vOf (.draw hd .temp 15 30 2 0) ≠ 0 ∧
      tOwn.me.pageCode = none) ∧
    tOwn.AtChecks (.draw hd .temp 15 30 2 0) (fun u => Claims.seqEntry u (lowest (tOwn.vOf (.draw hd .temp 15 30 2 0)))
      (.draw hd .temp 15 30 2 0) = some (sb, op, rs)) :=
  ⟨15, .draw .temp 30 2 [200, 0x3F800000, 5, 0, 0, 0, 0, 0], [.g 30, .g 31],
    ⟨(runs_of (by decide +kernel)).1, (runs_of (by decide +kernel)).2, by decide +kernel⟩, atChecks_of (by decide +kernel)⟩

/-- One slot belongs to another crew. -/
def tTaken : State := (t0 2).setCore (((t0 2).core 0).setOwner 1 (some 5))
/-- Masks in s2 and s3, for KSET. -/
def tSet : State := upd tOwn fun b => { b with s := (b.s.set 2 1).set 3 3 }

theorem witness_ClaimAndRelease : ((t0 2).Starts (.claim hd 7) ∧ (t0 2).vOf (.claim hd 7) ≠ 0 ∧
      (∀ n, n < 16 → (t0 2).AtChecks (.claim hd 7) fun u => u.holds n = false) ∧ ((t0 2).atIssue (.claim hd 7)).myCore.claimQ = [] ∧
      ∀ n, n < 16 → (7 : BitVec 16).getLsbD n = true → Claims.slotFree ((t0 2).atIssue (.claim hd 7)).myCore n) ∧
    (tTaken.Starts (.claim hd 7) ∧ (∀ n, n < 16 → tTaken.AtChecks (.claim hd 7) fun u => u.holds n = false) ∧
      ∃ n, n < 16 ∧ (7 : BitVec 16).getLsbD n = true ∧ ¬Claims.slotFree (tTaken.atIssue (.claim hd 7)).myCore n) ∧
    (tOwn.Starts (.rels hd 7) ∧ tOwn.vOf (.rels hd 7) ≠ 0 ∧
      (∀ n, n < 16 → (7 : BitVec 16).getLsbD n = true → tOwn.AtChecks (.rels hd 7) fun u => u.holds n = true) ∧
      (tOwn.atIssue (.rels hd 7)).myCore.seq = [] ∧
      ∀ l, (tOwn.atIssue (.rels hd 7)).launchOf (tOwn.atIssue (.rels hd 7)).me = some l → (tOwn.atIssue (.rels hd 7)).queueRuns l = true) ∧
    (tOwn.Starts (.accz hd 3) ∧ tOwn.vOf (.accz hd 3) ≠ 0 ∧ tOwn.AtChecks (.accz hd 3) (fun u => u.holds (2 * (3 : BitVec 3).toNat) = true) ∧
      (tOwn.atIssue (.accz hd 3)).myCore.seq = [] ∧
      ∀ l, (tOwn.atIssue (.accz hd 3)).launchOf (tOwn.atIssue (.accz hd 3)).me = some l → (tOwn.atIssue (.accz hd 3)).queueRuns l = true) ∧
    tSet.Runs (.kset hd 4 2 3) ∧ tSet.vOf (.kset hd 4 2 3) ≠ 0 ∧ tSet.AtChecks (.kset hd 4 2 3) fun u => u.holds 4 = true ∧
      (u.myCore.conv 4).signed = [] ∧ (u.me.uv 2).toNat < 2 ^ 16 ∧ u.members u.me.crew (u.me.uv 2).toNat (u.me.uv 3).toNat ≠ [] :=
  ⟨⟨(runs_of (by decide +kernel)).1.1, by decide +kernel, by unfold State.AtChecks; decide +kernel, by decide +kernel,
      by unfold Claims.slotFree; decide +kernel⟩,
    ⟨(runs_of (by decide +kernel)).1.1, by unfold State.AtChecks; decide +kernel, by unfold Claims.slotFree; decide +kernel⟩,
    ⟨(runs_of (by decide +kernel)).1.1, by decide +kernel, by unfold State.AtChecks; decide +kernel, by decide +kernel,
      of_some (by decide +kernel)⟩,
    ⟨(runs_of (by decide +kernel)).1.1, by decide +kernel, atChecks_of (by decide +kernel), by decide +kernel,
      of_some (by decide +kernel)⟩,
    (runs_of (by decide +kernel)).1, (runs_of (by decide +kernel)).2, atChecks_of (by decide +kernel)⟩

/-- A convergence register that both lanes are to sign. -/
def tMma : State := tOwn.setCore ((tOwn.core 0).setConv 4 { st := .armed, declared := [(0, 0), (0, 1)], signed := [], sig := none })
/-- Only lane 0 takes part. -/
def tMmaP : State := upd tMma fun b => b.mapLanes 1 fun _ l => { l with p := 1 }

theorem witness_MmaSigns : ∀ x ∈ [(tMma, hd), (tMmaP, hp)], let i : Instr := .mma x.2 false false 4 1 8 9
    x.1.Starts i ∧ x.1.vOf i ≠ 0 ∧ x.1.AtChecks i (fun u => u.holds 4 = true ∧ u.holds 8 = true ∧ u.holds 9 = true ∧
      u.holds 2 = true ∧ (u.myCore.conv 4).st = .armed ∧ (u.myCore.conv 4).sig = none) ∧
    ∀ l, bit (x.1.vOf i) l = true → ((x.1.atIssue i).me.num, l) ∈ ((x.1.atIssue i).myCore.conv 4).declared := by
  intro x hx
  simp only [List.mem_cons, List.not_mem_nil, or_false] at hx
  rcases hx with rfl | rfl <;>
    exact ⟨(runs_of (by decide +kernel)).1.1, by decide +kernel, atChecks_of (by decide +kernel), in_mask (by decide +kernel)⟩

theorem witness_MmaSigns_missing : (0, 1) ∈ ((tMmaP.atIssue (.mma hp false false 4 1 8 9)).myCore.conv 4).declared ∧
    (0, 1) ∉ ((tMmaP.atIssue (.mma hp false false 4 1 8 9)).myCore.conv 4).signed ∧
    bit (tMmaP.vOf (.mma hp false false 4 1 8 9)) 1 = false := by decide +kernel

/-- A multiply that has been entered, on two tiles of the given tags. -/
def qMma : SeqCmd := { id := 9, crew := 0, band := 0, lanes := 0, word := 0x800004, flag := 15, op := .mma 4 ⟨false, false, 1, 8, 9⟩ false }
def tSeq (q : SeqCmd) (f : Core → Core) : State := { tOwn.setCore { f (tOwn.core 0) with seq := [q] } with nextId := 20 }
def tTags (a b : Word) (c : Core) : Core := (c.setTile 8 { Tile.blank with tag := a }).setTile 9 { Tile.blank with tag := b }
/-- The band waits in CLAIM. -/
def tWait (c : Core) : State :=
  (upd (t0 2) fun b => { b with block := some (.claim 7 3 0x800004) }).setCore { c with claimQ := [0] }

theorem witness_MatrixEvents : ((tWait (.blank 0)).core 0).claimQ = [0] ∧ ((tWait (.blank 0)).band 0).block = some (.claim 7 3 0x800004) ∧
    0 < (tWait (.blank 0)).bands.length ∧
    (∀ n, n < 16 → ((tWait (.blank 0)).core 0).owner n ≠ some ((tWait (.blank 0)).band 0).crew) ∧
    (∀ n, n < 16 → (7 : BitVec 16).getLsbD n = true → Claims.slotFree ((tWait (.blank 0)).core 0) n) ∧
    (∀ c ∈ [Core.setOwner (.blank 0) 1 (some 5), { Core.blank 0 with seq := [{ qMma with op := .ldt 1 0x900000 (.global 0x900000) [] }] }],
      ∃ n, n < 16 ∧ (7 : BitVec 16).getLsbD n = true ∧ ¬Claims.slotFree ((tWait c).core 0) n) ∧
    ((tSeq qMma (tTags 0x22 0x22)).nextMma 0 = some (qMma, 4, ⟨false, false, 1, 8, 9⟩, false) ∧
      ((tSeq qMma (tTags 0x22 0x22)).core 0).seq = [qMma] ∧
      (((tSeq qMma (tTags 0x22 0x22)).core 0).mmaState ⟨false, false, 1, 8, 9⟩).isSome = true) ∧
    (tSeq qMma (tTags 0x22 0)).nextMma 0 = some (qMma, 4, ⟨false, false, 1, 8, 9⟩, false) ∧
    ((tSeq qMma (tTags 0x22 0)).core 0).mmaState ⟨false, false, 1, 8, 9⟩ = none := by
  unfold Claims.slotFree
  refine ⟨?_, ?_, ?_, ?_, ?_, ?_, ?_⟩ <;> decide +kernel

/-- A load of an accumulator that can be performed. -/
def qLd : SeqCmd := { id := 9, crew := 0, band := 0, lanes := 3, word := 0x800004, flag := 3, op := .accld 2 0x900000 (.global 0x900000) }

theorem witness_TransferCompletes : (tSeq qLd id).nextTransfer 0 = some qLd ∧ ((tSeq qLd id).core 0).seq = [qLd] ∧
    (match (((tSeq qLd id).unblock qLd.id).passLines 0).doTransfer qLd 0 with
      | .done s' => (s'.core 0).seq == [qLd] && !(s'.quarterOf (s'.band 0)).stopped && !s'.holdFlags && decide (qLd.band < s'.bands.length)
      | _ => false) = true ∧
    ((tSeq qLd id).band 0).core = 0 ∧ ((((tSeq qLd id).unblock qLd.id).passLines 0).seqRead qLd 0x900000 (.global 0x900000) 0 4096).isOk = true := by decide +kernel

/-- A record of 16 rows of 32 elements of 16 bits. -/
def tRecS : List Byte :=
  leBytes 0x00050001 4 ++ leBytes 32 4 ++ leBytes 16 4 ++ leBytes 64 4 ++ leBytes 64 8 ++ leBytes 1 4 ++ leBytes 1 4 ++ List.replicate 16 0 ++ leBytes 1 4 ++ List.replicate 12 0

/-- Bytes of memory from an address on. -/
def memFrom (a n : Nat) : List Loc := (List.range n).map fun k => .mem (a + k)

theorem mem_memFrom {a n : Nat} {l : Loc} : l ∈ memFrom a n ↔ ∃ k, k < n ∧ l = .mem (a + k) := by
  simp [memFrom, eq_comm]

/-- Runs that do not meet name no byte twice. -/
theorem memFrom_nodup {b len : Nat → Nat} (hb : ∀ i j, i < j → b i + len i ≤ b j) (n : Nat) :
    ((List.range n).map fun i => memFrom (b i) (len i)).flatten.Nodup := by
  refine List.nodup_flatten.mpr ⟨?_, ?_⟩
  · intro l hl
    obtain ⟨i, -, rfl⟩ := List.mem_map.mp hl
    exact List.nodup_range.map fun x y h => by simpa using h
  · rw [List.pairwise_map]
    refine List.pairwise_lt_range.imp fun {i j} h l hi hj => ?_
    obtain ⟨k, hk, rfl⟩ := mem_memFrom.mp hi
    obtain ⟨m, -, h'⟩ := mem_memFrom.mp hj
    have := hb i j h
    simp only [Loc.mem.injEq] at h'
    omega

/-- Pieces that run through the page of data lie at their bytes. -/
theorem piecesAt_of {s : State} {run : Int → Nat → Except Halt (List Loc)} {ptes : Int → Nat → List Nat} {ps : List (Int × List Byte)}
    (b len : Nat → Nat) (hw : s.watches = []) (hb : ∀ i j, i < j → b i + len i ≤ b j) (h0 : ∀ i, 0x900000 ≤ b i)
    (h : ∀ y ∈ ps.zipIdx, y.1.2.length = len y.2 ∧ run y.1.1 y.1.2.length = .ok (memFrom (b y.2) (len y.2)) ∧
      (∀ k, k < len y.2 → s.compressed (b y.2 + k) = false) ∧
      ∀ e ∈ ptes y.1.1 y.1.2.length, e = 0x13020 ∧ bits (s.mem.readLE e 8) 59 1 = 0) :
    Claims.piecesAt s run ptes ps fun i => memFrom (b i) (len i) := by
  refine ⟨hw, memFrom_nodup hb _, fun i o v hi => ?_⟩
  obtain ⟨hl, hr, hc, he⟩ := h ((o, v), i) (List.mem_zipIdx_iff_getElem?.mpr hi)
  dsimp only at hl hr hc he
  refine ⟨hr, by simp [memFrom, hl], fun k hk => ?_, fun e h => ⟨(he e h).2, fun j k _ hk hm => ?_⟩⟩
  · obtain ⟨m, hm, h'⟩ := mem_memFrom.mp hk
    rw [Loc.mem.inj h']; exact hc m hm
  · obtain ⟨m, -, h'⟩ := mem_memFrom.mp hm
    have := h0 j
    have := Loc.mem.inj h'
    rw [(he e h).1] at this
    omega

/-- Transfers that write: a tile, an accumulator, and the image of a crew that holds slot 1. -/
def qPut (op : SeqOp) : SeqCmd := { id := 9, crew := 0, band := 0, lanes := 3, word := 0x800004, flag := 3, op := op }
def tPut (op : SeqOp) : State := tSeq (qPut op) fun c => (c.setTile 1 { Tile.blank with tag := tagOfRec tRecS }).setOwner 1 (some 0)
def opStt : SeqOp := .stt 1 0x900000 (.global 0x900000) tRecS
def opAccst : SeqOp := .accst 2 0x900000 (.global 0x900000) 0 false
def opSave : SeqOp := .mxsave 0x900000 (.global 0x900000) [1] []

/-- The transfer reaches its bytes. -/
def transfers (s : State) (q : SeqCmd) : Bool := match ((s.unblock q.id).passLines (s.band q.band).core).doTransfer q 0 with
  | .done s' => (s'.core 0).seq == [q] && !(s'.quarterOf (s'.band 0)).stopped && !s'.holdFlags && decide (q.band < s'.bands.length)
  | _ => false

/-- The places of a transfer's pieces lie low in memory. -/
def placed (s : State) (q : SeqCmd) (ps : List (Int × List Byte)) : Bool :=
  let b := s.band q.band
  s.calm && (ps.map fun p => cutAll p.1 p.2).flatten.all fun p =>
    match runBand s b (lowest q.lanes) 0x900000 ((Place.global 0x900000).add p.1) p.2.length true with
    | .ok ls => ls.all fun l => match l with
      | .mem a => decide (a + p.2.length ≤ s.boot.uncompressed.getD 0 0) && decide (a + p.2.length ≤ 2 ^ 48)
      | _ => false
    | .error _ => false

/-- Only memory changes, so that the rest can be read from the state before. -/
theorem transfers_of {s s' : State} {q : SeqCmd} {ps : List (Int × List Byte)} (hs : (s.unblock q.id).passLines (s.band q.band).core = s')
    (hd : s'.doTransfer q 0 = s'.seqWrite q 0x900000 (.global 0x900000) ps) (hp : placed s' q ps = true)
    (h : ((s'.core 0).seq == [q] && !(s'.quarterOf (s'.band 0)).stopped && !s'.holdFlags && decide (q.band < s'.bands.length)) = true) :
    transfers s q = true := by
  obtain ⟨m, e⟩ : ∃ m, s'.seqWrite q 0x900000 (.global 0x900000) ps = .done { s' with mem := m } := by
    simp only [placed, Bool.and_eq_true, List.all_eq_true] at hp
    unfold State.seqWrite
    refine State.writeOut_calm hp.1 _ fun p h => ?_
    have h2 := hp.2 p h
    dsimp only
    split at h2
    · rename_i ls e
      refine ⟨ls, e, fun l hl => ?_⟩
      have h3 := List.all_eq_true.mp h2 l hl
      split at h3
      · rename_i a
        simp only [Bool.and_eq_true, decide_eq_true_eq] at h3
        exact ⟨a, rfl, h3⟩
      · cases h3
    · cases h2
  subst hs
  rw [transfers, hd, e]
  exact h

theorem puts_of {op : SeqOp} {ps : State → List (Int × List Byte)} (ok : State → Bool)
    (hd : ∀ s : State, ok s = true → s.doTransfer (qPut op) 0 = s.seqWrite (qPut op) 0x900000 (.global 0x900000) (ps s))
    (h : (let s := ((tPut op).unblock 9).passLines ((tPut op).band 0).core
      ok s && placed s (qPut op) (ps s) && ((s.core 0).seq == [qPut op] && !(s.quarterOf (s.band 0)).stopped && !s.holdFlags &&
        decide (0 < s.bands.length))) = true) : transfers (tPut op) (qPut op) = true := by
  obtain ⟨h1, h2⟩ := Bool.and_eq_true_iff.mp h
  obtain ⟨h0, h1⟩ := Bool.and_eq_true_iff.mp h1
  exact transfers_of rfl (hd _ h0) h1 h2

theorem doAccst_plain (s : State) (q : SeqCmd) (c a : Nat) (va : DWord) (p : Place) :
    s.doAccst q c a va p 0 false = s.seqWrite q va p [(0, accBytes ((s.core c).acc a) 0 false)] := by
  rw [State.doAccst, bne_self_eq_false, Bool.false_and, if_neg Bool.false_ne_true]

theorem put_accst : transfers (tPut opAccst) (qPut opAccst) = true := by
  refine puts_of (fun _ => true) (ps := fun s => [(0, accBytes ((s.core 0).acc 2) 0 false)]) (fun s _ => ?_) (by decide +kernel)
  have e : s.doTransfer (qPut opAccst) 0 = s.doAccst (qPut opAccst) 0 2 0x900000 (.global 0x900000) 0 false := rfl
  rw [e, doAccst_plain]
theorem put_save : transfers (tPut opSave) (qPut opSave) = true :=
  puts_of (fun _ => true) (ps := fun s => ((s.core 0).mxImage [1] []).map fun (e : Nat × List Byte) => ((e.1 : Int), e.2))
    (fun s _ => (rfl : s.doMxsave (qPut opSave) 0 0x900000 (.global 0x900000) [1] [] = _)) (by decide +kernel)
theorem put_stt : transfers (tPut opStt) (qPut opStt) = true :=
  puts_of (fun s => !(!tagV ((s.core 0).tile 1).tag || (tagFmt ((s.core 0).tile 1).tag).width != (rFmt tRecS).width))
    (fun s h => (if_neg (by simpa using h) : s.doStt (qPut opStt) 0 1 0x900000 (.global 0x900000) tRecS = _)) (by decide +kernel)

theorem witness_TransferCompletes_put : ∀ op ∈ [opStt, opAccst, opSave], (tPut op).nextTransfer 0 = some (qPut op) ∧
    ((tPut op).core 0).seq = [qPut op] ∧ transfers (tPut op) (qPut op) = true := by
  have h : ∀ op ∈ [opStt, opAccst, opSave], (tPut op).nextTransfer 0 = some (qPut op) ∧ ((tPut op).core 0).seq = [qPut op] := by
    decide +kernel
  refine fun op hop => ⟨(h op hop).1, (h op hop).2, ?_⟩
  simp only [List.mem_cons, List.not_mem_nil, or_false] at hop
  rcases hop with rfl | rfl | rfl
  exacts [put_stt, put_accst, put_save]

/-- Where the pieces of a list of writes lie, for a writer in the state of `tPut`. -/
abbrev liesAt (op : SeqOp) (ps : List (Int × List Byte)) (at_ : Nat → List Loc) : Prop :=
  let s := ((tPut op).unblock 9).passLines 0
  let b := s.band 0
  Claims.piecesAt s (fun o n => runBand s b 0 (0x900000 + BitVec.ofInt 64 o) ((Place.global 0x900000).add o) n true)
    (fun o n => ptesBand s b 0 ((Place.global 0x900000).add o) n) (Claims.cuts ps) at_

theorem witness_TransferCompletes_stt : rSk tRecS = 0 ∧ liesAt opStt ((List.range 32).map fun (i : Nat) =>
    ((i : Int) * rStr tRecS 1, Claims.rowOf (((tPut opStt).core 0).tile 1) i)) fun i => memFrom (0x900000 + 64 * i) 64 :=
  ⟨by decide +kernel, piecesAt_of (fun i => 0x900000 + 64 * i) (fun _ => 64) (by decide +kernel) (by intros; omega) (by intros; omega) (by decide +kernel)⟩

theorem witness_TransferCompletes_accst : liesAt opAccst [(0, Claims.bytesBy 4096 (Claims.accByte (((tPut opAccst).core 0).acc 2)))]
    fun i => memFrom (0x900000 + 64 * i) 64 :=
  piecesAt_of (fun i => 0x900000 + 64 * i) (fun _ => 64) (by decide +kernel) (by intros; omega) (by intros; omega) (by decide +kernel)

theorem witness_TransferCompletes_mxsave : let c := (tPut opSave).core 0
    liesAt opSave ((0, c.mxHeader [1] []) :: ([1].map fun (n : Nat) => (0x100 + 0x900 * (n : Int), Claims.bytesBy 0x900 fun k =>
            if k < 2048 then (c.tile n).data.read k else (c.tile n).scale.read (k - 2048))) ++
          ([1].filter fun n => n % 2 == 0).map fun (n : Nat) => (0x9100 + 0x1000 * ((n / 2 : Nat) : Int),
            Claims.bytesBy 0x1000 fun k => if (c.acc (n / 2)).st = .z then 0 else (c.acc (n / 2)).data.read k))
      fun i => memFrom (if i < 4 then 0x900000 + 64 * i else 0x900A00 + 64 * (i - 4)) 64 :=
  piecesAt_of (fun i => if i < 4 then 0x900000 + 64 * i else 0x900A00 + 64 * (i - 4)) (fun _ => 64) (by decide +kernel) (by intros; split <;> split <;> omega) (by intros; split <;> omega) (by decide +kernel)

/-- Transfers that read: the tile of a record, and an image of which the crew holds its slots. -/
def opLdt : SeqOp := .ldt 1 0x900000 (.global 0x900000) tRecS
def opRest : SeqOp := .mxrest 0x900000 (.global 0x900000) [0, 1]
def tGet (op : SeqOp) : State :=
  let s := tPut op
  { s with mem := (s.mem.writeLE 0x900000 4 0x4D585331).writeLE 0x900004 2 1 |>.writeLE 0x900010 4 0x22 }

theorem witness_TransferCompletes_get : ∀ op ∈ [opLdt, opRest], (tGet op).nextTransfer 0 = some (qPut op) ∧
    ((tGet op).core 0).seq = [qPut op] ∧ transfers (tGet op) (qPut op) = true ∧ rCodec tRecS = 0 ∧
    ((((tGet op).unblock 9).passLines 0).seqRead (qPut op) 0x900000 (.global 0x900000) 0 256).isOk = true := by decide +kernel

/-- A draw and an ACCEPT that can be performed. -/
def qDraw : SeqCmd :=
  { id := 9, crew := 0, band := 0, lanes := 3, word := 0x800004, flag := 3, op := .draw .temp 30 2 [200, 0x3F800000, 5, 0, 0, 0, 0, 0] }
def qAcc : SeqCmd :=
  { id := 9, crew := 0, band := 0, lanes := 3, word := 0x800004, flag := 3, op := .accept 30 1 2 7 [200, 0x3F800000, 5, 0, 0, 0, 0, 0] }
def tDraw (q : SeqCmd) (st : AccSt) : State := upd (tSeq q fun c => c.setAcc 2 { Acc.blank with st := st }) fun b =>
  { b with inFlight := [⟨9, .matrix, .g 30, 3, 0⟩, ⟨9, .matrix, .g 31, 3, 0⟩] }

theorem witness_DrawPerforms : (∀ x ∈ [(qDraw, .f), (qDraw, .i), (qAcc, .f)], (tDraw x.1 x.2).nextDraw 0 = some x.1 ∧
      ((tDraw x.1 x.2).core 0).seq = [x.1] ∧ x.1.band < (tDraw x.1 x.2).bands.length ∧
      ((tDraw x.1 x.2).quarterOf ((tDraw x.1 x.2).band 0)).stopped = false ∧ (tDraw x.1 x.2).holdFlags = false) ∧
    ((tDraw qDraw .f).core 0).acc 2 ≠ .blank ∧ (((tDraw qDraw .i).core 0).acc 2).st = .i ∧
    (((tDraw qAcc .f).core 0).acc 1).st ≠ .i ∧ (((tDraw qAcc .f).core 0).acc 2).st ≠ .i ∧
    (∀ r ∈ [RegName.g 30, .g 31], ∃ f ∈ ((tDraw qDraw .f).band 0).inFlight, f.id = 9 ∧ f.reg = r ∧ f.lanes = 3 ∧ f.raced = 0) ∧
    ∀ l, l < 32 → bit 3 l = true → (((tDraw qDraw .f).band 0).lane l).live = true ∧
      ((tDraw qDraw .f).band 0).races (tDraw qDraw .f).cycle l (.g 30) = false ∧
      ((tDraw qDraw .f).band 0).races (tDraw qDraw .f).cycle l (.g 31) = false := by decide +kernel

/-! ## Engines, the link unit, watches, system words -/

/-- Bytes in the page of data. -/
def mem (s : State) (l : List (Nat × Nat × Nat)) : State :=
  { s with mem := l.foldl (fun m x => m.writeLE (0x900000 + x.1) x.2.1 x.2.2) s.mem }

/-- Context 1 with its shape table in the page of data, and record 5 of it usable: 16-bit floats of one row of 8. -/
def tShape : State :=
  let s := mem (put (put (put (put (t0 2) 4 fun _ => 0x900000) 6 fun _ => 1) 8 fun _ => 0x900200) 10 fun _ => 0xFFFFFFFF)
    [(0x1000 + 64 * 5, 4, 0x00050001), (0x1144, 4, 8), (0x1148, 4, 1), (0x114C, 4, 32), (0x1158, 4, 1), (0x115C, 4, 1),
     (0x1170, 4, 1), (0, 8, 0x900800), (8, 4, 0), (0x0C, 4, 0x100), (0x10, 2, 2), (0x14, 4, 64),
     (0x200, 8, 0x900800), (0x208, 8, 0x900C00), (0x210, 2, 5)]
  let s := upd { s with ctxs := s.ctxs.map fun c => { c with shtab := 0x901000, shapes := [(5, 0)] } }
    fun b => { b with segScr := 0 }
  { s with launches := s.launches.map fun (l : Launch) => { l with image := { l.image with scratch := 1024 } } }

/-- The bytes of that record. -/
def tRec : List Byte :=
  [1, 0, 5, 0, 8, 0, 0, 0, 1, 0, 0, 0, 32, 0, 0, 0] ++ List.replicate 8 0 ++ [1, 0, 0, 0, 1, 0, 0, 0] ++ List.replicate 16 0 ++ [1] ++
    List.replicate 15 0

/-- The lanes of a word have nothing left to perform, and the core's L1 holds no line. -/
def settled (s : State) (i : Instr) : Bool :=
  (s.atIssue i).unperformed (s.atIssue i).cur (s.vOf i) == [] && (s.atIssue i).myCore.l1 == []

/-- The hypotheses of EngineWords. -/
def engWord (s : State) (i : Instr) (none_ : Bool) (p : Flag × Reg × EngOp) : Prop :=
  (s.Runs i ∧ s.vOf i ≠ 0) ∧ s.AtChecks i (fun u => Claims.engineOp (s.ex i.hdr) u i = some p) ∧ s.me.pageCode = none ∧ settled s i = true ∧
    (Claims.engineTiles (lowest (s.vOf i)) (s.atIssue i) i == 0) = none_

theorem witness_EngineWords : engWord tShape (.strmIn hd 3 4 6 5) false (3, 4, .strm true (.global 0x900800) 0 0x100 2 64 0 1 0 tRec) :=
  ⟨runs_of (by decide +kernel), atChecks_of (by decide +kernel), by decide +kernel⟩
theorem witness_EngineWords_none :
    engWord tShape (.strmOut hd 3 4 5 5) true (3, 4, .strm false (.global 0x900800) 0 0x100 2 64 0 0 0 tRec) :=
  ⟨runs_of (by decide +kernel), atChecks_of (by decide +kernel), by decide +kernel⟩
theorem witness_EngineWords_xform :
    engWord tShape (.xform hd 3 8 10 5 0) false (3, 8, .xform (.global 0x900800) (.global 0x900C00) tRec tRec 0 0 0 none false) :=
  ⟨runs_of (by decide +kernel), atChecks_of (by decide +kernel), by decide +kernel⟩

/-- A descriptor of SEGRD with a slot as destination, which the crew holds. -/
def tSeg (n : Nat) : State := (mem (put (t0 2) 4 fun _ => 0x900000) [(0x12, 1, n)]).setCore (((t0 2).core 0).setOwner 0 (some 0))

theorem witness_LinkWords : (∀ i ∈ [Instr.link hd 3 4 6, .unlink hd 15 4, .unlinkCmp hd 3 4],
      (tShape.Runs i ∧ tShape.vOf i ≠ 0) ∧ ∃ sb a op,
        Claims.linkWord (tShape.atIssue i) (lowest (tShape.vOf i)) i = some (sb, a, op) ∧
        tShape.AtChecks i fun u => Claims.descOk u (lowest (tShape.vOf i)) a) ∧
    ∀ n ∈ [0, 1], ((tSeg n).Runs (.segrdRw hd 3 4) ∧ (tSeg n).vOf (.segrdRw hd 3 4) ≠ 0) ∧ (tSeg n).me.pageCode = none ∧
    settled (tSeg n) (.segrdRw hd 3 4) = true ∧
    ∃ d kd vd ftz, ((tSeg n).AtChecks (.segrdRw hd 3 4) fun u =>
      segrdOp true 4 u ((tSeg n).ex (Instr.segrdRw hd 3 4).hdr) = .ok (.segrd true d kd vd ftz) ∧
      (field d 0x12 1 = 1 → u.holds (field d 0x18 4 % 16) = true ∧ u.holds (field d 0x1C 4 % 16) = true)) ∧
      field d 0x12 1 = n := by
  refine ⟨?_, ?_⟩
  · intro i hi
    simp only [List.mem_cons, List.not_mem_nil, or_false] at hi
    rcases hi with rfl | rfl | rfl
    · exact ⟨runs_of (by decide +kernel), 3, 4, .link 1, rfl, atChecks_of (by unfold Claims.descOk; decide +kernel)⟩
    · exact ⟨runs_of (by decide +kernel), 15, 4, .unlink false, rfl, atChecks_of (by unfold Claims.descOk; decide +kernel)⟩
    · exact ⟨runs_of (by decide +kernel), 3, 4, .unlink true, rfl, atChecks_of (by unfold Claims.descOk; decide +kernel)⟩
  · intro n hn
    simp only [List.mem_cons, List.not_mem_nil, or_false] at hn
    rcases hn with rfl | rfl
    · exact ⟨runs_of (by decide +kernel), by decide +kernel, by decide +kernel, List.replicate 64 0, [], [], false,
        atChecks_of (by decide +kernel), by decide⟩
    · exact ⟨runs_of (by decide +kernel), by decide +kernel, by decide +kernel, (List.replicate 64 0).set 0x12 1, [], [], false, atChecks_of (by decide +kernel), by decide⟩

/-- A graph node with PRED = p. -/
def tNode (p : Nat) : State := mem (put (t0 2) 4 fun _ => 0x900000) [(4, 4, p)]

theorem witness_GraphNodeWord : ∀ p ∈ [5, 1], let s := tNode p
    let i : Instr := .gnode hd 3 4
    (s.Runs i ∧ s.vOf i ≠ 0) ∧ s.AtChecks i (fun u => gnodePred 4 u (s.ex hd) = .ok p) ∧ (s.atIssue i).accesses = [] ∧
    (∃ pa c e, translate (s.atIssue i).mem ((s.atIssue i).rootOf ((s.atIssue i).ctxOf (s.atIssue i).me))
        ((s.atIssue i).me.gv2 (lowest (s.vOf i)) 4 + 4) = .ok pa true c e ∧
      Claims.ready (s.atIssue i) pa 4 ∧ bits ((s.atIssue i).mem.readLE e 8) 59 1 = 0) ∧
    (s.atIssue i).watches = [] ∧ s.me.pageCode = none := by
  intro p hp
  simp only [List.mem_cons, List.not_mem_nil, or_false] at hp
  rcases hp with rfl | rfl <;>
    exact ⟨runs_of (by decide +kernel), atChecks_of (by decide +kernel), by decide +kernel,
      ⟨0x900004, true, 0x13020, by unfold Claims.ready; decide +kernel⟩, by decide +kernel⟩

/-- A watch descriptor in the page of data, and the image of its handler. -/
def tWatch : State := mem (put (t0 2) 4 fun _ => 0x900000)
  [(0, 8, 0x900800), (8, 4, 4), (0x0C, 1, 0x20), (0x0E, 1, 4), (0x10, 8, 0x900400), (0x18, 4, 32), (0x400, 4, 0x4A4C4B31),
   (0x404, 2, 1), (0x408, 1, 1), (0x409, 1, 1), (0x40A, 1, 1), (0x414, 4, 16), (0x418, 8, 0x40)]

theorem witness_WatchWords : (tWatch.Runs (.watch hd 3 4 9) ∧ tWatch.vOf (.watch hd 3 4 9) ≠ 0) ∧ tWatch.me.pageCode = none ∧
    settled tWatch (.watch hd 3 4 9) = true ∧
    ∃ w info, tWatch.AtChecks (.watch hd 3 4 9) (fun u => watchCheck 4 u (tWatch.ex hd) = .ok (w, info)) := by
  obtain ⟨p, h⟩ := atChecks_ok (s := tWatch) (i := .watch hd 3 4 9) (f := fun u => watchCheck 4 u (tWatch.ex hd))
    (by decide +kernel)
  exact ⟨runs_of (by decide +kernel), by decide +kernel, by decide +kernel, p.1, p.2, h⟩

/-- A watch of the context with handle 7. -/
def tArmed : Watch :=
  { handle := 7, ctx := 1, grove := 0, desc := 0x900000, base := 0x900800, len := 4, pa := 0x900800, mode := 0, wide := false, uns := false,
    scope := .grove, budget := 0, maxd := 4, image := Image.blank 0, nthr := 32, arg := 0, st := 1, out := 1, removed := false, slices := [0] }
def tUnwatch : State := { put (t0 2) 4 fun _ => 7 with watches := [{ tArmed with handle := 9 }, tArmed] }

theorem witness_UnwatchWords : let i : Instr := .unwatch hd 3 4
    (tUnwatch.Runs i ∧ tUnwatch.vOf i ≠ 0) ∧ tUnwatch.AtChecks i (fun u => (u.watchOfHandle (u.ctxOf u.me)
      (u.me.gv (lowest (tUnwatch.vOf i)) 4)) = some tArmed) ∧
    (tUnwatch.atIssue i).clear (tUnwatch.atIssue i).cur (tUnwatch.vOf i) (tUnwatch.atIssue i).nextId = true ∧
    (tUnwatch.atIssue i).pageWaits (tUnwatch.atIssue i).nextId = false ∧ (tUnwatch.atIssue i).watchOps = [] ∧ (tUnwatch.atIssue i).books = [] ∧
    ((tUnwatch.atIssue i).quarterOf (tUnwatch.atIssue i).me).stopped = false ∧ (tUnwatch.atIssue i).holdFlags = false ∧
    Claims.ready (tUnwatch.atIssue i) (tArmed.desc + 15) 1 :=
  ⟨runs_of (by decide +kernel), atChecks_of (by decide +kernel), by unfold Claims.ready; decide +kernel⟩

/-- Privileged lanes in their handler, with an address. -/
def tPriv : State :=
  upd (put (t0 2) 4 fun _ => 0x900000) fun b => { b with priv := true, handler := true, trapLane := 3 }

theorem witness_SystemWords : (tPriv.Runs (.tlbinv hd 3 4) ∧ tPriv.vOf (.tlbinv hd 3 4) ≠ 0) ∧
    tPriv.AtChecks (.tlbinv hd 3 4) (fun u => canonical (u.me.gv2 (lowest (tPriv.vOf (.tlbinv hd 3 4))) 4) = true) ∧
    (tPriv.Runs (.gpw hd 3 7 4) ∧ tPriv.vOf (.gpw hd 3 7 4) ≠ 0) ∧
    tPriv.AtChecks (.gpw hd 3 7 4) (fun u => u.queueOf u.me = some 0) ∧
    ((tPriv.atIssue (.gpw hd 3 7 4)).queue 0).isSome = true :=
  ⟨runs_of (by decide +kernel), atChecks_of (by decide +kernel), runs_of (by decide +kernel), atChecks_of (by decide +kernel),
    by decide +kernel⟩

/-- Destinations in g6:g7, with slots held by the lanes of a list. -/
def tDest (held : List Nat) : State :=
  let s := put (put (t0 2) 6 fun _ => 0) 7 fun l => l
  upd { s with boot := { s.boot with nnode := 2 ^ 20 } } fun b => { b with slots := held.map fun l => (l, BitVec.ofNat 64 (l * 2 ^ 32)) }

theorem witness_RemoteEnqueue : ∀ sz ∈ [Size.b64, .b128], let i : Instr := .req hd 8 6 3 sz
    ((tDest [0, 1]).Runs i ∧ (tDest [0, 1]).vOf i ≠ 0) ∧
    (tDest [0, 1]).AtChecks i (fun u => ∀ l, l < 32 → bit ((tDest [0, 1]).vOf i) l = true → reqDie (u.me.gv2 l 6) ≤ 8 ∧
      reqKind (u.me.gv2 l 6) = 0 ∧ bits (u.me.gv2 l 6).toNat 0 30 = 0 ∧ reqNode (u.me.gv2 l 6) < u.boot.nnode) ∧
    (tDest [0, 1]).AtChecks i fun u => ∀ l, l < 32 → bit ((tDest [0, 1]).vOf i) l = true → (l, u.me.gv2 l 6) ∈ u.me.slots := by
  intro sz h
  simp only [List.mem_cons, List.not_mem_nil, or_false] at h
  rcases h with rfl | rfl <;>
    exact ⟨runs_of (by decide +kernel), atChecks_of ⟨by decide +kernel, by decide +kernel, by decide +kernel⟩, atChecks_of ⟨by decide +kernel, by decide +kernel, by decide +kernel⟩⟩

theorem witness_RemoteEnqueue_wait : let i : Instr := .req hd 8 6 3 .b64
    ((tDest [0]).Runs i ∧ (tDest [0]).vOf i ≠ 0) ∧
    (tDest [0]).AtChecks i (fun u => ∀ l, l < 32 → bit ((tDest [0]).vOf i) l = true → reqDie (u.me.gv2 l 6) ≤ 8 ∧
      reqKind (u.me.gv2 l 6) = 0 ∧ bits (u.me.gv2 l 6).toNat 0 30 = 0 ∧ reqNode (u.me.gv2 l 6) < u.boot.nnode) ∧
    bit ((tDest [0]).vOf i) 1 = true ∧ (1, (tDest [0]).me.gv2 1 6) ∉ (tDest [0]).me.slots :=
  ⟨runs_of (by decide +kernel), atChecks_of ⟨by decide +kernel, by decide +kernel, by decide +kernel⟩, by decide +kernel⟩

/-- Scratchpad addresses of barrier objects in g4, a count in g6, tokens in g8. -/
def tObj : State :=
  let s := put (put (put (t0 2) 4 fun l => 64 + 8 * l) 6 fun _ => 2) 8 fun l => 5 * l
  let s := { s with launches := s.launches.map fun (l : Launch) => { l with image := { l.image with scratch := 1024 } } }
  (s.putObject 64 0x000500030001).putObject 72 0xFFFF00070002

theorem witness_BarrierObjects :
    ((tObj.Runs (.boinit hd 4 6) ∧ tObj.vOf (.boinit hd 4 6) ≠ 0) ∧ (tObj.atIssue (.boinit hd 4 6)).accesses = [] ∧
      (∀ b ∈ (tObj.atIssue (.boinit hd 4 6)).bands, b.handler = false) ∧
      tObj.AtChecks (.boinit hd 4 6) fun u => 1 ≤ (u.me.gv (lowest (tObj.vOf (.boinit hd 4 6))) 6).toNat ∧
        (u.me.gv (lowest (tObj.vOf (.boinit hd 4 6))) 6).toNat ≤ 65535 ∧
        reach u u.me (lowest (tObj.vOf (.boinit hd 4 6))) .scr ((u.me.gv (lowest (tObj.vOf (.boinit hd 4 6))) 4).setWidth 64) 8 true true =
          .locs ((List.range 8).map fun k => .scr (64 + k))) ∧
    (tObj.Runs (.boarrive hd 9 4) ∧ tObj.AtChecks (.boarrive hd 9 4) fun u => ∀ l, l < 32 → bit (tObj.vOf (.boarrive hd 9 4)) l = true →
      reach u u.me l .scr ((u.me.gv l 4).setWidth 64) 8 true true = .locs ((List.range 8).map fun k => .scr (64 + 8 * l + k)) ∧
        objBrk (u.object (64 + 8 * l)) = false ∧ u.accesses = []) ∧
    (tObj.Runs (.bowait hd 4 8) ∧ tObj.vOf (.bowait hd 4 8) ≠ 0 ∧ tObj.AtChecks (.bowait hd 4 8) fun u => ∀ l, l < 32 →
      bit (tObj.vOf (.bowait hd 4 8)) l = true →
      reach u u.me l .scr ((u.me.gv l 4).setWidth 64) 8 false true = .locs ((List.range 8).map fun k => .scr (64 + 8 * l + k)) ∧
        objBrk (u.object (64 + 8 * l)) = false ∧ u.accesses = [] ∧ u.arrivals = []) :=
  ⟨⟨runs_of (by decide +kernel), by decide +kernel, by decide +kernel, atChecks_of (by decide +kernel)⟩,
    ⟨(runs_of (by decide +kernel)).1, atChecks_of ⟨by decide +kernel, by decide +kernel, by decide +kernel⟩⟩,
    (runs_of (by decide +kernel)).1, (runs_of (by decide +kernel)).2, atChecks_of ⟨by decide +kernel, by decide +kernel, by decide +kernel⟩⟩

theorem witness_BarrierObjects_arrive : ∀ l, (tObj.atIssue (.boarrive hd 9 4)).unperformed (tObj.atIssue (.boarrive hd 9 4)).cur
    (laneMask l) = [] := by
  intro l
  have h : (tObj.atIssue (.boarrive hd 9 4)).accesses = [] ∧ ((tObj.atIssue (.boarrive hd 9 4)).core ((tObj.atIssue (.boarrive hd 9 4)).band (tObj.atIssue (.boarrive hd 9 4)).cur).core).seq = [] := by
    decide +kernel
  generalize tObj.atIssue (.boarrive hd 9 4) = u at h
  simp [State.unperformed, State.transfers, h.1, h.2]

/-- Privileged lanes outside their handler. -/
def tPrivOut : State := upd (t0 2) fun b => { b with priv := true }

theorem witness_SystemRegisters : (tPriv.Runs (.srd hd 9 0x113) ∧ tPriv.vOf (.srd hd 9 0x113) ≠ 0) ∧
    ((tPrivOut.Runs (.swr hd 4 0x114) ∧ tPrivOut.vOf (.swr hd 4 0x114) ≠ 0) ∧
      (tPrivOut.atIssue (.swr hd 4 0x114)).me.handler = false) ∧ (tPriv.atIssue (.swr hd 4 0x114)).me.handler = true ∧
    ∀ y ∈ [0x205#10, 0x102, 0x114, 0x209], tPriv.Runs (.swr hd 4 y) ∧ tPriv.vOf (.swr hd 4 y) ≠ 0 := by
  refine ⟨runs_of (by decide +kernel), ⟨runs_of (by decide +kernel), by decide +kernel⟩, by decide +kernel, ?_⟩
  intro y hy
  simp only [List.mem_cons, List.not_mem_nil, or_false] at hy
  rcases hy with rfl | rfl | rfl | rfl <;> exact runs_of (by decide +kernel)

/-! ## Events of units -/

/-- A result, where there is one, has a property. -/
def okAnd {ε α : Type} (x : Except ε α) (f : α → Bool) : Bool := match x with
  | .ok v => f v
  | .error _ => false

/-- Launches of ranges and of two crews at once, and a state with one of them. -/
def tImg : Image := { Image.blank 0x800004 with bands := 3, scratch := 2048, gran := 2 }
def tRange : Launch := { Launch.blank 1 tImg with stripes := [(0, ⟨0, 100, 10⟩)], nthr := 70, args := [1, 2, 3], grain := 10 }
def tRes : Launch := { Launch.blank 1 { tImg with crews := 2, bands := 1 } with toPlace := [0, 1], nthr := 32 }
def tLaunch (l : Launch) : State := { t0 2 with launches := (t0 2).launches ++ [l] }

theorem witness_CrewsStart : let s := tLaunch tRange
    s.launch 1 = some tRange ∧ s.holderOf 1 = none ∧ s.launchRuns tRange = true ∧ tRange.image.crews = 0 ∧ s.holdsGrain 1 = true ∧
    s.diePlaces tRange.cfg.dieList tRange.image 0 = true ∧ 0 ∈ s.dieCores 0 ∧ (s.roomFor 0 tRange.image).isSome = true ∧
    (s.ctx tRange.ctx).isSome = true := by decide +kernel

theorem witness_CrewsStart_resident : let s := tLaunch tRes
    s.launch 1 = some tRes ∧ s.holderOf 1 = none ∧ s.launchRuns tRes = true ∧ tRes.image.crews ≠ 0 ∧ tRes.toPlace ≠ [] ∧
    (s.ctx tRes.ctx).isSome = true ∧
    (s.placeAll 1 tRes.image ((s.awakeFirst (s.launchCores tRes 0)).length + tRes.toPlace.length)
      (s.awakeFirst (s.launchCores tRes 0)) tRes.toPlace).isSome = true := by
  decide +kernel

def tDrop : Sprout :=
  { watch := 7, ctx := 1, grove := 0, va := 0x900800, old := 1, new := 2, writer := 0, count := 1, depth := 1, launch := none }
def tSprout : State := { t0 2 with watches := [{ tArmed with image := tImg }], sprouts := [tDrop] }

theorem witness_CrewsStart_sprout : tSprout.sprouts.find? (·.grove == 0) = some tDrop ∧
    (tSprout.watches.find? fun w => w.handle == tDrop.watch && w.ctx == tDrop.ctx) = some { tArmed with image := tImg } ∧
    tSprout.ctxRuns tDrop.ctx = true ∧ 0 ∉ tSprout.boot.harvested ∧
    (((tSprout.ctx tDrop.ctx).map fun c => c.deflt).getD LaunchCfg.blank).dieList.contains 0 = true ∧ (tSprout.die 0).parkReq = false ∧
    (tSprout.roomFor 0 { tImg with race := (((tSprout.ctx tDrop.ctx).map fun c => c.deflt).getD LaunchCfg.blank).race }).isSome = true := by decide +kernel

/-- A receive ring with 8 entries in the page of data, and an entry on its way to it. -/
def tRing : RecvRing := { die := 0, ring := 3, header := 0x20000 }
def tDesc : DWord := 0xC0000000
def tMsg (d : DWord) (f : Flag) (r : Option Bool) : ReqMsg :=
  { id := 9, band := 0, lane := 1, word := 0x800004, ctx := 1, desc := d, payload := List.replicate 16 5, flag := f, result := r }
def tRecv (tail : Nat) : State :=
  { t0 2 with
    ctxs := (t0 2).ctxs.map fun c => { c with rings := [tRing] }
    mem := ((((t0 2).mem.writeLE 0x20000 8 0x900000).writeLE 0x20008 4 8).writeLE 0x2000C 4 2).writeLE 0x20010 4 tail
    nextId := 20 }

theorem witness_RemoteQueues_grant : ∀ x ∈ [(5, true), (10, false)], let s : State := { tRecv x.1 with
      slotReqs := [{ id := 9, band := 0, lane := 1, desc := tDesc }] }
    s.slotReqs.find? (·.id == 9) = some { id := 9, band := 0, lane := 1, desc := tDesc } ∧ reqNode tDesc = s.boot.node ∧
    s.ringOf (s.ctxOf (s.band 0)) tDesc = some tRing ∧ 0 < s.bands.length ∧ (s.band 0).ended = false ∧
    decide ((s.ringTail tRing + s.grantsOut (s.ctxOf (s.band 0)) tDesc + 2 ^ 32 - s.ringHead tRing) % 2 ^ 32 < s.ringNent tRing) =
      x.2 := by decide +kernel

/-- What is not listed reads as 0. -/
theorem read_unlisted : (m : Memory) → {a : Nat} → (∀ c ∈ m, c.1 ≠ a) → m.read a = 0
  | [], _, _ => rfl
  | c :: r, a, h => by rw [Memory.read, if_neg (h c (.head r))]; exact read_unlisted r fun d hd => h d (.tail c hd)

/-- A run of bytes that read as 0. -/
theorem readN_zero {m : Memory} {lo hi : Nat} (hr : ∀ a, lo ≤ a → a < hi → m.read a = 0) :
    ∀ k a, lo ≤ a → a + k ≤ hi → m.readN a k = List.replicate k 0
  | 0, _, _, _ => rfl
  | k + 1, a, h1, h2 => by
    rw [Memory.readN, hr a h1 (by omega), readN_zero hr k (a + 1) (by omega) (by omega), List.replicate_succ]

/-- The indexes of the entries of a table of which memory lists a byte, or all of them. -/
def usedIn (m : Memory) (a n : Nat) : List Nat :=
  let l := ((m.filter fun c => decide (a ≤ c.1) && decide (c.1 < a + 8 * n)).map fun c => (c.1 - a) / 8).dedup
  if l.Pairwise (· < ·) ∧ ∀ i ∈ l, i < n then l else List.range n

theorem flatMap_used {β : Type} {f : Nat → List β} : ∀ {xs : List Nat} {l : List Nat}, (∀ i ∈ xs, i ∉ l → f i = []) →
    xs.flatMap f = (xs.filter (· ∈ l)).flatMap f
  | [], _, _ => rfl
  | x :: xs, l, h => by
    have ih := flatMap_used (xs := xs) fun i hi => h i (.tail x hi)
    by_cases hx : x ∈ l
    · simp [hx, ih]
    · simp [hx, ih, h x (.head xs) hx]

theorem flatMap_range {β : Type} {f : Nat → List β} {m : Memory} {a n : Nat}
    (h : ∀ i, i < n → (∀ c ∈ m, ¬(a + 8 * i ≤ c.1 ∧ c.1 < a + 8 * i + 8)) → f i = []) :
    (List.range n).flatMap f = (usedIn m a n).flatMap f := by
  unfold usedIn
  dsimp only
  split
  · rename_i hl
    rw [flatMap_used (l := ((m.filter fun c => decide (a ≤ c.1) && decide (c.1 < a + 8 * n)).map fun c => (c.1 - a) / 8).dedup)]
    · congr 1
      refine List.Perm.eq_of_pairwise (le := (· < ·)) (fun _ _ _ _ h1 h2 => absurd h1 (Nat.lt_asymm h2))
        (List.Pairwise.filter _ List.pairwise_lt_range) hl.1 ?_
      refine (List.perm_ext_iff_of_nodup (List.nodup_range.filter _) (List.nodup_dedup _)).mpr fun i => ?_
      simp only [List.mem_filter, List.mem_range, decide_eq_true_eq]
      exact ⟨And.right, fun h => ⟨hl.2 i h, h⟩⟩
    · intro i hi hn
      refine h i (List.mem_range.mp hi) fun c hc hb => hn ?_
      rw [List.mem_dedup, List.mem_map]
      have := List.mem_range.mp hi
      refine ⟨c, List.mem_filter.mpr ⟨hc, ?_⟩, by omega⟩
      simp only [Bool.and_eq_true, decide_eq_true_eq]; omega
  · rfl

/-- A run of bytes that memory does not list. -/
theorem readN_unlisted {m : Memory} {lo hi : Nat} (hr : ∀ c ∈ m, ¬(lo ≤ c.1 ∧ c.1 < hi)) {k a : Nat} (h1 : lo ≤ a) (h2 : a + k ≤ hi) :
    m.readN a k = List.replicate k 0 :=
  readN_zero (fun b hb1 hb2 => read_unlisted m fun c hc hcb => hr c hc (by omega)) k a h1 h2

theorem entryAt_zero {m : Memory} {a i : Nat} (h : ∀ c ∈ m, ¬(a + 8 * i ≤ c.1 ∧ c.1 < a + 8 * i + 8)) : entryAt m a i = 0 := by
  rw [entryAt, Memory.readLE, readN_unlisted h (Nat.le_refl _) (by omega)]; rfl

/-- The tables below some tables, found at the entries of which memory lists a byte. -/
def tablesFast (m : Memory) (lo : Nat) (ts : List (Nat × Nat)) : List (Nat × Nat) :=
  ts.flatMap fun t => (usedIn m t.2 512).flatMap fun i => match pteTable (entryAt m t.2 i) with
    | .table pa => [(t.1 + i * 2 ^ lo, pa)]
    | _ => []

theorem tablesFast_eq {m : Memory} {lo : Nat} {ts : List (Nat × Nat)} : tablesBelow m lo ts = tablesFast m lo ts := by
  unfold tablesBelow tablesFast
  rw [List.flatMap_def]
  generalize 512 = n
  refine congrArg List.flatten (List.map_congr_left fun t _ => ?_)
  rw [← flatMap_range, List.filterMap_eq_flatMap_toList]
  · congr 1; funext i; split <;> simp_all
  · intro i _ h; rw [entryAt_zero h]; rfl

/-- The pages of a context, found the same way. -/
def pagesFast (s : State) (ctx : Nat) : List PageAt :=
  (tablesFast s.mem 30 (tablesFast s.mem 39 (tablesFast s.mem 48 [(0, bits (s.rootOf ctx).toNat 12 40 * 2 ^ 12)]))).flatMap fun t =>
    (usedIn s.mem t.2 512).flatMap fun i =>
      let e := entryAt s.mem t.2 i
      let va := t.1 + i * 2 ^ 21
      if bits e 56 1 = 1 then [⟨ctx, va, t.2 + 8 * i, e, 2 ^ 21⟩]
      else
        match pteTable e with
        | .table pa => (List.range 32).map fun j => ⟨ctx, va + j * 2 ^ 16, pa + 8 * j, entryAt s.mem pa j, 2 ^ 16⟩
        | _ => []

theorem pagesFast_eq : State.pages = pagesFast := by
  funext s ctx
  unfold State.pages pagesFast
  simp only [tablesFast_eq]
  rw [← List.flatMap_def]
  generalize 512 = n
  refine List.flatMap_congr fun t _ => ?_
  rw [← List.flatMap_def]
  refine flatMap_range fun i _ h => ?_
  rw [entryAt_zero h]; rfl

theorem ptesAt_eq {s t : State} (hc : s.ctxs = t.ctxs) (hm : s.mem = t.mem) (pa : Nat) : s.ptesAt pa = t.ptesAt pa := by
  unfold State.ptesAt State.pages State.rootOf State.ctx
  rw [hc, hm]

theorem ptesAt_fast (s : State) (pa : Nat) : s.ptesAt pa =
    ((s.ctxs.map fun c => (pagesFast s c.id).filterMap fun p => if p.holds pa then some p.pte else none).flatten) := by
  rw [← pagesFast_eq]; rfl

/-- Entries whose RCL is clear stay. -/
theorem clearRcl_none {s : State} {l : List Nat} (h : l.all (fun e => bits (s.mem.readLE e 8) 59 1 == 0) = true) : s.clearRcl l = s := by
  simp only [List.all_eq_true, beq_iff_eq] at h
  induction l with
  | nil => rfl
  | cons x r ih =>
    have ih := ih fun e he => h e (.tail x he)
    unfold State.clearRcl at ih ⊢
    rw [List.foldl_cons]
    simpa only [h x (.head r), Nat.zero_ne_one, beq_eq_false_iff_ne.mpr, ne_eq, not_false_eq_true, Bool.false_eq_true, if_false] using ih

/-- No page of the state before holds the address, nor of the state that a write leaves. -/
theorem ptesAt_after {r : Except Halt State} {s : State} {m : Memory} {pa : Nat}
    (h1 : okAnd r (fun t => t.ctxs == s.ctxs && t.mem == m) = true) (h2 : ({ s with mem := m } : State).ptesAt pa = []) :
    okAnd r (fun t => t.ptesAt pa == []) = true := by
  cases r with
  | error _ => cases h1
  | ok t =>
    simp only [okAnd, Bool.and_eq_true, beq_iff_eq] at h1
    have e := (ptesAt_eq (t := { s with mem := m }) h1.1 h1.2 pa).trans h2
    simp only [okAnd, e, beq_self_eq_true]

theorem witness_RemoteQueues_deliver : let m := tMsg tDesc 3 none
    let s : State := { tRecv 5 with reqs := [m] }
    s.reqs.find? (·.id == m.id) = some m ∧ m.result = none ∧ s.reqBehind m = false ∧ s.clear m.band (laneMask m.lane) m.id = true ∧
    s.pageWaits m.id = false ∧ reqNode m.desc = s.boot.node ∧ s.ringOf m.ctx m.desc = some tRing ∧
    (s.ringTail tRing + 2 ^ 32 - s.ringHead tRing) % 2 ^ 32 < s.ringNent tRing ∧
    m.payload.length = 16 ∧ BitVec.ofNat 64 (s.mem.readLE tRing.pa 8) + BitVec.ofNat 64 (16 * (s.ringTail tRing % s.ringNent tRing)) = 0x900050 ∧
    (∃ c e, translate s.mem (s.rootOf m.ctx) 0x900050 = .ok 0x900050 true c e ∧ bits (s.mem.readLE e 8) 59 1 = 0) ∧
    canonical 0x900050 = true ∧ Claims.ready s 0x900050 16 ∧ Claims.ready s (tRing.pa + 0x10) 4 ∧
    (tRing.pa + 0x10) % 4 = 0 ∧ paOk (tRing.pa + 0x10) = true ∧ s.watches = [] ∧ tRing.pa + 0x14 ≤ 0x900050 ∧
    s.ringTail tRing + 1 < 2 ^ 32 ∧
    okAnd ((s.unblock m.id).ctxWrite { s.laneWriter m.band m.lane m.word false with ctx := m.ctx, depth := 0 } 0x900050 m.payload)
      (fun s1 => s1.ptesAt (tRing.pa + 0x10) == []) = true :=
  by
    unfold Claims.ready
    refine ⟨?_, ?_, ?_, ?_, ?_, ?_, ?_, ?_, ?_, ?_, ⟨true, 0x13020, ?_⟩, ?_, ?_, ?_, ?_, ?_, ?_, ?_, ?_,
      ptesAt_after (s := tRecv 5) (m := (tRecv 5).mem.writeN 0x900050 (List.replicate 16 5)) ?_ ?_⟩
    case refine_21 => rw [ptesAt_fast]; decide +kernel
    all_goals decide +kernel

/-- An entry that finds its ring full. -/
theorem witness_RemoteQueues_full : let m := tMsg tDesc 3 none
    let s : State := { tRecv 10 with reqs := [m] }
    s.reqs.find? (·.id == m.id) = some m ∧ m.result = none ∧ s.reqBehind m = false ∧ s.clear m.band (laneMask m.lane) m.id = true ∧
    s.pageWaits m.id = false ∧ reqNode m.desc = s.boot.node ∧ s.ringOf m.ctx m.desc = some tRing ∧
    s.ringNent tRing ≤ (s.ringTail tRing + 2 ^ 32 - s.ringHead tRing) % 2 ^ 32 := by decide +kernel

theorem witness_RemoteQueues_refused : ∀ f ∈ [3, 15], let m := tMsg 0x100000000 f none
    let s : State := { tRecv 5 with reqs := [m] }
    s.reqBehind m = false ∧ s.clear m.band (laneMask m.lane) m.id = true ∧ s.pageWaits m.id = false ∧ reqNode m.desc = s.boot.node ∧
    s.ringOf m.ctx m.desc = none ∧ reqDie m.desc < 9 ∧ ∀ c ∈ s.ctx m.ctx, c.eventRing = 0 := by decide +kernel

theorem witness_RemoteQueues_answer : ∀ x ∈ [(true, []), (false, [{ tMsg tDesc 3 none with id := 8 }])], let m := tMsg tDesc 3 (some x.1)
    let s : State := { tRecv 5 with reqs := x.2 ++ [m] }
    s.reqs.find? (·.id == m.id) = some m ∧ m.band < s.bands.length ∧ m.lane < 32 ∧ s.savedQueue m.band = none ∧
    (s.quarterOf (s.band m.band)).stopped = false ∧ ((s.band m.band).lane m.lane).live = true ∧
    s.holdFlags = false ∧ decide (∃ y ∈ s.reqs, y.id ≠ m.id ∧ y.band = m.band ∧ y.flag = m.flag) = !x.1 := by decide +kernel

def tInv : TlbOp := { id := 9, band := 0, flag := 3, va := 0x800000 }
/-- A load of the page that has yet to be performed. -/
def tOlder : Access :=
  { id := 5, band := 0, word := 0x800004, kind := .store, sp := .gen, flag := 3, scope := .band, order := .relaxed, after := []
    parts := [{ lane := 0, va := 0x900000, locs := [], ptes := [], data := [], cmp := [], held := [], done := false, absent := false }] }

theorem witness_WatchAndTlbCompletions : ∀ x ∈ [([], false), ([tOlder], true)],
    let s : State := { t0 2 with tlbs := [tInv], accesses := x.1, nextId := 20 }
    s.tlbs.find? (·.id == tInv.id) = some tInv ∧ tInv.band < s.bands.length ∧ (s.quarterOf (s.band tInv.band)).stopped = false ∧
    s.holdFlags = false ∧ s.tlbUsed tInv = x.2 := by decide +kernel

/-- A watch that is to be armed, with budget 3 or one that its grove does not have. -/
def tArm (budget : Nat) : WatchOp :=
  { id := 9, band := 0, lanes := 3, word := 0x800004, d := 8, flag := 3, handle := 0, shapes := [], desc := 0x900100, book := none
    arm := some { tArmed with handle := 0, desc := 0x900100, pa := 0, slices := [], out := 0, budget := budget } }

theorem witness_WatchAndTlbCompletions_watch : ∀ n ∈ [3, 256], let s : State := { t0 2 with watchOps := [tArm n], nextId := 20 }
    s.watchOps.find? (·.id == 9) = some (tArm n) ∧ s.clear 0 3 9 = true ∧ s.pageWaits 9 = false ∧
    (match translate s.mem (s.rootOf 1) 0x900800 with
      | .ok pa _ _ _ => pa == 0x900800
      | _ => false) = true ∧ (s.quarterOf (s.band 0)).stopped = false ∧ 0 < s.bands.length ∧ s.holdFlags = false ∧
    (∀ x, s.sliceUse x < 64) ∧ decide (s.groveBudget 0 + n + 1 ≤ 256) = (n == 3) ∧
    let u := s.unblock 9
    (tArm n).book = none ∧ u.books = [] ∧
    u.installShapes 1 0 [] = .ok (.ok u) ∧ u.watches.length < 2 ^ 30 ∧ Claims.ready u (0x900100 + 15) 1 ∧ u.bands = s.bands ∧
      u.holdFlags = false ∧ (u.quarterOf (u.band 0)).stopped = false := by
  intro n hn
  simp only [List.mem_cons, List.not_mem_nil, or_false] at hn
  unfold Claims.ready
  rcases hn with rfl | rfl
  all_goals
    refine ⟨?_, ?_, ?_, ?_, ?_, ?_, ?_, fun x => Nat.lt_of_le_of_lt (List.length_filter_le _ _) (by decide +kernel), ?_, rfl, rfl, rfl, ?_⟩ <;>
      decide +kernel

/-- A band that waits for the answer of its watch. -/
def tAns : State := upd { t0 2 with watchOps := [tArm 3], nextId := 20 } fun b => { b with inFlight := [⟨9, .engine, .g 8, 3, 0⟩] }

theorem witness_WatchAndTlbCompletions_answer : ∀ l, bit (tArm 3).lanes l = true → ((tAns.band 0).lane l).live = true ∧
    (∃ f ∈ (tAns.band 0).inFlight, f.id = 9 ∧ f.reg = .g 8 ∧ bit f.lanes l = true) ∧
    (∀ f ∈ (tAns.band 0).inFlight, f.id = 9 → bit f.raced l = false) ∧ (tAns.band 0).races tAns.cycle l (.g 8) = false :=
  in_mask (by decide +kernel)

/-- A table of which every slice is full. -/
def tFull : State := { t0 2 with watches := (List.range 64).map fun h => { tArmed with handle := h + 1, slices := homeSlices 0x900800 4 } }

theorem witness_WatchAndTlbCompletions_full : tFull.holdFlags = false ∧ ∃ x ∈ homeSlices 0x900800 4, 64 ≤ tFull.sliceUse x := by
  refine ⟨by decide +kernel, homeSlice 0x12010, ?_, ?_⟩
  · simp [homeSlices]
  · have : ∀ w ∈ tFull.watches, w.removed = false ∧ w.slices = homeSlices 0x900800 4 := by
      intro w hw
      obtain ⟨h, -, rfl⟩ := List.mem_map.mp hw
      exact ⟨rfl, rfl⟩
    have hx : homeSlice 0x12010 ∈ homeSlices 0x900800 4 := by simp [homeSlices]
    unfold State.sliceUse
    rw [List.filter_eq_self.mpr (by intro w hw; simp [(this w hw).1, (this w hw).2, hx])]
    simp [tFull]

/-- A stream at its last tile, with FILLED − FREED tiles in its ring of two slots. -/
def tStream (isIn : Bool) (filled : Nat) : State :=
  { tShape with
    scr := (tShape.scr.writeLE 0x100 4 filled)
    nextId := 20
    engines := [{ id := 9, ctx := 1, node := none, desc := 0x900000, core := 0, crew := 0,
                  op := .strm isIn (.global 0x900800) 0 0x100 2 64 0 1 0 tRec,
                  issuer := { band := 0, lanes := 1, word := 0x800004, flag := 3, depth := 0 } }] }
def tEng (op : EngOp) : EngCmd :=
  { id := 9, ctx := 1, node := none, desc := 0x900000, core := 0, crew := 0, op := op,
    issuer := { band := 0, lanes := 1, word := 0x800004, flag := 3, depth := 0 } }

theorem witness_EngineTiles : ∀ x ∈ [(true, 2, true), (true, 1, false), (false, 0, true)],
    let e := tEng (.strm x.1 (.global 0x900800) 0 0x100 2 64 0 1 0 tRec)
    let s := tStream x.1 x.2.1
    s.findEngine e.id = some e ∧ s.engineReady e = true ∧ s.ringBusy e = false ∧
    (okAnd (scrLocs s (s.band 0) 0x100 0 8 false) fun ls => let v := s.readLocs ls
      if x.1 then decide (2 ≤ (field v 0 4 + 2 ^ 32 - field v 4 4) % 2 ^ 32) == x.2.2 else field v 0 4 == field v 4 4) = true := by
  decide +kernel

theorem witness_EngineTiles_tile : let s := tStream true 1
    (okAnd (readTile (s.engineRead (tEng (.strm true (.global 0x900800) 0 0x100 2 64 0 1 0 tRec)) (.global 0x900800)) tRec 0) fun d =>
      (collect ((slotWrites tRec d).map fun w => (scrLocs s (s.band 0) 0 (1 % 2 * 64 + w.1) w.2.length true).map fun l =>
        (l, w.2))).isOk) = true ∧
    s.unblock 9 = s ∧ s.holdFlags = false ∧ scrLocs s (s.band 0) 0x100 0 4 true = .ok ((List.range 4).map fun k => .scr (0x100 + k)) ∧
    ((List.range 4).map fun k => Loc.scr (0x100 + k)).Nodup ∧ 0 < s.bands.length ∧ (s.quarterOf (s.band 0)).stopped = false := by
  decide +kernel

/-- A tile goes out; its one row of 16 bytes lies at its base. -/
theorem witness_EngineTiles_out : let e := tEng (.strm false (.global 0x900800) 0 0x100 2 64 0 1 0 tRec)
    let s := tStream false 1
    s.findEngine e.id = some e ∧ s.engineReady e = true ∧ s.ringBusy e = false ∧ s.unblock 9 = s ∧ rSk tRec = 0 ∧
    (okAnd (scrLocs s (s.band 0) 0x100 0 8 false) fun ls => let v := s.readLocs ls; field v 0 4 != field v 4 4) = true ∧
    (okAnd (collect ((List.range (rExt tRec 1)).map fun i => (scrLocs s (s.band 0) 0 (0 % 2 * 64 + i * rSpitch tRec) (rRowScr tRec) false).map
        s.readLocs)) fun rows => okAnd (tileWrites tRec 0 { rows := rows, scales := [] }) fun ws => ws == [(0, List.replicate 16 0)] &&
        (match s.engineWrite e (.global 0x900800) ws with
          | .done s' => s'.engines == s.engines && s'.bands == s.bands && s'.holdFlags == s.holdFlags &&
            s'.quarterOf (s.band 0) == s.quarterOf (s.band 0) && decide (scrLocs s' (s'.band 0) 0x100 4 4 true =
              .ok ((List.range 4).map fun k => .scr (0x104 + k)))
          | _ => false)) = true := by decide +kernel

theorem witness_EngineTiles_bytes : let e := tEng (.strm false (.global 0x900800) 0 0x100 2 64 0 1 0 tRec)
    let s := tStream false 1
    Claims.piecesAt s (fun o n => runEngine s e.ctx (e.core / 256) 0 ((Place.global 0x900800).add o) n true)
      (fun o n => ptesEngine s e.ctx ((Place.global 0x900800).add o) n) (Claims.cuts [(0, List.replicate 16 0)])
      fun i => memFrom (0x900800 + 16 * i) 16 :=
  piecesAt_of (fun i => 0x900800 + 16 * i) (fun _ => 16) (by decide +kernel) (by intros; omega) (by intros; omega) (by decide +kernel)

theorem witness_EngineTiles_xform : ∀ n ∈ [0, 1], let e := tEng (.xform (.global 0x900800) (.global 0x900C00) tRec tRec 0 n 0 none false)
    let s : State := { tShape with engines := [e], nextId := 20 }
    s.findEngine e.id = some e ∧ s.engineReady e = true ∧ e.node = none ∧ s.unblock 9 = s ∧
    (okAnd (xformTile (s.engineRead e (.global 0x900800)) tRec tRec 0 false 0) fun w => w.2.isNone &&
      (match s.engineWrite e (.global 0x900C00) w.1 with
        | .done _ => true
        | _ => false)) = true := by decide +kernel

/-- A node that has ended, with no successor, or with one whose PRED is 5 or 1. -/
def tEnded : NodeRun :=
  { id := 9, ctx := 1, addr := 0x900000, queue := 0, by_ := { band := 0, lanes := 1, word := 0, flag := 3, depth := 0 }, flag := some (0, 3),
    launch := none, started := true, result := some .done }
def tGraph (n : Nat) : State := { mem (t0 2) [(1, 1, min n 1), (0x40, 8, 0x900080), (0x84, 4, if n = 2 then 1 else 5)] with nodes := [tEnded], nextId := 20 }

theorem witness_GraphNodes : ∀ k ∈ [0, 1, 2], let s := tGraph k
    s.nodes.find? (·.id == 9) = some tEnded ∧ s.pageWaits 9 = false ∧ s.nodeResult tEnded = some .done ∧
    (okAnd (s.nodeRead 1 0x900000) fun n => field n 1 1 == min k 1 && field n 0x40 8 == 0x900080) = true ∧
    (∃ c e, translate s.mem (s.rootOf 1) (0x900000 + 2) = .ok 0x900002 true c e ∧ bits (s.mem.readLE e 8) 59 1 = 0 ∧ e + 8 ≤ 0x900002) ∧
    Claims.ready s 0x900002 2 ∧ s.holdFlags = false ∧ s.succBusy 1 [0x900080] = false ∧
    (∃ c e, translate s.mem (s.rootOf 1) 0x900080 = .ok 0x900080 true c e ∧
      translate s.mem (s.rootOf 1) (0x900080 + 4) = .ok (0x900080 + 4) true c e ∧ bits (s.mem.readLE e 8) 59 1 = 0) ∧
    Claims.ready s (0x900080 + 4) 4 ∧ s.mem.readLE (0x900080 + 4) 4 = (if k = 2 then 1 else 5) ∧
    (s.quarterOf (s.band 0)).stopped = false ∧ (∀ x ∈ s.nodes, x.started = true) ∧ s.watches = [] ∧ tEnded.id < s.nextId ∧
    tEnded.launch = none ∧ s.unitRuns tEnded.by_.band = true := by
  intro k hk
  simp only [List.mem_cons, List.not_mem_nil, or_false] at hk
  rcases hk with rfl | rfl | rfl <;>
    exact ⟨by decide +kernel, by decide +kernel, by decide +kernel, by decide +kernel, ⟨true, 0x13020, by decide +kernel⟩,
      by unfold Claims.ready; decide +kernel, by decide +kernel, by decide +kernel, ⟨true, 0x13020, by decide +kernel⟩,
      by unfold Claims.ready; decide +kernel⟩

theorem witness_GraphNodes_walk : ∀ k ∈ [1, 2], let s := tGraph k
    ∀ m : Memory, (∀ j, (j < 0x900002 ∨ 0x900002 + 2 ≤ j) → m.read j = s.mem.read j) →
      translate m (s.rootOf 1) (0x900080 + 4) = .ok (0x900080 + 4) true true 0x13020 ∧ canonical (0x900080 + 4) = true := by
  intro k hk
  simp only [List.mem_cons, List.not_mem_nil, or_false] at hk
  rcases hk with rfl | rfl <;>
    exact fun m hm => ⟨(walk_data (fun j hj => hm j (.inl (by omega))) (by decide) (by decide +kernel)).1, by decide⟩

/-- A map of two layers with one link, a segment of 16 tokens of shape 5, and descriptors of LINK, UNLINK and SEGRD. -/
def tMap : State :=
  let s := mem (t0 2)
    [(0, 8, 0x902000), (0x0C, 2, 0xFFFF), (0x0E, 2, 1), (0x18, 4, 4), (0x100, 8, 0x902000), (0x108, 4, 2),
     (0x1000 + 64 * 5, 4, 0x00050001), (0x1144, 4, 32), (0x1148, 4, 16), (0x114C, 4, 64), (0x1150, 8, 64), (0x1158, 4, 1),
     (0x115C, 4, 1), (0x1170, 4, 1),
     (0x2000, 4, 0x434D5031), (0x2004, 2, 4), (0x2006, 1, 2), (0x2008, 2, 1), (0x200A, 2, 32), (0x200C, 2, 2), (0x200E, 2, 1),
     (0x2018, 4, 64), (0x2020, 8, 0x900400), (0x2028, 8, 0x903000), (0x2030, 4, 1), (0x203C, 4, 7), (0x2050, 2, 1),
     (0x2058, 4, 3), (0x208C, 4, 4), (0x2090, 4, 5), (0x2094, 4, 2),
     (0x3004, 1, 2), (0x3005, 1, 1), (0x3006, 2, 1), (0x3008, 2, 32), (0x300A, 1, 255), (0x300C, 4, 16), (0x3010, 2, 5),
     (0x3012, 2, 5), (0x3020, 8, 0x904000), (0x4000, 8, 0x905000), (0x4008, 8, 0x906000), (0x6000, 2, 0x3C00), (0x6042, 2, 0x4000),
     (0x400, 4, 0x4A4C4B31), (0x404, 2, 1), (0x408, 1, 1), (0x409, 1, 1), (0x40A, 1, 1), (0x414, 4, 16), (0x418, 8, 0x40)]
  { s with ctxs := s.ctxs.map (fun (c : Ctx) => { c with shtab := 0x901000, shapes := [(5, 0)], wsLen := 2 ^ 20 }), nextId := 20 }

/-- A command of the link unit. -/
def tCmd (op : LinkOp) (desc : DWord) : LinkCmd :=
  { id := 9, die := 0, ctx := 1, core := 0, crew := 0, issuer := { band := 0, lanes := 1, word := 0x800004, flag := 3, depth := 0 },
    desc := desc, op := op, published := none, held := none, strictOver := false }
def tSegD (nq layer : Nat) : List Byte :=
  leBytes 0x902000 8 ++ leBytes 0 4 ++ leBytes nq 4 ++ [BitVec.ofNat 8 layer, 0, 1, 0] ++ leBytes 5 2 ++ leBytes 5 2 ++ leBytes 1 4 ++ leBytes 2 4 ++
    leBytes 0xFFFFFFFF 4 ++ List.replicate 28 0

def tLink (c : LinkCmd) : State := { tMap with links := [c] }
def cLink : LinkCmd := tCmd (.link 0) 0x900000
def cUnlink : LinkCmd := tCmd (.unlink true) 0x900100

theorem witness_LinkPublishes : let s := tLink cLink
    s.findLink 9 = some cLink ∧ s.unblock 9 = s ∧ s.linkReady cLink = true ∧ okAnd (s.linkBank cLink 1) id = true ∧
    okAnd (s.linkBank cLink 0) (!·) = true ∧ s.holdFlags = false ∧ (okAnd (s.linkPlan cLink 0) fun p => okAnd (s.linkShapes cLink p) fun s0 =>
        (s0.publish cLink 1 p [(0x28, leBytes (mNextlid p.hdr) 4), (0x2C, leBytes ((mVer p.hdr + 1) % 2 ^ 32) 4), (0x30, [0])]).isOk) =
      true ∧ 0 < s.bands.length ∧ (s.quarterOf (s.band 0)).stopped = false := by decide +kernel

theorem witness_LinkPublishes_unlink : let s := tLink cUnlink
    s.findLink 9 = some cUnlink ∧ cUnlink.published = none ∧ s.linkReady cUnlink = true ∧ okAnd (s.linkBank cUnlink 1) id = true ∧
    okAnd (s.linkBank cUnlink 0) (!·) = true ∧ (okAnd (s.unlinkPlan cUnlink true) fun p =>
        (s.publish cUnlink 1 p.1 [(0x0C, leBytes ((mVer p.1.hdr + 1) % 2 ^ 32) 4), (0x10, [0])]).isOk) = true := by decide +kernel

/-- What is needed of a state for `mapAt` of the map in the page of data, and that the map starts with a header. -/
def mapB (s : State) (hdr : List Byte) : Bool :=
  (blocksOf 0x902000 1152).all (fun b => !s.compressed (b * 256) && !s.blocked [b]) &&
    bits (s.rootOf 1).toNat 12 40 * 2 ^ 12 == 0x10000 && s.mem.readLE 0x10000 8 == 0xC000000000011000 &&
    s.mem.readLE 0x11000 8 == 0xC000000000012000 && s.mem.readLE 0x12000 8 == 0xC000000000013000 &&
    s.mem.readLE 0x13020 8 == 0xF100000000800000 && s.mem.readN 0x902000 128 == hdr

theorem mapAt_of {s : State} {hdr : List Byte} (h : mapB s hdr = true) :
    Claims.mapAt s 1 0x902000 1152 0x902000 ∧ s.mem.readN 0x902000 128 = hdr := by
  simp only [mapB, Bool.and_eq_true, List.all_eq_true, Bool.not_eq_true', beq_iff_eq] at h
  obtain ⟨⟨⟨⟨⟨⟨hr, ht⟩, h0⟩, h1⟩, h2⟩, h3⟩, h4⟩ := h
  have hv : ∀ o, o < 1152 → canonical (0x902000 + BitVec.ofNat 64 o) = true ∧
      0x800000 + bits (va57 (0x902000 + BitVec.ofNat 64 o)) 0 21 = 0x902000 + o ∧ bits (va57 (0x902000 + BitVec.ofNat 64 o)) 48 9 = 0 ∧
      bits (va57 (0x902000 + BitVec.ofNat 64 o)) 39 9 = 0 ∧ bits (va57 (0x902000 + BitVec.ofNat 64 o)) 30 9 = 0 ∧
      bits (va57 (0x902000 + BitVec.ofNat 64 o)) 21 9 = 4 := by decide +kernel
  exact ⟨⟨hr, fun m hm o ho => ⟨(hv o ho).1, true, 0x13020,
    walk_data (fun k hk => hm k (.inl (by omega))) (hv o ho).2 ⟨ht, h0, h1, h2, h3⟩⟩⟩, h4⟩

theorem witness_LinkPublishes_map : let s := tLink cLink
    (okAnd (s.linkPlan cLink 0) fun p => p.map == 0x902000 && mMaxl p.hdr == 4 && (p.old ++ p.new).all (·.ova == 0) &&
      p.rec_.any (·.ova == 0) &&
      okAnd (s.linkShapes cLink p) fun s0 =>
        okAnd (s0.linkPut cLink [(0x28, leBytes (mNextlid p.hdr) 4), (0x2C, leBytes ((mVer p.hdr + 1) % 2 ^ 32) 4), (0x30, [0])])
          (mapB · p.hdr)) = true := by decide +kernel

/-- A link with an overlay. -/
def tOverlay : State := mem (tLink cLink) [(0x1C, 4, 0x1000), (0x20, 8, 0x907000)]

theorem witness_LinkPublishes_overlay : let s := tOverlay
    s.linkReady cLink = true ∧ okAnd (s.linkBank cLink 1) id = true ∧
    (okAnd (s.linkPlan cLink 0) fun p => p.rec_.any (·.ova == 0x907000) && okAnd (s.linkShapes cLink p) fun s0 =>
      okAnd (s0.publish cLink 1 p [(0x28, leBytes (mNextlid p.hdr) 4), (0x2C, leBytes ((mVer p.hdr + 1) % 2 ^ 32) 4), (0x30, [0])])
        fun s1 => mapB s1 (s1.mem.readN 0x902000 128) && okAnd (runVa s1 (s1.rootOf 1) 0x907000 12 true) (· == memFrom 0x907000 12) &&
          ((List.range 12).all fun k => !s1.compressed (0x907000 + k)) && (ptesVa s1 (s1.rootOf 1) 0x907000 12).all (· == 0x13020)) =
      true := by decide +kernel

theorem witness_LinkPublishes_walk {s1 : State} {hdr : List Byte} (h : mapB s1 hdr = true) (m : Memory)
    (hm : ∀ k, Loc.mem k ∉ memFrom 0x907000 12 → m.read k = s1.mem.read k) :
    translate m (s1.rootOf 1) (0x907000 + 8) = translate s1.mem (s1.rootOf 1) (0x907000 + 8) := by
  simp only [mapB, Bool.and_eq_true, beq_iff_eq] at h
  obtain ⟨⟨⟨⟨⟨⟨-, ht⟩, h0⟩, h1⟩, h2⟩, h3⟩, -⟩ := h
  have e : ∀ m : Memory, (∀ k, k < 0x900000 → m.read k = s1.mem.read k) →
      translate m (s1.rootOf 1) (0x907000 + 8) = .ok 0x907008 true true 0x13020 :=
    fun m h => (walk_data h (by decide) ⟨ht, h0, h1, h2, h3⟩).1
  refine (e m fun k hk => hm k fun hl => ?_).trans (e s1.mem fun _ _ => rfl).symm
  obtain ⟨j, -, hj⟩ := mem_memFrom.mp hl
  have := Loc.mem.inj hj
  omega

theorem witness_LinkPublishes_unmap : let s := tLink cUnlink
    (okAnd (s.unlinkPlan cUnlink true) fun p => p.1.map == 0x902000 && mMaxl p.1.hdr == 4 && (p.1.old ++ p.1.new).all (·.ova == 0) &&
      decide (p.1.new.length ≤ mMaxl p.1.hdr) &&
      okAnd (s.linkPut cUnlink [(0x0C, leBytes ((mVer p.1.hdr + 1) % 2 ^ 32) 4), (0x10, [0])]) (mapB · p.1.hdr)) = true := by decide +kernel

/-- The removed link's pass, with a crew left or none. -/
def tPass (st : PassSt) (ls : List Nat) : Pass :=
  { id := 8, ctx := 1, die := 0, queue := 0, map := 0x902000, lid := 2, psig := 5, repk := 0x900400, st := st, launches := ls }

theorem witness_LinkPublishes_done : ∀ x ∈ [([], true), ([0], false)], let c := { cUnlink with published := some (2, 0x902000) }
    let s : State := { tLink c with passes := [tPass .superseded x.1] }
    s.findLink 9 = some c ∧ s.holdFlags = false ∧ s.oldCrewsEnded 1 0x902000 2 = x.2 ∧ s.linkHeld 1 0x902000 2 = false := by
  decide +kernel

/-- A read of two tokens that has captured bank 0; in layer 1 it is strict. -/
def cSeg (rw : Bool) (layer : Nat) : LinkCmd :=
  { tCmd (.segrd rw (tSegD 2 layer) tRecS tRecS false) 0x900200 with held := some (0, 7) }

theorem witness_SegmentReads : let c := cSeg false 0
    let s := tLink c
    s.findLink 9 = some c ∧ s.linkReady c = true ∧ (s.core 0).segrdTurn 9 = true ∧
    (okAnd (s.segPrep c (tSegD 2 0) tRecS tRecS 0) fun p => okAnd (s.segWait c false (tSegD 2 0) p) (· == .go) &&
      let s1 := s.setLink 9 fun c => { c with strictOver := true }
      (s1.segFind c (tSegD 2 0) tRecS tRecS false p).isOk && (s1.linkPut c [(0x28, leBytes 7 4), (0x2C, [0, 0])]).isOk) = true ∧
    field (tSegD 2 0) 0x12 1 = 1 ∧ s.holdFlags = false ∧ field (tSegD 2 0) 0x18 4 = 1 ∧
    field (tSegD 2 0) 0x1C 4 = 2 := by decide +kernel

/-- The link has an overlay, a selection and another signature in the current version. -/
def tStrict (cur psig : Nat) : State :=
  mem (tLink (cSeg true 1)) [(0x2038, 1, cur), (0x2098, 8, 0x907000), (0x20A0, 1, 2), (0x2052, 2, 1), (0x218C, 4, 4), (0x2190, 4, psig),
    (0x2194, 4, 2)]

theorem witness_SegmentReads_strict : ∀ x ∈ [(0, 5, Strict.wait), (1, 6, .superseded)], let s := tStrict x.1 x.2.1
    s.findLink 9 = some (cSeg true 1) ∧ s.linkReady (cSeg true 1) = true ∧
    (okAnd (s.segPrep (cSeg true 1) (tSegD 2 1) tRecS tRecS 0) fun p =>
      okAnd (s.segWait (cSeg true 1) true (tSegD 2 1) p) (· == x.2.2)) = true ∧
    (s.linkPut (cSeg true 1) [(0x28, leBytes 7 4), (0x2C, [1, 0])]).isOk = true := by decide +kernel

/-- A pass of the map's first link. -/
def tRepair (ova : Nat) (p : Pass) : State := { mem tMap [(0x2098, 8, ova)] with passes := [p], launches := [Launch.blank 1 tImg] }

theorem witness_RepairPasses : ∀ ova ∈ [0, 0x907000], let p := tPass (.waiting 0) []
    let s := tRepair ova p
    s.findPass 8 = some p ∧ s.pageWaits 8 = false ∧
    (okAnd (s.passLink p) fun x => !s.oldReader p x.1 && (match x.2 with
      | some (l, pred, _) => l.ova == BitVec.ofNat 64 ova && !pred
      | none => false)) = true ∧ s.oldCrewsEnded 1 0x902000 2 = true ∧
    (ova ≠ 0 → (s.writable 1 [(0x907000, leBytes 5 4 ++ [0, 0]), (0x907008, leBytes 0 4)]).isOk = true) := by decide +kernel

theorem witness_RepairPasses_commit : ∀ st ∈ [PassSt.superseded, .running 1], let p := tPass st [0]
    let s := tRepair 0x907000 p
    { s with crews := [] }.launchOver 0 = true ∧ s.findPass 8 = some p ∧ s.pageWaits 8 = false ∧
    (okAnd (s.passLink p) fun x => x.2.isSome && mNlayer x.1 == 2) = true ∧
    (s.writable 1 [(0x907000 + 4, [1, 2])]).isOk = true := by decide +kernel

/-- A pass of the map's second link, with rows to repair in two layers. -/
def tLayers (p : Pass) : State :=
  { mem tMap [(0x2006, 1, 3), (0x2050, 2, 2), (0x20CC, 4, 4), (0x20D0, 4, 5), (0x20D4, 4, 3), (0x20D8, 8, 0x907000), (0x7008, 4, 2)] with
    passes := [p], launches := [Launch.blank 1 tImg] }

/-- The pass finds its link with a predecessor, and the kernel is that of a range launch. -/
def layerB (s : State) (p : Pass) : Bool := okAnd (s.passLink p) fun x => !s.oldReader p x.1 && mNlayer x.1 == 3 &&
  (match x.2 with
    | some (l, pred, n) => l.ova == 0x907000 && pred && n == 2
    | none => false) && okAnd (s.readKernel 1 (mRepk x.1)) fun k => k.any (·.image.crews == 0)

theorem witness_RepairPasses_layer : let p := { tPass (.waiting 0) [] with lid := 3 }
    let s := tLayers p
    s.findPass 8 = some p ∧ s.pageWaits 8 = false ∧ layerB s p = true ∧ s.oldCrewsEnded 1 0x902000 3 = true ∧
    (s.writable 1 [(0x907000, leBytes 5 4 ++ [0, 1]), (0x907008, leBytes 2 4)]).isOk = true := by decide +kernel

theorem witness_RepairPasses_next : let p := { tPass (.running 1) [0] with lid := 3 }
    let s : State := { tLayers p with crews := [] }
    s.launchOver 0 = true ∧ s.findPass 8 = some p ∧ s.pageWaits 8 = false ∧ p.launches.getLast? = some 0 ∧ layerB s p = true ∧
    (s.writable 1 [(0x907000 + 4, [1, 1])]).isOk = true ∧
    layerB (((s.endLaunch 0).hwWrites 1 [(0x907000 + 4, [1, 1])]).setPass 8 fun p => { p with st := .waiting 2 }) p = true := by
  decide +kernel

/-! ## Clearing, faults, errors and debug -/

/-- Die 0 reclaims; a page of context 1 lies in its compressed memory. -/
def tClear : State :=
  let s : State := { t0 2 with
    mem := ((t0 2).mem.writeLE 0x13028 8 (2 ^ 63 + 2 ^ 62 + 2 ^ 61 + 2 ^ 60 + 2 ^ 59 + 2 ^ 58 + 2 ^ 56 + 0xA00000)).writeLE 0xA00010 4 7 }
  { s with boot := { s.boot with uncompressed := List.replicate 9 0x900000 }
           dies := s.dies.mapIdx fun i (d : Die) => if i = 0 then { d with stage := 1, pool := 5, highMark := 100 } else d }

/-- The pages of the context. -/
def pCode : PageAt := { ctx := 1, va := 0x800000, len := 2 ^ 21, pte := 0x13020, e := tClear.mem.readLE 0x13020 8 }
def pData : PageAt := { ctx := 1, va := 0xA00000, len := 2 ^ 21, pte := 0x13028, e := tClear.mem.readLE 0x13028 8 }

/-- One block that takes a sector is enough. -/
theorem sectorsIn_ne {s : State} {pa len i : Nat} (hi : i < len / 256) (h : sectorsAt s.mem (pa / 256 + i) ≠ 0) : s.sectorsIn pa len ≠ 0 := by
  unfold State.sectorsIn
  intro hs
  exact h (List.sum_eq_zero_iff.mp hs _ (List.mem_map.mpr ⟨i, List.mem_range.mpr hi, rfl⟩))

theorem tClear_takeable : tClear.takeable 0 = [(pData, 1, 0xA00000, tClear.sectorsIn 0xA00000 (2 ^ 21))] := by
  have hp : (tClear.ctxs.map fun c => tClear.pages c.id).flatten = [pCode, pData] := by rw [pagesFast_eq]; decide +kernel
  have h1 : tClear.pageStage 0 pCode = none := by decide +kernel
  have hn : tClear.sectorsIn 0xA00000 (2 ^ 21) ≠ 0 := sectorsIn_ne (i := 0) (by decide) (by decide +kernel)
  have h2 : tClear.pageStage 0 pData = some (1, 0xA00000, tClear.sectorsIn 0xA00000 (2 ^ 21)) := by
    have hf : pData.frame = some 0xA00000 := by decide +kernel
    have hb : bits pData.e 59 1 = 1 ∧ bits pData.e 58 1 = 1 := by decide +kernel
    have hc : (dieOfPa 0xA00000 != 0 || !tClear.compressed 0xA00000 || tClear.watched 0xA00000 (2 ^ 21)) = false := by decide +kernel
    have hl : pData.len = 2 ^ 21 := rfl
    unfold State.pageStage
    rw [hf]
    simp only [hc, hb.1, hb.2, hl, if_neg hn, if_true, Bool.false_eq_true, if_false]
  unfold State.takeable
  rw [hp]
  simp [h1, h2]

theorem witness_SectorsAndWaitingWrites_reclaim : (tClear.die 0).stage ≠ 0 ∧ (tClear.die 1).stage = 0 ∧
    ¬(fullReserve ≤ (tClear.die 0).reserve ∧ (tClear.die 0).highMark ≤ (tClear.die 0).pool) ∧
    (∃ n, (pData, 1, 0xA00000, n) ∈ tClear.takeable 0 ∧ (∀ x ∈ tClear.takeable 0, 1 ≤ x.2.1) ∧
      ∀ x ∈ tClear.takeable 0, x.2.1 = 1 → x.1.ctx = 1 → x.1.va = va57 0xA00000 → x = (pData, 1, 0xA00000, n)) ∧ pData.ctx = 1 ∧
    pData.va = va57 0xA00000 ∧ pData.pte + 8 ≤ 0xA00000 ∧ 2 ^ 63 ≤ pData.e ∧ pData.pte + 8 ≤ tClear.acctAt 0 1 := by
  refine ⟨by decide +kernel, by decide +kernel, by decide +kernel, ⟨tClear.sectorsIn 0xA00000 (2 ^ 21), ?_, ?_, ?_⟩,
    by decide +kernel⟩
  · rw [tClear_takeable]; exact List.mem_singleton.mpr rfl
  · simp [tClear_takeable]
  · simp [tClear_takeable]

theorem zero_block : blockSectors (List.replicate 256 0) = 0 := by decide +kernel

theorem sectorsAt_zero {m : Memory} {b : Nat} (h : m.readN (b * 256) 256 = List.replicate 256 0) : sectorsAt m b = 0 := by
  rw [sectorsAt, h, zero_block]

/-- Sectors of a run of which one block at most has bytes. -/
theorem sectorsIn_one {s : State} {pa n : Nat} (hpa : pa % 256 = 0)
    (hz : (s.mem.all fun c => decide (c.1 < pa + 256) || decide (pa + 256 * (n + 1) ≤ c.1)) = true) :
    s.sectorsIn pa (256 * (n + 1)) = sectorsAt s.mem (pa / 256) := by
  have hr : ∀ a, pa + 256 ≤ a → a < pa + 256 * (n + 1) → s.mem.read a = 0 := fun a h1 h2 => read_unlisted _ fun c hc he => by
    have := List.all_eq_true.mp hz c hc
    simp only [Bool.or_eq_true, decide_eq_true_eq] at this
    omega
  have hs : ∀ i, i < n → sectorsAt s.mem (pa / 256 + (i + 1)) = 0 := fun i hi =>
    sectorsAt_zero (readN_zero hr 256 _ (by omega) (by omega))
  have key : ∀ f : Nat → Nat, (∀ i, i < n → f (i + 1) = 0) → ((List.range (n + 1)).map f).sum = f 0 := fun f hf => by
    rw [List.range_succ_eq_map, List.map_cons, List.sum_cons, List.map_map, List.sum_eq_zero_iff.mpr, Nat.add_zero]
    intro x hx
    obtain ⟨i, hi, rfl⟩ := List.mem_map.mp hx
    exact hf i (List.mem_range.mp hi)
  have := key (fun i => sectorsAt s.mem (pa / 256 + i)) hs
  rw [State.sectorsIn, Nat.mul_div_cancel_left _ (by decide : 0 < 256), this, Nat.add_zero]

/-- The write of a host that waits for sectors. -/
def cHost : CmdOp := { id := 9, queue := 65536, op := opHost, params := [0x900000, 1, 2, 3] }

/-- A write of the host waits for sectors, and the page of data is a balloon page of context 1. -/
def tBall : State :=
  let s : State := { t0 2 with
    mem := (((t0 2).mem.writeLE 0x13028 8 (2 ^ 63 + 2 ^ 62 + 2 ^ 61 + 2 ^ 60 + 2 ^ 57 + 2 ^ 56 + 0xA00000)).writeLE
      0xA00010 4 7).writeLE ((t0 2).acctAt 0 1 + 4) 4 9
    cmds := [cHost], nextId := 20 }
  { s with boot := { s.boot with uncompressed := List.replicate 9 0x900000 }
           dies := s.dies.mapIdx fun i (d : Die) => if i = 0 then { d with stage := 1, pool := 0, reserve := 0, highMark := 100, waiting := [9] } else d }
/-- The same without a page to take. -/
def cHost1 : CmdOp := { cHost with params := [0xA00100, 1, 2, 3] }
def tFixed : State := { tBall with ctxs := [], cmds := [cHost1] }

def pBall : PageAt := { ctx := 1, va := 0xA00000, len := 2 ^ 21, pte := 0x13028, e := tBall.mem.readLE 0x13028 8 }

theorem tBall_pages : (tBall.ctxs.map fun c => tBall.pages c.id).flatten = [pCode, pBall] := by rw [pagesFast_eq]; decide +kernel
theorem tBall_code : tBall.pageStage 0 pCode = none := by decide +kernel
theorem tBall_sectors : tBall.sectorsIn 0xA00000 (256 * (8191 + 1)) = 1 :=
  (sectorsIn_one (by decide) (by decide +kernel)).trans (by decide +kernel)
theorem tBall_facts : pBall.frame = some 0xA00000 ∧ pBall.len = 256 * (8191 + 1) ∧ bits pBall.e 59 1 = 0 ∧ (bits pBall.e 57 1 = 1 ∧
    1 ≤ tBall.mem.readLE (tBall.acctAt 0 pBall.ctx + 4) 4 ∧ tBall.othersWait 0 pBall.ctx = true) ∧
    (dieOfPa 0xA00000 != 0 || !tBall.compressed 0xA00000 || tBall.watched 0xA00000 pBall.len) = false := by decide +kernel

/-- A page with bytes that no copy backs is taken in stage 3 or not at all. -/
theorem pageStage_of {s : State} {die f n : Nat} {p : PageAt} (hf : p.frame = some f) (hn : s.sectorsIn f p.len = n) (h0 : n ≠ 0)
    (hc : (dieOfPa f != die || !s.compressed f || s.watched f p.len) = false) (h1 : bits p.e 59 1 = 0) :
    s.pageStage die p = if bits p.e 57 1 = 1 ∧ n ≤ s.mem.readLE (s.acctAt die p.ctx + 4) 4 ∧ s.othersWait die p.ctx = true then
      some (3, f, n) else none := by
  unfold State.pageStage
  simp only [hf, hc, hn, h0, h1, Bool.false_eq_true, if_false, Nat.zero_ne_one]

theorem takeable_two {s : State} {p q : PageAt} {x : Option (Nat × Nat × Nat)}
    (hp : (s.ctxs.map fun c => s.pages c.id).flatten = [p, q]) (h0 : s.pageStage 0 p = none) (h1 : s.pageStage 0 q = x) :
    s.takeable 0 = (x.map fun y => (q, y)).toList := by
  rw [State.takeable, hp]
  cases x <;> simp [h0, h1]

theorem tBall_takeable : tBall.takeable 0 = [(pBall, 3, 0xA00000, 1)] := by
  obtain ⟨h1, hl, h2, h3, h4⟩ := tBall_facts
  exact takeable_two tBall_pages tBall_code ((pageStage_of h1 (by rw [hl]; exact tBall_sectors) Nat.one_ne_zero h4 h2).trans (if_pos h3))

theorem witness_SectorsAndWaitingWrites_balloon : let s := tBall
    (s.die 0).stage ≠ 0 ∧ ¬(fullReserve ≤ (s.die 0).reserve ∧ (s.die 0).highMark ≤ (s.die 0).pool) ∧
    ((pBall, 3, 0xA00000, 1) ∈ s.takeable 0 ∧ (∀ x ∈ s.takeable 0, 3 ≤ x.2.1) ∧
      ∀ x ∈ s.takeable 0, x.1.ctx = 1 → x.1.va = va57 0xA00000 → x = (pBall, 3, 0xA00000, 1)) ∧ pBall.ctx = 1 ∧
    pBall.va = va57 0xA00000 ∧ pBall.pte + 8 ≤ 0xA00000 ∧ 2 ^ 63 ≤ pBall.e ∧ pBall.pte + 8 ≤ s.acctAt 0 1 ∧ s.acctAt 0 1 + 12 ≤ 0xA00000 := by
  refine ⟨by decide +kernel, by decide +kernel, ⟨?_, ?_, ?_⟩, by decide +kernel⟩
  · rw [tBall_takeable]; exact List.mem_singleton.mpr rfl
  · simp [tBall_takeable]
  · simp [tBall_takeable]

theorem witness_SectorsAndWaitingWrites_refused : let s := tFixed
    s.takeable 0 = [] ∧
    (s.die 0).stage ≠ 0 ∧ ¬(fullReserve ≤ (s.die 0).reserve ∧ (s.die 0).highMark ≤ (s.die 0).pool) ∧
    (s.die 0).waiting = [9] ∧ (s.die 0).marks = [] ∧ s.cmds.find? (·.id == 9) = some cHost1 ∧ cHost1.op = opHost ∧
    s.findAccess 9 = none ∧ s.findEngine 9 = none ∧ s.findSeq 9 = none ∧ s.findLink 9 = none ∧ s.reqs.find? (·.id == 9) = none ∧
    s.books.find? (·.id == 9) = none ∧ s.nodes.find? (·.id == 9) = none ∧ s.watchOps.find? (·.id == 9) = none ∧ s.findFault 9 = none ∧
    (match State.hostWrite (s.unblock 9) (cHost1.queue - 65536) cHost1.hostAddr cHost1.hostBytes with
      | .error (.sectors d _ _) => d == 0
      | _ => false) = true ∧ (∀ x ∈ s.ctx (cHost1.queue - 65536), x.eventRing = 0) ∧
    ∀ d, d < 9 → d ≠ 0 → 9 ∉ (s.die d).waiting := by decide +kernel

/-- A host write that waits for sectors. -/
def tHost : State :=
  { t0 2 with cmds := [cHost], nextId := 20
              dies := (t0 2).dies.mapIdx fun i (d : Die) => if i = 0 then { d with waiting := [9] } else d }

/-- The state in which the write is tried again. -/
abbrev tRetried : State := State.unblock (tHost.setDie 0 { tHost.die 0 with pool := (tHost.die 0).pool + tHost.keptFor 0 9 }) 9

theorem witness_SectorsAndWaitingWrites_write : tHost.waitDie 8 = none ∧ tHost.cmds.find? (·.id == 9) = some cHost ∧ cHost.op = opHost ∧
    tHost.waitDie 9 = some 0 ∧ tHost.findAccess 9 = none ∧ tHost.findEngine 9 = none ∧ tHost.findSeq 9 = none ∧
    tHost.findLink 9 = none ∧ tHost.reqs.find? (·.id == 9) = none ∧ tHost.books.find? (·.id == 9) = none ∧
    tHost.nodes.find? (·.id == 9) = none ∧ tHost.watchOps.find? (·.id == 9) = none ∧ tHost.findFault 9 = none ∧
    (okAnd (State.hostWrite tRetried (cHost.queue - 65536) cHost.hostAddr cHost.hostBytes) fun s' =>
        !s'.ringsBell (cHost.queue - 65536) cHost.hostAddr cHost.hostBytes) = true := by
  have h : tRetried.clearRcl (tRetried.ptesOver (bits cHost.hostAddr.toNat 0 52) cHost.hostBytes.length) = tRetried := by
    have h1 : tRetried.ptesOver 0x900000 3 = [0x13020, 0x13020] := by unfold State.ptesOver; simp only [ptesAt_fast]; decide +kernel
    rw [show bits cHost.hostAddr.toNat 0 52 = 0x900000 by decide +kernel, show cHost.hostBytes.length = 3 by decide +kernel, h1]
    exact clearRcl_none (by decide +kernel)
  unfold State.hostWrite
  simp only [h]
  decide +kernel

/-- A record of a page that is absent. -/
def tRecord (kind : FaultKind) (placed : Bool) : FaultRec :=
  { id := 9, ctx := 1, band := 0, core := 0, va := 0xA00010, kind := kind, placed := placed }
/-- With its entry, and the frame that backs it or none. -/
def tAbsent (f : FaultRec) (e : Nat) : State :=
  { t0 2 with mem := (t0 2).mem.writeLE 0x13028 8 e, faults := [f], nextId := 20 }
def eAbsent : Nat := 2 ^ 62 + 2 ^ 61 + 2 ^ 60 + 2 ^ 56

theorem freeFrame_ge (s : State) (m len : Nat) : (s.framesOf m len).1 ≤ s.freeFrame m len := Nat.le_add_right _ _

theorem witness_FaultService_record : let f := tRecord .fetch false
    let s := tAbsent f eAbsent
    s.findFault f.id = some f ∧ f.placed = false ∧ s.copies = [] ∧ f.core / 256 ≠ 15 ∧ (s.die (f.core / 256)).poolst.toNat < 2 ^ 30 ∧
    s.absentPage f.ctx f.va = some { ctx := 1, va := 0xA00000, len := 2 ^ 21, pte := 0x13028, e := eAbsent } ∧ eAbsent < 2 ^ 63 ∧
    0x13028 + 8 ≤ s.freeFrame (s.placeFor f.core) (2 ^ 21) :=
  ⟨by decide +kernel, by decide, by decide +kernel, by decide, by decide +kernel, by decide +kernel, by decide +kernel,
    Nat.le_trans (by decide +kernel) (freeFrame_ge _ _ _)⟩

theorem witness_FaultService_placed : let f := tRecord .fetch true
    (tAbsent f eAbsent).findFault f.id = some f ∧ (tAbsent f eAbsent).resident f = false := by decide +kernel

/-- The band waits for the page at an issue, or is parked by an abort. -/
def tReply (k : FaultKind) : State :=
  upd (tAbsent (tRecord k true) (2 ^ 63 + 2 ^ 62 + 2 ^ 61 + 2 ^ 60 + 2 ^ 56 + 0xA00000)) fun b =>
    { b with block := some (if k = .fetch ∨ k = .issue then .page else .parked) }
/-- A load of the faulting word whose value is still to be written. -/
def tParked : State := { tReply (.abort [(1, 0xA00010)] 0x800004) with
  accesses := [{ id := 5, band := 0, word := 0x800004, kind := .load 8 .b32, sp := .gen, flag := 15, scope := .band, order := .relaxed,
                 after := [], parts := [] }] }

theorem witness_FaultService_reply : ∀ k ∈ [FaultKind.fetch, .issue, .abort [(1, 0xA00010)] 0x800004], let f := tRecord k true
    let s := tReply k
    s.findFault f.id = some f ∧ s.resident f = true ∧ s.savedQueue f.band = none ∧ f.band < s.bands.length ∧
    (s.band f.band).block = some (if k = .fetch ∨ k = .issue then .page else .parked) ∧ s.accesses = [] ∧
    (1 : Nat) < 32 ∧ ((s.band f.band).lane 1).live = true := by decide +kernel

theorem witness_FaultService_parked : let f := tRecord (.abort [(1, 0xA00010)] 0x800004) true
    tParked.findFault f.id = some f ∧ tParked.resident f = true ∧ tParked.savedQueue f.band = none ∧
    (tParked.band f.band).block = some .parked ∧
    (tParked.accesses.filter fun a => a.band == f.band && a.word == 0x800004 && a.flag == 15 && a.kind.hasDest).map (·.id) = [5] := by
  decide +kernel

/-- A launch of an idempotent image or of another, of a repair pass or of a command that runs. -/
def tKill (idem : Bool) (o : Origin) (killed : Bool) : State :=
  let s := t0 2
  { s with launches := s.launches.map fun (l : Launch) => { l with origin := o, image := { l.image with idempotent := idem } }
           crews := s.crews.map fun (c : Crew) => { c with range := some ⟨3, 9, 2⟩, killed := killed, running := !killed }
           queues := s.queues.map fun (q : Queue) => { q with running := some { entry := some 0x900000, op := 2, event := false, params := [], graph := none } } }

theorem witness_KilledCrews : ∀ x ∈ [(true, Origin.repair 5), (false, .repair 5), (false, .cmd 0 0x900000)], let s := tKill x.1 x.2 false
    (match s.crew 0, s.launch 0 with
      | some c, some l => c.launch == 0 && c.running && decide c.bands.Nodup && c.bands.all (fun bi => decide (bi < s.bands.length)) &&
          l.image.idempotent == x.1 && decide (l.origin = x.2) && ((s.ctx l.ctx).map (·.eventRing)) == some 0
      | _, _ => false) = true ∧ s.accesses = [] ∧ (s.runningOf 0).bind (·.entry) = some 0x900000 := by decide +kernel

/-- With no access on its way no crew is disturbed. -/
theorem undisturbed_of {s : State} (h : s.accesses = []) (ci : Nat) (c : Crew) : Claims.undisturbed s ci c := by
  intro a ha
  rw [h] at ha
  cases ha

/-- In a range launch that has work, a band with a grain of which part is left. -/
def tGrain : State := upd (tKill true (.repair 5) false) fun b => { b with glo := 4, ghi := 6 }

theorem witness_KilledCrews_grain :
    (match tGrain.crew 0, tGrain.launch 0 with
      | some c, some l => l.image.crews == 0 && !l.noWork && c.bands.all fun bi => decide ((tGrain.band bi).glo.toNat < (tGrain.band bi).ghi.toNat)
      | _, _ => false) = true := by decide +kernel

/-- An idle crew, and one that waits to start again. -/
theorem witness_KilledCrews_idle : ∀ k ∈ [false, true],
    let s : State := { tKill true (.repair 5) true with crews := (tKill true (.repair 5) true).crews.map fun (c : Crew) => { c with killed := k } }
    (match s.crew 0, s.launch 0 with
      | some c, some l => c.launch == 0 && !c.running && c.killed == k && ((s.ctx l.ctx).map (·.eventRing)) == some 0 &&
          decide (l.origin = .repair 5)
      | _, _ => false) = true ∧ s.accesses = [] := by decide +kernel

theorem witness_KilledCrews_relaunch : let s := tKill true (.repair 5) true
    (match s.crew 0, s.launch 0 with
      | some c, some l => c.launch == 0 && c.killed && !c.running && s.launchRuns l && s.diePlaces l.cfg.dieList l.image 0 &&
          !c.kind.isSprout && (s.roomFor 0 l.image).isSome && (s.ctx l.ctx).isSome
      | _, _ => false) = true ∧ 0 ∈ s.dieCores 0 := by decide +kernel

/-- A context that a BKPT has stopped; a stopped quarter with flags whose results are not on their way; invasive halt. -/
def tStopped : State := { t0 2 with ctxs := (t0 2).ctxs.map fun (c : Ctx) => { c with stoppedBy := some 5 } }
def tDrain : State :=
  let s := upd (t0 2) fun b => (b.setBusy 3 .engine).setBusy 4 .matrix
  s.setQuarterAt 0 { s.quarterAt 0 with stopped := true }
def tHalt : State :=
  let s : State := { t0 2 with debug := 2, cur := 0 }
  s.setCore { s.core 0 with dbgctl := 1 }

theorem witness_StopsAndDrains : (((tStopped.ctx 1).bind (·.stoppedBy)).isSome = true ∧ tStopped.bandsIn 1 0 ≠ [] ∧
      (tStopped.quarterAt 0).escalated = false) ∧ ((t0 2).ctx 1).bind (·.stoppedBy) = none ∧ (t0 2).drainReady 0 = false ∧
    (tDrain.drainReady 0 = true ∧ tDrain.pageWaits (dumpId 0) = false ∧ tDrain.stoppedIn 0 = []) ∧
    (tStopped.stoppedIn 0 ≠ [] ∧ (tStopped.quarterAt 0).escalated = false) ∧
    tHalt.cur < tHalt.bands.length ∧ tHalt.debug = 2 ∧ (tHalt.core tHalt.me.core).dbgctl.getLsbD 0 = true ∧
    tHalt.vOf (.bkpt hd 5) ≠ 0 := by decide +kernel

/-- What holds of the bands of a state, and of a blank one, holds of every number. -/
theorem every_band {s : State} {P : Band → Prop} (h : ∀ b ∈ s.bands, P b) (h0 : P .blank) (n : Nat) : P (s.band n) := by
  unfold State.band
  by_cases hn : n < s.bands.length
  · simpa [List.getD, hn] using h _ (List.getElem_mem hn)
  · simpa [List.getD, hn] using h0

theorem witness_StopsAndDrains_bands : ∀ s ∈ [tStopped, tHalt], ∀ b, (s.band b).trapLane = 0 ∧ ∀ l, ((s.band b).lane l).reports = [] := by
  have key : ∀ s ∈ [tStopped, tHalt], ∀ b ∈ s.bands, b.trapLane = 0 ∧ ∀ l, l < 32 → (b.lane l).reports = [] := by decide +kernel
  intro s hs b
  exact every_band (P := fun b => b.trapLane = 0 ∧ ∀ l, (b.lane l).reports = [])
    (fun b hb => ⟨(key s hs b hb).1, every_lane (P := fun l => l.reports = []) (key s hs b hb).2 rfl⟩)
    ⟨rfl, every_lane (b := .blank) (P := fun l => l.reports = []) (by decide +kernel) rfl⟩ b

/-- Refresh of die 0 rests or is under way. -/
def tRefresh (busy : Bool) : State :=
  { t0 2 with cycle := 9000, dies := (t0 2).dies.mapIdx fun i (d : Die) => if i = 0 then { d with refBusy := busy, refNext := 8000 } else d }
/-- Transect and sampling are on, with a record to write, in an array with room for n records; quarter 0 has issued in
this cycle or not. -/
def tTrace (n : Nat) (issued : Bool) : State :=
  let s : State := { t0 2 with cycle := 5000000, mem := ((t0 2).mem.writeLE 0x900080 4 6).writeLE 0x900084 4 8 }
  let s := s.setCore { s.core 0 with trctl := 0xC0A00000, trUsed := 0xC0A00000, trCtx := 1, trbuf := 0x900000, l1ctx := 1 }
  let q := s.quarterAt 0
  s.setQuarterAt 0 { q with owed := [{ q.transect with nrec := n, start := 1000 }], issued := issued, lastIssue := 5000000 }

theorem witness_RefreshAndTrace : ((tRefresh false).die 0).refBusy = false ∧ ((tRefresh false).die 0).refNext ≤ (tRefresh false).cycle ∧
    ((tRefresh true).die 0).refBusy = true ∧ (t0 2).traces 0 = false ∧ ((t0 2).core 0).trUsed.getLsbD 30 = false ∧
    ((t0 2).quarterAt 0).owed = [] := by decide +kernel

theorem witness_RefreshAndTrace_interval : ∀ n ∈ [0, 8], let s := tTrace n false
    s.traces 0 = true ∧ ((s.quarterAt 0).owed.head?.map (·.nrec)) = some n := by decide +kernel

/-- A sample is due in quarter 0, which has issued or may still issue, and in quarter 1, which has no band. -/
theorem witness_RefreshAndTrace_sample : (∀ x ∈ [(true, 0), (false, 0), (false, 1)], let s := tTrace 8 x.1
      (s.core 0).trUsed.getLsbD 30 = true ∧ (s.die 0).parked = false ∧ s.power ≠ .standby ∧
      (s.localClock 0).toNat % 2 ^ bits (s.core 0).trUsed.toNat 16 4 = 0 ∧ (s.quarterAt x.2).transect.sampled ≠ s.cycle + 1 ∧
      ((s.quarterAt x.2).issued && (s.quarterAt x.2).lastIssue == s.cycle) = x.1 ∧
      (s.quarterCandidate 0 x.2).isSome = decide (x.2 = 0) ∧
      (x.1 = false → ∀ g ∈ s.quarterCandidate 0 x.2, g.2.1 ≤ s.cycle)) ∧
    ((tTrace 8 true).residents 0 0).find? (fun i => ((tTrace 8 true).band i).slot == ((tTrace 8 true).quarterAt 0).transect.pointer) = some 0 ∧
    ((tTrace 8 true).core 0).trCtx = (tTrace 8 true).ctxOf ((tTrace 8 true).band 0) := by decide +kernel

theorem witness_RefreshAndTrace_record : let s := tTrace 8 false
    s.trArea 0 = some 0x900000 ∧ (s.core 0).trbuf + BitVec.ofNat 64 (0x100 + 256 * (s.mem.readLE 0x900080 4 % 8)) = 0x900700 ∧
    canonical 0x900700 = true ∧ (∃ r, translate s.mem (s.rootOf (s.core 0).l1ctx) 0x900700 = .ok 0x900700 true true r ∧
      bits (s.mem.readLE r 8) 59 1 = 0) ∧ Claims.ready s 0x900700 256 ∧ Claims.ready s 0x900080 4 ∧
    s.watches = [] ∧ paOk 0x900700 = true ∧ paOk 0x900000 = true ∧ s.mem.readLE 0x900080 4 + 1 < 2 ^ 32 :=
  ⟨by decide +kernel, by decide +kernel, by decide +kernel, ⟨0x13020, by decide +kernel⟩, by unfold Claims.ready; decide +kernel⟩

/-! ## Queues and commands -/

/-- Queue 5 of context 1, and fields of its descriptor: ring at 0x900000 with 64 entries, HEAD 7. -/
def tQueue (st : QState) : Queue := { Queue.create 5 1 with st := st, slot := if st = .mapped then some 3 else none }
def tDescr (s : State) (q tail : Nat) : State :=
  let d := (if q = ctlq then s.boot.ctlq else s.boot.qtab + 64 * q)
  { s with mem := [(d + 8, 4, 64), (d, 8, 0x900000), (d + 0x0C, 4, 7), (d + 0x10, 4, tail), (d + 0x14, 2, 1), (d + 0x18, 8, 0xA00000),
      (d + 0x28, 8, 0xB00000)].foldl (fun m x => m.writeLE x.1 x.2.1 x.2.2) s.mem }

/-- The queue or the control queue with an entry at its head. -/
def tEntry (s : State) (q op fl : Nat) (ps : List Nat) : State :=
  mem (tDescr { s with queues := s.queues ++ [tQueue .mapped] } q 9)
    ([(0x1C0, 1, op), (0x1C1, 1, fl)] ++ ps.zipIdx.map fun p => (0x1C8 + 8 * p.2, 8, p.1))
def tQ (op : Nat) (ps : List Nat) : State := tEntry (t0 2) 5 op 0 ps
def tCtl (op : Nat) (ps : List Nat) : State := tEntry (t0 2) ctlq op 0 ps

/-- The command begins, and its entry has a property. -/
def begun (s : State) (i : Instr) (q : Nat) (f : Entry → Bool) : Bool :=
  match Claims.commandOf i, s.nextEntry q with
  | some c, .entry e => c.1 == q && c.2 e && e.ok && f e && (s.cmdOf q).isNone
  | _, _ => false

theorem begun_of {s : State} {i : Instr} {q : Nat} {f : Entry → Bool} (h : begun s i q f = true) :
    ∃ e, Claims.begins s i q e ∧ f e = true := by
  unfold begun at h
  cases hc : Claims.commandOf i with
  | none => simp [hc] at h
  | some c =>
    obtain ⟨q', tk⟩ := c
    cases hn : s.nextEntry q with
    | none => simp [hc, hn] at h
    | halt a x => simp [hc, hn] at h
    | entry e =>
      simp only [hc, hn, Bool.and_eq_true, beq_iff_eq, Option.isNone_iff_eq_none] at h
      obtain ⟨⟨⟨⟨rfl, h1⟩, h2⟩, h3⟩, h4⟩ := h
      exact ⟨e, ⟨h4, tk, hc, hn, h1, h2⟩, h3⟩

def tBell (q : List Queue) : State := tDescr { t0 2 with queues := q } 5 9

theorem witness_QueueScheduling_bell : ∀ x ∈ [(12, ([] : List Queue)), (7, [tQueue .idle])], let s := tBell x.2
    let d := (s.mem.writeLE (s.boot.qtab + 64 * 5 + 0x10) 4 x.1).readN (s.boot.qtab + 64 * 5) 64
    s.boot.ok = true ∧ s.descOk d = true ∧ ((s.queue 5).all fun x => decide (x.st = .idle) && x.ctx == field d 0x14 2) = true ∧
    s.hostPending = false ∧ s.watches = [] ∧ Claims.ready s (s.boot.qtab + 64 * 5) 64 ∧ s.boot.qtab % 4096 = 0 ∧
    decide (field d 0x0C 4 = x.1) = (x.1 == 7) := by
  unfold Claims.ready
  decide +kernel

theorem witness_QueueScheduling_pending : tHost.hostPending = true ∧ (t0 2).hostPending = false := by decide +kernel

theorem witness_QueueScheduling_slice : let x := tQueue .mapped
    ∀ c ∈ [(0, false), (10 ^ 9, true)], let s : State := { tBell [x] with cycle := c.1 }
    let x := { x with mapped := 1 }
    let s : State := { s with queues := [x] }
    s.queue 5 = some x ∧ x.st = .mapped ∧ x.sliceOver = false ∧ 
    decide (x.mapped + s.sliceOf 5 ≤ (s.localClock 0).toNat + x.used) = c.2 := by
  decide +kernel

theorem witness_QueueScheduling_map : let w := tQueue .waiting
    let s := tBell [w]
    s.nextWaiting = some w ∧ s.queue 5 = some w ∧ s.freeSlots.head? = some 0 ∧ w.saved = [] ∧
    s.watches = [] ∧ Claims.ready s (s.boot.qtab + 64 * 5) 64 ∧ s.boot.qtab % 4096 = 0 := by
  unfold Claims.ready
  decide +kernel

theorem witness_QueueScheduling_heir : let w := tQueue .waiting
    let m : Queue := { Queue.create 6 1 with st := .saved, heir := some 5 }
    let s := tBell [m, w]
    m ∈ s.queues ∧ m.st = .saved ∧ m.heir = some w.id ∧ (∀ x ∈ s.queues, x.heir.isSome = true → x = m) ∧
    s.queue w.id = some w ∧ s.waits w = true := by decide +kernel

/-- Every slot is taken by queues of the same priority, and the slice of one is over. -/
def tCrowd : State := tBell (tQueue .waiting :: (List.range 64).map fun n =>
  { Queue.create (n + 6) 1 with st := .mapped, slot := some n, sliceOver := n == 0 })

theorem witness_QueueScheduling_victim : let w := tQueue .waiting
    let m : Queue := { Queue.create 6 1 with st := .mapped, slot := some 0, sliceOver := true }
    let s : State := { tCrowd with launches := [] }
    s.nextClaimant = some w ∧ s.freeSlots = [] ∧ s.victim w = some m ∧ s.queue m.id = some m ∧
    s.stoppingCrews m.id = [] ∧ s.watches = [] ∧ Claims.ready s (s.boot.qtab + 64 * m.id) 64 := by
  unfold Claims.ready
  refine ⟨?_, ?_, ?_, ?_, ?_, ?_, ?_⟩ <;> decide +kernel

/-- The crew of a launch of that queue runs. -/
theorem witness_QueueScheduling_stops : let m : Queue := { Queue.create 6 1 with st := .mapped, slot := some 0, sliceOver := true }
    let s : State := { tCrowd with launches := tCrowd.launches.map fun (l : Launch) => { l with queue := 6 } }
    s.nextClaimant = some (tQueue .waiting) ∧ s.freeSlots = [] ∧ s.victim (tQueue .waiting) = some m ∧ s.queue m.id = some m ∧
    s.stoppingCrews m.id = [0] ∧ (∀ c ∈ s.crew 0, c.bands = [0]) ∧ (s.band 0).rgnOpen = false ∧ (s.band 0).held = [] ∧
    (s.band 0).trapLane = 0 ∧ (∀ l, l < 32 → ((s.band 0).lane l).reports = []) ∧ (s.band 0).ended = false ∧
    (s.launches.all fun l => match l.origin with
      | .repair _ => false
      | _ => true) = true := by decide +kernel

theorem witness_QueueScheduling_order : let s := tBell [tQueue .waiting]
    (∀ x ∈ s.queues, x.heir = none) ∧ s.nextWaiting = some (tQueue .waiting) ∧ (∀ x ∈ tCrowd.queues, x.heir = none) ∧
    tCrowd.nextClaimant = some (tQueue .waiting) := by decide +kernel

/-- The queue stops, with its crew acknowledged. -/
def tStop : State :=
  let s := tBell [{ tQueue .stopping with stops := [0] }]
  upd { s with launches := s.launches.map fun (l : Launch) => { l with queue := 5 } } fun b => { b with stopped := true }

theorem witness_QueueScheduling_collect : let x := { tQueue .stopping with stops := [0] }
    tStop.queue 5 = some x ∧ tStop.stoppedCrews x = [0] ∧ tStop.repairsEnded 5 = true ∧ tStop.pageWaits (saveId 5) = false ∧
    (tStop.saveQueue x).isOk = true ∧ tStop.accesses = [] ∧ x.saved = [] ∧
    (match tStop.crew 0 with
      | some c => c.bands.all fun bi => tStop.acked bi && (tStop.band bi).absentGran == 0
      | none => false) = true := by decide +kernel

/-- A queue whose save area is a page that is not present. -/
def tStopOut : State := { tStop with
  mem := tStop.mem.writeLE 0x13028 8 eAbsent
  queues := [{ tQueue .stopping with ctx := 1, stops := [0] }] }
theorem witness_QueueScheduling_absent : ∃ x, tStopOut.queue 5 = some x ∧ x.st = .stopping ∧ tStopOut.repairsEnded 5 = true ∧
    (match tStopOut.saveQueue x with
      | .error (.absent _) => true
      | _ => false) = true := ⟨_, Option.eq_some_of_isSome (by decide +kernel), by decide +kernel⟩

/-- No page of an empty memory is absent. -/
theorem witness_QueueScheduling_unmapped (root va : DWord) : Machine.translate [] root va ≠ .absent := by
  have hz : ∀ n a, Memory.readN [] a n = List.replicate n 0 := by
    intro n
    induction n with
    | zero => exact fun _ => rfl
    | succ n ih => exact fun a => by simp [Memory.readN, Memory.read, ih, List.replicate_succ]
  have h : ∀ a, Memory.readLE [] a 8 = 0 := fun a => by rw [Memory.readLE, hz]; decide
  have hp : pteTable 0 = .unmapped := by decide
  unfold Machine.translate walkFrom
  simp [entryAt, h, hp]

/-- Where nothing is to be done, or an entry breaks a general rule or names no command. -/
theorem witness_CommandProtocol : (tEntry (t0 2) 5 0 0 []).boot.ok = true ∧
    (∀ i ∈ [Instr.launch 5, .ctxsetDn 5, .poolset], (Claims.commandOf i).isSome = true) ∧
    (tDescr (tQ 0 []) 5 7).nextEntry 5 = .none ∧ (tQ 0 []).cmdOf 5 = none ∧ (tEntry (t0 2) 5 6 1 [64]).cmdOf 5 = none ∧
    (let s : State := { tQ 1 [] with cmds := [{ id := 9, queue := 5, op := 1, params := [] }],
                                     faults := [{ tRecord .fetch true with kind := .engine 9, id := 4 }] }
     (s.cmdOf 5).map (·.id) = some 9 ∧ s.pageWaits 9 = true) ∧
    (match (tEntry (t0 2) 5 6 1 [64]).nextEntry 5 with
      | .entry e => e.op == 6 && !e.ok
      | _ => false) = true ∧
    (match (tQ 99 []).nextEntry 5 with
      | .entry e => !opKnown 5 e.op
      | _ => false) = true ∧
    (match ({ tQ 0 [] with mem := (tQ 0 []).mem.writeLE 0x100140 8 0x40000000 } : State).nextEntry 5 with
      | .halt _ (.trap _ _) => true
      | _ => false) = true := by decide +kernel

theorem witness_CommandProtocol_nop : let s := tQ 0 []
    let m := s.mem.writeLE (s.boot.qtab + 64 * 5 + 0x0C) 4 (s.qfield 5 0x0C 4 + 1)
    (match s.nextEntry 5 with
      | .entry e => e.op == 0 && e.ok && unusedZero e.ps [] && !e.event && e.at_ == 0x9001C0
      | _ => false) = true ∧ s.runningOf 5 = none ∧ s.cmdOf 5 = none ∧ (s.queue 5).isSome = true ∧ s.qfield 5 0x0C 4 + 1 < 2 ^ 32 ∧
    (∃ x, translate m (s.rootOf (s.queueCtx 5)) (0x9001C0 + 2) = .ok 0x9001C2 true true x ∧ bits (m.readLE x 8) 59 1 = 0) ∧
    s.watches = [] ∧ Claims.ready s 0x9001C2 2 ∧ Claims.ready s (s.boot.qtab + 64 * 5) 64 ∧ s.boot.qtab + 64 * 5 + 64 ≤ 0x9001C2 :=
  ⟨by decide +kernel, by decide +kernel, by decide +kernel, by decide +kernel, by decide +kernel, ⟨0x13020, by decide +kernel⟩,
    by unfold Claims.ready; decide +kernel⟩

/-- Between two entries of a GRAPH. -/
def tRun : Running := { entry := none, op := 2, event := false, params := [], graph := none }
def tGoes (r : Running) (op : Nat) (ps : List Nat) : State :=
  { tQ op ps with queues := (tQ op ps).queues.map fun (x : Queue) => if x.id = 5 then { x with running := some r } else x }

theorem witness_CommandProtocol_graph : ∀ d ∈ [0, 2], let r : Running := { tRun with graph := some { entry := 0x900000, event := false, base := 0x9001C0 - BitVec.ofNat 64 (64 * d), done := d, n := 3 } }
    (match (tGoes r 0 []).nextEntry 5 with
      | .entry e => e.op == 0 && e.ok && unusedZero e.ps [] && !e.event
      | _ => false) = true ∧ (tGoes r 0 []).runningOf 5 = some r ∧ (tGoes r 0 []).cmdOf 5 = none := by decide +kernel

/-- A launch descriptor in the page of data with its image, of `crews` crews. -/
def tLd (crews scratch : Nat) : State :=
  mem (tQ 1 [0x900800]) [(0x800, 8, 0x900400), (0x810, 8, 100), (0x818, 4, 10), (0x400, 4, 0x4A4C4B31), (0x404, 2, 1), (0x406, 2, if crews = 0 then 0 else 2), (0x408, 1, 1),
    (0x409, 1, 1), (0x40A, 1, 1), (0x40C, 2, crews), (0x410, 4, scratch), (0x82C, 2, 1), (0x414, 4, 16), (0x418, 8, 0x40)]

/-- What a LAUNCH reads has a property. -/
def reads (s : State) (e : Entry) (f : LaunchReq → State → Bool) : Bool :=
  let s1 := s.startEntry 5 e
  okAnd (s1.launchReq (s1.queueCtx 5) e.ps) fun r => match r with
    | some r => okAnd (s1.installShapes (s1.queueCtx 5) r.info.image.addr r.info.shapes) fun x => okAnd x (f r)
    | none => false

theorem witness_Launches : ∃ e, Claims.begins (tLd 0 0) (.launch 5) 5 e ∧ ((prm e.ps 0).toNat % 64 == 0 && reads (tLd 0 0) e fun r s2 =>
    (((tLd 0 0).startEntry 5 e).queue 5).isSome && s2.cmds.isEmpty && r.info.image.crews == 0) = true := begun_of (by decide +kernel)

def tBadLd : State := mem (tQ 1 [0x900800]) [(0x82B, 1, 1)]

theorem witness_Launches_invalid : ∃ e, Claims.begins tBadLd (.launch 5) 5 e ∧
    ((tBadLd.startEntry 5 e).launchReq ((tBadLd.startEntry 5 e).queueCtx 5) e.ps == .ok none) = true := begun_of (by decide +kernel)

theorem witness_Launches_resident : ∀ x ∈ [(0, true), (0x100000, false)], ∃ e, Claims.begins (tLd 2 x.1) (.launch 5) 5 e ∧
    ((prm e.ps 0).toNat % 64 == 0 && reads (tLd 2 x.1) e fun r s2 => r.info.image.crews != 0 &&
      (let b := s2.beginLaunch r 1 5 (.cmd 5 e.at_) none; b.2.placeable b.1 == x.2)) = true := by
  intro x hx
  simp only [List.mem_cons, List.not_mem_nil, or_false] at hx
  rcases hx with rfl | rfl <;> exact begun_of (by decide +kernel)

/-- A launch of queue 5 that is over, or not. -/
def tOver (run : Bool) : State :=
  let s := tGoes { entry := some 0x9001C0, op := 1, event := false, params := [], graph := none } 1 []
  { s with launches := [{ Launch.blank 1 (Image.blank 0x800004) with origin := .cmd 5 0x9001C0, queue := 5 }]
           crews := s.crews.map fun (c : Crew) => { c with running := run } }

theorem witness_Launches_end : ∀ r ∈ [true, false], (tOver r).launchOver 0 = !r ∧ (tOver r).served 5 = true ∧
    ((tOver r).runningOf 5).bind (·.entry) = some 0x9001C0 ∧ ((tOver r).launch 0).map (·.origin) = some (.cmd 5 0x9001C0) := by decide +kernel

/-- The context of the queue with a reduction group of two members and a partition. -/
def tRed : RedGroup := { group := 3, members := [0, 1], op := 1, fmt := 3, count := 2, wexp := 0 }
def inCtx (s : State) : State :=
  { s with ctxs := s.ctxs.map fun (c : Ctx) => { c with reds := [tRed], wsLen := 2 ^ 20, rings := [tRing] } }

theorem witness_CommandsThatGoOn :
    (∃ e, Claims.begins (tQ 4 [0x900800, 77]) (.waitv 5) 5 e ∧ (unusedZero e.ps [0, 1] && (prm e.ps 0).toNat % 4 == 0) = true) ∧
    (∃ e, Claims.begins (tQ 4 [0x900802, 77]) (.waitv 5) 5 e ∧ (prm e.ps 0).toNat % 4 ≠ 0) ∧
    (∃ e, Claims.begins (tQ 6 [0x900900, 0x900000, 64]) (.copy 5) 5 e ∧ unusedZero e.ps [0, 1, 2] = true) ∧
    (∃ e, Claims.begins (tQ 6 [0, 0, 0, 1]) (.copy 5) 5 e ∧ unusedZero e.ps [0, 1, 2] = false) := by
  refine ⟨begun_of (by decide +kernel), ?_, begun_of (by decide +kernel), ?_⟩
  · obtain ⟨e, h, hf⟩ := begun_of (s := tQ 4 [0x900802, 77]) (i := .waitv 5) (q := 5) (f := fun e => (prm e.ps 0).toNat % 4 != 0) (by decide +kernel)
    exact ⟨e, h, by simpa using hf⟩
  · obtain ⟨e, h, hf⟩ := begun_of (s := tQ 6 [0, 0, 0, 1]) (i := .copy 5) (q := 5) (f := fun e => !unusedZero e.ps [0, 1, 2]) (by decide +kernel)
    exact ⟨e, h, by simpa using hf⟩

theorem witness_CommandsThatGoOn_more :
    (∃ e, Claims.begins (inCtx (tQ 7 [0x900000, 256, 256, 1])) (.wsload 5) 5 e ∧ (unusedZero e.ps [0, 1, 2, 3] && (prm e.ps 1).toNat % 256 == 0 &&
      (prm e.ps 2).toNat % 256 == 0 && decide ((prm e.ps 1).toNat + (prm e.ps 2).toNat ≤ 2 ^ 20)) = true) ∧
    (∃ e, Claims.begins (inCtx (tQ 7 [0x900000, 256, 2 ^ 20, 1])) (.wsload 5) 5 e ∧
      decide (2 ^ 20 < (prm e.ps 1).toNat + (prm e.ps 2).toNat) = true) ∧
    (∃ e, Claims.begins (inCtx (tQ 10 [3, 0x900000, 0x900100, 0x900200])) (.coll 5) 5 e ∧
      ([tRed].any (fun g => g.group == (prm e.ps 0).toNat % 256) && unusedZero e.ps [0, 1, 2, 3] && (prm e.ps 3).toNat % 8 == 0) = true) ∧
    (∃ e, Claims.begins (inCtx (tQ 10 [4])) (.coll 5) 5 e ∧ ([tRed].all fun g => g.group != (prm e.ps 0).toNat % 256) = true) ∧
    (∃ e, Claims.begins (tQ 2 [0x900900, 3]) (.graph 5) 5 e ∧ (((tQ 2 [0x900900, 3]).queue 5).isSome && ((tQ 2 [0x900900, 3]).runningOf 5).isNone &&
      unusedZero e.ps [0, 1] && (prm e.ps 0).toNat % 64 == 0 && decide (1 ≤ (prm e.ps 1).toNat) && decide ((prm e.ps 1).toNat ≤ 65536)) = true) :=
  ⟨begun_of (by decide +kernel), begun_of (by decide +kernel), begun_of (by decide +kernel), begun_of (by decide +kernel),
    begun_of (by decide +kernel)⟩

theorem witness_CommandsThatGoOn_nested : let r : Running := { tRun with graph := some { entry := 0x900000, event := false, base := 0x9001C0, done := 0, n := 3 } }
    ∃ e, Claims.begins (tGoes r 2 [0x900900, 3]) (.graph 5) 5 e ∧ (decide ((tGoes r 2 [0x900900, 3]).runningOf 5 = some r)) = true :=
  begun_of (by decide +kernel)

/-- Members of a group at 0x900800; a header of a ring at 0x20000. -/
def tMembers (m : Nat) : State := mem (inCtx (tQ 9 [3, 0x900800, 2 + 2 ^ 32 + 3 * 2 ^ 36 + 2 ^ 40, 0])) [(0x804, 4, m)]
def tHeader : State := let s := inCtx (tQ 8 [0x300, 0x20000]); { s with mem := s.mem.writeLE 0x20008 4 16 }

theorem witness_CommandsAtOnce :
    (∃ e, Claims.begins (tQ 3 [4, 77]) (.gpset 5) 5 e ∧ ((((tQ 3 [4, 77]).startEntry 5 e).queue 5).isSome && unusedZero e.ps [0, 1]) = true) ∧
    (∃ e, Claims.begins (tQ 5 [0x900800, 77]) (.writev 5) 5 e ∧ (unusedZero e.ps [0, 1] && (prm e.ps 0).toNat % 4 == 0 &&
      (let s1 := (tQ 5 [0x900800, 77]).startEntry 5 e
       (s1.ctxWrite (s1.cmdWriter 5) (prm e.ps 0) (leBytes ((prm e.ps 1).toNat % 2 ^ 32) 4)).isOk)) = true) ∧
    (∃ e, Claims.begins (tQ 5 [0x40000000, 77]) (.writev 5) 5 e ∧ (unusedZero e.ps [0, 1] && (prm e.ps 0).toNat % 4 == 0 &&
      (let s1 := (tQ 5 [0x40000000, 77]).startEntry 5 e
       match s1.ctxWrite (s1.cmdWriter 5) (prm e.ps 0) (leBytes ((prm e.ps 1).toNat % 2 ^ 32) 4) with
        | .error (.trap _ _) => true
        | _ => false)) = true) ∧
    (∃ e, Claims.begins tHeader (.ringreg 5) 5 e ∧ (unusedZero e.ps [0, 1] && decide ((prm e.ps 0).toNat % 16 < 9) &&
      (prm e.ps 1).toNat % 32 == 0 && (prm e.ps 1).toNat != 0 &&
      ringHeaderOk (tHeader.startEntry 5 e).mem ((prm e.ps 0).toNat % 16 * 2 ^ 48 + (prm e.ps 1).toNat)) = true) :=
  ⟨begun_of (by decide +kernel), begun_of (by decide +kernel), begun_of (by decide +kernel), begun_of (by decide +kernel)⟩

/-- A ring is removed, with an entry on its way to it or none. -/
def tRemove (ms : List ReqMsg) : State := { inCtx (tQ 8 [0x300, 0]) with reqs := ms, nextId := 20 }

theorem witness_CommandsAtOnce_remove : ∀ ms ∈ [[], [tMsg tDesc 3 none]], ∃ e, Claims.begins (tRemove ms) (.ringreg 5) 5 e ∧
    (unusedZero e.ps [0, 1] && decide ((prm e.ps 0).toNat % 16 < 9) && (prm e.ps 1).toNat == 0 && (((tRemove ms).startEntry 5 e).reqs == ms) &&
      ms.all fun m => m.ctx == (tRemove ms).queueCtx 5 && m.flag != 15 && m.result.isNone && reqNode m.desc == (tRemove ms).boot.node &&
        reqDie m.desc == (prm e.ps 0).toNat % 16 && reqRing m.desc == (prm e.ps 0).toNat / 256 % 256) = true := by
  intro ms h
  simp only [List.mem_cons, List.not_mem_nil, or_false] at h
  rcases h with rfl | rfl <;> exact begun_of (by decide +kernel)

theorem witness_CommandsAtOnce_group : ∀ x ∈ [(5, true), (786432, false)], ∃ e, Claims.begins (tMembers x.1) (.redset 5) 5 e ∧
    (unusedZero e.ps [0, 1, 2, 3] && redOk ((prm e.ps 2).toNat / 2 ^ 32 % 8) ((prm e.ps 2).toNat / 2 ^ 36 % 8) &&
      (prm e.ps 2).toNat % 2 ^ 32 == 2 && (prm e.ps 2).toNat / 2 ^ 32 % 8 != 0 && prm e.ps 3 == 0 &&
      okAnd (((tMembers x.1).startEntry 5 e).ctxRead ((tMembers x.1).queueCtx 5) (prm e.ps 1) 8) fun v =>
        ((List.range 2).all fun i => decide (field v (4 * i) 4 < 786432)) == x.2) = true := by
  intro x hx
  simp only [List.mem_cons, List.not_mem_nil, or_false] at hx
  rcases hx with rfl | rfl <;> exact begun_of (by decide +kernel)

/-- A command under way with its parameters. -/
def tUnder (op : Nat) (ps : List DWord) : State :=
  inCtx (tGoes { entry := some 0x9001C0, op := op, event := false, params := ps, graph := none } op [])

theorem witness_CommandsThatEnd :
    (∀ v ∈ [0, 1], (tUnder 4 [0x900800, BitVec.ofNat 64 v]).under 5 4 = some [0x900800, BitVec.ofNat 64 v] ∧
      (tUnder 4 [0x900800, BitVec.ofNat 64 v]).cmdRead 5 0x900800 4 = .ok [0, 0, 0, 0]) ∧
    (let s := tUnder 6 [0x900900, 0x9001C0, 16]
     s.under 5 6 = some [0x900900, 0x9001C0, 16] ∧ (okAnd (s.ctxRead (s.queueCtx 5) 0x9001C0 16) fun v =>
      (State.ctxWrite { s with free := s.free + 1 } (s.cmdWriter 5) 0x900900 v).isOk) = true) ∧
    (let s := tUnder 6 [0x900900, 0x40000000, 16]
     (match s.ctxRead (s.queueCtx 5) 0x40000000 16 with
      | .error (.trap _ _) => true
      | _ => false) = true) ∧
    (let s := tUnder 7 [0x900800, 256, 16, 1]
     s.under 5 7 = some [0x900800, 256, 16, 1] ∧ s.wsClosed 0 = true ∧ (s.ctxRead (s.queueCtx 5) 0x900800 16).isOk = true ∧
      ((s.ctx (s.queueCtx 5)).map (·.wsBase)) = some 0) ∧
    (upd (tUnder 7 [0x900800, 256, 16, 1]) fun b => { b with segWs := 2 ^ 63 }).wsClosed 0 = false ∧
    (let s := tUnder 10 [3, 0x900800, 0x900900, 0x900A00]
     s.under 5 10 = some [3, 0x900800, 0x900900, 0x900A00] ∧ s.redOf 5 [3, 0x900800, 0x900900, 0x900A00] = some tRed ∧ tRed.size * tRed.count = 8 ∧
      ([] : List (List Byte)).length + 1 ≠ tRed.members.length ∧
      (okAnd (s.ctxRead (s.queueCtx 5) 0x900800 8) fun v => okAnd (s.ctxWrite (s.cmdWriter 5) 0x900900 (tRed.result [v, List.replicate 8 1]).1)
        fun s1 => (s1.ctxWrite (s.cmdWriter 5) 0x900A00 (leBytes (tRed.result [v, List.replicate 8 1]).2 8)).isOk) = true) := by decide +kernel

-- R434: ISUM adds without rounding and saturates once
theorem test_isum : tRed.result [leBytes 0x7FFFFFFF 4 ++ leBytes 5 4, leBytes 0x7FFFFFFF 4 ++ leBytes 0xFFFFFFFF 4, leBytes 0x80000000 4 ++ leBytes 1 4] =
    (leBytes 0x7FFFFFFE 4 ++ leBytes 5 4, 0) := by decide +kernel

theorem witness_ContextItems : ∀ x ∈ [(0, 0x8000000000800004, Instr.ctxsetTvec 5), (0, 3, .ctxsetTvec 5), (2, 0x901000, .ctxsetDbase 5),
      (3, 65536, .ctxsetDslot 5), (4, 4096, .ctxsetDn 5), (4, 4097, .ctxsetDn 5), (5, 9, .ctxsetLogmax 5), (6, 0x901000, .ctxsetEventRing 5)],
    ∃ e, Claims.begins (tQ 11 [x.1, x.2.1]) x.2.2 5 e ∧ unusedZero e.ps [0, 1] = true := by
  intro x hx
  simp only [List.mem_cons, List.not_mem_nil, or_false] at hx
  rcases hx with rfl | rfl | rfl | rfl | rfl | rfl | rfl | rfl <;> exact begun_of (by decide +kernel)

theorem witness_ContextItems_default : ∀ x ∈ [(0, true), (0xFF, false)], ∃ e, Claims.begins (mem (tQ 11 [7, 0x900800]) [(0x82B, 1, x.1)]) (.ctxsetDefaultLaunch 5) 5 e ∧
    (unusedZero e.ps [0, 1] && (prm e.ps 1).toNat % 64 == 0 && okAnd (((mem (tQ 11 [7, 0x900800]) [(0x82B, 1, x.1)]).startEntry 5 e).ctxRead 1 (prm e.ps 1) 128)
      fun d => (cfgOf d).isSome == x.2) = true := by
  intro x hx
  simp only [List.mem_cons, List.not_mem_nil, or_false] at hx
  rcases hx with rfl | rfl <;> exact begun_of (by decide +kernel)

theorem witness_ContextItems_quota : (∃ e, Claims.begins (tQ 11 [1, 1000, 5]) (.ctxsetBalq 5) 5 e ∧
      (unusedZero e.ps [0, 1, 2] && decide ((prm e.ps 1).toNat < 2 ^ 32)) = true) ∧
    ∀ d d', d < 9 → d' < 9 → d ≠ d' → (tQ 11 [1, 1000, 5]).acctAt d 1 + 8 ≤ (tQ 11 [1, 1000, 5]).acctAt d' 1 + 4 ∨
      (tQ 11 [1, 1000, 5]).acctAt d' 1 + 8 ≤ (tQ 11 [1, 1000, 5]).acctAt d 1 + 4 := by
  refine ⟨begun_of (by decide +kernel), ?_⟩
  have h : ∀ d, d < 9 → ∀ d', d' < 9 → d ≠ d' → (tQ 11 [1, 1000, 5]).acctAt d 1 + 8 ≤ (tQ 11 [1, 1000, 5]).acctAt d' 1 + 4 ∨
      (tQ 11 [1, 1000, 5]).acctAt d' 1 + 8 ≤ (tQ 11 [1, 1000, 5]).acctAt d 1 + 4 := by decide +kernel
  exact fun d d' hd hd' => h d hd d' hd'

/-! ## The control queue, power and reset -/

/-- A command of the control queue that can go on begins, and its entry has a property. -/
def begunCtl (s : State) (op : Nat) (f : Entry → Bool) : Bool :=
  match s.nextEntry ctlq with
  | .entry e => (s.ctlUnder op).isNone && (s.cmdOf ctlq).isNone && e.op == op && e.ok && f e
  | _ => false

theorem begunCtl_of {s : State} {op : Nat} {f : Entry → Bool} (h : begunCtl s op f = true) :
    ∃ e, Claims.beginsControl s op e ∧ f e = true := by
  unfold begunCtl at h
  cases hn : s.nextEntry ctlq with
  | none => simp [hn] at h
  | halt a x => simp [hn] at h
  | entry e =>
    simp only [hn, Bool.and_eq_true, beq_iff_eq, Option.isNone_iff_eq_none] at h
    exact ⟨e, ⟨h.1.1.1.1, h.1.1.1.2, hn, h.1.1.2, h.1.2⟩, h.2⟩

/-- Invasive halt is granted. -/
def inv (s : State) : State := { s with debug := 2 }

theorem witness_ContextCommands :
    (∃ e, Claims.begins (tCtl 0x40 [1]) .ctxnew ctlq e ∧ ((tCtl 0x40 [1]).ctx ((prm e.ps 0).toNat % 4096)).isSome = true) ∧
    (∃ e, Claims.begins (tCtl 0x40 [2, 0x10000, 0x20000, 2 ^ 52, 100, 1]) .ctxnew ctlq e ∧
      ((tCtl 0x40 [2, 0x10000, 0x20000, 2 ^ 52, 100, 1]).startEntry ctlq e).ctxnewOk e.ps = true) ∧
    (∃ e, Claims.beginsControl (tCtl 0x41 [2]) 0x41 e ∧ ((tCtl 0x41 [2]).ctx ((prm e.ps 0).toNat % 4096)).isNone = true) ∧
    (∃ e, Claims.beginsControl (tCtl 0x41 [1]) 0x41 e ∧ (unusedZero e.ps [0] && ((tCtl 0x41 [1]).ctx ((prm e.ps 0).toNat % 4096)).isSome &&
      !(tCtl 0x41 [1]).queuesRest 1) = true) ∧
    (∃ e, Claims.beginsControl { tCtl 0x41 [1] with queues := [] } 0x41 e ∧ (unusedZero e.ps [0] && (prm e.ps 0).toNat % 4096 == 1 &&
      State.queuesRest { tCtl 0x41 [1] with queues := [] } 1 && (tCtl 0x41 [1]).watches.isEmpty) = true) ∧
    (∃ e, Claims.begins (tCtl 0x42 [1, 0x900800, 1]) .acct ctlq e ∧ (((tCtl 0x42 [1, 0x900800, 1]).ctx ((prm e.ps 0).toNat % 4096)).isSome &&
      unusedZero e.ps [0, 1, 2] && decide ((prm e.ps 1).toNat < 2 ^ 52) && paOk (prm e.ps 1).toNat && (prm e.ps 2).getLsbD 0 &&
      (((tCtl 0x42 [1, 0x900800, 1]).startEntry ctlq e).write (cpWriter 0 0 false) (prm e.ps 1).toNat
        ((List.range 9).map fun d => ((tCtl 0x42 [1, 0x900800, 1]).startEntry ctlq e).mem.readN ((tCtl 0x42 [1, 0x900800, 1]).acctAt d 1) 16).flatten).isSome)
      = true) ∧
    (∃ e, Claims.begins (tCtl 0x43 [5, 100]) .poolset ctlq e ∧ unusedZero e.ps [0, 1] = true) :=
  ⟨begun_of (by decide +kernel), begun_of (by decide +kernel), begunCtl_of (by decide +kernel), begunCtl_of (by decide +kernel),
    begunCtl_of (by decide +kernel), begun_of (by decide +kernel), begun_of (by decide +kernel)⟩

theorem witness_ContextCommands_accounts : ∀ d d', d < 9 → d' < 9 → d ≠ d' →
    (tCtl 0x40 []).acctAt d 2 + 16 ≤ (tCtl 0x40 []).acctAt d' 2 ∨ (tCtl 0x40 []).acctAt d' 2 + 16 ≤ (tCtl 0x40 []).acctAt d 2 := by
  have h : ∀ d, d < 9 → ∀ d', d' < 9 → d ≠ d' → (tCtl 0x40 []).acctAt d 2 + 16 ≤ (tCtl 0x40 []).acctAt d' 2 ∨
      (tCtl 0x40 []).acctAt d' 2 + 16 ≤ (tCtl 0x40 []).acctAt d 2 := by decide +kernel
  exact fun d d' hd hd' => h d hd d' hd'

/-- The quarter of the band has stopped, and drained or not. -/
def tHeld (op : Nat) (ps : List Nat) (drained : Bool) : State :=
  let s := inv (tCtl op ps)
  s.setQuarterAt 0 { s.quarterAt 0 with stopped := true, drained := drained }

theorem witness_DebugCommands :
    (∀ op ∈ [0x44, 0x45, 0x46], ∃ e, Claims.beginsControl (tCtl op [1]) op e ∧ (tCtl op [1]).debug ≠ 2) ∧
    (∃ e, Claims.beginsControl (inv (tCtl 0x44 [1])) 0x44 e ∧ (((inv (tCtl 0x44 [1])).ctx ((prm e.ps 0).toNat % 4096)).isSome && unusedZero e.ps [0] &&
      decide ((inv (tCtl 0x44 [1])).power ≠ .standby)) = true) ∧
    (∀ d ∈ [true, false], ∃ e, Claims.beginsControl (tHeld 0x45 [1, 1] d) 0x45 e ∧ (unusedZero e.ps [0, 1] && (prm e.ps 0).toNat % 4096 == 1 &&
      decide ((tHeld 0x45 [1, 1] d).haltedQuarters 1 = [0]) && ((tHeld 0x45 [1, 1] d).quarterAt 0).drained == d) = true) ∧
    (∀ d ∈ [true, false], ∃ e, Claims.beginsControl (tHeld 0x46 [1] d) 0x46 e ∧ (unusedZero e.ps [0] &&
      decide ((tHeld 0x46 [1] d).haltedQuarters ((prm e.ps 0).toNat % 4096) = [0]) && ((tHeld 0x46 [1] d).quarterAt 0).drained == d &&
      !((tHeld 0x46 [1] d).startEntry ctlq e).pageWaits (dumpId 0) && (tHeld 0x46 [1] d).dumps.isEmpty &&
      (match ((tHeld 0x46 [1] d).startEntry ctlq e).dumpAll 1 [0] with
        | .done _ n => n == 1
        | _ => false)) = true) := by
  refine ⟨?_, begunCtl_of (by decide +kernel), ?_, ?_⟩
  · intro op h
    simp only [List.mem_cons, List.not_mem_nil, or_false] at h
    have hd : ∀ op, (tCtl op [1]).debug ≠ 2 := by intro op; simp [tCtl, tEntry, mem, tDescr]; decide +kernel
    rcases h with rfl | rfl | rfl <;>
      exact (begunCtl_of (f := fun _ => true) (by decide +kernel)).imp fun e h => ⟨h.1, hd _⟩
  · intro d h
    simp only [List.mem_cons, List.not_mem_nil, or_false] at h
    rcases h with rfl | rfl <;> exact begunCtl_of (by decide +kernel)
  · intro d h
    simp only [List.mem_cons, List.not_mem_nil, or_false] at h
    rcases h with rfl | rfl <;> exact begunCtl_of (by decide +kernel)

/-- A dump whose place may not be written. -/
def tLost : State :=
  let s := tHeld 0x46 [1] true
  { s with mem := s.mem.writeLE 0x13028 8 (2 ^ 63 + 2 ^ 62 + 2 ^ 60 + 2 ^ 56 + 0xA00000)
           ctxs := s.ctxs.map fun (c : Ctx) => { c with dbase := 0xA00000, dslot := 65536, dn := 1 } }

theorem witness_DebugCommands_fault : ∃ e, Claims.beginsControl tLost 0x46 e ∧ (unusedZero e.ps [0] &&
    decide (tLost.haltedQuarters ((prm e.ps 0).toNat % 4096) = [0]) &&
    (match (tLost.startEntry ctlq e).dumpAll 1 [0] with
      | .halt _ (.trap c _) => c == 0x1B
      | _ => false)) = true := begunCtl_of (by decide +kernel)

/-- A drained quarter of a crew that lives, with the DBGSET of a register. -/
theorem witness_DebugCommands_held : ∀ x ∈ [(false, true), (true, false)], ((tHeld 0x44 [1] x.1).quartersOf 1 = [0] ∧
    ((tHeld 0x44 [1] x.1).quarterAt 0).drained = x.1) ∧
    (let s : State := { tHeld 0x44 [1] x.1 with ctlRunning := some { entry := some 0x9001C0, op := 0x44, event := false, params := [1], graph := none } }
     s.ctlUnder 0x44 = some [1] ∧ s.quartersOf 1 = [0]) := by decide +kernel

def tDbg (sec : Security) (reg : Nat) : State := { inv (tCtl 0x47 [1, 0, reg, 1]) with security := sec }

theorem witness_DebugCommands_set : ∀ x ∈ [(Security.locked, 0x207), (.authorized, 0x20B)], ∃ e, Claims.begins (tDbg x.1 x.2) .dbgset ctlq e ∧
    (prm e.ps 0 == 1 && prm e.ps 1 == 0 && prm e.ps 2 == BitVec.ofNat 64 x.2 && unusedZero e.ps [0, 1, 2, 3]) = true := by
  intro x h
  simp only [List.mem_cons, List.not_mem_nil, or_false] at h
  rcases h with rfl | rfl <;> exact begun_of (by decide +kernel)

/-- A POWER command under way; a die that is to park. -/
def tPower (ps : List DWord) : State :=
  { tCtl 0x48 [] with ctlRunning := some { entry := some 0x9001C0, op := 0x48, event := false, params := ps, graph := none } }
def tPark (run : Bool) : State :=
  let s := tPower [2, 1]
  { s with dies := s.dies.mapIdx fun i (d : Die) => if i = 0 then { d with parkReq := true } else d
           crews := s.crews.map fun (c : Crew) => { c with running := run } }

theorem witness_PowerAndReset : (∀ x ∈ [(0, Instr.powerActive), (1, .powerReducedClock), (2, .powerDiePark), (3, .powerStandby)],
      ∃ e, Claims.begins (tCtl 0x48 [x.1]) x.2 ctlq e ∧ (unusedZero e.ps [0] && !(tCtl 0x48 [x.1]).anyHalted) = true) ∧
    (∃ e, Claims.begins (tHeld 0x48 [3] true) .powerStandby ctlq e ∧ (unusedZero e.ps [0] && (tHeld 0x48 [3] true).anyHalted) = true) ∧
    ((t0 2).die 0).parkReq = false ∧ (((tPark false).die 0).parkReq = true ∧ (∀ c ∈ (tPark false).crews, c.running = true → c.core / 256 ≠ 0) ∧
      (∀ c ∈ (tPark false).links, c.die ≠ 0) ∧ (tPark false).powerUnder 2 = some [2, 1]) ∧
    (∃ c ∈ (tPark true).crews, c.running = true ∧ c.core / 256 = 0) := by
  refine ⟨?_, begun_of (by decide +kernel), by decide +kernel⟩
  intro x h
  simp only [List.mem_cons, List.not_mem_nil, or_false] at h
  rcases h with rfl | rfl | rfl | rfl <;> exact begun_of (by decide +kernel)

theorem witness_PowerAndReset_standby : (tPower [3]).powerUnder 3 = some [3] ∧ (∃ x ∈ (tPower [3]).queues, x.st ≠ .idle ∧ x.st ≠ .saved) ∧
    State.powerUnder { tPower [3] with queues := [tQueue .saved] } 3 = some [3] ∧ (tPower [3]).sprouts = [] ∧
    (t0 2).mem.wf = true ∧ (t0 2).security ≠ .authorized := by decide +kernel

/-! ## The management channel, the host and failures -/

/-- After a negotiation. -/
def tSpdm : State := { State.reset with heart := { State.reset.heart with version := true, caps := true, algs := true } }

theorem witness_SpdmRequests : tSpdm.negotiated = true ∧ tSpdm.heart.version = true ∧ tSpdm.heart.caps = true ∧
    State.reset.negotiated = false ∧ State.reset.heart.version = false ∧ field [0x13, 0xE0, 1, 5] 2 1 % 2 = 1 ∧
    field [0x13, 0xE0, 0, 5] 2 1 % 2 = 0 := by decide +kernel

theorem witness_DebugTokens : (List.replicate 16 (7 : Byte)).length = 16 ∧ (List.replicate 160 (7 : Byte)).length = 160 := by simp

theorem witness_HostAndFailures : paOk ((0x900000 : DWord).toNat % 2 ^ 52) = true ∧ (t0 2).watches = [] ∧
    Claims.ready (t0 2) 0x900000 4 ∧ (t0 2).ringsBell 0 0x900000 [1, 2, 3, 4] = false ∧
    (∀ e ∈ (t0 2).ptesOver 0x900000 4, bits ((t0 2).mem.readLE e 8) 59 1 = 0) ∧
    (t0 2).ringsBell 0 (BitVec.ofNat 64 ((t0 2).boot.ctlq + 0x10)) [1, 2, 3, 4] = true ∧ tHost.hostPending = true ∧
    tHost.ringsBell 0 (BitVec.ofNat 64 (tHost.boot.ctlq + 0x10)) [1] = true ∧ (t0 2).hostPending = false ∧
    ((t0 2).ctxRead 1 0x900000 4).isOk = true ∧ ((t0 2).ctxWrite (hostWriter 1) 0x900000 [1, 2]).isOk = true ∧
    paOk ((0x9000000000000 : DWord).toNat % 2 ^ 52) = false := by
  unfold Claims.ready
  refine ⟨?_, ?_, ?_, ?_, ?_, ?_, ?_⟩
  case refine_5 => unfold State.ptesOver; simp only [ptesAt_fast]; decide +kernel
  all_goals decide +kernel

/-- Boundary 0 has failed as often as it may, with an access that crosses it. -/
def tFlits (n : Nat) : State := { t0 2 with boundaries := [(0, { replays := n, failed := false })] }

theorem witness_HostAndFailures_boundary : ((tFlits 16).boundary 0).replays < 17 ∧ ((tFlits 16).boundary 0).failed = false ∧
    17 ≤ ((tFlits 17).boundary 0).replays ∧ (∀ c ∈ (tFlits 17).ctxs, c.eventRing = 0) ∧
    ((tFlits 17).ctx 1).any (fun c => c.id == 1 && c.eventRing == 0) = true ∧ 5 ∉ (tFlits 17).failedPorts ∧ 1 ∉ (tFlits 17).remote ∧
    24 ≤ 30 := by decide +kernel

/-! ## Encoding and steps -/

theorem witness_EncodingRoundTrip : (Instr.cmpi hd .lt 1 2 (-1)).wf = true ∧ encode (.cmpi hd .lt 1 2 (-1)) = some (0x3B2505FF, none) ∧
    decode 0x3B2505FF none = .ok (.cmpi hd .lt 1 2 (-1)) := by decide +kernel

/-- A step at a word, by the agenda or not. -/
def tStep (a : List Act) : State := { State.withFetchWord State.reset 32 0x38000000 with agenda := a }

theorem witness_StepRunsDecoded : ((State.issueOf (State.observe { tStep [.issue 0 0] with agenda := [] }) 0 0).isSome = true ∧
      (State.observe (tStep [])).late = [] ∧ (State.observe (tStep [])).issueNext.isSome = true) ∧ (tStep []).memWf = true := by decide +kernel

theorem witness_StepRunsDecoded_alone : let u : State := State.observe { tStep [.issue 0 0] with agenda := [] }
    let b := u.prepared 0
    u.bandsOf 0 0 = [0] ∧ u.mayIssue b = true ∧ b.issueSet ≠ 0 ∧ ∃ pa, fetchPa u b b.pc = .ok pa ∧
      (let p := u.packetWords pa
       let k := slotOf b.pc
       b.badLanes (ctlL p.1) = 0 ∧ b.paged = none ∧ decodeSlot p k = .ok (.nop hd) ∧ chained (slotWord p k) = false ∧
        b.mustTake (endsRegion (.nop hd) && b.someLane u.cycle u.free (.nop hd)) = false ∧ b.slotWaits p.1 k = false ∧
        packetError p k = false) ∧
      b.wordWaits (.nop hd) = false ∧ b.absentGran = 0 ∧ u.reqWaits 0 b (.nop hd) = false ∧ u.spawnWaits 0 b (.nop hd) = false ∧
      u.ksetWaits b (.nop hd) = false ∧ u.reqAsks 0 b (.nop hd) = false ∧ u.objectWaits 0 b.issueSet (.nop hd) = false ∧ endsRegion (.nop hd) = false ∧ entersSeq (.nop hd) = false :=
  ⟨by decide +kernel, by decide +kernel, by decide +kernel, 0x800008, by decide +kernel⟩

end Sys2Proof.Tests
end

section
/-!
PROOFS. Decoding and encoding agree (R44 to R68): a number reads as a list of fields, each format reads as the fields
that the decoder asks for, and the two directions of the round trip follow from it.
-/

namespace Sys2Proof

/-- The low bits of the number `w` are those of the fields `f`. -/
def Reads (w : Nat) (f : Fields) : Prop := w % 2 ^ fieldBits f = packFields f

@[simp] theorem reads_nil (w : Nat) : Reads w [] := by simp [Reads, fieldBits, packFields, Nat.mod_one]

/-- A number reads as a list of fields when its topmost one reads as the first and the bits below as the rest. -/
@[simp] theorem reads_cons {w n : Nat} {v : BitVec n} {r : Fields} :
    Reads w (⟨n, v⟩ :: r) ↔ fld w (fieldBits r) n = v ∧ Reads w r := by
  have hr := packFields_lt r
  have hm := Nat.mod_lt w (Nat.two_pow_pos (fieldBits r))
  have e : w % 2 ^ (n + fieldBits r) =
      w / 2 ^ fieldBits r % 2 ^ n * 2 ^ fieldBits r + w % 2 ^ fieldBits r := by
    rw [Nat.add_comm n, pow_add, Nat.mod_mul]; ring
  simp only [Reads, fieldBits, packFields, e, fld, ← BitVec.toNat_inj, BitVec.toNat_ofNat]
  refine ⟨fun h => ?_, fun ⟨h1, h2⟩ => by rw [h1, h2]⟩
  have hv : w / 2 ^ fieldBits r % 2 ^ n = v.toNat := by
    have := congrArg (· / 2 ^ fieldBits r) h
    simpa [Nat.mul_comm _ (2 ^ fieldBits r), Nat.mul_add_div, Nat.div_eq_of_lt, hr, hm] using this
  exact ⟨hv, by rw [hv] at h; exact Nat.add_left_cancel h⟩

@[simp] theorem reads_bitOf {w : Nat} {b : Bool} {r : Fields} :
    Reads w (bitOf b :: r) ↔ flag1 w (fieldBits r) = b ∧ Reads w r := by
  rw [bitOf, reads_cons, flag1]
  rcases BitVec.eq_zero_or_eq_one (fld w (fieldBits r) 1) with h | h <;> cases b <;> simp [h]

theorem ofNat_packFields_eq {f : Fields} {l : Word} (hf : fieldBits f = 32) :
    BitVec.ofNat 32 (packFields f) = l ↔ Reads l.toNat f := by
  rw [← BitVec.toNat_inj, toNat_ofNat_pack f hf, Reads, hf, Nat.mod_eq_of_lt l.isLt, eq_comm]

theorem litWord_eq_some {f : Fields} {l : Word} (hf : fieldBits f = 32) :
    litWord f = some l ↔ Reads l.toNat f := by
  rw [litWord, Option.some_inj, ofNat_packFields_eq hf]

theorem word_eq {h : Hdr} {m : BitVec 6} {f : Fields} {w : Word} (hf : fieldBits f = 21) :
    word h m f = w ↔ decHdr w.toNat = h ∧ fld w.toNat 21 6 = m ∧ Reads w.toNat f := by
  rw [word, ofNat_packFields_eq (by simp [fieldBits, bitOf, hf]), reads_bitOf, reads_bitOf,
    reads_cons, reads_cons]
  cases h
  simp [fieldBits, bitOf, hf, decHdr, and_assoc]

theorem encBody_bits (i : Instr) : ∀ t ∈ encBody i, fieldBits t.2.1 = 21 := by
  cases i <;> rintro _ ⟨⟩ <;> rfl


/-! ## Sizes of fields, and the B operand (R47) -/

@[simp] theorem fieldBits_nil : fieldBits [] = 0 := rfl
@[simp] theorem fieldBits_cons {n : Nat} {v : BitVec n} {r : Fields} : fieldBits (⟨n, v⟩ :: r) = n + fieldBits r := rfl
@[simp] theorem fieldBits_bitOf {b : Bool} {r : Fields} : fieldBits (bitOf b :: r) = 1 + fieldBits r := rfl

/-- A B operand and the two fields that name it (R47). -/
theorem ofFields_eq_iff {s : BitVec 1} {x : BitVec 6} {b : Src} :
    (s = 0 ∨ x.toNat < 32) ∧ Src.ofFields s x = b ↔ x = b.bField ∧ s = b.sBit := by
  rcases BitVec.eq_zero_or_eq_one s with rfl | rfl
  · cases b <;> simp [Src.ofFields, Src.bField, Src.sBit]
  · cases b with
    | g r => simp [Src.ofFields, Src.bField, Src.sBit]
    | u r => simp [Src.ofFields, Src.bField, Src.sBit]; bv_omega

/-! ## Fields in the decoder's words -/

@[simp] theorem fldD_eq (w : Nat) : fldD w = fld w 15 6 := rfl
@[simp] theorem fldA_eq (w : Nat) : fldA w = fld w 9 6 := rfl
@[simp] theorem fldB_eq (w : Nat) : fldB w = fld w 3 6 := rfl
@[simp] theorem fldS_eq (w : Nat) : fldS w = fld w 2 1 := rfl
@[simp] theorem fldN_eq (w : Nat) : fldN w = (fld w 0 2).toNat := rfl
@[simp] theorem noD_iff {w : Nat} : noD w = true ↔ fld w 15 6 = 0 := by simp [noD]
@[simp] theorem noA_iff {w : Nat} : noA w = true ↔ fld w 9 6 = 0 := by simp [noA]
@[simp] theorem noB_iff {w : Nat} : noB w = true ↔ fld w 3 6 = 0 := by simp [noB]
@[simp] theorem noS_iff {w : Nat} : noS w = true ↔ fld w 2 1 = 0 := by simp [noS]
@[simp] theorem noS_eq_false_iff {w : Nat} : noS w = false ↔ fld w 2 1 = 1 := by
  rcases BitVec.eq_zero_or_eq_one (fld w 2 1) with h | h <;> simp [noS, h]
@[simp] theorem flag1_iff {w lo : Nat} : flag1 w lo = true ↔ fld w lo 1 = 1 := by simp [flag1]
@[simp] theorem flag1_eq_false_iff {w lo : Nat} : flag1 w lo = false ↔ fld w lo 1 = 0 := by
  rcases BitVec.eq_zero_or_eq_one (fld w lo 1) with h | h <;> simp [flag1, h]

/-- A 6-bit field names a uniform register when its top bit is 0 (R47). -/
@[simp] theorem isS_fld_iff {w lo : Nat} : isS (fld w lo 6) = true ↔ fld w (lo + 5) 1 = 0 := by
  simp only [isS, fld, decide_eq_true_eq, ← BitVec.toNat_inj, BitVec.toNat_ofNat, pow_add, ← Nat.div_div_eq_div_mul]
  simp
  omega

/-- The B operand of a word and the two fields that name it (R47). -/
theorem src_iff {w : Nat} {b : Src} :
    srcOk w = true ∧ fldSrc w = b ↔ fld w 3 6 = b.bField ∧ fld w 2 1 = b.sBit := by
  simp only [srcOk, isS, noS, fldSrc, Bool.or_eq_true, beq_iff_eq, decide_eq_true_eq]
  exact ofFields_eq_iff

theorem src_fields {w : Nat} (h : srcOk w = true) : fld w 3 6 = (fldSrc w).bField ∧ fld w 2 1 = (fldSrc w).sBit :=
  src_iff.1 ⟨h, rfl⟩

theorem fld2_cases (w lo : Nat) : fld w lo 2 = 0#2 ∨ fld w lo 2 = 1#2 ∨ fld w lo 2 = 2#2 ∨ fld w lo 2 = 3#2 := by
  generalize fld w lo 2 = x
  revert x
  decide

theorem fld3_cases (w lo : Nat) : fld w lo 3 = 0#3 ∨ fld w lo 3 = 1#3 ∨ fld w lo 3 = 2#3 ∨ fld w lo 3 = 3#3 ∨
    fld w lo 3 = 4#3 ∨ fld w lo 3 = 5#3 ∨ fld w lo 3 = 6#3 ∨ fld w lo 3 = 7#3 := by
  generalize fld w lo 3 = x
  revert x
  decide

/-- A 6-bit field is 0 when its top bit and its lowest five are. -/
theorem fld_six_eq_zero_iff {w lo : Nat} : fld w lo 6 = 0#6 ↔ fld w (lo + 5) 1 = 0 ∧ fld w lo 5 = 0 := by
  simp only [fld, ← BitVec.toNat_inj, BitVec.toNat_ofNat, pow_add, ← Nat.div_div_eq_div_mul]
  simp
  omega

/-- The codes 0x14 to 0x17 of major 0x3C have 5 in their top three bits. -/
theorem mma_code_iff {w : Nat} : fld w 18 3 = 5 ↔ (fld w 16 5).toNat = 0x14 ∨ (fld w 16 5).toNat = 0x15 ∨
    (fld w 16 5).toNat = 0x16 ∨ (fld w 16 5).toNat = 0x17 := by
  simp [fld, ← BitVec.toNat_inj]
  omega

/-! ## Codes -/

theorem code_eq {n k : Nat} {x : BitVec n} (h : x.toNat = k) : x = BitVec.ofNat n k := (BitVec.toNat_eq_nat.1 h).2

theorem CmpT.code_ofCode : ∀ c, (CmpT.ofCode c).code = c := by decide
theorem FCc.code_ofCode : ∀ c, (FCc.ofCode c).code = c := by decide
theorem Space.code_ofCode : ∀ c, (Space.ofCode c).code = c := by decide
theorem Fmt.code_ofCode : ∀ c, (Fmt.ofCode c).code = c := by decide
theorem DrawMode.code_ofCode : ∀ c, (DrawMode.ofCode c).code = c := by decide
theorem Cc.code_of_ofCode : ∀ c, ∀ t ∈ Cc.ofCode c, c = t.code := by decide
theorem Lop.code_of_ofCode : ∀ c, ∀ t ∈ Lop.ofCode c, c = t.code := by decide
theorem Size.code_of_ofCode : ∀ c, ∀ t ∈ Size.ofCode c, c = t.code := by decide
theorem Scope.code_of_ofCode : ∀ c, ∀ t ∈ Scope.ofCode c, c = t.code := by decide
theorem Order.code_of_ofCode : ∀ c, ∀ t ∈ Order.ofCode c, c = t.code := by decide
theorem AType.code_of_ofCode : ∀ c, ∀ t ∈ AType.ofCode c, c = t.code := by decide
theorem AOp.code_of_ofCode : ∀ c, ∀ t ∈ AOp.ofCode c, c = t.code := by decide

/-! ## What each format reads as -/

@[simp] theorem reads_fmtZ {w : Nat} {n : BitVec 2} {t : BitVec 16} :
    Reads w (fmtZ n t) ↔ fld w 18 3 = 0 ∧ fld w 2 16 = t ∧ fld w 0 2 = n := by
  simp [fmtZ]

theorem reads_fmtR {w : Nat} {n : BitVec 2} {d a : Reg} {b : Src} : Reads w (fmtR n d a b) ↔
    fld w 15 6 = d ∧ fld w 9 6 = a ∧ (srcOk w = true ∧ fldSrc w = b) ∧ fld w 0 2 = n := by
  simp [fmtR, src_iff, and_assoc]

/-- The B operand is a uniform register, which its lowest five bits name. -/
theorem reads_fmtR_u {w : Nat} {n : BitVec 2} {d a : Reg} {u : SReg} : Reads w (fmtR n d a (.u u)) ↔
    fld w 15 6 = d ∧ fld w 9 6 = a ∧ fld w 8 1 = 0 ∧ fld w 3 5 = u ∧ fld w 2 1 = 1 ∧ fld w 0 2 = n := by
  have hb : fld w 3 6 = u.setWidth 6 ↔ fld w 8 1 = 0 ∧ fld w 3 5 = u := by
    have := u.isLt
    simp [fld, ← BitVec.toNat_inj]
    omega
  simp [fmtR, Src.bField, Src.sBit, hb, and_assoc]

@[simp] theorem reads_fmtR2 {w : Nat} {n : BitVec 2} {d a b : Reg} : Reads w (fmtR2 n d a b) ↔
    fld w 15 6 = d ∧ fld w 9 6 = a ∧ fld w 3 6 = b ∧ fld w 2 1 = 0 ∧ fld w 0 2 = n := by
  simp [fmtR2]

@[simp] theorem reads_fmtH {w : Nat} {f : BitVec 3} {d a : Reg} {n : BitVec 5} : Reads w (fmtH f d a n) ↔
    fld w 15 6 = d ∧ fld w 9 6 = a ∧ fld w 6 3 = f ∧ fld w 5 1 = 0 ∧ fld w 0 5 = n := by
  simp [fmtH]

@[simp] theorem reads_fmtO {w : Nat} {op : BitVec 3} {d a b : Reg} : Reads w (fmtO op d a b) ↔
    fld w 15 6 = d ∧ fld w 9 6 = a ∧ fld w 3 6 = b ∧ fld w 0 3 = op := by
  simp [fmtO]

@[simp] theorem reads_fmtM {w : Nat} {d a : Reg} {sb : Flag} {sp : BitVec 2} {sz : Size} :
    Reads w (fmtM d a sb sp sz) ↔
    fld w 15 6 = d ∧ fld w 9 6 = a ∧ fld w 5 4 = sb ∧ fld w 3 2 = sp ∧ fld w 0 3 = sz.code := by
  simp [fmtM]

@[simp] theorem reads_fmtF {w : Nat} {f : BitVec 3} {d a : Reg} {sb : Flag} : Reads w (fmtF f d a sb) ↔
    fld w 15 6 = d ∧ fld w 9 6 = a ∧ fld w 6 3 = f ∧ fld w 2 4 = sb ∧ fld w 0 2 = 0 := by
  simp [fmtF]

theorem reads_fmtU {w : Nat} {n : BitVec 2} {d a b : SReg} : Reads w (fmtU n d a b) ↔
    fld w 20 1 = 0 ∧ fld w 15 5 = d ∧ fld w 14 1 = 0 ∧ fld w 9 5 = a ∧ fld w 8 1 = 0 ∧ fld w 3 5 = b ∧
      fld w 2 1 = 0 ∧ fld w 0 2 = n := by
  simp [fmtU]

@[simp] theorem reads_fmtK {w : Nat} {d : BitVec 5} {imm : BitVec 16} :
    Reads w (fmtK d imm) ↔ fld w 16 5 = d ∧ fld w 0 16 = imm := by
  simp [fmtK]

@[simp] theorem reads_fmtVote {w : Nat} {n : BitVec 2} {hi : BitVec 3} {pd pa : PReg} {na : Bool} :
    Reads w (fmtVote n hi pd na pa) ↔ fld w 18 3 = hi ∧ fld w 15 3 = pd ∧ fld w 13 2 = 0 ∧ flag1 w 12 = na ∧
      fld w 9 3 = pa ∧ fld w 3 6 = 0 ∧ fld w 2 1 = 0 ∧ fld w 0 2 = n := by
  simp [fmtVote]

@[simp] theorem reads_fmtCctl {w : Nat} {n : BitVec 2} {code : BitVec 3} {a b : Reg} :
    Reads w (fmtCctl n code a b) ↔ fld w 18 3 = code ∧ fld w 15 3 = 0 ∧ fld w 9 6 = a ∧ fld w 3 6 = b ∧
      fld w 2 1 = 0 ∧ fld w 0 2 = n := by
  simp [fmtCctl]

@[simp] theorem reads_fmtE {w : Nat} {sub : BitVec 5} {sb : Flag} {a b : Reg} : Reads w (fmtE sub sb a b) ↔
    fld w 16 5 = sub ∧ fld w 12 4 = sb ∧ fld w 6 6 = a ∧ fld w 0 6 = b := by
  simp [fmtE]

@[simp] theorem reads_fmtLdt {w : Nat} {sub : BitVec 5} {sb : Flag} {os : BitVec 4} {a : Reg} :
    Reads w (fmtLdt sub sb os a) ↔
    fld w 16 5 = sub ∧ fld w 12 4 = sb ∧ fld w 8 4 = os ∧ fld w 2 6 = a ∧ fld w 0 2 = 0 := by
  simp [fmtLdt]

@[simp] theorem reads_fmtAcc {w : Nat} {sub : BitVec 5} {cv : BitVec 3} {sb : Flag} {acc : BitVec 3} {a : Reg} :
    Reads w (fmtAcc sub cv sb acc a) ↔
    fld w 16 5 = sub ∧ fld w 12 4 = sb ∧ fld w 9 3 = acc ∧ fld w 6 3 = cv ∧ fld w 0 6 = a := by
  simp [fmtAcc]

/-! ## The ends of the arms -/

/-- The bits of a word hold the instruction `i`: its header, its codes and registers, the fields of its body, and the
literal that it reads. -/
structure Instr.FilledBy (i : Instr) (m : BitVec 6) (h : Hdr) (w : Nat) (lit : Option Word) : Prop where
  hdr : i.hdr = h
  codes : i.codesOk = true
  regs : i.regsOk = true
  body : ∃ f l, encBody i = some (m, f, l) ∧ Reads w f ∧ (l = none ∨ l = some (lit.getD 0))

theorem finish_eq_ok {c4 c5 : Bool} {i j : Instr} : finish c4 c5 i = .ok j ↔
    c4 = true ∧ c5 = true ∧ i.codesOk = true ∧ i.regsOk = true ∧ i = j := by
  unfold finish
  split_ifs <;> simp_all

theorem finishLit_eq_ok {lit : Option Word} {c4 c5 : Bool} {mk : Nat → Option Instr} {j : Instr} :
    finishLit lit c4 c5 mk = .ok j ↔ ∃ l, lit = some l ∧ mk l.toNat = some j ∧
      c4 = true ∧ c5 = true ∧ j.codesOk = true ∧ j.regsOk = true := by
  cases lit with
  | none => simp only [finishLit]; split_ifs <;> simp
  | some l =>
    cases hm : mk l.toNat with
    | none => simp [finishLit, hm]
    | some i =>
      simp only [finishLit, hm, finish_eq_ok, Option.some_inj, exists_eq_left']
      constructor
      · rintro ⟨h4, h5, hc, hk, rfl⟩
        exact ⟨rfl, h4, h5, hc, hk⟩
      · rintro ⟨rfl, h4, h5, hc, hk⟩
        exact ⟨h4, h5, hc, hk, rfl⟩

section
variable {i j : Instr} {m : BitVec 6} {h : Hdr} {w : Nat} {lit : Option Word} {f : Fields} {c4 c5 : Bool}

/-- An arm that ends a word without a literal. -/
theorem finish_filledBy (hd : finish c4 c5 j = .ok i) (hh : j.hdr = h) (he : encBody j = some (m, f, none))
    (hr : c4 = true → c5 = true → Reads w f) : i.FilledBy m h w lit := by
  obtain ⟨h4, h5, hc, hk, rfl⟩ := finish_eq_ok.1 hd
  exact ⟨hh, hc, hk, f, none, he, hr h4 h5, .inl rfl⟩

/-- An arm that ends an M-format word, whose offset is the literal or 0 (R48). -/
theorem finish_off_filledBy (hd : finish c4 c5 j = .ok i) (hh : j.hdr = h) (he : encBody j = some (m, f, some (offOf lit)))
    (hr : c4 = true → c5 = true → Reads w f) : i.FilledBy m h w lit := by
  obtain ⟨h4, h5, hc, hk, rfl⟩ := finish_eq_ok.1 hd
  exact ⟨hh, hc, hk, f, _, he, hr h4 h5, .inr rfl⟩

/-- An arm that ends a word whose literal is one number. -/
theorem finishLit_filledBy {g : Word → Instr} (hd : finishLit lit c4 c5 (fun l => some (g (BitVec.ofNat 32 l))) = .ok i)
    (hh : ∀ l, (g l).hdr = h) (he : ∀ l, encBody (g l) = some (m, f, some l))
    (hr : c4 = true → c5 = true → Reads w f) : i.FilledBy m h w lit := by
  obtain ⟨l, rfl, hi, h4, h5, hc, hk⟩ := finishLit_eq_ok.1 hd
  obtain rfl : g l = i := by simpa using hi
  exact ⟨hh l, hc, hk, f, _, he l, hr h4 h5, .inr rfl⟩

/-- An arm that ends a word whose literal holds the fields `lf`. -/
theorem finishLit_fields_filledBy {α : Type} {mk : Nat → Option Instr} {g : α → Instr} {lf : α → Fields}
    (hd : finishLit lit c4 c5 mk = .ok i) (hm : ∀ l, mk l = some i → ∃ t, Reads l (lf t) ∧ g t = i)
    (hl : ∀ t, fieldBits (lf t) = 32) (hh : ∀ t, (g t).hdr = h)
    (he : ∀ t, encBody (g t) = some (m, f, litWord (lf t))) (hr : c4 = true → c5 = true → Reads w f) :
    i.FilledBy m h w lit := by
  obtain ⟨l, rfl, hi, h4, h5, hc, hk⟩ := finishLit_eq_ok.1 hd
  obtain ⟨t, ht, rfl⟩ := hm _ hi
  exact ⟨hh t, hc, hk, f, _, he t, hr h4 h5, .inr ((litWord_eq_some (hl t)).2 ht)⟩
end

/-! ## Literals (R63, R65, R66) -/

/-- The fields of the control literal of major 0x3A (R63). -/
def ctlFields (op : AOp) (ty : AType) (c : Ctl) : Fields :=
  [⟨4, c.sb⟩, ⟨4, op.code⟩, ⟨4, ty.code⟩, ⟨3, c.scope.code⟩, ⟨3, c.order.code⟩, ⟨2, c.sp.code⟩, ⟨12, 0⟩]

theorem decCtl_eq_some {l : Nat} {op : AOp} {ty : AType} {c : Ctl} :
    decCtl l = some (op, ty, c) ↔ Reads l (ctlFields op ty c) := by
  simp only [ctlFields, reads_cons, reads_nil, fieldBits_cons, fieldBits_nil, decCtl]
  constructor
  · intro h
    split at h
    · rename_i hz
      split at h
      · rename_i ho ht hs hr
        obtain ⟨rfl, rfl, rfl⟩ := h
        simp at hz
        simp [AOp.code_of_ofCode _ _ ho, AType.code_of_ofCode _ _ ht, Scope.code_of_ofCode _ _ hs,
          Order.code_of_ofCode _ _ hr, Space.code_ofCode, hz]
      · cases h
    · cases h
  · intro h
    simp at h
    simp [h, AOp.ofCode_code, AType.ofCode_code, Scope.ofCode_code, Order.ofCode_code, Space.ofCode_code]

/-- The literal of ATOM. -/
theorem map_decCtl_eq_some {l : Nat} {mk : AOp × AType × Ctl → Instr} {i : Instr} :
    (decCtl l).map mk = some i ↔ ∃ t : AOp × AType × Ctl, Reads l (ctlFields t.1 t.2.1 t.2.2) ∧ mk t = i := by
  simp only [← decCtl_eq_some, Option.map_eq_some_iff]

theorem decCtl0_eq_some {l : Nat} {mk : AType → Ctl → Instr} {i : Instr} :
    decCtl0 l mk = some i ↔ ∃ t : AType × Ctl, Reads l (ctlFields .add t.1 t.2) ∧ mk t.1 t.2 = i := by
  simp only [← decCtl_eq_some, decCtl0]
  split <;> simp_all

theorem decShape_eq_some {l : Nat} {mk : BitVec 12 → Instr} {i : Instr} :
    decShape l mk = some i ↔ ∃ s, Reads l [⟨20, 0⟩, ⟨12, s⟩] ∧ mk s = i := by
  simp [decShape]

theorem decXformLit_eq_some {l : Nat} {mk : BitVec 12 → Byte → Instr} {i : Instr} : decXformLit l mk = some i ↔
    ∃ t : BitVec 12 × Byte, Reads l [⟨12, 0⟩, ⟨8, t.2⟩, ⟨12, t.1⟩] ∧ mk t.1 t.2 = i := by
  simp [decXformLit]

theorem decDrawLit_eq_some {l : Nat} {mk : BitVec 3 → SReg → Instr} {i : Instr} : decDrawLit l mk = some i ↔
    ∃ t : BitVec 3 × SReg, Reads l [⟨8, 0⟩, ⟨3, t.1⟩, ⟨5, t.2⟩, ⟨16, 0⟩] ∧ mk t.1 t.2 = i := by
  simp [decDrawLit]

theorem decAcceptLit_eq_some {l : Nat} {mk : BitVec 3 → BitVec 3 → SReg → Instr} {i : Instr} :
    decAcceptLit l mk = some i ↔ ∃ t : BitVec 3 × BitVec 3 × SReg,
      Reads l [⟨8, 0⟩, ⟨3, t.1⟩, ⟨3, t.2.1⟩, ⟨5, t.2.2⟩, ⟨13, 0⟩] ∧ mk t.1 t.2.1 t.2.2 = i := by
  simp [decAcceptLit]

/-! ## What a word that decodes holds -/

section
variable {i : Instr} {m : BitVec 6} {n : BitVec 2} {h : Hdr} {w : Nat} {lit : Option Word}

theorem decR3_filledBy {mk : Reg → Reg → Src → Instr} (hd : decR3 w mk = .ok i)
    (hh : ∀ d a b, (mk d a b).hdr = h) (he : ∀ d a b, encBody (mk d a b) = some (m, fmtR n d a b, none))
    (hN : fld w 0 2 = n) : i.FilledBy m h w lit :=
  finish_filledBy hd (hh _ _ _) (he _ _ _) fun _ hs => reads_fmtR.2 ⟨rfl, rfl, ⟨hs, rfl⟩, hN⟩

theorem decU3_filledBy {mk : SReg → SReg → SReg → Instr} (hd : decU3 w mk = .ok i)
    (hh : ∀ d a b, (mk d a b).hdr = h) (he : ∀ d a b, encBody (mk d a b) = some (m, fmtU n d a b, none))
    (hN : fld w 0 2 = n) : i.FilledBy m h w lit :=
  finish_filledBy hd (hh _ _ _) (he _ _ _) (by simp +contextual [reads_fmtU, hN])

theorem dec00_filledBy (hd : dec00 h w = .ok i) : i.FilledBy 0x00 h w lit := by
  rcases fld2_cases w 0 with hN | hN | hN | hN <;> simp only [dec00, fldN_eq, hN, BitVec.reduceToNat] at hd
  · exact finish_filledBy hd rfl rfl (by simp +contextual [hN])
  · exact finish_filledBy hd rfl rfl (by simp +contextual [hN])
  · exact finish_filledBy hd rfl rfl (by simp +contextual [hN])
  · cases hd

theorem dec02_filledBy (hd : dec02 h w lit = .ok i) : i.FilledBy 0x02 h w lit := by
  rcases fld2_cases w 0 with hN | hN | hN | hN <;> simp only [dec02, fldN_eq, hN, BitVec.reduceToNat] at hd
  · exact finish_filledBy hd rfl rfl (by simp +contextual [hN])
  · exact finishLit_filledBy hd (fun _ => rfl) (fun _ => rfl) (by simp +contextual [hN])
  · exact finish_filledBy hd rfl rfl (by simp +contextual [hN])
  · exact finish_filledBy hd rfl rfl (by simp +contextual [hN])

theorem dec03_filledBy (hd : dec03 h w lit = .ok i) : i.FilledBy 0x03 h w lit := by
  rcases fld2_cases w 0 with hN | hN | hN | hN <;> simp only [dec03, fldN_eq, hN, BitVec.reduceToNat] at hd
  · exact finish_filledBy hd rfl rfl (by simp +contextual [hN])
  · exact finishLit_filledBy hd (fun _ => rfl) (fun _ => rfl) (by simp +contextual [hN])
  · exact finish_filledBy hd rfl rfl (by simp +contextual [hN])
  · exact finish_filledBy hd rfl rfl (by simp +contextual [hN])

theorem dec04_filledBy (hd : dec04 h w = .ok i) : i.FilledBy 0x04 h w lit := by
  rcases fld2_cases w 0 with hN | hN | hN | hN <;> simp only [dec04, fldN_eq, hN, BitVec.reduceToNat] at hd
  · exact finish_filledBy hd rfl rfl (by simp +contextual [hN])
  · exact finish_filledBy hd rfl rfl (by simp +contextual [hN])
  · cases hd
  · cases hd

theorem dec10_filledBy (hd : dec10 h w = .ok i) : i.FilledBy 0x10 h w lit := by
  rcases fld3_cases w 6 with hF | hF | hF | hF | hF | hF | hF | hF <;> simp only [dec10, hF, BitVec.reduceToNat] at hd <;>
    exact finish_filledBy hd rfl rfl (by simp +contextual [hF])

theorem dec11_filledBy (hd : dec11 h w = .ok i) : i.FilledBy 0x11 h w lit := by
  rcases fld2_cases w 0 with hN | hN | hN | hN <;> simp only [dec11, fldN_eq, hN, BitVec.reduceToNat] at hd
  iterate 3 exact decR3_filledBy hd (fun _ _ _ => rfl) (fun _ _ _ => rfl) hN
  cases hd

theorem dec18_filledBy (hd : dec18 h w = .ok i) : i.FilledBy 0x18 h w lit := by
  cases hcc : Cc.ofCode (fld w 15 3) with
  | none => simp [dec18, hcc] at hd
  | some cc =>
    simp only [dec18, hcc] at hd
    exact finish_filledBy hd rfl rfl fun _ hs => by
      simp [src_fields hs, Cc.code_of_ofCode _ _ hcc, CmpT.code_ofCode]

theorem dec19_filledBy (hd : dec19 h w = .ok i) : i.FilledBy 0x19 h w lit := by
  cases hcc : Cc.ofCode (fld w 15 3) with
  | none => simp [dec19, hcc] at hd
  | some cc =>
    simp only [dec19, hcc] at hd
    exact finish_filledBy hd rfl rfl (by simp [Cc.code_of_ofCode _ _ hcc])

theorem dec1A_filledBy (hd : dec1A h w = .ok i) : i.FilledBy 0x1A h w lit :=
  finish_filledBy hd rfl rfl fun hN hs => by
    have hN : fld w 0 2 = 0 := by simpa [BitVec.toNat_eq_nat] using hN
    simp [src_fields hs, FCc.code_ofCode, hN]

theorem dec1Cplop_filledBy (hd : dec1Cplop h w = .ok i) (hO : fld w 0 3 = 7) : i.FilledBy 0x1C h w lit := by
  cases hop : Lop.ofCode (fld w 8 2) with
  | none => simp [dec1Cplop, hop] at hd
  | some op =>
    simp only [dec1Cplop, hop] at hd
    exact finish_filledBy hd rfl rfl (by simp +contextual [hO, Lop.code_of_ofCode _ _ hop])

theorem dec1C_filledBy (hd : dec1C h w lit = .ok i) : i.FilledBy 0x1C h w lit := by
  rcases fld3_cases w 0 with hO | hO | hO | hO | hO | hO | hO | hO <;> simp only [dec1C, hO, BitVec.reduceToNat] at hd
  · exact finish_filledBy hd rfl rfl (by simp +contextual [hO])
  · exact finish_filledBy hd rfl rfl (by simp +contextual [hO])
  · exact finishLit_filledBy hd (fun _ => rfl) (fun _ => rfl) (by simp +contextual [hO])
  · exact finish_filledBy hd rfl rfl (by simp +contextual [hO])
  · split at hd
    case isTrue hx => exact finish_filledBy hd rfl rfl (by simp +contextual [hO, flag1_iff.1 hx])
    case isFalse hx =>
      exact finish_filledBy hd rfl rfl (by simp +contextual [hO, flag1_eq_false_iff.1 (Bool.eq_false_iff.2 hx)])
  · exact finish_filledBy hd rfl rfl (by simp +contextual [hO])
  · exact finish_filledBy hd rfl rfl (by simp +contextual [hO])
  · exact dec1Cplop_filledBy hd hO

theorem dec1D_filledBy (hd : dec1D h w lit = .ok i) : i.FilledBy 0x1D h w lit := by
  cases hsz : Size.ofCode (fld w 0 3) with
  | none => simp [dec1D, hsz] at hd
  | some sz =>
    have hz := Size.code_of_ofCode _ _ hsz
    rcases fld2_cases w 3 with hp | hp | hp | hp <;> simp only [dec1D, hsz, hp, BitVec.reduceToNat] at hd
    · exact finish_off_filledBy hd rfl rfl (by simp [hz, hp])
    · exact finish_off_filledBy hd rfl rfl (by simp [hz, hp])
    · cases hd
    · cases hd

theorem dec21_filledBy (hd : dec21 h w = .ok i) : i.FilledBy 0x21 h w lit := by
  rcases fld2_cases w 0 with hN | hN | hN | hN <;> simp only [dec21, fldN_eq, hN, BitVec.reduceToNat] at hd
  · exact decR3_filledBy hd (fun _ _ _ => rfl) (fun _ _ _ => rfl) hN
  · exact decR3_filledBy hd (fun _ _ _ => rfl) (fun _ _ _ => rfl) hN
  · exact finish_filledBy hd rfl rfl (by simp +contextual [hN])
  · exact finish_filledBy hd rfl rfl (by simp +contextual [hN])

theorem dec24_filledBy (hd : dec24 h w = .ok i) : i.FilledBy 0x24 h w lit := by
  rcases fld2_cases w 0 with hN | hN | hN | hN <;> simp only [dec24, fldN_eq, hN, BitVec.reduceToNat] at hd
  · exact finish_filledBy hd rfl rfl (by simp +contextual [hN])
  all_goals cases hd

theorem dec2A_filledBy (hd : dec2A h w = .ok i) : i.FilledBy 0x2A h w lit := by
  rcases fld3_cases w 6 with hF | hF | hF | hF | hF | hF | hF | hF <;> simp only [dec2A, hF, BitVec.reduceToNat] at hd
  iterate 6 exact finish_filledBy hd rfl rfl (by simp +contextual [hF])
  all_goals cases hd

theorem dec2C_filledBy (hd : dec2C h w lit = .ok i) : i.FilledBy 0x2C h w lit := by
  rcases fld2_cases w 0 with hN | hN | hN | hN <;> simp only [dec2C, fldN_eq, hN, BitVec.reduceToNat] at hd
  · exact decU3_filledBy hd (fun _ _ _ => rfl) (fun _ _ _ => rfl) hN
  · exact decU3_filledBy hd (fun _ _ _ => rfl) (fun _ _ _ => rfl) hN
  · exact decU3_filledBy hd (fun _ _ _ => rfl) (fun _ _ _ => rfl) hN
  · exact finishLit_filledBy hd (fun _ => rfl) (fun _ => rfl) (by simp +contextual [reads_fmtU, hN, fld_six_eq_zero_iff])

theorem dec2D_filledBy (hd : dec2D h w = .ok i) : i.FilledBy 0x2D h w lit := by
  rcases fld2_cases w 0 with hN | hN | hN | hN <;> simp only [dec2D, fldN_eq, hN, BitVec.reduceToNat] at hd <;>
    exact decU3_filledBy hd (fun _ _ _ => rfl) (fun _ _ _ => rfl) hN

theorem dec2E_filledBy (hd : dec2E h w lit = .ok i) : i.FilledBy 0x2E h w lit := by
  cases hsz : Size.ofCode (fld w 0 3) with
  | none => simp [dec2E, hsz] at hd
  | some sz =>
    simp only [dec2E, hsz] at hd
    exact finish_off_filledBy hd rfl rfl (by simp +contextual [Size.code_of_ofCode _ _ hsz, Space.code_ofCode])

theorem dec30_filledBy (hd : dec30 h w = .ok i) : i.FilledBy 0x30 h w lit := by
  rcases fld2_cases w 0 with hN | hN | hN | hN <;> simp only [dec30, fldN_eq, hN, BitVec.reduceToNat] at hd <;>
    exact finish_filledBy hd rfl rfl (by simp +contextual [hN])

theorem dec32_filledBy (hd : dec32 h w = .ok i) : i.FilledBy 0x32 h w lit := by
  rcases fld2_cases w 0 with hN | hN | hN | hN <;> simp only [dec32, fldN_eq, hN, BitVec.reduceToNat] at hd
  · exact finish_filledBy hd rfl rfl (by simp +contextual [hN])
  · exact finish_filledBy hd rfl rfl (by simp +contextual [reads_fmtR_u, hN])
  · exact finish_filledBy hd rfl rfl (by simp +contextual [reads_fmtR_u, hN])
  · cases hd

theorem dec33_filledBy (hd : dec33 h w = .ok i) : i.FilledBy 0x33 h w lit := by
  rcases fld2_cases w 0 with hN | hN | hN | hN <;> simp only [dec33, fldN_eq, hN, BitVec.reduceToNat] at hd <;>
    exact finish_filledBy hd rfl rfl (by simp +contextual [hN])

theorem dec34_filledBy (hd : dec34 h w = .ok i) : i.FilledBy 0x34 h w lit := by
  cases hsz : Size.ofCode (fld w 0 3) with
  | none => simp [dec34, hsz] at hd
  | some sz =>
    simp only [dec34, hsz] at hd
    exact finish_filledBy hd rfl rfl (by simp +contextual [Size.code_of_ofCode _ _ hsz])

theorem dec35_filledBy (hd : dec35 h w = .ok i) : i.FilledBy 0x35 h w lit := by
  rcases fld2_cases w 0 with hN | hN | hN | hN <;> simp only [dec35, fldN_eq, hN, BitVec.reduceToNat] at hd
  iterate 3 exact finish_filledBy hd rfl rfl (by simp +contextual [hN])
  cases hd

theorem dec38_filledBy (hd : dec38 h w lit = .ok i) : i.FilledBy 0x38 h w lit := by
  cases hsz : Size.ofCode (fld w 0 3) with
  | none => simp [dec38, hsz] at hd
  | some sz =>
    simp only [dec38, hsz] at hd
    exact finish_off_filledBy hd rfl rfl (by simp [Size.code_of_ofCode _ _ hsz, Space.code_ofCode])

theorem dec39_filledBy (hd : dec39 h w lit = .ok i) : i.FilledBy 0x39 h w lit := by
  cases hsz : Size.ofCode (fld w 0 3) with
  | none => simp [dec39, hsz] at hd
  | some sz =>
    simp only [dec39, hsz] at hd
    exact finish_off_filledBy hd rfl rfl (by simp [Size.code_of_ofCode _ _ hsz, Space.code_ofCode])

theorem dec3A_filledBy (hd : dec3A h w lit = .ok i) : i.FilledBy 0x3A h w lit := by
  rcases fld3_cases w 0 with hO | hO | hO | hO | hO | hO | hO | hO <;> simp only [dec3A, hO, BitVec.reduceToNat] at hd
  · exact finishLit_fields_filledBy hd (fun _ => map_decCtl_eq_some.1) (fun _ => rfl) (fun _ => rfl) (fun _ => rfl)
      (by simp [hO])
  iterate 3
    exact finishLit_fields_filledBy hd (fun _ => decCtl0_eq_some.1) (fun _ => rfl) (fun _ => rfl) (fun _ => rfl)
      (by simp +contextual [hO])
  all_goals cases hd

theorem dec3Bfence_filledBy (hd : dec3Bfence h w = .ok i) (hN : fld w 0 2 = 0) : i.FilledBy 0x3B h w lit := by
  unfold dec3Bfence at hd
  split at hd
  case h_1 hs ho =>
    exact finish_filledBy hd rfl rfl
      (by simp +contextual [hN, Scope.code_of_ofCode _ _ hs, Order.code_of_ofCode _ _ ho])
  case h_2 => cases hd

theorem dec3B_filledBy (hd : dec3B h w = .ok i) : i.FilledBy 0x3B h w lit := by
  rcases fld2_cases w 0 with hN | hN | hN | hN <;> simp only [dec3B, fldN_eq, hN, BitVec.reduceToNat] at hd
  · exact dec3Bfence_filledBy hd hN
  · split at hd
    case h_4 => cases hd
    all_goals exact finish_filledBy hd rfl rfl (by simp +contextual [hN, code_eq ‹_›])
  · split at hd
    case h_3 => cases hd
    all_goals exact finish_filledBy hd rfl rfl (by simp +contextual [hN, code_eq ‹_›])
  · cases hd

theorem dec3C_filledBy (hd : dec3C h w lit = .ok i) : i.FilledBy 0x3C h w lit := by
  simp only [dec3C] at hd
  split at hd
  case h_4 hs | h_5 hs =>
    exact finishLit_fields_filledBy hd (fun _ => decShape_eq_some.1) (fun _ => rfl) (fun _ => rfl) (fun _ => rfl)
      (by simp +contextual [code_eq hs])
  case h_8 hs =>
    rcases fld3_cases w 6 with hc | hc | hc | hc | hc | hc | hc | hc <;> simp only [hc, BitVec.reduceToNat] at hd
    iterate 3 exact finish_filledBy hd rfl rfl (by simp [hc, code_eq hs])
    all_goals cases hd
  case h_11 hs =>
    exact finishLit_fields_filledBy hd (fun _ => decDrawLit_eq_some.1) (fun _ => rfl) (fun _ => rfl) (fun _ => rfl)
      (by simp +contextual [code_eq hs, DrawMode.code_ofCode])
  case h_12 hs =>
    exact finishLit_fields_filledBy hd (fun _ => decAcceptLit_eq_some.1) (fun _ => rfl) (fun _ => rfl) (fun _ => rfl)
      (by simp +contextual [code_eq hs])
  case h_13 hs | h_14 hs | h_15 hs | h_16 hs =>
    have hs : fld w 18 3 = 5 := mma_code_iff.2 (by simp [hs])
    exact finish_filledBy hd rfl rfl (by simp +contextual [hs])
  case h_17 => cases hd
  all_goals exact finish_filledBy hd rfl rfl (by simp +contextual [code_eq ‹_›])

theorem dec3D_filledBy (hd : dec3D h w lit = .ok i) : i.FilledBy 0x3D h w lit := by
  simp only [dec3D] at hd
  split at hd
  case h_1 hs | h_2 hs =>
    exact finishLit_fields_filledBy hd (fun _ => decShape_eq_some.1) (fun _ => rfl) (fun _ => rfl) (fun _ => rfl)
      (by simp [code_eq hs])
  case h_4 hs =>
    exact finishLit_fields_filledBy hd (fun _ => decXformLit_eq_some.1) (fun _ => rfl) (fun _ => rfl) (fun _ => rfl)
      (by simp [code_eq hs])
  case h_11 => cases hd
  all_goals exact finish_filledBy hd rfl rfl (by simp +contextual [code_eq ‹_›])

theorem dec3E_filledBy (hd : dec3E h w = .ok i) : i.FilledBy 0x3E h w lit := by
  simp only [dec3E] at hd
  split at hd
  case h_7 => cases hd
  all_goals exact finish_filledBy hd rfl rfl (by simp +contextual [code_eq ‹_›])

/-- A word that decodes under major `k` holds what it decodes to. -/
theorem decodeMajor_filledBy {k : Nat} (hd : decodeMajor k h w lit = .ok i) : i.FilledBy (BitVec.ofNat 6 k) h w lit := by
  unfold decodeMajor at hd
  split at hd
  case h_6 | h_7 | h_9 | h_10 | h_11 | h_12 | h_13 | h_24 | h_26 | h_27 | h_36 =>
    rcases fld2_cases w 0 with hN | hN | hN | hN <;>
      simp only [dec08, dec09, dec0B, dec0C, dec0D, dec0E, dec0F, dec20, dec22, dec23, dec31, fldN_eq, hN,
        BitVec.reduceToNat] at hd <;>
      exact decR3_filledBy hd (fun _ _ _ => rfl) (fun _ _ _ => rfl) hN
  · exact dec00_filledBy hd
  · exact finish_filledBy hd rfl rfl (by simp)
  · exact dec02_filledBy hd
  · exact dec03_filledBy hd
  · exact dec04_filledBy hd
  · exact finish_filledBy hd rfl rfl (by simp)
  · exact dec10_filledBy hd
  · exact dec11_filledBy hd
  · exact finish_filledBy hd rfl rfl (by simp)
  · exact finish_filledBy hd rfl rfl (by simp)
  · exact dec18_filledBy hd
  · exact dec19_filledBy hd
  · exact dec1A_filledBy hd
  · exact finish_filledBy hd rfl rfl (by simp)
  · exact dec1C_filledBy hd
  · exact dec1D_filledBy hd
  · exact dec21_filledBy hd
  · exact dec24_filledBy hd
  · exact finish_filledBy hd rfl rfl (by simp [Fmt.code_ofCode])
  · exact finish_filledBy hd rfl rfl (by simp +contextual [Fmt.code_ofCode])
  · exact dec2A_filledBy hd
  · exact dec2C_filledBy hd
  · exact dec2D_filledBy hd
  · exact dec2E_filledBy hd
  · exact dec30_filledBy hd
  · exact dec32_filledBy hd
  · exact dec33_filledBy hd
  · exact dec34_filledBy hd
  · exact dec35_filledBy hd
  · exact dec38_filledBy hd
  · exact dec39_filledBy hd
  · exact dec3A_filledBy hd
  · exact dec3B_filledBy hd
  · exact dec3C_filledBy hd
  · exact dec3D_filledBy hd
  · exact dec3E_filledBy hd
  · cases hd

end

/-! ## What the word of an instruction decodes to -/

section
variable {i : Instr} {m : BitVec 6} {n : BitVec 2} {h : Hdr} {w : Nat} {l : Option Word} {f : Fields} {c4 c5 : Bool}

theorem decR3_of_reads {d a : Reg} {b : Src} {mk : Reg → Reg → Src → Instr} (hr : Reads w (fmtR n d a b))
    (hc : (mk d a b).codesOk = true) (hk : (mk d a b).regsOk = true) : decR3 w mk = .ok (mk d a b) := by
  obtain ⟨rfl, rfl, ⟨hs, rfl⟩, -⟩ := reads_fmtR.1 hr
  exact finish_eq_ok.2 ⟨rfl, hs, hc, hk, rfl⟩

theorem fldN_of_reads_fmtR {d a : Reg} {b : Src} (hr : Reads w (fmtR n d a b)) : fldN w = n.toNat := by
  simp [reads_fmtR.1 hr]

theorem decU3_of_reads {d a b : SReg} {mk : SReg → SReg → SReg → Instr} (hr : Reads w (fmtU n d a b))
    (hc : (mk d a b).codesOk = true) (hk : (mk d a b).regsOk = true) : decU3 w mk = .ok (mk d a b) := by
  simp [decU3, reads_fmtU.1 hr, finish_eq_ok, hc, hk]

theorem fldN_of_reads_fmtU {d a b : SReg} (hr : Reads w (fmtU n d a b)) : fldN w = n.toNat := by
  simp [reads_fmtU.1 hr]

theorem finishLit_fields_ok {mk : Nat → Option Instr} {g : Fields} (hg : fieldBits g = 32)
    (hm : ∀ l, Reads l g → mk l = some i) (h4 : c4 = true) (h5 : c5 = true) (hc : i.codesOk = true)
    (hk : i.regsOk = true) : finishLit (litWord g) c4 c5 mk = .ok i :=
  finishLit_eq_ok.2 ⟨_, rfl, hm _ ((litWord_eq_some hg).1 rfl), h4, h5, hc, hk⟩

theorem decodeMajor_of_reads (he : encBody i = some (m, f, l)) (hr : Reads w f) (hc : i.codesOk = true)
    (hk : i.regsOk = true) : decodeMajor m.toNat i.hdr w l = .ok i := by
  cases i <;> cases he
  case nop h | yield h | bkpt h t =>
    change dec00 h w = _
    simp [dec00, reads_fmtZ.1 hr, finish_eq_ok, hc, hk]
  case bra h off =>
    change finish true true (.bra h (fld w 0 21)) = _
    simp_all [finish_eq_ok]
  case brx h a | callx h d a | ret h a =>
    change dec02 h w none = _
    simp [dec02, reads_fmtR2.1 hr, finish_eq_ok, hc, hk]
  case call h d v =>
    have hd : evenField d = true := hk
    change dec02 h w (some v) = _
    simp [dec02, reads_fmtR2.1 hr, finishLit_eq_ok, hc, hk, hd]
  case exit h | setm h a | getm h d =>
    change dec03 h w none = _
    simp [dec03, reads_fmtR2.1 hr, finish_eq_ok, hc, hk]
  case meet h d v =>
    have hd : evenField d = true := hk
    change dec03 h w (some v) = _
    simp [dec03, reads_fmtR2.1 hr, finishLit_eq_ok, hc, hk, hd]
  case rgn h | trap h t =>
    change dec04 h w = _
    simp [dec04, reads_fmtZ.1 hr, finish_eq_ok, hc, hk]
  case addI32 | subI32 | addxN32 | subxN32 | addI64 | subI64 | mulwI32 | madwI32 | mulI32 | mulhiI32 |
      mulhiN32 | madI32 | divI32 | divN32 | remI32 | remN32 | andB32 | orB32 | xorB32 | andnB32 | minI32 |
      minN32 | maxI32 | maxN32 | shlB32 | shrN32 | shrI32 | bpermB32 | addF32 | subF32 | mulF32 | fmaF32 |
      addF16x2 | mulF16x2 | fmaF16x2 | maxF16x2 | addBf16x2 | mulBf16x2 | fmaBf16x2 | maxBf16x2 | shflIdx |
      shflUp | shflDown | shflXor =>
    change (match fldN w with | 0 => decR3 w _ | 1 => decR3 w _ | 2 => decR3 w _ | _ => decR3 w _) = _
    rw [fldN_of_reads_fmtR hr]
    exact decR3_of_reads hr hc hk
  case addI32Imm h d a imm =>
    change finish true true (.addI32Imm h (fldD w) (fldA w) (fld w 0 9)) = _
    simp_all [finish_eq_ok]
  case shlB32Imm h d a n | shrN32Imm h d a n | shrI32Imm h d a n | rotB32 h d a n
      | popcB32 h d a | clzB32 h d a | absI32 h d a | negI32 h d a =>
    change dec10 h w = _
    simp [dec10, reads_fmtH.1 hr, finish_eq_ok, hc, hk]
  case bfxN32 h d a b | bfxI32 h d a b | bfiB32 h d a b =>
    change dec11 h w = _
    simp only [dec11, fldN_of_reads_fmtR hr, BitVec.ofNat_eq_ofNat, BitVec.reduceToNat]
    exact decR3_of_reads hr hc hk
  case movi h d imm =>
    change finish true true (.movi h (fld w 16 5) (fld w 0 16)) = _
    simp [reads_fmtK.1 hr, finish_eq_ok, hc, hk]
  case movhi h d imm =>
    change finish true true (.movhi h (fld w 16 5) (fld w 0 16)) = _
    simp [reads_fmtK.1 hr, finish_eq_ok, hc, hk]
  case cmp h t cc pd a b =>
    change dec18 h w = _
    have hs := src_iff (w := w) (b := b)
    simp_all [dec18, finish_eq_ok, Cc.ofCode_code, CmpT.ofCode_code]
  case cmpi h cc pd a imm =>
    change dec19 h w = _
    simp_all [dec19, finish_eq_ok, Cc.ofCode_code]
  case fcmp h cc pd a b =>
    change dec1A h w = _
    have hs := src_iff (w := w) (b := b)
    simp_all [dec1A, finish_eq_ok, FCc.ofCode_code]
  case sel h d a b p =>
    change finish true true (.sel h (fldD w) (fldA w) (fldB w) (fld w 0 3)) = _
    simp [reads_fmtO.1 hr, finish_eq_ok, hc, hk]
  case movB32 h d a | movB64 h d a =>
    change dec1C h w none = _
    simp [dec1C, reads_fmtO.1 hr, finish_eq_ok, hc, hk]
  case movLit h d v =>
    change dec1C h w (some v) = _
    simp [dec1C, reads_fmtO.1 hr, finishLit_eq_ok, hc, hk]
  case movB32S h d u | xset h k a | xidx h k a | rdx h d k | wrx h k a =>
    change dec1C h w none = _
    simp_all [dec1C, finish_eq_ok, flag1]
  case plop h op pd pa na pb nb =>
    change dec1C h w none = _
    simp_all [dec1C, finish_eq_ok, dec1Cplop, Lop.ofCode_code]
  case ld h d a sb sz off | st h d a sb sz off =>
    change dec1D h w (some off) = _
    simp [dec1D, reads_fmtM.1 hr, finish_eq_ok, hc, hk, offOf, Size.ofCode_code]
  case minF32 h d a b | maxF32 h d a b =>
    change dec21 h w = _
    simp only [dec21, fldN_of_reads_fmtR hr, BitVec.ofNat_eq_ofNat, BitVec.reduceToNat]
    exact decR3_of_reads hr hc hk
  case absF32 h d a | negF32 h d a =>
    change dec21 h w = _
    simp [dec21, reads_fmtR2.1 hr, finish_eq_ok, hc, hk, decR2]
  case pmergeF32 h d a b =>
    change dec24 h w = _
    simp [dec24, reads_fmtR2.1 hr, finish_eq_ok, hc, hk]
  case cvt h d a tD tS rz =>
    change finish true true (.cvt h (fldD w) (fldA w) (Fmt.ofCode (fld w 5 4)) (Fmt.ofCode (fld w 1 4)) (flag1 w 0)) = _
    simp_all [finish_eq_ok, Fmt.ofCode_code]
  case scalex h d a t =>
    change finish (fld w 0 5 == 0) true (.scalex h (fldD w) (fldA w) (Fmt.ofCode (fld w 5 4))) = _
    simp_all [finish_eq_ok, Fmt.ofCode_code]
  case ex2F32 h d a sb | lg2F32 h d a sb | rcpF32 h d a sb | rsqF32 h d a sb | sinF32 h d a sb | cosF32 h d a sb =>
    change dec2A h w = _
    simp [dec2A, reads_fmtF.1 hr, finish_eq_ok, hc, hk]
  case uaddI32 h d a b | usubI32 h d a b | umulI32 h d a b =>
    change dec2C h w none = _
    simp only [dec2C, fldN_of_reads_fmtU hr, BitVec.ofNat_eq_ofNat, BitVec.reduceToNat]
    exact decU3_of_reads hr hc hk
  case umovlB32 h d v =>
    change dec2C h w (some v) = _
    simp [dec2C, reads_fmtU.1 hr, finishLit_eq_ok, hc, hk, fld_six_eq_zero_iff]
  case uandB32 h d a b | uorB32 h d a b | ushlB32 h d a b | ushrN32 h d a b =>
    change dec2D h w = _
    simp only [dec2D, fldN_of_reads_fmtU hr, BitVec.ofNat_eq_ofNat, BitVec.reduceToNat]
    exact decU3_of_reads hr hc hk
  case sld h d a sb sp sz off =>
    change dec2E h w (some off) = _
    simp_all [dec2E, finish_eq_ok, offOf, Size.ofCode_code, Space.ofCode_code]
  case voteAll h pd na pa | voteAny h pd na pa =>
    change dec30 h w = _
    simp [dec30, reads_fmtVote.1 hr, finish_eq_ok, hc, hk]
  case voteBallot h d na pa | rdfl h d a =>
    change dec30 h w = _
    simp_all [dec30, finish_eq_ok]
  case bar h =>
    change dec32 h w = _
    simp [dec32, reads_fmtR2.1 hr, finish_eq_ok, hc, hk]
  case gbar h u | bcast h d a u =>
    change dec32 h w = _
    simp [dec32, reads_fmtR_u.1 hr, finish_eq_ok, hc, hk]
  case grow h k | shrink h k =>
    change dec33 h w = _
    simp_all [dec33, finish_eq_ok]
  case take h d | spawn h a =>
    change dec33 h w = _
    simp [dec33, reads_fmtR2.1 hr, finish_eq_ok, hc, hk]
  case req h d a sb sz =>
    change dec34 h w = _
    simp [dec34, reads_fmtM.1 hr, finish_eq_ok, hc, hk, Size.ofCode_code]
  case boinit h a b | boarrive h d a | bowait h a b =>
    change dec35 h w = _
    simp [dec35, reads_fmtR2.1 hr, finish_eq_ok, hc, hk]
  case ldSpace h d a sb sp sz off =>
    change dec38 h w (some off) = _
    simp [dec38, reads_fmtM.1 hr, finish_eq_ok, hc, hk, offOf, Size.ofCode_code, Space.ofCode_code]
  case stSpace h d a sb sp sz off =>
    change dec39 h w (some off) = _
    simp [dec39, reads_fmtM.1 hr, finish_eq_ok, hc, hk, offOf, Size.ofCode_code, Space.ofCode_code]
  case atom h d a b op ty c =>
    change dec3A h w (litWord (ctlFields op ty c)) = _
    simp only [dec3A, reads_fmtO.1 hr, BitVec.ofNat_eq_ofNat, BitVec.reduceToNat]
    exact finishLit_fields_ok rfl
      (fun _ hl => map_decCtl_eq_some.2 ⟨(op, ty, c), hl, by simp [reads_fmtO.1 hr]⟩) rfl rfl hc hk
  case cas h d a b ty c | ldAtomic h d a ty c | stAtomic h a b ty c =>
    change dec3A h w (litWord (ctlFields .add ty c)) = _
    simp only [dec3A, reads_fmtO.1 hr, BitVec.ofNat_eq_ofNat, BitVec.reduceToNat]
    exact finishLit_fields_ok rfl (fun _ hl => decCtl0_eq_some.2 ⟨(ty, c), hl, by simp [reads_fmtO.1 hr]⟩)
      (by simp [reads_fmtO.1 hr]) rfl hc hk
  case fence h sc o =>
    change dec3B h w = _
    simp_all [dec3B, finish_eq_ok, dec3Bfence, Scope.ofCode_code, Order.ofCode_code]
  case shedDropL1 h a b | shedCleanGrove h a b | shedDropL1All h | warmGrove h a b | warmL1 h a b =>
    change dec3B h w = _
    simp [dec3B, reads_fmtCctl.1 hr, finish_eq_ok, hc, hk]
  case claim h mask | rels h mask | kset h k a b | accz h acc =>
    change dec3C h w none = _
    simp_all [dec3C, finish_eq_ok]
  case ldt h sb os a s | stt h sb os a s =>
    have hA : (evenField a && flagField sb) = true := hk
    change dec3C h w (litWord _) = _
    simp only [dec3C, reads_fmtLdt.1 hr, BitVec.ofNat_eq_ofNat, BitVec.reduceToNat]
    exact finishLit_fields_ok rfl (fun _ hl => decShape_eq_some.2 ⟨s, hl, rfl⟩) rfl hA hc hk
  case accld h sb acc a | accst h sb acc a | accstBf16 h sb acc a | accstF16 h sb acc a =>
    change dec3C h w none = _
    simp [dec3C, reads_fmtAcc.1 hr, finish_eq_ok, hc, hk]
  case mxsave h sb a | mxrest h sb a =>
    change dec3C h w none = _
    simp [dec3C, reads_fmtE.1 hr, finish_eq_ok, hc, hk]
  case draw h mode sb d acc ps =>
    obtain ⟨hA, -⟩ : (evenField d && flagField sb) = true ∧ (ps.toNat % 8 == 0) = true := Bool.and_eq_true_iff.1 hk
    simp only [reads_cons, reads_nil, fieldBits_cons, fieldBits_nil, Nat.reduceAdd] at hr
    change dec3C h w (litWord _) = _
    simp only [dec3C, hr, BitVec.ofNat_eq_ofNat, BitVec.reduceToNat, DrawMode.ofCode_code]
    exact finishLit_fields_ok rfl (fun _ hl => decDrawLit_eq_some.2 ⟨(acc, ps), hl, rfl⟩) rfl hA hc hk
  case accept h sb d p q ps =>
    obtain ⟨hA, -⟩ : (evenField d && flagField sb) = true ∧ (ps.toNat % 8 == 0) = true := Bool.and_eq_true_iff.1 hk
    change dec3C h w (litWord _) = _
    simp only [dec3C, reads_fmtE.1 hr, BitVec.ofNat_eq_ofNat, BitVec.reduceToNat]
    exact finishLit_fields_ok rfl (fun _ hl => decAcceptLit_eq_some.2 ⟨(p, q, ps), hl, rfl⟩) rfl hA hc hk
  case mma h ta tb k acc oa ob =>
    change dec3C h w none = _
    have hs : fld w 18 3 = 5 := (reads_cons.1 hr).1
    rcases mma_code_iff.1 hs with hs | hs | hs | hs <;> simp_all [dec3C, finish_eq_ok]
  case strmIn h sb a b s | strmOut h sb a b s =>
    have hA : (evenField a && flagField sb) = true := hk
    change dec3D h w (litWord _) = _
    simp only [dec3D, reads_fmtE.1 hr, BitVec.ofNat_eq_ofNat, BitVec.reduceToNat]
    exact finishLit_fields_ok rfl (fun _ hl => decShape_eq_some.2 ⟨s, hl, rfl⟩) rfl hA hc hk
  case xform h sb a b s x =>
    have hA : (evenField a && flagField sb) = true := hk
    change dec3D h w (litWord _) = _
    simp only [dec3D, reads_fmtE.1 hr, BitVec.ofNat_eq_ofNat, BitVec.reduceToNat]
    exact finishLit_fields_ok rfl (fun _ hl => decXformLit_eq_some.2 ⟨(s, x), hl, rfl⟩) rfl hA hc hk
  case gnode h sb a | link h sb a b | unlink h sb a | unlinkCmp h sb a | segrd h sb a | segrdRw h sb a | gpw h sb n b =>
    change dec3D h w none = _
    simp [dec3D, reads_fmtE.1 hr, finish_eq_ok, hc, hk]
  case watch h sb a d | unwatch h sb a | tlbinv h sb a =>
    change dec3E h w = _
    simp [dec3E, reads_fmtE.1 hr, finish_eq_ok, hc, hk]
  case srd h d y | swr h a y | tret h =>
    change dec3E h w = _
    simp_all [dec3E, finish_eq_ok]

end

/-! ## The round trip -/

theorem decode_eq_ok {w : Word} {lit : Option Word} {i : Instr} : decode w lit = .ok i ↔
    (decHdr w.toNat).ok = true ∧ decodeMajor (fld w.toNat 21 6).toNat (decHdr w.toNat) w.toNat lit = .ok i := by
  unfold decode
  split_ifs <;> simp_all

theorem encode_eq_some {i : Instr} {w : Word} {l : Option Word} : encode i = some (w, l) ↔
    ∃ m f, encBody i = some (m, f, l) ∧ decHdr w.toNat = i.hdr ∧ fld w.toNat 21 6 = m ∧ Reads w.toNat f := by
  simp only [encode, Option.map_eq_some_iff, Prod.mk.injEq]
  constructor
  · rintro ⟨⟨m, f, l'⟩, he, hw, rfl⟩
    exact ⟨m, f, he, (word_eq (encBody_bits i _ he)).1 hw⟩
  · rintro ⟨m, f, he, hw⟩
    exact ⟨(m, f, l), he, (word_eq (encBody_bits i _ he)).2 hw, rfl⟩

theorem wf_iff {i : Instr} : i.wf = true ↔ i.hdr.ok = true ∧ i.codesOk = true ∧ i.regsOk = true := by
  simp [Instr.wf, and_assoc]

theorem decode_of_encode {i : Instr} {w : Word} {lit : Option Word} (hi : i.wf = true) (he : encode i = some (w, lit)) :
    decode w lit = .ok i := by
  obtain ⟨hh, hc, hk⟩ := wf_iff.1 hi
  obtain ⟨m, f, hb, hw, rfl, hr⟩ := encode_eq_some.1 he
  rw [decode_eq_ok, hw]
  exact ⟨hh, decodeMajor_of_reads hb hr hc hk⟩

theorem encode_of_decode {i : Instr} {w : Word} {lit : Option Word} (hd : decode w lit = .ok i) :
    i.wf = true ∧ ∃ l, encode i = some (w, l) ∧ ∀ v, l = some v → v = lit.getD 0 := by
  obtain ⟨hh, hm⟩ := decode_eq_ok.1 hd
  obtain ⟨hdr, hc, hk, f, l, hb, hr, hl⟩ := decodeMajor_filledBy hm
  rw [BitVec.ofNat_toNat, BitVec.setWidth_eq] at hb
  refine ⟨wf_iff.2 ⟨hdr ▸ hh, hc, hk⟩, l, encode_eq_some.2 ⟨_, f, hb, hdr.symm, rfl, hr⟩, ?_⟩
  rintro v rfl
  simpa using hl

/-- Settles O57: a word is that of a well-formed instruction exactly when it decodes to it. -/
theorem encodingRoundTrip : Obligations.EncodingRoundTrip :=
  ⟨fun _ _ _ => decode_of_encode, fun _ _ _ => encode_of_decode⟩

/-- Settles O56: each word is decoded by evaluation. -/
theorem decodeWords : Obligations.DecodeWords := by
  unfold Obligations.DecodeWords
  decide

end Sys2Proof
end

section
/-!
PROOFS. Accesses as they are performed (R96, R99, R258 to R264): what a state keeps when a part of an access reads or
writes storage, which registers its result reaches, and what its completion does to its flag.
-/

namespace Sys2Proof.Machine

/-! ## Cores -/

theorem State.core_id (s : State) (id : Nat) : (s.core id).id = id := by
  unfold State.core
  cases hc : s.cores.find? (·.id == id) with
  | none => rfl
  | some c => simpa using List.find?_some hc

theorem find?_setCoreIn (l : List Core) (c : Core) (id : Nat) :
    (setCoreIn l c).find? (·.id == id) = if c.id = id then some c else l.find? (·.id == id) := by
  induction l with
  | nil => by_cases h : c.id = id <;> simp [setCoreIn, h]
  | cons d r ih =>
    by_cases hd : d.id = c.id <;> by_cases h : c.id = id <;>
      simp_all [setCoreIn, List.find?_cons]
    

theorem State.core_setCore (s : State) (c : Core) (id : Nat) :
    (s.setCore c).core id = if c.id = id then c else s.core id := by
  simp only [State.core, State.setCore, find?_setCoreIn]
  split <;> rfl

/-- The states differ in the caches and race shadows of cores alone: a core has the quarters that it had. -/
structure State.CachesOnly (s t : State) : Prop where
  state : t = { s with cores := t.cores }
  quarters : ∀ id, (t.core id).quarters = (s.core id).quarters

namespace State.CachesOnly
variable {s t u : State}

theorem refl (s : State) : s.CachesOnly s := ⟨rfl, fun _ => rfl⟩

theorem trans (h : s.CachesOnly t) (k : t.CachesOnly u) : s.CachesOnly u :=
  ⟨by rw [k.state, h.state], fun id => (k.quarters id).trans (h.quarters id)⟩

theorem setCore {c : Core} (hq : c.quarters = (s.core c.id).quarters) : s.CachesOnly (s.setCore c) :=
  ⟨rfl, fun id => by rw [core_setCore]; split <;> simp_all⟩

theorem foldl {α : Type} (f : State → α → State) (hf : ∀ (s : State) a, s.CachesOnly (f s a)) (l : List α) (s : State) :
    s.CachesOnly (l.foldl f s) := by
  induction l generalizing s with
  | nil => exact refl s
  | cons a r ih => exact (hf s a).trans (ih _)

theorem allocLine (s : State) (core k : Nat) (l : Loc) : s.CachesOnly (s.allocLine core k l) := by
  unfold State.allocLine
  split
  · exact refl s
  · dsimp only
    split
    · exact refl s
    · exact setCore (by rw [core_id])

theorem dropLine (s : State) (core : Nat) (ws : Bool) (a : Nat) : s.CachesOnly (s.dropLine core ws a) := by
  unfold State.dropLine
  dsimp only
  split
  · exact setCore (by rw [core_id])
  · exact refl s

theorem dropL1 (s : State) (core : Nat) : s.CachesOnly (s.dropL1 core) := by
  unfold State.dropL1
  dsimp only
  split
  · exact refl s
  · exact setCore (by rw [core_id])

theorem touchL1 (s : State) (w : Writer) (pa : Nat) (v : List Byte) : s.CachesOnly (s.touchL1 w pa v) := by
  unfold State.touchL1
  dsimp only
  split
  · exact refl s
  · split
    · exact setCore (by rw [core_id])
    · exact refl s

theorem clearShadow (s : State) (ls : List Loc) : s.CachesOnly (s.clearShadow ls) :=
  foldl _ (fun (s : State) w => by
    dsimp only
    split
    · exact refl s
    · exact setCore (by rw [core_id])) _ s

end State.CachesOnly

theorem Core.raceCheck_frame (c : Core) (band gen : Nat) (pc : DWord) (write : Bool) (w : Nat) :
    (c.raceCheck band gen pc write w).id = c.id ∧ (c.raceCheck band gen pc write w).quarters = c.quarters := by
  unfold Core.raceCheck
  dsimp only
  repeat' split
  all_goals exact ⟨rfl, rfl⟩

namespace State.CachesOnly

theorem race (s : State) (b : Band) (word : DWord) (locs : List Loc) (write : Bool) :
    s.CachesOnly (s.race b word locs write) := by
  unfold State.race
  split
  · refine foldl _ (fun (u : State) w => ?_) _ s
    obtain ⟨hid, hq⟩ := (u.core w.1).raceCheck_frame b.num ((((s.crew b.crew).map (·.barGen)).getD 0) % 128) word write w.2
    exact setCore (by rw [hid, hq, core_id])
  · exact refl s

theorem shadowed (s : State) (b : Band) (word : DWord) (locs : List Loc) (isLocal plain write : Bool) :
    s.CachesOnly (s.shadowed b word locs isLocal plain write) := by
  unfold State.shadowed
  split
  · split
    · exact race s b word locs write
    · exact refl s
  · split
    · exact clearShadow s locs
    · exact refl s

end State.CachesOnly

/-! ## Bytes at their places -/

theorem State.CachesOnly.readLoc {s t : State} (h : s.CachesOnly t) (x : Loc) : t.readLoc x = s.readLoc x := by
  rw [h.state]; cases x <;> rfl

theorem State.CachesOnly.writeLoc {s t : State} (h : s.CachesOnly t) (l : Loc) (v : Byte) :
    (s.writeLoc l v).CachesOnly (t.writeLoc l v) := by
  have hc : ∀ u : State, (u.writeLoc l v).cores = u.cores := fun u => by cases l <;> rfl
  refine ⟨?_, fun id => ?_⟩
  · rw [hc, h.state]; cases l <;> rfl
  · rw [State.core, State.core, hc, hc]; exact h.quarters id

theorem State.CachesOnly.writeLocs : (ls : List Loc) → (vs : List Byte) → {s t : State} → s.CachesOnly t →
    (s.writeLocs ls vs).CachesOnly (t.writeLocs ls vs)
  | [], _, _, _, h => by simpa [State.writeLocs] using h
  | _ :: _, [], _, _, h => by simpa [State.writeLocs] using h
  | l :: ls, v :: vs, _, _, h => (h.writeLoc l v).writeLocs ls vs

theorem State.writeLocs_append (ls ms : List Loc) (v w : List Byte) (s : State) (h : ls.length = v.length) :
    s.writeLocs (ls ++ ms) (v ++ w) = (s.writeLocs ls v).writeLocs ms w := by
  induction ls generalizing v s with
  | nil =>
    obtain rfl := List.length_eq_zero_iff.1 h.symm
    simp [State.writeLocs]
  | cons l ls ih =>
    obtain ⟨x, v, rfl⟩ := List.exists_cons_of_length_eq_add_one h.symm
    exact ih v _ (by simpa using h)

/-- A write at its places is one on storage alone. -/
theorem State.writeLocs_frame : (ls : List Loc) → (vs : List Byte) → (s : State) → s.writeLocs ls vs =
    { s with mem := (s.writeLocs ls vs).mem, ws := (s.writeLocs ls vs).ws, scr := (s.writeLocs ls vs).scr }
  | [], _, _ => by simp [State.writeLocs]
  | _ :: _, [], _ => by simp [State.writeLocs]
  | l :: ls, v :: vs, s => by
    have ih := State.writeLocs_frame ls vs (s.writeLoc l v)
    rw [State.writeLocs, ih]
    cases l <;> rfl

/-- Each of some different places holds its byte after the write. -/
theorem State.readLoc_writeLocs_on (ls : List Loc) (vs : List Byte) (s : State) (hn : ls.Nodup)
    (hl : ls.length = vs.length) (k : Nat) (h : k < ls.length) : (s.writeLocs ls vs).readLoc ls[k] = vs.getD k 0 := by
  induction ls generalizing vs s k with
  | nil => simp at h
  | cons l ls ih =>
    obtain ⟨v, vs, rfl⟩ := List.exists_cons_of_length_eq_add_one hl.symm
    obtain ⟨hx, hn⟩ := List.nodup_cons.1 hn
    rw [State.writeLocs]
    cases k with
    | zero =>
      rw [List.getElem_cons_zero, State.readLoc_writeLocs_off ls vs _ hx, State.readLoc_writeLoc, if_pos rfl]; rfl
    | succ k =>
      rw [List.getElem_cons_succ, ih vs _ hn (by simpa using hl) k (by simpa using h)]; rfl

/-! ## Runs -/

/-- The places of `n` bytes of memory from `a` on. -/
def memRun (a : Nat) : Nat → List Loc
  | 0 => []
  | n + 1 => .mem a :: memRun (a + 1) n

@[simp] theorem length_memRun (a n : Nat) : (memRun a n).length = n := by
  induction n generalizing a with
  | zero => rfl
  | succ n ih => simp [memRun, ih]

theorem mem_memRun {a n x : Nat} (h1 : a ≤ x) (h2 : x < a + n) : Loc.mem x ∈ memRun a n := by
  induction n generalizing a with
  | zero => omega
  | succ n ih =>
    rcases Nat.eq_or_lt_of_le h1 with rfl | h
    · exact .head _
    · exact .tail _ (ih h (by omega))

theorem take_runLen : (a : Nat) → (ls : List Loc) →
    (Loc.mem a :: ls).take (runLen (.mem a :: ls)) = memRun a (runLen (.mem a :: ls))
  | a, [] => rfl
  | a, .ws _ :: _ => rfl
  | a, .scr _ :: _ => rfl
  | a, .mem b :: ls => by
    by_cases h : b = a + 1
    · subst h
      have ih := take_runLen (a + 1) ls
      have e : runLen (.mem a :: .mem (a + 1) :: ls) = runLen (.mem (a + 1) :: ls) + 1 := by
        rw [runLen, if_pos rfl, Nat.add_comm]
      rw [e, List.take_succ_cons, ih, memRun]
    · rw [runLen, if_neg h]; rfl

theorem runLen_pos (a : Nat) (ls : List Loc) : 0 < runLen (.mem a :: ls) := by
  unfold runLen
  split
  · split <;> omega
  · exact Nat.one_pos
  · simp at *

theorem State.writeLocs_memRun : (v : List Byte) → (a : Nat) → (s : State) →
    s.writeLocs (memRun a v.length) v = { s with mem := s.mem.writeN a v }
  | [], _, _ => by simp [State.writeLocs, memRun, Memory.writeN]
  | b :: v, a, s => by
    rw [List.length_cons, memRun, State.writeLocs, State.writeLocs_memRun v]; rfl

theorem mem_blocksOf {a n b : Nat} (h : b ∈ blocksOf a n) : ∃ x, a ≤ x ∧ x < a + n ∧ x / 256 = b := by
  unfold blocksOf at h
  split at h
  · cases h
  · obtain ⟨i, hi, rfl⟩ := List.mem_map.1 h
    have hi := List.mem_range.1 hi
    exact ⟨max a ((a / 256 + i) * 256), by omega, by omega, by omega⟩

/-! ## Writes that need no sector and meet no watch -/

theorem State.blocked_eq_false {s : State} {bs : List Nat} :
    s.blocked bs = false ↔ ∀ d ∈ s.dies.toList, ∀ x ∈ d.blocks, x.2 ∉ bs := by
  simp only [State.blocked, List.any_eq_false, Bool.not_eq_true, List.contains_iff_mem]

/-- A byte of scratchpad, or of uncompressed memory in a block where no write waits for sectors. -/
def State.freeAt (s : State) (x : Loc) : Prop :=
  (∃ k, x = .scr k) ∨ ∃ k, x = .mem k ∧ s.compressed (k / 256 * 256) = false ∧ s.blocked [k / 256] = false

theorem State.freeAt_congr {s t : State} (hb : t.boot = s.boot) (hd : t.dies = s.dies) (x : Loc) :
    t.freeAt x ↔ s.freeAt x := by
  simp only [State.freeAt, State.compressed, State.blocked, hb, hd]

theorem State.write_free {s : State} (hw : s.watches = []) (w : Writer) {a : Nat} {v : List Byte}
    (hf : ∀ x ∈ memRun a v.length, s.freeAt x) :
    ∃ t, s.write w a v = some t ∧ State.CachesOnly { s with mem := s.mem.writeN a v } t := by
  have hb : ∀ b ∈ blocksOf a v.length, s.compressed (b * 256) = false ∧ s.blocked [b] = false := by
    intro b hb
    obtain ⟨x, h1, h2, rfl⟩ := mem_blocksOf hb
    obtain ⟨k, hk⟩ | ⟨k, hk, h⟩ := hf _ (mem_memRun h1 h2)
    · cases hk
    · cases hk; exact h
  have hbl : s.blocked (blocksOf a v.length) = false :=
    State.blocked_eq_false.2 fun d hd x hx hm =>
      State.blocked_eq_false.1 (hb _ hm).2 d hd x hx (.head _)
  have hc : ((blocksOf a v.length).filter fun b => s.compressed (b * 256)) = [] :=
    List.filter_eq_nil_iff.2 fun b hm => by simp [(hb b hm).1]
  have hp : s.putMem w.ctx w.book a v = some { s with mem := s.mem.writeN a v } := by
    simp [State.putMem, hbl, hc, State.charge]
  have ht := State.CachesOnly.touchL1 { s with mem := s.mem.writeN a v } w a v
  have hk : State.checkWatches (State.touchL1 { s with mem := s.mem.writeN a v } w a v) w s.mem a v.length =
      (State.touchL1 { s with mem := s.mem.writeN a v } w a v, []) := by
    have : (State.touchL1 { s with mem := s.mem.writeN a v } w a v).watches = [] := by rw [ht.state]; exact hw
    simp [State.checkWatches, this]
  refine ⟨_, ?_, ht⟩
  rw [State.write, State.write1, hp, Option.map_some, hk, Option.map_some, State.post, State.postAll_nil]

theorem State.writeRuns_free (w : Writer) (n : Nat) (ls : List Loc) (v : List Byte) (s : State)
    (hw : s.watches = []) (hf : ∀ x ∈ ls, s.freeAt x) (hl : ls.length = v.length) (hn : ls.length ≤ n) :
    ∃ t, s.writeRuns w n ls v = some t ∧ (s.writeLocs ls v).CachesOnly t := by
  induction n generalizing ls v s with
  | zero =>
    obtain rfl := List.length_eq_zero_iff.1 (Nat.le_zero.1 hn)
    exact ⟨s, by rw [State.writeRuns], by simpa [State.writeLocs] using .refl s⟩
  | succ n ih =>
    cases ls with
    | nil => exact ⟨s, by simp [State.writeRuns], by simpa [State.writeLocs] using .refl s⟩
    | cons l ls =>
      obtain ⟨x, v, rfl⟩ := List.exists_cons_of_length_eq_add_one hl.symm
      cases l with
      | scr a =>
        exact ih ls v (s.writeLoc (.scr a) x) hw (fun y hy => hf y (.tail _ hy)) (by simpa using hl) (by simpa using hn)
      | ws a => obtain ⟨k, hk⟩ | ⟨k, hk, -⟩ := hf _ (.head _) <;> cases hk
      | mem a =>
        generalize hL : Loc.mem a :: ls = L at *
        generalize x :: v = V at *
        have hrun : L.take (runLen L) = memRun a (runLen L) := by rw [← hL]; exact take_runLen a ls
        have hpos : 0 < runLen L := by rw [← hL]; exact runLen_pos a ls
        have hk : runLen L ≤ L.length := by
          have := congrArg List.length hrun
          rw [List.length_take, length_memRun] at this
          omega
        have hV : (V.take (runLen L)).length = runLen L := by rw [List.length_take]; omega
        obtain ⟨t1, hw1, hc1⟩ := State.write_free hw w (a := a) (v := V.take (runLen L)) (by
          rw [hV, ← hrun]
          exact fun y hy => hf y (List.mem_of_mem_take hy))
        have ht1 := hc1.state
        obtain ⟨t, hr, hc⟩ := ih (L.drop (runLen L)) (V.drop (runLen L)) t1 (by rw [ht1]; exact hw)
          (fun y hy => (State.freeAt_congr (by rw [ht1]) (by rw [ht1]) y).2 (hf y (List.mem_of_mem_drop hy)))
          (by simp [hl]) (by rw [List.length_drop]; omega)
        refine ⟨t, ?_, ?_⟩
        · rw [← hL, State.writeRuns]
          simp only [hL, hw1, hr]
        · rw [← State.writeLocs_memRun, hV, ← hrun] at hc1
          have happ := State.writeLocs_append (L.take (runLen L)) (L.drop (runLen L)) (V.take (runLen L))
            (V.drop (runLen L)) s (by rw [List.length_take, List.length_take, hl])
          rw [List.take_append_drop, List.take_append_drop] at happ
          rw [happ]
          exact (hc1.writeLocs _ _).trans hc

/-! ## Results into registers (R19) -/

theorem Band.putReg_frame (b : Band) (t : Nat) (r : RegName) (v : DWord) :
    b.putReg t r v = { b with lanes := (b.putReg t r v).lanes, s := (b.putReg t r v).s } := by cases r <;> rfl

theorem Band.getReg_putReg_same (b : Band) {t : Nat} (ht : t < 32) (r : RegName) (v : DWord) :
    (b.putReg t r v).getReg t r = r.fit v := by
  cases r with
  | s u => simp [Band.putReg, Band.getReg, RegName.fit]
  | _ => simp only [Band.putReg, Band.getReg, Band.lane_setLane, ht, and_self, if_true, Lane.get_put, RegName.uniform]

theorem Band.getReg_putReg_other (b : Band) (t u : Nat) {r q : RegName} (h : q ≠ r) (v : DWord) :
    (b.putReg t r v).getReg u q = b.getReg u q := by
  cases r with
  | s x =>
    cases q with
    | s y =>
      have : ¬x.toNat = y.toNat := fun e => h (by rw [BitVec.eq_of_toNat_eq e])
      simp [Band.putReg, Band.getReg, this]
    | _ => rfl
  | _ =>
    cases q with
    | s y => rfl
    | _ =>
      simp only [Band.putReg, Band.getReg, Band.lane_setLane]
      split
      · obtain ⟨rfl, -⟩ := ‹_ ∧ _›
        rw [Lane.get_put, if_neg (fun e => h e.1)]
      · rfl

theorem Band.live_putReg (b : Band) (t u : Nat) (r : RegName) (v : DWord) :
    ((b.putReg t r v).lane u).live = (b.lane u).live := by
  have hp : ∀ (l : Lane) q w, (l.put q w).live = l.live := fun l q w => by
    have : (l.put q w).st = l.st := by rw [Lane.put_frame]
    rw [Lane.live, Lane.live, this]
  cases r with
  | s x => rfl
  | _ =>
    simp only [Band.putReg, Band.lane_setLane]
    split
    · obtain ⟨rfl, -⟩ := ‹_ ∧ _›
      exact hp _ _ _
    · rfl

/-- A register of a lane takes the result of a flagged word: it still expects it, and no other write came between. -/
structure Band.Takes (b : Band) (now id t : Nat) (r : RegName) : Prop where
  live : (b.lane t).live = true
  expected : ∃ f ∈ b.inFlight, f.id = id ∧ f.reg = r ∧ bit f.lanes (r.laneOf t) = true
  clean : ∀ f ∈ b.inFlight, f.id = id → bit f.raced (r.laneOf t) = false
  races : b.races now t r = false

theorem Band.Takes.putReg {b : Band} {now id t : Nat} {r : RegName} (h : b.Takes now id t r) (u : Nat) (q : RegName)
    (v : DWord) : (b.putReg u q v).Takes now id t r where
  live := by rw [Band.live_putReg]; exact h.live
  expected := by rw [Band.putReg_frame]; exact h.expected
  clean := by rw [Band.putReg_frame]; exact h.clean
  races := by rw [Band.putReg_frame]; exact h.races

theorem Band.Takes.putResult {b : Band} {now id t : Nat} {r : RegName} (h : b.Takes now id t r) (k : Nat) (v : Word) :
    b.putResult now k id t r v = b.putReg t r (v.setWidth 64) := by
  obtain ⟨f, hf, hid, hr, hl⟩ := h.expected
  have h1 : (b.inFlight.any fun f => f.id == id && decide (f.reg = r) && bit f.raced (r.laneOf t)) = false := by
    simp only [List.any_eq_false, Bool.and_eq_true, beq_iff_eq, not_and, Bool.not_eq_true]
    exact fun f hf hi => h.clean f hf hi.1
  have h2 : (b.inFlight.any fun f => f.id == id && decide (f.reg = r) && bit f.lanes (r.laneOf t)) = true :=
    List.any_eq_true.2 ⟨f, hf, by simp [hid, hr, hl]⟩
  simp only [Band.putResult, h.races, h1, h2, h.live]
  cases r <;> rfl

/-- The bands differ in registers alone, and in none outside `rs`. -/
structure Band.RegsOnly (b c : Band) (rs : List RegName) : Prop where
  band : c = { b with lanes := c.lanes, s := c.s }
  regs : ∀ l r, r ∉ rs → c.getReg l r = b.getReg l r

theorem Band.regsOnly_putReg (b : Band) (t : Nat) (r : RegName) (v : DWord) : b.RegsOnly (b.putReg t r v) [r] :=
  ⟨b.putReg_frame t r v, fun l q hq => b.getReg_putReg_other t l (by simpa using hq) v⟩

theorem Band.RegsOnly.trans {b c d : Band} {rs qs : List RegName} (h : b.RegsOnly c rs) (k : c.RegsOnly d qs) :
    b.RegsOnly d (rs ++ qs) where
  band := by rw [k.band, h.band]
  regs l r hr := by
    rw [List.mem_append, not_or] at hr
    rw [k.regs l r hr.2, h.regs l r hr.1]

/-- The words `ws` of a result go to the registers `ρ 0`, `ρ 1`, … of a lane that takes them. -/
theorem Band.putResult_words (now k id : Nat) {t : Nat} (ht : t < 32) (ws : List Word) (ρ : Nat → RegName) (b : Band)
    (hρ : ∀ i < ws.length, ∀ j < ws.length, ρ i = ρ j → i = j) (hb : ∀ i < ws.length, b.Takes now id t (ρ i)) :
    ∃ c, (ws.mapIdx fun i v => (i, v)).foldl (fun b p => b.putResult now k id t (ρ p.1) p.2) b = c ∧
      b.RegsOnly c ((List.range ws.length).map ρ) ∧
      ∀ i (h : i < ws.length), c.getReg t (ρ i) = (ρ i).fit (ws[i].setWidth 64) := by
  induction ws generalizing b ρ with
  | nil => exact ⟨b, rfl, ⟨rfl, fun _ _ _ => rfl⟩, fun i h => absurd h (Nat.not_lt_zero i)⟩
  | cons w ws ih =>
    have h0 := hb 0 (by simp)
    obtain ⟨c, hc, hf, hv⟩ := ih (fun i => ρ (i + 1)) (b.putReg t (ρ 0) (w.setWidth 64))
      (fun i hi j hj e => Nat.succ.inj (hρ (i + 1) (by simpa using hi) (j + 1) (by simpa using hj) e))
      (fun i hi => (hb (i + 1) (by simpa using hi)).putReg t (ρ 0) _)
    have hrange : (List.range (w :: ws).length).map ρ = [ρ 0] ++ (List.range ws.length).map fun i => ρ (i + 1) := by
      rw [List.length_cons, List.range_succ_eq_map, List.map_cons, List.map_map]; rfl
    have hnot : ρ 0 ∉ (List.range ws.length).map fun i => ρ (i + 1) := by
      intro hm
      obtain ⟨i, hi, e⟩ := List.mem_map.1 hm
      exact Nat.succ_ne_zero i (hρ (i + 1) (by simpa using hi) 0 (by simp) e)
    refine ⟨c, ?_, hrange ▸ (b.regsOnly_putReg t (ρ 0) _).trans hf, fun i h => ?_⟩
    · have hshift : (ws.mapIdx fun i v => (i + 1, v)) = (ws.mapIdx fun i v => (i, v)).map fun p => (p.1 + 1, p.2) := by
        apply List.ext_getElem <;> simp
      rw [List.mapIdx_cons, List.foldl_cons, h0.putResult k w, hshift, List.foldl_map]
      exact hc
    · cases i with
      | zero => rw [hf.regs t _ hnot, Band.getReg_putReg_same b ht]; rfl
      | succ i => exact hv i (by simpa using h)

/-! ## Completion flags -/

theorem Band.sticky_frame (b : Band) (now : Nat) (c : Word) : b.sticky now c = { b with fpLate := (b.sticky now c).fpLate } := by
  unfold Band.sticky
  split <;> rfl

theorem Band.busy_setDone (b : Band) (f : Flag) : (b.setDone f).busy f.toNat = false := by
  by_cases h : f.toNat < 12 <;> simp [Band.busy, Band.setDone, Array.getD, h]

/-- The states differ in flags and in what bands keep of words in flight; no register and no byte differs. -/
structure State.FlagsOnly (s t : State) : Prop where
  state : t = { s with bands := t.bands, late := t.late }
  regs : ∀ n l r, (t.band n).getReg l r = (s.band n).getReg l r

namespace State.FlagsOnly
variable {s t u : State}

theorem refl (s : State) : s.FlagsOnly s := ⟨rfl, fun _ _ _ => rfl⟩

theorem trans (h : s.FlagsOnly t) (k : t.FlagsOnly u) : s.FlagsOnly u :=
  ⟨by rw [k.state, h.state], fun n l r => (k.regs n l r).trans (h.regs n l r)⟩

theorem late (s : State) (l : List Late) : s.FlagsOnly { s with late := l } := ⟨rfl, fun _ _ _ => rfl⟩

theorem flagDone (s : State) (bi id : Nat) (f : Flag) (conds : Word) : s.FlagsOnly (s.flagDone bi id f conds) where
  state := rfl
  regs n l r := by
    unfold State.flagDone
    rw [band_setBand]
    split
    · obtain ⟨rfl, -⟩ := ‹_ ∧ _›
      rw [Band.sticky_frame]
      exact Band.getReg_congr rfl rfl l r
    · rfl

theorem finish (s : State) (bi id : Nat) (f : Flag) (conds : Word) : s.FlagsOnly (s.finish bi id f conds) := by
  unfold State.finish
  dsimp only
  split
  · exact refl s
  · split
    · exact late s _
    · exact flagDone s bi id f conds

theorem complete (s : State) (a : Access) : s.FlagsOnly (s.complete a) := by
  unfold State.complete
  generalize (if a.kind.hasDest || a.flag == 15 then [] else s.loadsBefore a.band a.id) = w
  dsimp only
  split
  · exact finish s _ _ _ _
  · exact late s _

theorem flushLate (s : State) : s.FlagsOnly s.flushLate := by
  unfold State.flushLate
  generalize hl : s.late.filter s.lateDue = l
  have : ∀ u : State, s.FlagsOnly u → s.FlagsOnly (l.foldl (fun s e => s.flagDone e.band e.id e.flag e.conds) u) := by
    clear hl
    induction l with
    | nil => exact fun u h => h
    | cons e l ih => exact fun u h => ih _ (h.trans (flagDone u _ _ _ _))
  exact this _ (late s _)

end State.FlagsOnly

/-- Where every flag that lags waits for an access still in flight, none becomes done. -/
theorem State.flushLate_waiting {s : State} (h : ∀ e ∈ s.late, s.lateDue e = false) : s.flushLate = s := by
  have h1 : s.late.filter s.lateDue = [] := List.filter_eq_nil_iff.2 fun e he => by simp [h e he]
  have h2 : (s.late.filter fun e => !s.lateDue e) = s.late := List.filter_eq_self.2 fun e he => by simp [h e he]
  rw [State.flushLate, h1, h2]; rfl

/-! ## Accesses in flight -/

section
variable {f : Access → Access} {id : Nat}

theorem id_of_changed (hf : ∀ a, (f a).id = a.id) (a : Access) : (if a.id == id then f a else a).id = a.id := by
  split
  · exact hf a
  · rfl

theorem State.findAccess_mapAccess (hf : ∀ a, (f a).id = a.id) (s : State) :
    (s.mapAccess id f).findAccess id = (s.findAccess id).map f := by
  simp only [State.findAccess, State.mapAccess, List.find?_map, Function.comp_def, id_of_changed hf]
  cases h : s.accesses.find? (·.id == id) with
  | none => rfl
  | some a => simp only [Option.map_some, List.find?_some h, if_true]

theorem State.others_mapAccess (hf : ∀ a, (f a).id = a.id) (s : State) :
    (s.mapAccess id f).accesses.filter (fun e => e.id != id) = s.accesses.filter fun e => e.id != id := by
  simp only [State.mapAccess, List.filter_map, Function.comp_def, id_of_changed hf]
  refine (List.map_congr_left fun a ha => ?_).trans (List.map_id _)
  have : (a.id == id) = false := by simpa using (List.mem_filter.1 ha).2
  simp [this]

theorem State.loadsBefore_mapAccess (hf : ∀ a, (f a).id = a.id ∧ (f a).band = a.band ∧ (f a).kind = a.kind) (s : State)
    (bi n : Nat) : (s.mapAccess id f).loadsBefore bi n = s.loadsBefore bi n := by
  have hg : ∀ a : Access, (if a.id == id then f a else a).id = a.id ∧ (if a.id == id then f a else a).band = a.band ∧
      (if a.id == id then f a else a).kind = a.kind := fun a => by
    split
    · exact hf a
    · exact ⟨rfl, rfl, rfl⟩
  simp only [State.loadsBefore, State.mapAccess, List.filter_map, List.map_map, Function.comp_def]
  simp only [hg]

/-- The loads that stand before an access are others. -/
theorem State.loadsBefore_others (s : State) (bi n : Nat) :
    State.loadsBefore { s with accesses := s.accesses.filter fun e => e.id != n } bi n = s.loadsBefore bi n := by
  simp only [State.loadsBefore, List.filter_filter]
  congr 2
  funext e
  by_cases h : e.id < n
  · have : e.id ≠ n := by omega
    simp [h, this]
  · simp [h]
end

/-- A band whose accesses in flight are all still to be performed, with nothing read, writes no register. -/
theorem State.nextLoads_pending {s : State} {bi : Nat}
    (h : ∀ e ∈ s.accesses, e.band = bi → e.kept = [] ∧ ∃ q ∈ e.parts, q.done = false) (n : Nat) :
    s.nextLoads bi n = s := by
  cases n with
  | zero => rfl
  | succ n =>
    unfold State.nextLoads
    cases ho : s.oldestLoad bi with
    | none => rfl
    | some a =>
      have hb := List.find?_some ho
      simp only [Bool.and_eq_true, beq_iff_eq] at hb
      obtain ⟨hk, q, hq, hd⟩ := h a (List.mem_of_find?_eq_some ho) hb.1
      have hall : a.parts.all (·.done) = false := List.all_eq_false.2 ⟨q, hq, by simp [hd]⟩
      simp [State.mayDeliver, State.deliverKept, hk, hall]

/-! ## The words of a result (R96, R261 to R263) -/

/-- The words that an access gives its destination registers for the bytes it has read. -/
def AccKind.words (k : AccKind) (v : List Byte) : List Word :=
  match k with
  | .load _ sz | .uload _ sz => loadWords sz v
  | .atom _ _ ty | .cas _ ty | .loadOrd _ ty => typeWords ty v
  | .store | .storeOrd => []

/-- The destination register of its word `i`. -/
def AccKind.wordReg (k : AccKind) (i : Nat) : RegName :=
  match k with
  | .load d _ | .atom d _ _ | .cas d _ | .loadOrd d _ => .g (d + BitVec.ofNat 6 i)
  | .uload d _ => .s (d + BitVec.ofNat 5 i)
  | .store | .storeOrd => .m

@[simp] theorem length_loadWords (sz : Size) (v : List Byte) : (loadWords sz v).length = sz.regs := by cases sz <;> rfl
@[simp] theorem length_typeWords (ty : AType) (v : List Byte) : (typeWords ty v).length = ty.regs := by simp [typeWords]

theorem AccKind.dests_eq (k : AccKind) (v : List Byte) :
    k.dests = (List.range (k.words v).length).map k.wordReg := by
  cases k <;> simp [AccKind.dests, AccKind.words, AccKind.wordReg, gs, ss]

theorem AccKind.length_words (k : AccKind) (v : List Byte) : (k.words v).length ≤ 4 := by
  have hs : ∀ sz : Size, sz.regs ≤ 4 := fun sz => by cases sz <;> decide
  have ht : ∀ ty : AType, ty.regs ≤ 4 := fun ty => by cases ty <;> decide
  cases k <;> simp [AccKind.words, hs, ht]

theorem AccKind.wordReg_inj (k : AccKind) (hk : k.hasDest = true) {i j : Nat} (hi : i < 4) (hj : j < 4)
    (h : k.wordReg i = k.wordReg j) : i = j := by
  cases k <;> simp [AccKind.wordReg, AccKind.hasDest, ← BitVec.toNat_inj] at h hk <;> omega

theorem Access.result_words (a : Access) (p : Part) (v : List Byte) (hk : a.kind.hasDest = true) :
    ∃ r, a.result p v = some r ∧ r.id = a.id ∧ r.drst = none ∧ r.lanes = [(p.lane, a.kind.words v)] ∧
      r.reg = a.kind.wordReg := by
  unfold Access.result
  cases h : a.kind <;> simp [h, AccKind.hasDest] at hk <;>
    exact ⟨_, rfl, rfl, rfl, rfl, by funext i; simp [Result.reg, AccKind.wordReg, BitVec.ofNat_add]⟩

theorem State.deliverPart_store (s : State) (a : Access) (p : Part) (v : List Byte) (hk : a.kind.hasDest = false) :
    s.deliverPart a p v = s := by
  have : a.result p v = none := by
    unfold Access.result
    cases h : a.kind <;> simp [h, AccKind.hasDest] at hk <;> rfl
  rw [State.deliverPart, this]

/-- The result of a part goes to registers that expect it. -/
theorem State.deliverPart_words {s : State} {a : Access} {p : Part} (v : List Byte) (hk : a.kind.hasDest = true)
    (hs : (s.quarterOf (s.band a.band)).stopped = false) (ht : p.lane < 32)
    (hb : ∀ r ∈ a.kind.dests, (s.band a.band).Takes s.cycle a.id p.lane r) :
    ∃ c, s.deliverPart a p v = { s with bands := s.bands.set a.band c, free := s.free + 1 } ∧
      (s.band a.band).RegsOnly c a.kind.dests ∧
      ∀ i (h : i < (a.kind.words v).length),
        c.getReg p.lane (a.kind.wordReg i) = (a.kind.wordReg i).fit ((a.kind.words v)[i].setWidth 64) := by
  obtain ⟨r, hr, hid, hdr, hl, hreg⟩ := a.result_words p v hk
  have hlen := a.kind.length_words v
  obtain ⟨c, hc, hf, hv⟩ := Band.putResult_words s.cycle s.free a.id ht (a.kind.words v) a.kind.wordReg (s.band a.band)
    (fun i hi j hj => a.kind.wordReg_inj hk (by omega) (by omega))
    (fun i hi => hb _ (by rw [a.kind.dests_eq v]; exact List.mem_map.2 ⟨i, List.mem_range.2 hi, rfl⟩))
  refine ⟨c, ?_, a.kind.dests_eq v ▸ hf, hv⟩
  have hp : (s.band a.band).putResults s.cycle s.free r = c := by
    simp only [Band.putResults, hdr, hl, hid, hreg, Option.getD_none, List.foldl_cons, List.foldl_nil]
    exact hc
  simp only [State.deliverPart, hr, State.deliver, hs, hp, Bool.false_eq_true, if_false]; rfl

/-! ## One part is performed -/

theorem State.ref_unblock (s : State) (id d : Nat) :
    ((s.unblock id).die d).refBusy = (s.die d).refBusy ∧ ((s.unblock id).die d).refBank = (s.die d).refBank := by
  unfold State.die State.unblock
  by_cases h : d < 9 <;> simp [Array.getD, h]

/-- A part that is ready is so too when its own access holds back no block. -/
theorem State.partReady_unblock {s : State} {a : Access} {p : Part} (id : Nat) (h : s.partReady a p = true) :
    (s.unblock id).partReady a p = true := by
  have hbusy : (s.unblock id).bankBusy = s.bankBusy := funext fun l => by
    cases l with
    | ws x =>
      obtain ⟨h1, h2⟩ := s.ref_unblock id (x / 2 ^ 28)
      simp only [State.bankBusy, h1, h2]
    | _ => rfl
  have href : (s.unblock id).refreshing p = s.refreshing p := by simp only [State.refreshing, hbusy]
  have hbehind : s.behind p = false → (s.unblock id).behind p = false := by
    intro hn
    refine State.blocked_eq_false.2 fun d hd x hx => ?_
    obtain ⟨d0, h0, rfl⟩ : ∃ d0 ∈ s.dies.toList, { d0 with blocks := d0.blocks.filter fun x => x.1 != id } = d := by
      simpa [State.unblock] using hd
    exact State.blocked_eq_false.1 hn d0 h0 x (List.mem_filter.1 hx).1
  simp only [State.partReady, Bool.and_eq_true, Bool.not_eq_true', href] at h ⊢
  obtain ⟨⟨⟨⟨⟨h1, h2⟩, h3⟩, h4⟩, h5⟩, h6⟩ := h
  exact ⟨⟨⟨⟨⟨h1, hbehind h2⟩, h3⟩, h4⟩, h5⟩, h6⟩

/-- An access with one part that can be performed now: the part is performed, takes effect in its band, and the access
is retired. -/
theorem State.perform_part {s s1 : State} {a : Access} {p : Part} {v : List Byte} (h : Claims.alone s a p)
    (hp : (s.unblock a.id).performPart a p = some (s1, v)) :
    s.perform a.id = ((s1.mapAccess a.id (·.markDone p.lane)).afterPart a p v).retire a.id := by
  obtain ⟨-, hfind, hparts, hdone, -, hready, -, -⟩ := h
  have hfind : (s.unblock a.id).findAccess a.id = some a := hfind
  have hpend : a.parts.filter (·.pending) = [p] := by rw [hparts]; simp [Part.pending, hdone]
  simp only [State.perform, hfind, hpend, State.performParts, State.partReady_unblock a.id hready, if_true, hp]

theorem State.CachesOnly.afterPart {s : State} {a : Access} (p : Part) (v : List Byte)
    (h : a.kind.hasDest = true → s.loadsBefore a.band a.id = []) :
    (s.deliverPart a p v).CachesOnly (s.afterPart a p v) := by
  have hc : (a.kind.hasDest && !(s.loadsBefore a.band a.id).isEmpty) = false := by
    cases hk : a.kind.hasDest with
    | false => rfl
    | true => simp [h hk]
  simp only [State.afterPart, hc, Bool.false_eq_true, if_false]
  split
  · exact .dropL1 _ _
  · exact .refl _

/-- The one part of the access `a` has been performed: the bytes `v` are at their places `ls`, caches and the
controllers aside nothing else of the state differs, and the access is still in flight. -/
structure State.PartDone (s u : State) (a : Access) (p : Part) (ls : List Loc) (v : List Byte) : Prop where
  state : u = { s.writeLocs ls v with
    dies := u.dies, cores := u.cores, accesses := (s.mapAccess a.id (·.markDone p.lane)).accesses, bands := u.bands,
    free := u.free }
  quarters : ∀ id, (u.core id).quarters = (s.core id).quarters
  count : u.bands.length = s.bands.length
  others : ∀ n, n ≠ a.band → u.band n = s.band n
  band : (s.band a.band).RegsOnly (u.band a.band) a.kind.dests

/-- Besides, the result has gone to its registers. -/
def State.Delivered (u : State) (a : Access) (p : Part) (got : List Byte) : Prop :=
  ∀ i (h : i < (a.kind.words got).length),
    (u.band a.band).getReg p.lane (a.kind.wordReg i) = (a.kind.wordReg i).fit ((a.kind.words got)[i].setWidth 64)

section
variable {s s1 u : State} {a : Access} {p : Part} {ls : List Loc} {v got : List Byte}

theorem expects_takes (h : Claims.expects s a p) : ∀ r ∈ a.kind.dests, (s.band a.band).Takes s.cycle a.id p.lane r := by
  obtain ⟨hl, hr⟩ := h
  intro r hm
  obtain ⟨he, hc, hx⟩ := hr r hm
  exact ⟨hl, he, hc, hx⟩

/-- The state after the bytes of a part, its band apart. -/
theorem State.CachesOnly.mapAccess (h : s.CachesOnly u) (id : Nat) (f : Access → Access) :
    (s.mapAccess id f).CachesOnly (u.mapAccess id f) :=
  ⟨by rw [State.mapAccess, State.mapAccess, h.state], h.quarters⟩

theorem State.writeLocs_unblock (ls : List Loc) (v : List Byte) (s : State) (id : Nat) :
    (s.unblock id).writeLocs ls v = (s.writeLocs ls v).unblock id := by
  induction ls generalizing v s with
  | nil => simp [State.writeLocs]
  | cons l ls ih =>
    cases v with
    | nil => simp [State.writeLocs]
    | cons x v =>
      have hl : (s.unblock id).writeLoc l x = (s.writeLoc l x).unblock id := by cases l <;> rfl
      rw [State.writeLocs, hl, ih]; rfl

/-- The bytes of a part at their places, and its lane marked as done: the band's registers are as before. -/
theorem State.CachesOnly.partDone (hc : ((s.unblock a.id).writeLocs ls v).CachesOnly s1) :
    s.PartDone (s1.mapAccess a.id (·.markDone p.lane)) a p ls v ∧ s1.bands = s.bands ∧ s1.cycle = s.cycle := by
  have hs := hc.state
  have hq := hc.quarters
  rw [State.writeLocs_unblock] at hs hq
  rw [State.writeLocs_frame ls v s] at hs hq
  have hb : s1.bands = s.bands := by rw [hs]; rfl
  have hband : ∀ n, (s1.mapAccess a.id (·.markDone p.lane)).band n = s.band n := fun n => congrArg (·.getD n .blank) hb
  refine ⟨⟨?_, hq, congrArg List.length hb, fun n _ => hband n, ?_⟩, hb, by rw [hs]; rfl⟩
  · rw [State.writeLocs_frame ls v s, hs]; rfl
  · rw [hband]; exact ⟨rfl, fun _ _ _ => rfl⟩

theorem State.PartDone.caches (h : s.PartDone u a p ls v) (hc : u.CachesOnly s1) : s.PartDone s1 a p ls v where
  state := by rw [hc.state, h.state]
  quarters id := (hc.quarters id).trans (h.quarters id)
  count := by rw [hc.state]; exact h.count
  others := by rw [hc.state]; exact h.others
  band := by rw [hc.state]; exact h.band

theorem State.perform_store (h : Claims.alone s a p) (hk : a.kind.hasDest = false)
    (hp : (s.unblock a.id).performPart a p = some (s1, got))
    (hc : ((s.unblock a.id).writeLocs ls v).CachesOnly s1) :
    ∃ u, s.perform a.id = u.retire a.id ∧ s.PartDone u a p ls v ∧ u.bands = s.bands := by
  obtain ⟨hd, hb, -⟩ := hc.partDone (p := p)
  have ha := State.CachesOnly.afterPart (s := s1.mapAccess a.id (·.markDone p.lane)) (a := a) p got
    (fun e => absurd e (by simp [hk]))
  rw [State.deliverPart_store _ _ _ _ hk] at ha
  exact ⟨_, State.perform_part h hp, hd.caches ha, by rw [ha.state]; exact hb⟩

theorem State.PartDone.quarterOf (h : s.PartDone u a p ls v) (ha : Claims.alone s a p) :
    (u.quarterOf (u.band a.band)).stopped = false := by
  obtain ⟨-, -, -, -, -, -, hq, -⟩ := ha
  rw [State.quarterOf, h.quarters, h.band.band]
  exact hq

theorem State.PartDone.table (h : s.PartDone u a p ls v) :
    u.accesses = (s.mapAccess a.id (·.markDone p.lane)).accesses := by rw [h.state]

theorem State.PartDone.loadsBefore (h : s.PartDone u a p ls v) (bi n : Nat) : u.loadsBefore bi n = s.loadsBefore bi n := by
  rw [State.loadsBefore, h.table,
    ← State.loadsBefore_mapAccess (f := (·.markDone p.lane)) (id := a.id) (fun _ => ⟨rfl, rfl, rfl⟩)]
  rfl

/-- The band of the access takes the registers of `c`. -/
theorem State.PartDone.setBand {c : Band} {n : Nat} (h : s.PartDone u a p ls v)
    (hc : (u.band a.band).RegsOnly c a.kind.dests) (hs : u.band a.band = s.band a.band) (hlt : a.band < s.bands.length) :
    s.PartDone { u with bands := u.bands.set a.band c, free := n } a p ls v ∧
      State.band { u with bands := u.bands.set a.band c, free := n } a.band = c := by
  have hb : ∀ k, State.band { u with bands := u.bands.set a.band c, free := n } k =
      if a.band = k ∧ k < u.bands.length then c else u.band k := fun k => State.band_setBand u a.band k c
  have hself : State.band { u with bands := u.bands.set a.band c, free := n } a.band = c := by
    rw [hb, if_pos ⟨rfl, h.count.symm ▸ hlt⟩]
  refine ⟨⟨by rw [h.state], h.quarters, by simpa using h.count, fun k hk => ?_, ?_⟩, hself⟩
  · rw [hb, if_neg (fun e => hk e.1.symm)]
    exact h.others k hk
  · rw [hself, ← hs]
    exact hc

theorem State.perform_dest (h : Claims.alone s a p) (hk : a.kind.hasDest = true) (he : Claims.expects s a p)
    (hl : s.loadsBefore a.band a.id = []) (hp : (s.unblock a.id).performPart a p = some (s1, got))
    (hc : ((s.unblock a.id).writeLocs ls v).CachesOnly s1) :
    ∃ u, s.perform a.id = u.retire a.id ∧ s.PartDone u a p ls v ∧ u.Delivered a p got := by
  have ⟨hlt, _, _, _, _, _, _, hlane⟩ := h
  obtain ⟨hd, hb, hcy⟩ := hc.partDone (p := p)
  have hrun := State.perform_part h hp
  generalize hs2 : s1.mapAccess a.id (·.markDone p.lane) = s2 at hd hrun
  have hband : s2.band a.band = s.band a.band := by rw [← hs2]; exact congrArg (·.getD a.band .blank) hb
  have hcy2 : s2.cycle = s.cycle := by rw [← hs2]; exact hcy
  obtain ⟨c, hdel, hregs, hvals⟩ := State.deliverPart_words (s := s2) (p := p) got hk (hd.quarterOf h)
    hlane (by rw [hband, hcy2]; exact expects_takes he)
  obtain ⟨hd3, hself⟩ := hd.setBand (n := s2.free + 1) hregs hband hlt
  have ha := State.CachesOnly.afterPart (s := s2) (a := a) p got (fun _ => (hd.loadsBefore _ _).trans hl)
  rw [hdel] at ha
  refine ⟨_, hrun, hd3.caches ha, fun i hi => ?_⟩
  have : (s2.afterPart a p got).band a.band = c := by rw [ha.state]; exact hself
  rw [this]
  exact hvals i hi

/-! ## Retiring -/

/-- Removing an access takes it from the table; beside that, flags alone change. -/
theorem State.remove_flagsOnly (u : State) (a : Access) :
    State.FlagsOnly { u with accesses := u.accesses.filter fun e => e.id != a.id, dies := (u.unwait a.id).dies }
      (u.remove a) :=
  (State.FlagsOnly.complete _ a).trans (State.FlagsOnly.flushLate _)

theorem State.PartDone.accesses (h : s.PartDone u a p ls v) :
    (u.accesses.filter fun e => e.id != a.id) = s.accesses.filter fun e => e.id != a.id := by
  rw [h.table, State.others_mapAccess (f := (·.markDone p.lane)) fun _ => rfl]

theorem State.PartDone.retire (h : s.PartDone u a p ls v) (ha : Claims.alone s a p)
    (ho : a.kind.hasDest = true → Claims.oldest s a) : u.retire a.id = u.remove (a.markDone p.lane) := by
  obtain ⟨-, hfind, hparts, hdone, hgot, -, -, -⟩ := ha
  have hf : u.findAccess a.id = some (a.markDone p.lane) := by
    have := State.findAccess_mapAccess (f := (·.markDone p.lane)) (id := a.id) (fun _ => rfl) s
    rw [hfind] at this
    rw [State.findAccess, h.table]
    exact this
  have hp : (a.markDone p.lane).parts = [{ p with done := true }] := by simp [Access.markDone, hparts]
  have hall : (a.markDone p.lane).parts.all (·.done) = true := by simp [hp]
  have hkept : (a.markDone p.lane).kept = [] := by simp [Access.kept, hp, hgot]
  have hkind : (a.markDone p.lane).kind.hasDest = a.kind.hasDest := rfl
  unfold State.retire
  simp only [hf, hall, hkind, Bool.not_true, Bool.false_eq_true, if_false]
  cases hk : a.kind.hasDest with
  | false => rfl
  | true =>
    obtain ⟨hl, hrest⟩ := ho hk
    have hlb : u.loadsBefore (a.markDone p.lane).band a.id = [] := (h.loadsBefore _ _).trans hl
    have hmay : u.mayDeliver (a.markDone p.lane) = true := by simp [State.mayDeliver, hkept]
    have hkd : u.deliverKept (a.markDone p.lane) = u := by simp [State.deliverKept, hkept]
    simp only [hlb, hmay, hkd, List.isEmpty_nil, Bool.and_self, if_true, Bool.not_true, Bool.false_eq_true, if_false]
    refine State.nextLoads_pending (fun e hm hb => ?_) _
    have hacc : (u.remove (a.markDone p.lane)).accesses = s.accesses.filter fun e => e.id != a.id := by
      rw [(u.remove_flagsOnly _).state]
      exact h.accesses
    rw [hacc, List.mem_filter] at hm
    exact hrest e hm.1 hb (by simpa using hm.2)

/-- Storage and registers after the access is removed. -/
theorem State.PartDone.remove (h : s.PartDone u a p ls v) :
    (u.remove (a.markDone p.lane)).accesses = (s.accesses.filter fun e => e.id != a.id) ∧
      (∀ x, (u.remove (a.markDone p.lane)).readLoc x = (s.writeLocs ls v).readLoc x) ∧
      ∀ n l r, ((u.remove (a.markDone p.lane)).band n).getReg l r = (u.band n).getReg l r := by
  have hf := u.remove_flagsOnly (a.markDone p.lane)
  refine ⟨by rw [hf.state]; exact h.accesses, fun x => ?_, hf.regs⟩
  rw [hf.state, h.state]
  cases x <;> rfl

theorem State.PartDone.late (h : s.PartDone u a p ls v) : u.late = s.late := by
  rw [h.state, State.writeLocs_frame]

theorem State.PartDone.holdFlags (h : s.PartDone u a p ls v) : u.holdFlags = s.holdFlags := by
  rw [h.state, State.writeLocs_frame]

/-- The state without an access: it is in no table, and waits at no controller. -/
def State.without (s : State) (id : Nat) : State :=
  State.unwait { s with accesses := s.accesses.filter fun e => e.id != id } id

theorem State.remove_eq (s : State) (a : Access) : s.remove a = ((s.without a.id).complete a).flushLate := rfl

/-- An access whose flag waits for nothing: the flag becomes done. -/
theorem State.complete_done (hq : (s.quarterOf (s.band a.band)).stopped = false) (hh : s.holdFlags = false)
    (hw : a.kind.hasDest = true ∨ a.flag = 15 ∨ s.loadsBefore a.band a.id = []) :
    s.complete a = s.flagDone a.band a.id a.flag := by
  have hnil : (if a.kind.hasDest || a.flag == 15 then [] else s.loadsBefore a.band a.id) = [] := by
    rcases hw with h | h | h <;> simp [h]
  simp only [State.complete, hnil, List.isEmpty_nil, if_true]
  simp [State.finish, hq, hh]

/-- The flag of a store waits for destinations of earlier words of its band (R99, R260). -/
theorem State.complete_late (hk : a.kind.hasDest = false) (hf : a.flag ≠ 15) (hw : s.loadsBefore a.band a.id ≠ []) :
    s.complete a = { s with late := s.late ++ [⟨a.band, a.id, a.flag, s.loadsBefore a.band a.id, false, 0⟩] } := by
  have hlb : (if a.kind.hasDest || a.flag == 15 then [] else s.loadsBefore a.band a.id) = s.loadsBefore a.band a.id := by
    rw [hk, if_neg (by simpa using hf)]
  simp only [State.complete, hlb, List.isEmpty_iff, hw, if_false]

/-- A flag that waits for another access than the one of this number waits on without it. -/
theorem State.lateDue_without {e : Late} {t : State} {id : Nat}
    (ht : t.accesses = s.accesses.filter fun x => x.id != id)
    (h : e.hold = true ∨ ∃ x ∈ s.accesses, x.id ≠ id ∧ x.id ∈ e.after) : t.lateDue e = false := by
  rw [State.lateDue, ht]
  rcases h with h | ⟨x, hx, hne, hm⟩
  · simp [h]
  · have : ((s.accesses.filter fun x => x.id != id).any fun a => e.after.contains a.id) = true :=
      List.any_eq_true.2 ⟨x, List.mem_filter.2 ⟨hx, by simpa using hne⟩, by simpa using hm⟩
    rw [this]; simp

theorem State.exists_of_mem_loadsBefore {bi n k : Nat} (h : k ∈ s.loadsBefore bi n) :
    ∃ x ∈ s.accesses, x.id = k ∧ k < n := by
  obtain ⟨x, hx, rfl⟩ := List.mem_map.1 h
  obtain ⟨hm, hc⟩ := List.mem_filter.1 hx
  simp only [Bool.and_eq_true, decide_eq_true_eq] at hc
  exact ⟨x, hm, rfl, hc.2⟩

/-- An access that waits for nothing is removed with its flag done. -/
theorem State.PartDone.remove_done (h : s.PartDone u a p ls v) (ha : Claims.alone s a p) (hh : s.holdFlags = false)
    (hlate : Claims.lateFree s a.id)
    (hw : a.kind.hasDest = true ∨ a.flag = 15 ∨ s.loadsBefore a.band a.id = []) :
    u.remove (a.markDone p.lane) = (u.without a.id).flagDone a.band a.id a.flag := by
  have hlb : (u.without a.id).loadsBefore a.band a.id = s.loadsBefore a.band a.id :=
    (State.loadsBefore_others u a.band a.id).trans (h.loadsBefore _ _)
  have hc : (u.without a.id).complete (a.markDone p.lane) = (u.without a.id).flagDone a.band a.id a.flag :=
    State.complete_done (a := a.markDone p.lane) (h.quarterOf ha) (h.holdFlags.trans hh) (by
      rcases hw with hw | hw | hw
      · exact .inl hw
      · exact .inr (.inl hw)
      · exact .inr (.inr (hlb.trans hw)))
  rw [State.remove_eq]
  have hid : (a.markDone p.lane).id = a.id := rfl
  rw [hid, hc]
  refine State.flushLate_waiting fun e he => State.lateDue_without (s := s) (id := a.id) ?_ (hlate e ?_)
  · exact h.accesses
  · rw [← h.late]; exact he

/-- A store that waits for destinations of earlier words is removed with its flag lagging. -/
theorem State.PartDone.remove_late (h : s.PartDone u a p ls v) (hlate : Claims.lateFree s a.id)
    (hk : a.kind.hasDest = false) (hf : a.flag ≠ 15) (hw : s.loadsBefore a.band a.id ≠ []) :
    u.remove (a.markDone p.lane) = { u.without a.id with
      late := s.late ++ [⟨a.band, a.id, a.flag, s.loadsBefore a.band a.id, false, 0⟩] } := by
  have hlb : (u.without a.id).loadsBefore a.band a.id = s.loadsBefore a.band a.id :=
    (State.loadsBefore_others u a.band a.id).trans (h.loadsBefore _ _)
  have hc := State.complete_late (s := u.without a.id) (a := a.markDone p.lane) hk hf (by
    show (u.without a.id).loadsBefore a.band a.id ≠ []
    rwa [hlb])
  have hl : (u.without a.id).late = s.late := h.late
  have hid : (a.markDone p.lane).id = a.id := rfl
  rw [State.remove_eq, hid, hc, hl]
  show State.flushLate { u.without a.id with
    late := s.late ++ [⟨a.band, a.id, a.flag, (u.without a.id).loadsBefore a.band a.id, false, 0⟩] } = _
  rw [hlb]
  refine State.flushLate_waiting fun e he => State.lateDue_without (s := s) (id := a.id) h.accesses ?_
  rcases List.mem_append.1 he with he | he
  · exact hlate e he
  · obtain rfl := List.mem_singleton.1 he
    obtain ⟨k, hk⟩ := List.exists_mem_of_ne_nil _ hw
    obtain ⟨x, hx, rfl, hlt⟩ := State.exists_of_mem_loadsBefore hk
    exact .inr ⟨x, hx, Nat.ne_of_lt hlt, hk⟩
end

section
variable {s : State} {a : Access} {p : Part}

/-! ## What a part reads and writes -/

/-- With no byte held by a region and no line in the L1, a load reads what storage holds. -/
theorem State.loadBytes_eq {core : Nat} (hh : p.held = []) (hl : (s.core core).l1 = []) (plain : Bool) :
    s.loadBytes core plain p = p.locs.map s.readLoc := by
  have hr : ∀ k l, s.readPlain core k l = s.readLoc l := fun k l => by
    unfold State.readPlain
    rw [hl]
    split <;> rfl
  simp only [State.loadBytes, hh, List.getD_nil, hr, ite_self]
  apply List.ext_getElem <;> simp

/-- Lines of the bytes of memory among some places are dropped from a core's L1. -/
theorem State.CachesOnly.fresh {f : State → Loc → State} (core : Nat) (hm : ∀ s x, f s (.mem x) = s.dropLine core false x)
    (hw : ∀ s x, f s (.ws x) = s) (hs : ∀ s x, f s (.scr x) = s) (ls : List Loc) (s : State) :
    s.CachesOnly (ls.foldl f s) :=
  foldl f (fun s l => by
    cases l with
    | mem x => rw [hm]; exact dropLine s core false x
    | ws x => rw [hw]; exact refl s
    | scr x => rw [hs]; exact refl s) ls s

theorem State.performPart_load (hk : a.kind.isLoad = true) (hh : p.held = [])
    (hl : (s.core (s.band a.band).core).l1 = []) :
    ∃ s1, (s.unblock a.id).performPart a p = some (s1, p.locs.map s.readLoc) ∧
      (State.writeLocs (s.unblock a.id) [] []).CachesOnly s1 := by
  have hb : ∀ plain, (s.unblock a.id).loadBytes (s.band a.band).core plain p = p.locs.map s.readLoc :=
    State.loadBytes_eq (s := s.unblock a.id) hh hl
  have hnil : (s.unblock a.id).writeLocs [] [] = s.unblock a.id := by simp [State.writeLocs]
  have hband : (s.unblock a.id).band a.band = s.band a.band := rfl
  rw [hnil]
  cases hkind : a.kind <;> simp [hkind, AccKind.isLoad] at hk
  case load | uload =>
    simp only [State.performPart, hkind, hband, hb]
    exact ⟨_, rfl, (State.CachesOnly.foldl _ (fun s l => .allocLine s _ _ l) p.locs _).trans (.shadowed _ _ _ _ _ _ _)⟩
  case loadOrd =>
    simp only [State.performPart, hkind, hband, hb]
    exact ⟨_, rfl, .fresh _ (fun _ _ => rfl) (fun _ _ => rfl) (fun _ _ => rfl) p.locs _⟩

theorem State.clearRcl_clear {ptes : List Nat} (h : ∀ e ∈ ptes, bits (s.mem.readLE e 8) 59 1 = 0) :
    s.clearRcl ptes = s := by
  unfold State.clearRcl
  induction ptes with
  | nil => rfl
  | cons e r ih =>
    rw [List.foldl_cons]
    simp only [h e (.head _)]
    exact ih fun x hx => h x (.tail _ hx)

theorem Part.mem_blocks {k : Nat} (h : Loc.mem k ∈ p.locs) : k / 256 ∈ p.blocks := by
  unfold Part.blocks
  rw [List.mem_eraseDups, List.mem_filterMap]
  exact ⟨_, h, rfl⟩

/-- The bytes of a part that is ready go to its places, where these are plain. -/
theorem State.writeRuns_part (hr : s.partReady a p = true) (hp : Claims.plainPlaces s p) {v : List Byte}
    (hv : v.length = p.locs.length) (w : Writer) (b : Band) (word : DWord) (isLocal plain : Bool) :
    ∃ t, (((s.unblock a.id).clearRcl p.ptes).shadowed b word p.locs isLocal plain true).writeRuns w p.locs.length p.locs v =
        some t ∧ ((s.unblock a.id).writeLocs p.locs v).CachesOnly t := by
  obtain ⟨-, hpte, hwatch, hloc⟩ := hp
  have hc : (s.unblock a.id).clearRcl p.ptes = s.unblock a.id := State.clearRcl_clear (s := s.unblock a.id) hpte
  have hsh := State.CachesOnly.shadowed (s.unblock a.id) b word p.locs isLocal plain true
  have hbehind : (s.unblock a.id).blocked p.blocks = false := by
    have := State.partReady_unblock a.id hr
    simp only [State.partReady, Bool.and_eq_true, Bool.not_eq_true'] at this
    obtain ⟨⟨⟨⟨⟨-, h⟩, -⟩, -⟩, -⟩, -⟩ := this
    exact h
  have hfree : ∀ x ∈ p.locs, (s.unblock a.id).freeAt x := by
    intro x hx
    obtain h | ⟨k, rfl, hk⟩ := hloc x hx
    · exact .inl h
    · refine .inr ⟨k, rfl, hk, State.blocked_eq_false.2 fun d hd y hy hm => ?_⟩
      exact State.blocked_eq_false.1 hbehind d hd y hy (List.mem_singleton.1 hm ▸ Part.mem_blocks hx)
  rw [hc]
  generalize (s.unblock a.id).shadowed b word p.locs isLocal plain true = s2 at hsh
  obtain ⟨t, ht, hct⟩ := State.writeRuns_free w p.locs.length p.locs v s2 (by rw [hsh.state]; exact hwatch)
    (fun x hx => (State.freeAt_congr (by rw [hsh.state]) (by rw [hsh.state]) x).2 (hfree x hx)) hv.symm (Nat.le_refl _)
  exact ⟨t, ht, (hsh.writeLocs _ _).trans hct⟩

theorem State.performPart_store (hk : a.kind = .store ∨ a.kind = .storeOrd) (hr : s.partReady a p = true)
    (hp : Claims.plainPlaces s p) (hv : p.data.length = p.locs.length) :
    ∃ s1, (s.unblock a.id).performPart a p = some (s1, []) ∧
      ((s.unblock a.id).writeLocs p.locs p.data).CachesOnly s1 := by
  obtain ⟨t, ht, hc⟩ := State.writeRuns_part hr hp hv ((s.unblock a.id).laneWriter a.band p.lane a.word false)
    ((s.unblock a.id).band a.band) a.word ((s.unblock a.id).isLocal ((s.unblock a.id).band a.band) a p)
    (decide (a.kind = .store))
  refine ⟨t, ?_, hc⟩
  simp only [State.performPart, ht]
  rcases hk with hk | hk <;> simp [hk]

@[simp] theorem length_leBytes (v n : Nat) : (leBytes v n).length = n := by
  induction n generalizing v with
  | zero => rfl
  | succ n ih => simp [leBytes, ih]

theorem State.readLoc_unblock (s : State) (id : Nat) : (s.unblock id).readLoc = s.readLoc := by
  funext x
  cases x <;> rfl

/-- The value of a read-modify-write is written, and the lines of its bytes are dropped from the L1 of its core. -/
theorem State.performPart_atom {d : Reg} {op : AOp} {ty : AType} (hk : a.kind = .atom d op ty) (hr : s.partReady a p = true)
    (hp : Claims.plainPlaces s p) :
    ∃ s1, (s.unblock a.id).performPart a p = some (s1, p.locs.map s.readLoc) ∧
      ((s.unblock a.id).writeLocs p.locs
        (leBytes (aop op ty (leNat (p.locs.map s.readLoc)) (leNat p.data)) p.locs.length)).CachesOnly s1 := by
  obtain ⟨t, ht, hc⟩ := State.writeRuns_part hr hp
    (length_leBytes (aop op ty (leNat (p.locs.map s.readLoc)) (leNat p.data)) p.locs.length)
    ((s.unblock a.id).laneWriter a.band p.lane a.word false) ((s.unblock a.id).band a.band)
    a.word ((s.unblock a.id).isLocal ((s.unblock a.id).band a.band) a p) (decide (a.kind = .store))
  simp only [hk] at ht
  simp only [State.performPart, hk, State.readLoc_unblock, ht, Option.map_some]
  exact ⟨_, rfl, hc.trans (.fresh _ (fun _ _ => rfl) (fun _ _ => rfl) (fun _ _ => rfl) p.locs _)⟩

/-- A CAS writes its data if its places hold the compare value, and nothing otherwise (R263). -/
theorem State.performPart_cas {d : Reg} {ty : AType} (hk : a.kind = .cas d ty) (hr : s.partReady a p = true)
    (hp : Claims.plainPlaces s p) (hv : p.data.length = p.locs.length) :
    ∃ s1, (s.unblock a.id).performPart a p = some (s1, p.locs.map s.readLoc) ∧
      ((s.unblock a.id).writeLocs (if p.locs.map s.readLoc = p.cmp then p.locs else []) p.data).CachesOnly s1 := by
  obtain ⟨t, ht, hc⟩ := State.writeRuns_part hr hp hv ((s.unblock a.id).laneWriter a.band p.lane a.word false)
    ((s.unblock a.id).band a.band) a.word ((s.unblock a.id).isLocal ((s.unblock a.id).band a.band) a p)
    (decide (a.kind = .store))
  simp only [hk] at ht
  simp only [State.performPart, hk, State.readLoc_unblock, ht, Option.map_some]
  by_cases h : p.locs.map s.readLoc = p.cmp
  · simp only [h, if_true]
    exact ⟨_, rfl, hc.trans (.fresh _ (fun _ _ => rfl) (fun _ _ => rfl) (fun _ _ => rfl) p.locs _)⟩
  · have hnil : (s.unblock a.id).writeLocs [] p.data = s.unblock a.id := by simp [State.writeLocs]
    simp only [h, if_false, hnil]
    exact ⟨_, rfl, .fresh _ (fun _ _ => rfl) (fun _ _ => rfl) (fun _ _ => rfl) p.locs _⟩

/-! ## The values in registers and in storage -/

theorem setWidth_fit_g (r : Reg) (w : Word) : ((RegName.g r).fit (w.setWidth 64)).setWidth 32 = w := by
  simp [RegName.fit]

theorem setWidth_fit_s (r : SReg) (w : Word) : ((RegName.s r).fit (w.setWidth 64)).setWidth 32 = w := by
  simp [RegName.fit]

theorem getElem_typeWords (ty : AType) (v : List Byte) (k : Nat) (h : k < (typeWords ty v).length) :
    (typeWords ty v)[k] = Claims.wordAt (leNat v) k := by simp [typeWords, Claims.wordAt]

theorem getElem_loadWords (sz : Size) (v : List Byte) (k : Nat) (h : k < (loadWords sz v).length) :
    (loadWords sz v)[k] = Claims.wordAt (Claims.loaded sz (leNat v)) k := by
  have hk : k < sz.regs := by simpa using h
  cases sz with
  | b128 => simp [loadWords, Claims.loaded, Claims.wordAt]
  | b64 =>
    obtain rfl | rfl : k = 0 ∨ k = 1 := by simp [Size.regs] at hk; omega
    · simp [loadWords, Claims.loaded, Claims.wordAt]
    · simp [loadWords, Claims.loaded, Claims.wordAt]
  | _ =>
    obtain rfl : k = 0 := by simpa [Size.regs] using hk
    simp [loadWords, Claims.loaded, Claims.wordAt]

theorem stored_writeLocs {t : State} {ls : List Loc} {v : List Byte} (hn : ls.Nodup) (hl : ls.length = v.length)
    (h : ∀ x, t.readLoc x = (s.writeLocs ls v).readLoc x) : Claims.stored s t ls v :=
  ⟨fun k hk => (h _).trans (State.readLoc_writeLocs_on ls v s hn hl k hk),
    fun x hx => (h x).trans (State.readLoc_writeLocs_off ls v s hx)⟩

theorem stored_same {t : State} (ls : List Loc) (h : ∀ x, t.readLoc x = s.readLoc x) :
    Claims.stored s t ls (ls.map s.readLoc) :=
  ⟨fun k hk => by rw [h]; simp [hk], fun x _ => h x⟩

/-- What a general register holds of a result that has been delivered. -/
theorem State.Delivered.gv {u t : State} {got : List Byte} (h : u.Delivered a p got)
    (ht : ∀ n l r, (t.band n).getReg l r = (u.band n).getReg l r) {k : Nat} (hk : k < (a.kind.words got).length) {r : Reg}
    (hr : a.kind.wordReg k = .g r) : (t.band a.band).gv p.lane r = (a.kind.words got)[k] := by
  rw [Band.gv, ht, ← hr, h k hk, hr, setWidth_fit_g]

/-- What a uniform register holds of it. -/
theorem State.Delivered.uv {u t : State} {got : List Byte} (h : u.Delivered a p got)
    (ht : ∀ n l r, (t.band n).getReg l r = (u.band n).getReg l r) {k : Nat} (hk : k < (a.kind.words got).length) {r : SReg}
    (hr : a.kind.wordReg k = .s r) : (t.band a.band).uv r = (a.kind.words got)[k] := by
  have hlane : (u.band a.band).getReg 0 (.s r) = (u.band a.band).getReg p.lane (.s r) := rfl
  rw [Band.uv, ht, hlane, ← hr, h k hk, hr, setWidth_fit_s]

/-- The words of a typed value in its destination. -/
theorem State.Delivered.typed {u t : State} {got : List Byte} {d : Reg} {ty : AType} (h : u.Delivered a p got)
    (ht : ∀ n l r, (t.band n).getReg l r = (u.band n).getReg l r) (hw : a.kind.words got = typeWords ty got)
    (hr : ∀ k, a.kind.wordReg k = .g (d + BitVec.ofNat 6 k)) :
    ∀ k, k < ty.regs → (t.band a.band).gv p.lane (d + BitVec.ofNat 6 k) = Claims.wordAt (leNat got) k := by
  intro k hk
  rw [h.gv ht (by rw [hw]; simpa using hk) (hr k)]
  simp only [hw, getElem_typeWords]

theorem State.flagDone_busy {bi : Nat} (h : bi < s.bands.length) (id : Nat) (f : Flag) (conds : Word) :
    ((s.flagDone bi id f conds).band bi).busy f.toNat = false := by
  rw [State.flagDone, State.band_setBand, if_pos ⟨rfl, h⟩, Band.sticky_frame]
  exact (s.band bi).busy_setDone f

theorem State.flagDone_other {bi k : Nat} (h : k ≠ bi) (id : Nat) (f : Flag) (conds : Word) :
    (s.flagDone bi id f conds).band k = s.band k := by
  rw [State.flagDone, State.band_setBand, if_neg (fun e => h e.1.symm)]

end

end Sys2Proof.Machine

namespace Sys2Proof
open Machine

/-- Settles O17: the one part of the load reads storage, and its words go to the registers that expect them. -/
theorem loadComplete : Obligations.LoadComplete := by
  intro s n a p hold hload halone hexp holdest hheld hflags hlate hl1
  obtain ⟨rfl, hdest⟩ : a.band = n ∧ a.kind.hasDest = true := by
    simpa using List.find?_some hold
  obtain ⟨s1, hp, hc⟩ := State.performPart_load hload hheld hl1
  obtain ⟨u, hrun, hdone, hdel⟩ := State.perform_dest halone hdest hexp holdest.1 hp hc
  rw [hdone.retire halone fun _ => holdest] at hrun
  obtain ⟨hacc, hread, hregs⟩ := hdone.remove
  have hflag := hdone.remove_done halone hflags hlate (.inl hdest)
  have hlt : a.band < (u.without a.id).bands.length := hdone.count.symm ▸ halone.1
  refine ⟨u.remove (a.markDone p.lane), ?_, hacc, fun x => ?_, fun k hk => ?_, ?_, ?_, ?_, ?_, fun l r hr => ?_⟩
  · show Host.Outcome.next _ = _
    rw [hold, ← hrun]
    simp only [hload, if_true]
  · rw [hread]; simp [State.writeLocs]
  · rw [hflag, State.flagDone_other hk]
    exact hdone.others k hk
  · rw [hflag]
    exact State.flagDone_busy hlt _ _ _
  · intro d sz hk k hlt
    have hw : a.kind.words (p.locs.map s.readLoc) = loadWords sz (p.locs.map s.readLoc) := by rw [hk]; rfl
    rw [hdel.gv hregs (by rw [hw]; simpa using hlt) (by rw [hk]; rfl)]
    simp only [hw, getElem_loadWords]
  · intro d sz hk k hlt
    have hw : a.kind.words (p.locs.map s.readLoc) = loadWords sz (p.locs.map s.readLoc) := by rw [hk]; rfl
    rw [hdel.uv hregs (by rw [hw]; simpa using hlt) (by rw [hk]; rfl)]
    simp only [hw, getElem_loadWords]
  · intro d ty hk
    exact hdel.typed hregs (by rw [hk]; rfl) fun k => by rw [hk]; rfl
  · rw [hregs]; exact hdone.band.regs l r hr

/-- STORE_PERFORMED of an access that writes no register, or that is the oldest of its band to write any. -/
theorem exec_storePerformed {s : State} {a : Access} (hf : s.findAccess a.id = some a) (hl : a.kind.isLoad = false)
    (ho : a.kind.hasDest = true → s.oldestLoad a.band = some a) :
    exec (.storePerformed a.id) s = .next (s.perform a.id) := by
  show Host.Outcome.next _ = _
  rw [hf]
  cases hk : a.kind.hasDest with
  | false => simp [hl, hk]
  | true => simp [hl, ho hk]

theorem storePerformed : Claims.StorePerformed := by
  intro s a p hkind halone hplain hlen hflags hlate
  have hdest : a.kind.hasDest = false := by rcases hkind with h | h <;> rw [h] <;> rfl
  have hload : a.kind.isLoad = false := by rcases hkind with h | h <;> rw [h] <;> rfl
  have ⟨_, hfind, _, _, _, hready, _, _⟩ := halone
  obtain ⟨s1, hp, hc⟩ := State.performPart_store hkind hready hplain hlen
  obtain ⟨u, hrun, hdone, hbands⟩ := State.perform_store halone hdest hp hc
  rw [hdone.retire halone fun e => absurd e (by simp [hdest])] at hrun
  obtain ⟨hacc, hread, hregs⟩ := hdone.remove
  have hlt : a.band < (u.without a.id).bands.length := hdone.count.symm ▸ halone.1
  have hband : ∀ k, (u.without a.id).band k = s.band k := fun k => congrArg (·.getD k .blank) hbands
  have hexec : exec (.storePerformed a.id) s = .next (u.remove (a.markDone p.lane)) := by
    rw [← hrun]
    exact exec_storePerformed hfind hload fun e => absurd e (by simp [hdest])
  refine ⟨_, hexec, hacc, stored_writeLocs hplain.1 hlen.symm hread, ?_, fun hw => ?_, fun hf hw => ?_, fun l r => ?_⟩
  · intro k hk
    by_cases hw : a.flag = 15 ∨ s.loadsBefore a.band a.id = []
    · rw [hdone.remove_done halone hflags hlate (.inr hw), State.flagDone_other hk]
      exact hband k
    · rw [not_or] at hw
      rw [hdone.remove_late hlate hdest hw.1 hw.2]
      exact hband k
  · rw [hdone.remove_done halone hflags hlate (.inr (.inr hw))]
    exact State.flagDone_busy hlt _ _ _
  · rw [hdone.remove_late hlate hdest hf hw]
    exact ⟨congrArg Band.flags (hband a.band), rfl⟩
  · rw [hregs]
    exact congrArg (Band.getReg · l r) (hband a.band)

/-- A read-modify-write whose part writes `v` at the places `ls` when it is performed. -/
theorem rmw_performed {s s1 : State} {a : Access} {p : Part} {ls : List Loc} {v : List Byte} {ty : AType} {d : Reg}
    (hold : s.oldestLoad a.band = some a) (halone : Claims.alone s a p) (hexp : Claims.expects s a p)
    (holdest : Claims.oldest s a) (hload : a.kind.isLoad = false)
    (hw : a.kind.words (p.locs.map s.readLoc) = typeWords ty (p.locs.map s.readLoc))
    (hr : ∀ k, a.kind.wordReg k = .g (d + BitVec.ofNat 6 k))
    (hp : (s.unblock a.id).performPart a p = some (s1, p.locs.map s.readLoc))
    (hc : ((s.unblock a.id).writeLocs ls v).CachesOnly s1) :
    ∃ t, exec (.storePerformed a.id) s = .next t ∧ t.accesses = s.accesses.filter (fun e => e.id != a.id) ∧
      (∀ x, t.readLoc x = (s.writeLocs ls v).readLoc x) ∧
      ∀ k, k < ty.regs →
        (t.band a.band).gv p.lane (d + BitVec.ofNat 6 k) = Claims.wordAt (leNat (p.locs.map s.readLoc)) k := by
  have hdest : a.kind.hasDest = true := by
    have := List.find?_some hold
    simp only [Bool.and_eq_true] at this
    exact this.2
  obtain ⟨u, hrun, hdone, hdel⟩ := State.perform_dest halone hdest hexp holdest.1 hp hc
  rw [hdone.retire halone fun _ => holdest] at hrun
  obtain ⟨hacc, hread, hregs⟩ := hdone.remove
  exact ⟨_, hrun ▸ exec_storePerformed halone.2.1 hload fun _ => hold, hacc, hread, hdel.typed hregs hw hr⟩

theorem atomicPerformed : Claims.AtomicPerformed := by
  intro s a p hold halone hexp holdest hplain hlen
  have ⟨_, _, _, _, _, hready, _, _⟩ := halone
  refine ⟨fun d op ty hk => ?_, fun d ty hk => ?_⟩
  · obtain ⟨s1, hp, hc⟩ := State.performPart_atom hk hready hplain
    obtain ⟨t, hexec, hacc, hread, hval⟩ := rmw_performed (ty := ty) (d := d) hold halone hexp holdest (by rw [hk]; rfl)
      (by rw [hk]; rfl) (fun k => by rw [hk]; rfl) hp hc
    exact ⟨t, hexec, hacc, stored_writeLocs hplain.1 (by simp) hread, hval⟩
  · obtain ⟨s1, hp, hc⟩ := State.performPart_cas hk hready hplain hlen
    obtain ⟨t, hexec, hacc, hread, hval⟩ := rmw_performed (ty := ty) (d := d) hold halone hexp holdest (by rw [hk]; rfl)
      (by rw [hk]; rfl) (fun k => by rw [hk]; rfl) hp hc
    refine ⟨t, hexec, hacc, ?_, hval⟩
    by_cases heq : p.locs.map s.readLoc = p.cmp
    · rw [if_pos heq] at hread ⊢
      exact stored_writeLocs hplain.1 hlen.symm hread
    · rw [if_neg heq] at hread ⊢
      exact stored_same p.locs fun x => by rw [hread]; simp [State.writeLocs]

/-! ## The operations of ATOM (R262) -/

theorem signed_eq_bmod {n x : Nat} (hn : 0 < n) (hx : x < 2 ^ n) : signed x n = (x : Int).bmod (2 ^ n) := by
  obtain ⟨m, rfl⟩ := Nat.exists_eq_succ_of_ne_zero hn.ne'
  have hpow : 2 ^ (m + 1) = 2 * 2 ^ m := by rw [pow_succ]; ring
  have hmod : (x : Int) % ((2 * 2 ^ m : Nat) : Int) = x := Int.emod_eq_of_lt (by omega) (by omega)
  have hcast : (2 : Int) ^ (m + 1) = ((2 * 2 ^ m : Nat) : Int) := by rw [← hpow]; norm_cast
  simp only [signed, Nat.succ_eq_add_one, Nat.add_sub_cancel, hcast, Int.bmod, hpow, hmod]
  split <;> split <;> omega

/-- The number that an integer of `n` bits stands for. -/
def intValue (sgn : Bool) (n k : Nat) : Int := if sgn then (k : Int).bmod (2 ^ n) else k

section
variable {n x y : Nat} (sgn : Bool) (hn : 0 < n) (hx : x < 2 ^ n) (hy : y < 2 ^ n)
include hn hx hy

theorem intValue_aopMin : intValue sgn n (aopMin sgn n x y) = min (intValue sgn n x) (intValue sgn n y) := by
  cases sgn with
  | false => exact Nat.cast_min x y
  | true =>
    simp only [intValue, aopMin, signed_eq_bmod hn hx, signed_eq_bmod hn hy, if_true]
    split <;> omega

theorem intValue_aopMax : intValue sgn n (aopMax sgn n x y) = max (intValue sgn n x) (intValue sgn n y) := by
  cases sgn with
  | false => exact Nat.cast_max x y
  | true =>
    simp only [intValue, aopMax, signed_eq_bmod hn hx, signed_eq_bmod hn hy, if_true]
    split <;> omega
end

theorem atomicOperations : Claims.AtomicOperations := by
  intro ty hty x y hx hy
  have hbits : ∀ k, (x &&& y).testBit k = (x.testBit k && y.testBit k) ∧
      (x ||| y).testBit k = (x.testBit k || y.testBit k) ∧
      (x ^^^ y).testBit k = (x.testBit k != y.testBit k) := fun k =>
    ⟨Nat.testBit_and x y k, Nat.testBit_or x y k, Nat.testBit_xor x y k⟩
  rcases hty with rfl | rfl | rfl | rfl
  case inl | inr.inr.inl =>
    exact ⟨rfl, intValue_aopMin true (by decide) hx hy, intValue_aopMax true (by decide) hx hy, rfl, rfl, rfl, hbits⟩
  case inr.inl | inr.inr.inr =>
    exact ⟨rfl, intValue_aopMin false (by decide) hx hy, intValue_aopMax false (by decide) hx hy, rfl, rfl, rfl, hbits⟩

/-- Settles O18, by its three parts: stores, read-modify-writes, and the operations on integers. -/
theorem storesAndAtomics : Obligations.StoresAndAtomics := ⟨storePerformed, atomicPerformed, atomicOperations⟩

end Sys2Proof

end

section
/-!
PROOFS. Words that write one general register in each lane of V (R69 to R85): the registers that they read as settled
values, the shape that they share, and the values of the integer words.
-/

namespace Sys2Proof.Machine

/-! ## Operands of a word whose sources have settled (R19, R69) -/

/-- The registers `rs` read in lane `t` of the band `B` at the word `x` as their settled values in `C`. -/
def Band.Settled (B C : Band) (x : Ex) (t : Nat) (rs : List RegName) : Prop :=
  ∀ r ∈ rs, B.readReg x.now x.k t r = C.getReg t r

namespace Band.Settled
variable {B C : Band} {x : Ex} {t : Nat} {rs : List RegName}

theorem mono {qs : List RegName} (h : B.Settled C x t rs) (hq : ∀ r ∈ qs, r ∈ rs) : B.Settled C x t qs :=
  fun r hr => h r (hq r hr)

theorem rg (h : B.Settled C x t rs) {a : Reg} (ha : .g a ∈ rs) : B.rg x t a = C.gv t a := by
  rw [Band.rg, h _ ha, Band.gv]

theorem ru (h : B.Settled C x t rs) {u : SReg} (hu : .s u ∈ rs) : B.ru x u = C.uv u := by
  rw [Band.ru, Band.uv]
  exact congrArg (BitVec.setWidth 32) (h _ hu)

theorem rx (h : B.Settled C x t rs) {k : BitVec 2} (hk : .x k ∈ rs) : B.rx x t k = C.xv t k := by
  rw [Band.rx, h _ hk, Band.xv]

theorem rp (h : B.Settled C x t rs) {p : PReg} (hp : .p p ∈ rs) : B.rp x t p = C.pv t p := by
  have hv : C.getReg t (.p p) = if (C.lane t).pred p then 1 else 0 := rfl
  rw [Band.rp, h _ hp, hv, Band.pv]
  cases (C.lane t).pred p <;> rfl

theorem src (h : B.Settled C x t rs) {b : Src} (hb : ∀ r ∈ srcNames 1 b, r ∈ rs) : B.src x t b = C.bv t b := by
  cases b with
  | g r => exact h.rg (hb _ (mem_gs_zero 1 r (by decide)))
  | u u => exact h.ru (hb _ (by simp [srcNames, ss]))

end Band.Settled

section
variable {s : State} {i : Instr} (h : s.Runs i) {l : Nat} (hl : bit (s.vOf i) l = true)
include h

/-- The place of lanes aside, a word at issue reads what it read when it was checked. -/
theorem State.Runs.readReg_atIssue (now k t : Nat) (r : RegName) :
    (s.atIssue i).me.readReg now k t r = (s.after i).me.readReg now k t r :=
  State.advance_readReg _ _ _ h.band now k t r

theorem State.Runs.window_atIssue (x : Ex) (t : Nat) : (s.atIssue i).me.window x t i = (s.after i).me.window x t i := by
  simp only [Band.window, Band.rx, h.readReg_atIssue]

include hl

/-- What a word reads in a lane of V is settled. -/
theorem State.Runs.settled :
    (s.atIssue i).me.Settled (s.after i).me (s.ex i.hdr) l ((s.atIssue i).me.readsIn (s.ex i.hdr) l i) := by
  intro r hr
  simp only [Band.readsIn, h.window_atIssue] at hr
  exact h.read hl hr _

/-- The element that a word accesses lies in its window. -/
theorem State.Runs.window_ne (e : Nat) : (s.atIssue i).me.window (s.ex i.hdr) l i ≠ some (.error e) := by
  rw [h.window_atIssue]
  exact h.window l hl e
end

/-- A word that acts in each lane reads its sources there. -/
theorem Band.mem_readsIn {b : Band} {x : Ex} {t : Nat} {i : Instr} {r : RegName} (hi : onceOf i = false)
    (hr : r ∈ srcsOf i) : r ∈ b.readsIn x t i := by
  simp [Band.readsIn, hi, hr]

/-- The sources of a word that acts in each lane are settled in a lane of V. -/
theorem State.Runs.sources {s : State} {i : Instr} (h : s.Runs i) (hi : onceOf i = false) {l : Nat}
    (hl : bit (s.vOf i) l = true) : (s.atIssue i).me.Settled (s.after i).me (s.ex i.hdr) l (srcsOf i) :=
  (h.settled hl).mono fun _ hr => Band.mem_readsIn hi hr

/-! ## Words that write one general register -/

/-- The word acts in each lane, ends no region, and writes one general register 4 cycles after issue. -/
structure AluShape (i : Instr) (d : Reg) : Prop where
  lanes : onceOf i = false
  region : endsRegion i = false
  due : ∀ x : Ex, writeDue i x = x.now + 4
  dst : .g d ∈ dstsOf i

/-- The word leaves `v` in g[d] in each lane of V, and nothing else changes. -/
def WritesReg (i : Instr) (d : Reg) (v : Band → Nat → Word) : Prop :=
  ∀ s : State, s.Runs i →
    ∃ t, Machine.exec i s = .next t ∧ s.WordFrame t i 4 [.g d] 0 ∧ ∀ l, bit (s.vOf i) l = true → t.me.gv l d = v s.me l

section
variable {i : Instr} {d a : Reg} {b : Src} {v : Band → Nat → Word}

/-- A word of that shape leaves `v` if `v` is what its meaning computes from settled sources. -/
theorem AluShape.writesReg (h : AluShape i d) {f : Band → Ex → Nat → Word} (he : ∀ s, Machine.exec i s = alu i d f s)
    (hv : ∀ (B C : Band) x t, (∀ e, B.window x t i ≠ some (.error e)) → B.Settled C x t (B.readsIn x t i) → f B x t = v C t) :
    WritesReg i d v := by
  intro s hs
  have ha : s.after i = s := s.after_eq i h.region
  obtain ⟨t, ht, hf, hval⟩ := s.word_writes i hs 4 (h.due _) (.g d) rfl h.dst
    (fun s x l => (f s.me x l).setWidth 64)
  refine ⟨t, ?_, hf, fun l hl => ?_⟩
  · rw [he, ← ht]; rfl
  · rw [Band.gv, hval l hl, hv (s.atIssue i).me s.me _ l (hs.window_ne hl)
      (by simpa only [ha] using hs.settled hl)]
    simp [RegName.fit]

/-- A word with the operation `g` on the operands A and B (R69). -/
theorem AluShape.binary (h : AluShape i d) (g : Word → Word → Word)
    (he : ∀ s, Machine.exec i s = alu i d (fun B x t => g (B.rg x t a) (B.src x t b)) s)
    (hs : srcsOf i = gs 1 a ++ srcNames 1 b) (hv : ∀ B l, g (B.gv l a) (B.bv l b) = v B l) : WritesReg i d v :=
  h.writesReg he fun B C x t _ hr => by
    have hr : B.Settled C x t (gs 1 a ++ srcNames 1 b) := hr.mono fun r hm => Band.mem_readsIn h.lanes (hs ▸ hm)
    rw [hr.rg (by simp [gs]), hr.src (fun _ hb => List.mem_append_right _ hb), hv]

/-- A word with the operation `g` on the old value of its destination and the operands A and B. -/
theorem AluShape.ternary (h : AluShape i d) (g : Word → Word → Word → Word)
    (he : ∀ s, Machine.exec i s = alu i d (fun B x t => g (B.rg x t d) (B.rg x t a) (B.src x t b)) s)
    (hs : srcsOf i = gs 1 d ++ gs 1 a ++ srcNames 1 b) (hv : ∀ B l, g (B.gv l d) (B.gv l a) (B.bv l b) = v B l) :
    WritesReg i d v :=
  h.writesReg he fun B C x t _ hr => by
    have hr : B.Settled C x t (gs 1 d ++ gs 1 a ++ srcNames 1 b) := hr.mono fun r hm => Band.mem_readsIn h.lanes (hs ▸ hm)
    rw [hr.rg (by simp [gs]), hr.rg (by simp [gs]), hr.src (fun _ hb => List.mem_append_right _ hb), hv]

/-- A word with the operation `g` on one general register. -/
theorem AluShape.unary (h : AluShape i d) (g : Word → Word)
    (he : ∀ s, Machine.exec i s = alu i d (fun B x t => g (B.rg x t a)) s)
    (hs : .g a ∈ srcsOf i) (hv : ∀ B l, g (B.gv l a) = v B l) : WritesReg i d v :=
  h.writesReg he fun B C x t _ hr => by rw [hr.rg (Band.mem_readsIn h.lanes hs), hv]

end

/-! ## Values of the integer words (R70, R72, R74, R79) -/

open Claims (wordOf fieldPos fieldLen fieldOf permByte)

theorem wordOf_toInt (p : Word) : wordOf p.toInt = p := BitVec.ofInt_toInt

theorem wordOf_add (p q : Word) : wordOf (p.toInt + q.toInt) = p + q := by
  rw [wordOf, BitVec.ofInt_add, BitVec.ofInt_toInt, BitVec.ofInt_toInt]

theorem wordOf_mul (p q : Word) : wordOf (p.toInt * q.toInt) = p * q := by
  rw [wordOf, BitVec.ofInt_mul, BitVec.ofInt_toInt, BitVec.ofInt_toInt]

theorem wordOf_neg (p : Word) : wordOf (-p.toInt) = -p := by
  rw [wordOf, BitVec.ofInt_neg, BitVec.ofInt_toInt]

theorem wordOf_sub (p q : Word) : wordOf (p.toInt - q.toInt) = p - q := by
  rw [Int.sub_eq_add_neg, wordOf, BitVec.ofInt_add, BitVec.ofInt_neg, BitVec.ofInt_toInt, BitVec.ofInt_toInt,
    BitVec.sub_eq_add_neg]

theorem wordOf_add_imm (p : Word) (imm : BitVec 9) : wordOf (p.toInt + imm.toInt) = p + imm.signExtend 32 := by
  rw [← wordOf_add, BitVec.toInt_signExtend_of_le (by decide)]

theorem wordOf_madd (o p q : Word) : wordOf (o.toInt + p.toInt * q.toInt) = o + p * q := by
  rw [wordOf, BitVec.ofInt_add, BitVec.ofInt_mul, BitVec.ofInt_toInt, BitVec.ofInt_toInt, BitVec.ofInt_toInt]

/-- The high half of a signed product is that of the 64-bit product of the sign-extended factors. -/
theorem wordOf_mulHi (p q : Word) : wordOf (p.toInt * q.toInt / 2 ^ 32) = mulHiS p q := by
  have hp := BitVec.toInt_lt (x := p)
  have hp' := BitVec.le_toInt (x := p)
  have hq := BitVec.toInt_lt (x := q)
  have hq' := BitVec.le_toInt (x := q)
  apply BitVec.eq_of_toNat_eq
  have hprod : ((sx p * sx q).toNat : Int) = p.toInt * q.toInt % 2 ^ 64 := by
    have : sx p * sx q = BitVec.ofInt 64 (p.toInt * q.toInt) := by
      rw [BitVec.ofInt_mul]; rfl
    rw [this, BitVec.toNat_ofInt, Int.toNat_of_nonneg (Int.emod_nonneg _ (by decide))]; rfl
  simp only [mulHiS, BitVec.toNat_setWidth, BitVec.toNat_ushiftRight, wordOf, BitVec.toNat_ofInt, Nat.shiftRight_eq_div_pow]
  generalize p.toInt * q.toInt = m at *
  omega

section
variable {α : Type} [LinearOrder α] (val : Word → α) (enc : α → Word) (he : ∀ p, enc (val p) = p)
include he

theorem pickBy_min {lt : Word → Word → Bool} (hlt : ∀ p q, lt p q = true ↔ val p < val q) (p q : Word) :
    pickBy lt p q = enc (min (val p) (val q)) := by
  by_cases h : val q < val p
  · rw [pickBy, if_pos ((hlt q p).2 h), min_eq_right h.le, he]
  · rw [pickBy, if_neg (mt (hlt q p).1 h), min_eq_left (not_lt.1 h), he]

theorem pickBy_max {lt : Word → Word → Bool} (hlt : ∀ p q, lt p q = true ↔ val p < val q) (p q : Word) :
    pickBy (fun a b => lt b a) p q = enc (max (val p) (val q)) := by
  by_cases h : val p < val q
  · rw [pickBy, if_pos ((hlt p q).2 h), max_eq_right h.le, he]
  · rw [pickBy, if_neg (mt (hlt p q).1 h), max_eq_left (not_lt.1 h), he]
end

theorem word_ofNat_toNat (p : Word) : BitVec.ofNat 32 p.toNat = p := by simp

theorem ult_iff (p q : Word) : p.ult q = true ↔ p.toNat < q.toNat := by rw [BitVec.ult_iff_lt, BitVec.lt_def]

/-- MOVHI puts its immediate above the low half of the old value (R79). -/
theorem append_low_half (imm : BitVec 16) (o : Word) :
    BitVec.ofNat 32 (imm.toNat * 2 ^ 16 + o.toNat % 2 ^ 16) = imm ++ o.setWidth 16 := by
  apply BitVec.eq_of_toNat_eq
  have himm := imm.isLt
  have ho : o.toNat % 2 ^ 16 < 2 ^ 16 := Nat.mod_lt _ (by decide)
  rw [BitVec.toNat_append, BitVec.toNat_setWidth, ← Nat.shiftLeft_add_eq_or_of_lt ho, BitVec.toNat_ofNat,
    Nat.shiftLeft_eq, Nat.mod_eq_of_lt (by omega)]

/-! ## Shifts, rotation and counts (R75, R76) -/

theorem ofNat_mul_two_pow (p : Word) (n : Nat) : BitVec.ofNat 32 (p.toNat * 2 ^ n) = p <<< n := by
  apply BitVec.eq_of_toNat_eq
  rw [BitVec.toNat_ofNat, BitVec.toNat_shiftLeft, Nat.shiftLeft_eq]

theorem ofNat_div_two_pow (p : Word) (n : Nat) : BitVec.ofNat 32 (p.toNat / 2 ^ n) = p >>> n := by
  rw [← Nat.shiftRight_eq_div_pow, ← BitVec.toNat_ushiftRight, BitVec.ofNat_toNat, BitVec.setWidth_eq]

theorem wordOf_div_two_pow (p : Word) (n : Nat) : wordOf (p.toInt / 2 ^ n) = p.sshiftRight n := by
  rw [BitVec.sshiftRight_eq, Int.shiftRight_eq_div_pow, wordOf]; norm_cast

/-- A count of 32 or more acts as 32 (R75). -/
theorem shlBy_eq (p q : Word) : shlBy p q = p <<< min q.toNat 32 := by
  unfold shlBy
  by_cases h : q.toNat < 32
  · rw [if_pos h, Nat.min_eq_left h.le]
  · rw [if_neg h, Nat.min_eq_right (not_lt.1 h), BitVec.shiftLeft_eq_zero (le_refl 32)]; rfl

theorem shrBy_eq (p q : Word) : shrBy p q = p >>> min q.toNat 32 := by
  unfold shrBy
  by_cases h : q.toNat < 32
  · rw [if_pos h, Nat.min_eq_left h.le]
  · rw [if_neg h, Nat.min_eq_right (not_lt.1 h), BitVec.ushiftRight_eq_zero (le_refl 32)]; rfl

theorem sarBy_eq (p q : Word) : sarBy p q = p.sshiftRight (min q.toNat 32) := by
  unfold sarBy
  by_cases h : q.toNat < 32
  · rw [if_pos h, Nat.min_eq_left h.le]
  · rw [if_neg h, Nat.min_eq_right (not_lt.1 h)]
    apply BitVec.eq_of_getLsbD_eq
    intro j hj
    rw [BitVec.getLsbD_sshiftRight]
    have : ¬32 + j < 32 := by omega
    cases hm : p.msb
    · simp [this]
    · simp only [if_true, this, if_false, not_le.2 hj, decide_false, Bool.not_false, Bool.true_and]
      exact (BitVec.getLsbD_allOnes (v := 32)).trans (by simp [hj])

theorem rotBy_eq (p : Word) (n : BitVec 5) :
    BitVec.ofNat 32 (p.toNat * 2 ^ n.toNat + p.toNat / 2 ^ (32 - n.toNat)) = rotBy p n.toNat := by
  have hn : n.toNat < 32 := n.isLt
  have hdisj : p <<< n.toNat &&& p >>> (32 - n.toNat) = 0#32 := by
    apply BitVec.eq_of_getLsbD_eq
    intro j hj
    by_cases h : j < n.toNat
    · simp [h]
    · simp [BitVec.getLsbD_of_ge p (32 - n.toNat + j) (by omega)]
  rw [rotBy, BitVec.rotateLeft_def, Nat.mod_eq_of_lt hn, BitVec.ofNat_add, ofNat_mul_two_pow, ofNat_div_two_pow,
    BitVec.add_eq_or_of_and_eq_zero _ _ hdisj]

theorem length_filter_eq_sum (f : Nat → Bool) (g : Nat → Nat) (hg : ∀ k, g k = if f k then 1 else 0) (l : List Nat) :
    (l.filter f).length = (l.map g).sum := by
  induction l with
  | nil => rfl
  | cons k l ih =>
    rw [List.filter_cons, List.map_cons, List.sum_cons, ← ih, hg]
    cases f k
    · simp
    · simp [Nat.add_comm]

theorem popc_eq (p : Word) : BitVec.ofNat 32 ((List.range 32).map fun k => p.toNat / 2 ^ k % 2).sum = popc p := by
  rw [popc, length_filter_eq_sum]
  intro k
  rw [BitVec.getLsbD, Nat.testBit_eq_decide_div_mod_eq]
  simp only [decide_eq_true_eq]
  split <;> omega

/-- The leading zeros end at the highest bit set. -/
theorem clz_eq (p : Word) : BitVec.ofNat 32 (if p = 0 then 32 else 31 - Nat.log2 p.toNat) = clz p := by
  rw [clz]
  congr 1
  by_cases h : p = 0
  · subst h; rfl
  · rw [if_neg h]
    have hp : p.toNat ≠ 0 := fun e => h (BitVec.eq_of_toNat_eq e)
    have hlog : Nat.log2 p.toNat < 32 := (Nat.log2_lt hp).2 p.isLt
    have htop : p.toNat.testBit (Nat.log2 p.toNat) = true := Nat.testBit_log2 hp
    have hf : (List.range 32).find? (fun i => p.getLsbD (31 - i)) = some (31 - Nat.log2 p.toNat) := by
      rw [List.find?_range_eq_some]
      refine ⟨?_, List.mem_range.2 (by omega), fun j hj => ?_⟩
      · rw [show 31 - (31 - Nat.log2 p.toNat) = Nat.log2 p.toNat by omega]
        exact htop
      · rw [BitVec.getLsbD, Nat.testBit_lt_two_pow ((Nat.log2_lt hp).1 (by omega))]
        rfl
    rw [hf]; rfl

theorem abs_eq (p : Word) : wordOf |p.toInt| = if p.msb then -p else p := by
  rw [BitVec.msb_eq_toInt]
  by_cases h : p.toInt < 0
  · simp only [h, decide_true, if_true]
    rw [abs_of_neg h, wordOf_neg]
  · simp only [h, decide_false, Bool.false_eq_true, if_false]
    rw [abs_of_nonneg (not_lt.1 h), wordOf_toInt]

/-! ## Bit fields (R77) -/

theorem bfPos_eq (q : Word) : bfPos q = fieldPos q := by simp [bfPos, fieldPos, bits]
theorem bfLen_eq (q : Word) : bfLen q = fieldLen q := by simp [bfLen, fieldLen, bfPos_eq, bits]

theorem fieldPos_add_fieldLen (q : Word) : fieldPos q + fieldLen q ≤ 32 := by
  unfold fieldLen fieldPos; omega

theorem getLsbD_bfMask (q : Word) (j : Nat) :
    (bfMask q).getLsbD j = (decide (fieldPos q ≤ j) && decide (j < fieldPos q + fieldLen q)) := by
  have h := fieldPos_add_fieldLen q
  rw [bfMask, bfPos_eq, bfLen_eq, BitVec.getLsbD_ofNat, Nat.testBit_mul_two_pow, Nat.testBit_two_pow_sub_one]
  by_cases h1 : fieldPos q ≤ j <;> by_cases h2 : j < fieldPos q + fieldLen q <;> simp [h1, h2] <;> omega

theorem bfxU_eq (p q : Word) : bfxU p q = BitVec.ofNat 32 (fieldOf p q) := by
  have h := fieldPos_add_fieldLen q
  apply BitVec.eq_of_getLsbD_eq
  intro j hj
  simp only [BitVec.getLsbD_ofNat, fieldOf, Nat.testBit_mod_two_pow, Nat.testBit_div_two_pow, bfxU,
    BitVec.getLsbD_ushiftRight, BitVec.getLsbD_and, getLsbD_bfMask, bfPos_eq, BitVec.testBit_toNat, hj, decide_true,
    Bool.true_and, Nat.add_lt_add_iff_left, Nat.le_add_right]
  rw [Bool.and_comm, Nat.add_comm]

theorem fieldOf_lt (p q : Word) : fieldOf p q < 2 ^ fieldLen q := Nat.mod_lt _ (Nat.two_pow_pos _)

theorem fieldOf_lt_word (p q : Word) : fieldOf p q < 2 ^ 32 :=
  (fieldOf_lt p q).trans_le (Nat.pow_le_pow_right (by decide) (by have := fieldPos_add_fieldLen q; omega))

theorem bfxS_eq (p q : Word) : bfxS p q = wordOf ((fieldOf p q : Int).bmod (2 ^ fieldLen q)) := by
  have hu : ((p &&& bfMask q) >>> bfPos q).toNat = fieldOf p q := by
    rw [← bfxU, bfxU_eq, BitVec.toNat_ofNat, Nat.mod_eq_of_lt (fieldOf_lt_word p q)]
  rw [bfxS, hu, bfLen_eq]
  by_cases h : fieldLen q = 0
  · rw [if_pos h, h, pow_zero, Int.bmod_one]; rfl
  · rw [if_neg h, signed_eq_bmod (Nat.pos_of_ne_zero h) (fieldOf_lt p q)]; rfl

/-- Numbers that stand side by side: `y` above the `n` bits of `x`. -/
theorem testBit_above {x n : Nat} (y : Nat) (hx : x < 2 ^ n) (j : Nat) :
    (y * 2 ^ n + x).testBit j = if j < n then x.testBit j else y.testBit (j - n) := by
  rw [Nat.mul_comm, Nat.testBit_two_pow_mul_add y hx]

theorem bfi_eq (o p q : Word) : bfi o p q = BitVec.ofNat 32 (o.toNat / 2 ^ (fieldPos q + fieldLen q) *
    2 ^ (fieldPos q + fieldLen q) + p.toNat % 2 ^ fieldLen q * 2 ^ fieldPos q + o.toNat % 2 ^ fieldPos q) := by
  have h := fieldPos_add_fieldLen q
  generalize hn : fieldLen q = n at *
  generalize hk : fieldPos q = k at *
  have hlow : o.toNat % 2 ^ k < 2 ^ k := Nat.mod_lt _ (Nat.two_pow_pos _)
  have hfield : p.toNat % 2 ^ n < 2 ^ n := Nat.mod_lt _ (Nat.two_pow_pos _)
  have hsum : o.toNat / 2 ^ (k + n) * 2 ^ (k + n) + p.toNat % 2 ^ n * 2 ^ k + o.toNat % 2 ^ k =
      (o.toNat / 2 ^ (k + n) * 2 ^ n + p.toNat % 2 ^ n) * 2 ^ k + o.toNat % 2 ^ k := by
    rw [pow_add]; ring
  apply BitVec.eq_of_getLsbD_eq
  intro j hj
  rw [hsum, BitVec.getLsbD_ofNat, testBit_above _ hlow, testBit_above _ hfield]
  simp only [bfi, BitVec.getLsbD_or, BitVec.getLsbD_and, BitVec.getLsbD_not, BitVec.getLsbD_shiftLeft, getLsbD_bfMask,
    bfPos_eq, hk, hn, hj, decide_true, Bool.true_and, Nat.testBit_mod_two_pow, Nat.testBit_div_two_pow,
    BitVec.testBit_toNat]
  by_cases h1 : j < k
  · simp [h1, Nat.not_le.2 h1]
  · by_cases h2 : j - k < n
    · have : j < k + n := by omega
      simp [h1, h2, this, not_lt.1 h1]
    · have h3 : ¬j < k + n := by omega
      simp [h1, h2, h3, show j - k - n + (k + n) = j by omega]

/-! ## Byte permutation (R78) -/

/-- The halves of a byte and its sign (R78). -/
theorem byte_low (x i : Nat) : bits x (8 * i) 8 % 16 = x / 2 ^ (8 * i) % 16 := by
  unfold bits; omega

theorem byte_high (x i : Nat) : bits x (8 * i) 8 / 16 = x / 2 ^ (8 * i + 4) % 16 := by
  rw [bits, pow_add, ← Nat.div_div_eq_div_mul]; omega

theorem byte_sign (x i : Nat) : 128 ≤ bits x (8 * i) 8 ↔ x / 2 ^ (8 * i + 7) % 2 = 1 := by
  rw [bits, pow_add, ← Nat.div_div_eq_div_mul]; omega

theorem bpermByte_eq (p : Word) {code : Nat} (hc : code < 16) (sgn : Bool) : bpermByte p code sgn = permByte p code sgn := by
  unfold bpermByte permByte
  by_cases h4 : code < 4
  · simp only [h4, if_true]; rfl
  by_cases h8 : code < 8
  · have hn : 4 * (2 * (code % 4) + code / 4 - 1) = 8 * (code - 4) := by omega
    have h12 : code < 12 := by omega
    simp only [h4, h8, h12, if_true, if_false, byte_low, hn, Bool.and_eq_true, decide_eq_true_eq, Nat.add_comm 0xF0]
  by_cases h12 : code < 12
  · have hn : 4 * (2 * (code % 4) + code / 4 - 1) = 8 * (code - 8) + 4 := by omega
    simp only [h4, h8, h12, if_true, if_false, byte_high, hn, Bool.and_eq_true, decide_eq_true_eq, Nat.add_comm 0xF0]
  · simp only [h4, h8, h12, if_false, byte_sign]

theorem foldl_bytes (byte : Nat → Nat) : (List.range 4).foldl (fun r k => r + byte k * 2 ^ (8 * k)) 0 =
    byte 0 + byte 1 * 2 ^ 8 + byte 2 * 2 ^ 16 + byte 3 * 2 ^ 24 := by
  have hw : ∀ w : Nat → Nat, (List.range 4).foldl (fun r k => r + byte k * w k) 0 =
      byte 0 * w 0 + byte 1 * w 1 + byte 2 * w 2 + byte 3 * w 3 := fun w => by simp [List.range_succ]
  rw [hw, Nat.mul_zero, pow_zero, Nat.mul_one]

theorem bperm_eq (p q : Word) : bperm p q =
    let byte (k : Nat) : Nat := permByte p (q.toNat / 2 ^ (4 * k) % 16) (q.toNat / 2 ^ (16 + k) % 2 == 1)
    BitVec.ofNat 32 (byte 0 + byte 1 * 2 ^ 8 + byte 2 * 2 ^ 16 + byte 3 * 2 ^ 24) := by
  have hb : ∀ k, bpermByte p (bits q.toNat (4 * k) 4) (q.getLsbD (16 + k)) =
      permByte p (q.toNat / 2 ^ (4 * k) % 16) (q.toNat / 2 ^ (16 + k) % 2 == 1) := fun k => by
    rw [bpermByte_eq p (show bits q.toNat (4 * k) 4 < 16 from Nat.mod_lt _ (by decide)), BitVec.getLsbD,
      Nat.testBit_eq_decide_div_mod_eq]; rfl
  simp only [bperm, hb]
  exact congrArg (BitVec.ofNat 32) (foldl_bytes _)

/-! ## The words -/

theorem mem_gs1 (a : Reg) : RegName.g a ∈ gs 1 a := mem_gs_zero 1 a (by decide)

theorem aluShape_of_intWord {i : Instr} {d : Reg} {v : Band → Nat → Word} (hi : Claims.intWord i = some (d, v)) :
    AluShape i d := by
  unfold Claims.intWord at hi
  split at hi <;> cases hi <;> exact ⟨rfl, rfl, fun _ => rfl, by simp [dstsOf, gs]⟩

theorem aluShape_of_shiftWord {i : Instr} {d : Reg} {v : Band → Nat → Word} (hi : Claims.shiftWord i = some (d, v)) :
    AluShape i d := by
  unfold Claims.shiftWord at hi
  split at hi <;> cases hi <;> exact ⟨rfl, rfl, fun _ => rfl, by simp [dstsOf, gs]⟩

theorem intWord_writesReg {i : Instr} {d : Reg} {v : Band → Nat → Word} (hi : Claims.intWord i = some (d, v)) :
    WritesReg i d v := by
  have h := aluShape_of_intWord hi
  cases i with
  | addI32 => cases hi; exact h.binary (· + ·) (fun _ => rfl) rfl fun _ _ => (wordOf_add _ _).symm
  | subI32 => cases hi; exact h.binary (· - ·) (fun _ => rfl) rfl fun _ _ => (wordOf_sub _ _).symm
  | addI32Imm => cases hi; exact h.unary (· + _) (fun _ => rfl) (mem_gs1 _) fun _ _ => (wordOf_add_imm _ _).symm
  | mulI32 => cases hi; exact h.binary (· * ·) (fun _ => rfl) rfl fun _ _ => (wordOf_mul _ _).symm
  | mulhiI32 => cases hi; exact h.binary mulHiS (fun _ => rfl) rfl fun _ _ => (wordOf_mulHi _ _).symm
  | mulhiN32 => cases hi; exact h.binary mulHiU (fun _ => rfl) rfl fun _ _ => rfl
  | madI32 => cases hi; exact h.ternary (fun o p q => o + p * q) (fun _ => rfl) rfl fun _ _ => (wordOf_madd _ _ _).symm
  | andB32 => cases hi; exact h.binary (· &&& ·) (fun _ => rfl) rfl fun _ _ => rfl
  | orB32 => cases hi; exact h.binary (· ||| ·) (fun _ => rfl) rfl fun _ _ => rfl
  | xorB32 => cases hi; exact h.binary (· ^^^ ·) (fun _ => rfl) rfl fun _ _ => rfl
  | andnB32 => cases hi; exact h.binary (fun p q => p &&& ~~~q) (fun _ => rfl) rfl fun _ _ => rfl
  | minI32 =>
    cases hi
    exact h.binary _ (fun _ => rfl) rfl fun _ _ => pickBy_min _ wordOf wordOf_toInt (fun _ _ => BitVec.slt_iff_toInt_lt) _ _
  | minN32 => cases hi; exact h.binary _ (fun _ => rfl) rfl fun _ _ => pickBy_min _ _ word_ofNat_toNat ult_iff _ _
  | maxI32 =>
    cases hi
    exact h.binary _ (fun _ => rfl) rfl fun _ _ => pickBy_max _ wordOf wordOf_toInt (fun _ _ => BitVec.slt_iff_toInt_lt) _ _
  | maxN32 => cases hi; exact h.binary _ (fun _ => rfl) rfl fun _ _ => pickBy_max _ _ word_ofNat_toNat ult_iff _ _
  | movB32 => cases hi; exact h.unary id (fun _ => rfl) (mem_gs1 _) fun _ _ => rfl
  | movLit => cases hi; exact h.writesReg (f := fun _ _ _ => _) (fun _ => rfl) fun _ _ _ _ _ _ => rfl
  | movB32S =>
    cases hi
    exact h.writesReg (f := fun B x _ => B.ru x _) (fun _ => rfl) fun _ _ _ _ _ hr => hr.ru (Band.mem_readsIn rfl (.head _))
  | movi => cases hi; exact h.writesReg (f := fun _ _ _ => _) (fun _ => rfl) fun _ _ _ _ _ _ => (BitVec.ofNat_toNat _ _).symm
  | movhi => cases hi; exact h.unary (fun o => _ ++ o.setWidth 16) (fun _ => rfl) (.head _) fun _ _ => (append_low_half _ _).symm
  | sel =>
    cases hi
    exact h.writesReg (f := fun B x t => if B.rp x t _ then B.rg x t _ else B.rg x t _) (fun _ => rfl) fun B C x t _ hr => by
      rw [hr.rp (Band.mem_readsIn rfl (by simp [srcsOf])), hr.rg (Band.mem_readsIn rfl (by simp [srcsOf, gs])),
        hr.rg (Band.mem_readsIn rfl (by simp [srcsOf, gs]))]
  | _ => cases hi

/-- The window of a lane whose index register names an element gives that element (R10). -/
theorem Band.window_ok {B : Band} {x : Ex} {t : Nat} {i : Instr} {k : BitVec 2} (hk : windowOf i = some k)
    (hw : ∀ e, B.window x t i ≠ some (.error e)) : B.window x t i = some (.ok (xBase (B.rx x t k) + xIdx (B.rx x t k))) := by
  simp only [Band.window, hk, Option.map_some, windowReg] at hw ⊢
  split at hw
  · exact absurd rfl (hw 5)
  · rw [if_neg ‹_›]

theorem Band.mem_readsIn_rdx {B : Band} {x : Ex} {t n : Nat} {h : Hdr} {d : Reg} {k : BitVec 2}
    (hw : B.window x t (.rdx h d k) = some (.ok n)) : .g (BitVec.ofNat 6 n) ∈ B.readsIn x t (.rdx h d k) := by
  simp [Band.readsIn, hw]

theorem element_eq (v : Word) : xBase v + xIdx v = Claims.element v := by
  have := v.isLt
  simp only [xBase, xIdx, Claims.element, bits]
  omega

theorem shiftWord_writesReg {i : Instr} {d : Reg} {v : Band → Nat → Word} (hi : Claims.shiftWord i = some (d, v)) :
    WritesReg i d v := by
  have h := aluShape_of_shiftWord hi
  cases i with
  | shlB32 =>
    cases hi
    exact h.binary shlBy (fun _ => rfl) rfl fun _ _ => by rw [shlBy_eq, ofNat_mul_two_pow]
  | shrN32 =>
    cases hi
    exact h.binary shrBy (fun _ => rfl) rfl fun _ _ => by rw [shrBy_eq, ofNat_div_two_pow]
  | shrI32 =>
    cases hi
    exact h.binary sarBy (fun _ => rfl) rfl fun _ _ => by rw [sarBy_eq, wordOf_div_two_pow]
  | shlB32Imm => cases hi; exact h.unary (· <<< _) (fun _ => rfl) (mem_gs1 _) fun _ _ => (ofNat_mul_two_pow _ _).symm
  | shrN32Imm => cases hi; exact h.unary (· >>> _) (fun _ => rfl) (mem_gs1 _) fun _ _ => (ofNat_div_two_pow _ _).symm
  | shrI32Imm =>
    cases hi
    exact h.unary (·.sshiftRight _) (fun _ => rfl) (mem_gs1 _) fun _ _ => (wordOf_div_two_pow _ _).symm
  | rotB32 => cases hi; exact h.unary (rotBy · _) (fun _ => rfl) (mem_gs1 _) fun _ _ => (rotBy_eq _ _).symm
  | popcB32 => cases hi; exact h.unary popc (fun _ => rfl) (mem_gs1 _) fun _ _ => (popc_eq _).symm
  | clzB32 => cases hi; exact h.unary clz (fun _ => rfl) (mem_gs1 _) fun _ _ => (clz_eq _).symm
  | absI32 =>
    cases hi
    exact h.unary (fun p => if p.msb then -p else p) (fun _ => rfl) (mem_gs1 _) fun _ _ => (abs_eq _).symm
  | negI32 => cases hi; exact h.unary (- ·) (fun _ => rfl) (mem_gs1 _) fun _ _ => (wordOf_neg _).symm
  | bfxN32 => cases hi; exact h.binary bfxU (fun _ => rfl) rfl fun _ _ => bfxU_eq _ _
  | bfxI32 => cases hi; exact h.binary bfxS (fun _ => rfl) rfl fun _ _ => bfxS_eq _ _
  | bfiB32 => cases hi; exact h.ternary bfi (fun _ => rfl) rfl fun _ _ => bfi_eq _ _ _
  | bpermB32 => cases hi; exact h.binary bperm (fun _ => rfl) rfl fun _ _ => bperm_eq _ _
  | rdx =>
    cases hi
    exact h.writesReg (f := fun B x t => B.rg x t (elementOf B x t _)) (fun _ => rfl) fun B C x t hw hr => by
      have hx : B.rx x t _ = C.xv t _ := hr.rx (Band.mem_readsIn rfl (.head _))
      have he := Band.mem_readsIn_rdx (Band.window_ok rfl hw)
      rw [hx] at he
      rw [elementOf, hx, hr.rg he, element_eq]
  | _ => cases hi

end Sys2Proof.Machine

namespace Sys2Proof
open Machine

/-- Settles O1: each word writes what its rule gives for the settled values of its operands. -/
theorem integerResults : Obligations.IntegerResults := fun _ _ _ hi => intWord_writesReg hi

/-- Settles O2, in the same way. -/
theorem shiftAndFieldResults : Obligations.ShiftAndFieldResults := fun _ _ _ hi => shiftWord_writesReg hi

end Sys2Proof
end

section
/-!
PROOFS. The issue of a memory word (R96 to R99, R156, R256 to R263): its operands, the access that it enters, and what it
leaves unchanged.
-/

namespace Sys2Proof.Machine

/-! ## Registers as bytes (R3) -/

theorem leBytes_append (y n : Nat) : (k : Nat) → (x : Nat) → x < 2 ^ (8 * k) →
    leBytes (x + 2 ^ (8 * k) * y) (k + n) = leBytes x k ++ leBytes y n
  | 0, x, hx => by
    obtain rfl : x = 0 := by simpa using hx
    simp [leBytes]
  | k + 1, x, hx => by
    have hpow : 2 ^ (8 * (k + 1)) = 256 * 2 ^ (8 * k) := by rw [Nat.mul_succ, pow_add, Nat.mul_comm]; rfl
    rw [hpow] at hx
    have hdiv : (x + 2 ^ (8 * (k + 1)) * y) / 256 = x / 256 + 2 ^ (8 * k) * y := by
      rw [hpow, Nat.mul_assoc, Nat.add_mul_div_left _ _ (by decide)]
    have hlow : BitVec.ofNat 8 (x + 2 ^ (8 * (k + 1)) * y) = BitVec.ofNat 8 x := by
      apply BitVec.eq_of_toNat_eq
      rw [BitVec.toNat_ofNat, BitVec.toNat_ofNat, hpow, Nat.mul_assoc]
      exact Nat.add_mul_mod_self_left x 256 _
    rw [Nat.succ_add, leBytes, leBytes, hdiv, hlow, leBytes_append y n k (x / 256) (by omega), List.cons_append]

theorem take_leBytes : (n k v : Nat) → n ≤ k → (leBytes v k).take n = leBytes v n
  | 0, _, _, _ => by simp [leBytes]
  | n + 1, k + 1, v, h => by
    rw [leBytes, leBytes, List.take_succ_cons, take_leBytes n k (v / 256) (by omega)]

/-- A run of registers is its first register and the run from the next one on. -/
theorem map_regs {α : Type} (f : Reg → α) (n : Nat) (d : Reg) :
    (List.range (n + 1)).map (fun i => f (d + BitVec.ofNat 6 i)) =
      f d :: (List.range n).map fun i => f (d + 1 + BitVec.ofNat 6 i) := by
  have hnext : ∀ i, d + BitVec.ofNat 6 (i + 1) = d + 1 + BitVec.ofNat 6 i := fun i => by
    rw [BitVec.ofNat_add, BitVec.add_comm (BitVec.ofNat 6 i), ← BitVec.add_assoc]; rfl
  rw [List.range_succ_eq_map, List.map_cons, List.map_map, BitVec.add_zero]
  exact congrArg (f d :: ·) (List.map_congr_left fun i _ => congrArg f (hnext i))

theorem mem_ss_zero (n : Nat) (r : SReg) (h : 0 < n) : RegName.s r ∈ ss n r := by
  simp only [ss, List.mem_map, List.mem_range]
  exact ⟨0, h, by simp⟩

namespace Band.Settled
variable {B C : Band} {x : Ex} {t : Nat} {rs : List RegName}

theorem rg2 (h : B.Settled C x t rs) {a : Reg} (ha : ∀ r ∈ gs 2 a, r ∈ rs) : B.rg2 x t a = C.gv2 t a := by
  rw [Band.rg2, Band.gv2, h.rg (ha _ (mem_gs_one 2 a (by decide))), h.rg (ha _ (mem_gs_zero 2 a (by decide)))]

theorem ru2 (h : B.Settled C x t rs) {u : SReg} (hu : ∀ r ∈ ss 2 u, r ∈ rs) : B.ru2 x u = C.uv2 u := by
  rw [Band.ru2, Band.uv2, h.ru (hu (.s (u + 1)) (.tail _ (.head _))), h.ru (hu (.s u) (mem_ss_zero 2 u (by decide)))]

/-- The address operand of a space (R96, R217, R256). -/
theorem addr (h : B.Settled C x t rs) {sp : Space} {a : Reg} (off : Word) (ha : ∀ r ∈ gs (addrRegs sp) a, r ∈ rs) :
    B.addr x t sp a off = Claims.addrIn sp a off C t := by
  cases sp with
  | scr => simp only [Band.addr, Claims.addrIn, if_true, h.rg (ha _ (mem_gs_zero 1 a (by decide)))]
  | _ => simp [Band.addr, Claims.addrIn, h.rg2 (a := a) ha]

/-- The address operand of SLD (R156). -/
theorem uaddr (h : B.Settled C x t rs) {sp : Space} {u : SReg} (off : Word) (hu : ∀ r ∈ ss (addrRegs sp) u, r ∈ rs) :
    B.uaddr x sp u off = if sp = .scr then (C.uv u + off).setWidth 64 else C.uv2 u + off.signExtend 64 := by
  cases sp with
  | scr => simp only [Band.uaddr, if_true, h.ru (hu (.s u) (mem_ss_zero 1 u (by decide)))]
  | _ => simp [Band.uaddr, h.ru2 (u := u) hu]

/-- Successive registers are the number that they hold, the first the least significant. -/
theorem rgBytes (h : B.Settled C x t rs) (n : Nat) (d : Reg) (hd : ∀ r ∈ gs n d, r ∈ rs) :
    B.rgBytes x t d n = leBytes (Claims.regsNat C t d n) (4 * n) := by
  induction n generalizing d with
  | zero => rfl
  | succ n ih =>
    have hgs : gs (n + 1) d = .g d :: gs n (d + 1) := map_regs RegName.g n d
    have hbytes : B.rgBytes x t d (n + 1) = leBytes (B.rg x t d).toNat 4 ++ B.rgBytes x t (d + 1) n := by
      rw [Band.rgBytes, map_regs (fun r => leBytes (B.rg x t r).toNat 4), List.flatten_cons]; rfl
    rw [hgs] at hd
    have hle := leBytes_append (Claims.regsNat C t (d + 1) n) (4 * n) 4 (C.gv t d).toNat (C.gv t d).isLt
    rw [hbytes, ih (d + 1) fun r hr => hd r (.tail _ hr), h.rg (hd _ (.head _)), Claims.regsNat, Nat.mul_succ,
      Nat.add_comm (4 * n), ← hle]

theorem bytesOf (h : B.Settled C x t rs) {n regs : Nat} {d : Reg} (hd : ∀ r ∈ gs regs d, r ∈ rs) (hn : n ≤ 4 * regs) :
    (B.rgBytes x t d regs).take n = Claims.bytesOf d regs n C t := by
  rw [h.rgBytes regs d hd, take_leBytes n _ _ hn, Claims.bytesOf]

end Band.Settled

theorem size_bytes_le (sz : Size) : sz.bytes ≤ 4 * sz.regs := by cases sz <;> decide
theorem atype_bytes_le (ty : AType) : ty.bytes ≤ 4 * ty.regs := by cases ty <;> decide

/-! ## What a word in which every lane passes its checks enters (R99, R218) -/

/-- The bytes that an address check finds; none where it fails. -/
def Reach.places : Reach → List Loc
  | .locs l => l
  | _ => []

/-- What the address checks of a memory word find in a lane at an address. -/
def MemWord.reach (m : MemWord) (s : State) (t : Nat) (va : DWord) : Reach :=
  Machine.reach s s.me t m.sp va m.n m.write m.rmw

/-- Every lane passes the checks. -/
def MemWord.Clear (m : MemWord) (s : State) (lanes : List (Nat × DWord)) : Prop :=
  ∀ p ∈ lanes, ∃ ls, m.reach s p.1 p.2 = .locs ls

/-- The access of the lanes of a word with their addresses, data and compare values. -/
def MemWord.access (m : MemWord) (s : State) (x : Ex) (lanes : List (Nat × DWord)) (data cmp : Nat → List Byte) : Access :=
  { id := s.nextId, band := s.cur, word := x.pc, kind := m.kind, sp := m.sp, flag := m.flag, scope := m.scope,
    order := m.order,
    parts := lanes.map fun p => mkPart s m p.1 p.2 (m.reach s p.1 p.2).places false (data p.1) (cmp p.1),
    after := [],
    also := match m.kind with
      | .uload .. => x.v
      | _ => 0 }

section
variable {m : MemWord} {s : State} {lanes : List (Nat × DWord)}

theorem MemWord.Clear.reaches_eq (h : m.Clear s lanes) :
    reaches s m lanes = lanes.map fun p => (p.1, p.2, .locs (m.reach s p.1 p.2).places) := by
  refine List.map_congr_left fun p hp => ?_
  obtain ⟨ls, hls⟩ := h p hp
  have hr : Machine.reach s s.me p.1 m.sp p.2 m.n m.write m.rmw = .locs ls := hls
  rw [hls, hr]; rfl

/-- No lane of such a word traps. -/
theorem MemWord.Clear.memTrap_eq (h : m.Clear s lanes) (x : Ex) (t : Nat) : memTrap s x m lanes t = none := by
  unfold memTrap
  split
  · rfl
  · cases hf : lanes.find? fun p => p.1 == t with
    | none => rfl
    | some p =>
      obtain rfl : p.1 = t := by simpa using List.find?_some hf
      obtain ⟨ls, hls⟩ := h p (List.mem_of_find?_eq_some hf)
      have hr : Machine.reach s s.me p.1 m.sp p.2 m.n m.write m.rmw = .locs ls := hls
      simp only [hr]

theorem holdPart_closed (h : s.me.rgnOpen = false) (x : Ex) (m : MemWord) (p : Part) : holdPart s x m p = none := by
  simp [holdPart, h]

theorem Band.getReg_setBusy_fly (b : Band) (f : Flag) (id : Nat) (p : Pipe) (mask : BitVec 32) (rs : List RegName) (l : Nat)
    (r : RegName) : ((b.setBusy f p).fly id p mask rs).getReg l r = b.getReg l r := by
  cases r <;> rfl

theorem Band.busy_setBusy_fly (b : Band) {f : Flag} (h : f.toNat < 12) (id : Nat) (p : Pipe) (mask : BitVec 32)
    (rs : List RegName) : ((b.setBusy f p).fly id p mask rs).busy f.toNat = true := by
  simp [Band.busy, Band.fly, Band.setBusy, Array.getD, h]

/-- Outside an open region the word enters one access; its flag is busy, and no register changes. -/
theorem MemWord.Clear.memIssue_eq (h : m.Clear s lanes) (hopen : s.me.rgnOpen = false) (hne : lanes ≠ []) (x : Ex)
    (pipe : Pipe) (data cmp : Nat → List Byte) :
    ∃ c : Band, memIssue x m pipe lanes data cmp s =
        { s.setMe c with accesses := s.accesses ++ [m.access s x lanes data cmp], nextId := s.nextId + 1 } ∧
      (m.flag.toNat < 12 → c.busy m.flag.toNat = true) ∧ ∀ l r, c.getReg l r = s.me.getReg l r := by
  have hab : aborts s m lanes = false := by simp [aborts, hopen]
  have hhold : ∀ ps : List Part, ps.filterMap (holdPart s x m) = [] := fun ps =>
    List.filterMap_eq_nil_iff.2 fun p _ => holdPart_closed hopen x m p
  have hrest : ∀ ps : List Part, (ps.filter fun p => (holdPart s x m p).isNone) = ps := fun ps =>
    List.filter_eq_self.2 fun p _ => by rw [holdPart_closed hopen]; rfl
  have hne' : (lanes.map fun p => mkPart s m p.1 p.2 (m.reach s p.1 p.2).places false (data p.1) (cmp p.1)).isEmpty = false := by
    simpa using hne
  unfold memIssue
  simp only [h.reaches_eq, hab, List.filterMap_map, Function.comp_def, List.filterMap_eq_map', hhold, hrest, hne', List.filterMap_none,
    Bool.false_eq_true, if_false]
  refine ⟨_, rfl, fun hf => ?_, fun l r => ?_⟩
  · exact Band.busy_setBusy_fly _ hf _ _ _ _
  · rw [Band.getReg_setBusy_fly]; exact Band.getReg_congr rfl rfl l r

end

theorem bit_lowest {v : BitVec 32} (h : v ≠ 0) : bit v (lowest v) = true := by
  obtain ⟨l, hl⟩ := List.exists_mem_of_ne_nil _ (mt lanesOf_eq_nil.1 h)
  rw [mem_lanesOf] at hl
  cases hf : (List.range 32).find? (bit v) with
  | none => exact absurd hl (List.find?_eq_none.1 hf l (List.mem_range.2 (bit_lt hl)))
  | some k =>
    rw [lowest, hf]
    exact List.find?_some hf

/-- At issue only bands differ from the state in which the word is checked. -/
theorem State.atIssue_state (s : State) (i : Instr) : s.atIssue i = { s.after i with bands := (s.atIssue i).bands } :=
  State.advance_state _ _ _

theorem State.atIssue_cur (s : State) (i : Instr) : (s.atIssue i).cur = (s.after i).cur := State.advance_cur _ _ _
theorem State.atIssue_nextId (s : State) (i : Instr) : (s.atIssue i).nextId = (s.after i).nextId := by
  rw [s.atIssue_state i]

section
variable {s : State} {i : Instr} (h : s.Runs i)
include h

/-- The address checks look at nothing that the advance of the issue set changes. -/
theorem State.Runs.reach_atIssue (m : MemWord) (t : Nat) (va : DWord) : m.reach (s.atIssue i) t va = m.reach (s.after i) t va := by
  have hs := s.atIssue_state i
  have hb : (s.atIssue i).me = { (s.after i).me with lanes := (s.atIssue i).me.lanes } := State.advance_band _ _ _ h.band
  rw [MemWord.reach, hb]
  generalize (s.atIssue i).me.lanes = L
  rw [hs]; rfl

theorem State.Runs.rgnOpen_atIssue : (s.atIssue i).me.rgnOpen = (s.after i).me.rgnOpen := by
  have hb : (s.atIssue i).me = { (s.after i).me with lanes := (s.atIssue i).me.lanes } := State.advance_band _ _ _ h.band
  rw [hb]

theorem State.Runs.getReg_atIssue (l : Nat) (r : RegName) : (s.atIssue i).me.getReg l r = (s.after i).me.getReg l r :=
  State.advance_getReg _ _ _ h.band l r

/-- The sources are settled in the state in which the word is checked too. -/
theorem State.Runs.sources_after (hi : onceOf i = false) {l : Nat} (hl : bit (s.vOf i) l = true) :
    (s.after i).me.Settled (s.after i).me (s.ex i.hdr) l (srcsOf i) := by
  intro r hr
  rw [← h.readReg_atIssue]
  exact h.sources hi hl r hr

/-- A word whose body enters one access and changes no register, and of which no lane traps. -/
theorem State.Runs.enters (hv : s.vOf i ≠ 0) {deferred : State → Ex → Nat → Option Trap} {body : Ex → State → State}
    (hd : ∀ l, bit (s.vOf i) l = true → deferred (s.after i) (s.ex i.hdr) l = none) {a : Access} {c : Band}
    (hbody : body (s.ex i.hdr) (s.atIssue i) =
      { (s.atIssue i).setMe c with accesses := (s.atIssue i).accesses ++ [a], nextId := (s.atIssue i).nextId + 1 })
    (hreg : ∀ l r, c.getReg l r = (s.atIssue i).me.getReg l r) :
    ∃ t, runWord i deferred body s = t ∧
      t = { s.after i with bands := t.bands, accesses := (s.after i).accesses ++ [a], nextId := (s.after i).nextId + 1,
                           free := (s.after i).free + 1 } ∧
      (∀ n, n ≠ (s.after i).cur → t.band n = (s.after i).band n) ∧ t.me = c ∧
      ∀ l r, t.me.getReg l r = (s.after i).me.getReg l r := by
  have hs := s.atIssue_state i
  have hlen : (s.atIssue i).cur < (s.atIssue i).bands.length := by simpa [State.atIssue] using h.band
  have hcur := s.atIssue_cur i
  have hme : ((s.atIssue i).setMe c).me = c := State.me_setMe _ _ hlen
  rw [runWord_passes i deferred body s h.passes hd, if_neg hv, hbody]
  refine ⟨_, rfl, ?_, fun n hn => ?_, hme, fun l r => ?_⟩
  · rw [hs]; rfl
  · have hb : ((s.atIssue i).setMe c).band n = (s.atIssue i).band n := by
      rw [State.setMe, State.band_setBand, if_neg fun e => hn (e.1.symm.trans hcur)]
    exact hb.trans (State.advance_other _ _ _ _ hn)
  · exact (congrArg (·.getReg l r) hme).trans ((hreg l r).trans (h.getReg_atIssue l r))

/-- A memory word outside an open region, of which every lane passes its checks: one access enters, its flag is busy, and
no register changes. `lanes` are its lanes with their addresses. -/
theorem State.Runs.entersAccess (hv : s.vOf i ≠ 0) (hopen : (s.after i).me.rgnOpen = false) {m : MemWord} (pipe : Pipe)
    {L : State → Ex → List (Nat × DWord)} {lanes : List (Nat × DWord)} (hafter : L (s.after i) (s.ex i.hdr) = lanes)
    (hissue : L (s.atIssue i) (s.ex i.hdr) = lanes) (hne : lanes ≠ []) (hclear : m.Clear (s.after i) lanes)
    {deferred : State → Ex → Nat → Option Trap} (hd : ∀ u x l, ∃ t, deferred u x l = memTrap u x m (L u x) t)
    (data cmp : State → Ex → Nat → List Byte) :
    ∃ t, runWord i deferred (fun x u => memIssue x m pipe (L u x) (data u x) (cmp u x) u) s = t ∧
      t = { s.after i with
        bands := t.bands, nextId := (s.after i).nextId + 1, free := (s.after i).free + 1,
        accesses := (s.after i).accesses ++ [m.access (s.atIssue i) (s.ex i.hdr) lanes (data (s.atIssue i) (s.ex i.hdr))
          (cmp (s.atIssue i) (s.ex i.hdr))] } ∧
      (∀ n, n ≠ (s.after i).cur → t.band n = (s.after i).band n) ∧
      (m.flag.toNat < 12 → t.me.busy m.flag.toNat = true) ∧
      ∀ l r, t.me.getReg l r = (s.after i).me.getReg l r := by
  have hclear' : m.Clear (s.atIssue i) lanes := fun p hp => by rw [h.reach_atIssue]; exact hclear p hp
  obtain ⟨c, hc, hbusy, hreg⟩ := hclear'.memIssue_eq (h.rgnOpen_atIssue.trans hopen) hne (s.ex i.hdr) pipe
    (data (s.atIssue i) (s.ex i.hdr)) (cmp (s.atIssue i) (s.ex i.hdr))
  have hnone : ∀ l, bit (s.vOf i) l = true → deferred (s.after i) (s.ex i.hdr) l = none := fun l _ => by
    obtain ⟨t, ht⟩ := hd (s.after i) (s.ex i.hdr) l
    rw [ht, hafter, hclear.memTrap_eq]
  obtain ⟨t, hrun, hstate, hbands, hme, hregs⟩ := h.enters hv hnone
    (body := fun x u => memIssue x m pipe (L u x) (data u x) (cmp u x) u) 
    ((congrArg (fun ls => memIssue _ m pipe ls _ _ (s.atIssue i)) hissue).trans hc) hreg
  exact ⟨t, hrun, hstate, hbands, hme ▸ hbusy, hregs⟩

/-- The places of the parts are those that the checks find. -/
theorem State.Runs.reach_parts {m : MemWord} {lanes : List (Nat × DWord)} (hclear : m.Clear (s.after i) lanes) (x : Ex)
    (data cmp : Nat → List Byte) :
    ∀ p ∈ (m.access (s.atIssue i) x lanes data cmp).parts,
      (p.lane, p.va) ∈ lanes ∧ m.reach (s.after i) p.lane p.va = .locs p.locs := by
  intro p hp
  obtain ⟨q, hq, rfl⟩ := List.mem_map.1 hp
  obtain ⟨ls, hls⟩ := hclear q hq
  refine ⟨hq, ?_⟩
  show m.reach (s.after i) q.1 q.2 = .locs (m.reach (s.atIssue i) q.1 q.2).places
  rw [h.reach_atIssue, hls]; rfl

end

/-! ## The memory words (R96, R97, R256, R261 to R263) -/

/-- How each lane of a memory word makes its access. -/
def memWordOf (m : Claims.MemOp) : MemWord :=
  ⟨m.sp, m.kind, m.n, m.write, m.rmw, m.flag, m.scope, m.order⟩

/-- A memory word acts in each lane, with the address and the bytes that its settled sources give. -/
structure MemShape (i : Instr) (m : Claims.MemOp) (addr : State → Ex → Nat → DWord) (data cmp : State → Ex → Nat → List Byte) :
    Prop where
  exec : ∀ s, exec i s = .next (memWord i (memWordOf m) addr data cmp s)
  lanes : onceOf i = false
  addr : ∀ (s : State) (C : Band) x t, s.me.Settled C x t (srcsOf i) → addr s x t = m.addr C t
  data : ∀ (s : State) (C : Band) x t, s.me.Settled C x t (srcsOf i) → data s x t = m.data C t
  cmp : ∀ (s : State) (C : Band) x t, s.me.Settled C x t (srcsOf i) → cmp s x t = m.cmp C t

theorem memShape_of_memOp {i : Instr} {m : Claims.MemOp} (hi : Claims.memOp i = some m) :
    ∃ addr data cmp, MemShape i m addr data cmp := by
  cases i with
  | ld h d a sb sz off =>
    cases hi
    exact ⟨_, _, _, fun _ => rfl, rfl, fun _ _ _ _ hr => hr.addr off fun _ h => h, fun _ _ _ _ _ => rfl, fun _ _ _ _ _ => rfl⟩
  | st h d a sb sz off =>
    cases hi
    exact ⟨_, _, _, fun _ => rfl, rfl, fun _ _ _ _ hr => hr.addr off fun _ h => List.mem_append_left _ h,
      fun _ _ _ _ hr => hr.bytesOf (fun _ h => List.mem_append_right _ h) (size_bytes_le sz), fun _ _ _ _ _ => rfl⟩
  | ldSpace h d a sb sp sz off =>
    cases hi
    exact ⟨_, _, _, fun _ => rfl, rfl, fun _ _ _ _ hr => hr.addr off fun _ h => h, fun _ _ _ _ _ => rfl, fun _ _ _ _ _ => rfl⟩
  | stSpace h d a sb sp sz off =>
    cases hi
    exact ⟨_, _, _, fun _ => rfl, rfl, fun _ _ _ _ hr => hr.addr off fun _ h => List.mem_append_left _ h,
      fun _ _ _ _ hr => hr.bytesOf (fun _ h => List.mem_append_right _ h) (size_bytes_le sz), fun _ _ _ _ _ => rfl⟩
  | atom h d a b op ty c =>
    cases hi
    exact ⟨_, _, _, fun _ => rfl, rfl, fun _ _ _ _ hr => hr.addr 0 fun _ h => List.mem_append_left _ h,
      fun _ _ _ _ hr => hr.bytesOf (fun _ h => List.mem_append_right _ h) (atype_bytes_le ty), fun _ _ _ _ _ => rfl⟩
  | cas h d a b ty c =>
    cases hi
    exact ⟨_, _, _, fun _ => rfl, rfl,
      fun _ _ _ _ hr => hr.addr 0 fun _ h => List.mem_append_left _ (List.mem_append_left _ h),
      fun _ _ _ _ hr => hr.bytesOf (fun _ h => List.mem_append_left _ (List.mem_append_right _ h)) (atype_bytes_le ty),
      fun _ _ _ _ hr => hr.bytesOf (fun _ h => List.mem_append_right _ h) (atype_bytes_le ty)⟩
  | ldAtomic h d a ty c =>
    cases hi
    exact ⟨_, _, _, fun _ => rfl, rfl, fun _ _ _ _ hr => hr.addr 0 fun _ h => h, fun _ _ _ _ _ => rfl, fun _ _ _ _ _ => rfl⟩
  | stAtomic h a b ty c =>
    cases hi
    exact ⟨_, _, _, fun _ => rfl, rfl, fun _ _ _ _ hr => hr.addr 0 fun _ h => List.mem_append_left _ h,
      fun _ _ _ _ hr => hr.bytesOf (fun _ h => List.mem_append_right _ h) (atype_bytes_le ty), fun _ _ _ _ _ => rfl⟩
  | _ => cases hi

end Sys2Proof.Machine

namespace Sys2Proof
open Machine

theorem memoryWordsIssue : Claims.MemoryWordsIssue := by
  intro i m hi s hs hv hopen hreach
  obtain ⟨addr, data, cmp, hm⟩ := memShape_of_memOp hi
  have hV : ∀ t ∈ lanesOf (s.vOf i), bit (s.vOf i) t = true := fun t ht => (mem_lanesOf _ t).1 ht
  have hset := fun t ht => hs.sources hm.lanes (hV t ht)
  have haddr : ∀ u : State, (∀ t ∈ lanesOf (s.vOf i), u.me.Settled (s.after i).me (s.ex i.hdr) t (srcsOf i)) →
      ((lanesOf (s.vOf i)).map fun t => (t, addr u (s.ex i.hdr) t)) =
        (lanesOf (s.vOf i)).map fun t => (t, m.addr (s.after i).me t) := fun u hu =>
    List.map_congr_left fun t ht => by rw [hm.addr u _ _ _ (hu t ht)]
  have hclear : (memWordOf m).Clear (s.after i) ((lanesOf (s.vOf i)).map fun t => (t, m.addr (s.after i).me t)) := by
    intro p hp
    obtain ⟨t, ht, rfl⟩ := List.mem_map.1 hp
    exact hreach t (hV t ht)
  obtain ⟨t, hrun, hstate, hbands, hbusy, hregs⟩ := hs.entersAccess hv hopen .memory
    (L := fun u x => (lanesOf x.v).map fun t => (t, addr u x t)) (haddr _ fun t ht => hs.sources_after hm.lanes (hV t ht))
    (haddr _ hset) (fun e => hv (lanesOf_eq_nil.1 (List.map_eq_nil_iff.1 e))) hclear
    (deferred := fun u x t => memTrap u x (memWordOf m) ((lanesOf x.v).map fun t => (t, addr u x t)) t)
    (fun _ _ l => ⟨l, rfl⟩) data cmp
  refine ⟨t, _, (hm.exec s).trans (congrArg _ hrun), hstate, hbands, s.atIssue_nextId i, s.atIssue_cur i, rfl, rfl, rfl, rfl,
    rfl, rfl, ?_, fun p hp => ?_, hbusy, hregs⟩
  · simp only [MemWord.access, List.map_map]
    exact List.map_congr_left fun t ht => by
      simp only [Function.comp, mkPart, hm.data _ _ _ _ (hset t ht), hm.cmp _ _ _ _ (hset t ht)]
  · obtain ⟨hmem, hlocs⟩ := hs.reach_parts hclear _ _ _ p hp
    obtain ⟨l, -, hl⟩ := List.mem_map.1 hmem
    obtain ⟨rfl, hva⟩ := Prod.mk.inj hl
    rw [← hva] at hlocs
    exact hlocs

theorem uniformLoadIssue : Claims.UniformLoadIssue := by
  intro h d a sb sp sz off s hs hv hopen va low hreach
  have hafter : s.after (.sld h d a sb sp sz off) = s := s.after_eq _ rfl
  have hlow : bit (s.vOf (.sld h d a sb sp sz off)) low = true := bit_lowest hv
  have hva : ∀ u : State, u.me.Settled s.me (s.ex h) low (ss (addrRegs sp) a) →
      [((s.ex h).low, u.me.uaddr (s.ex h) sp a off)] = [(low, va)] := fun u hu => by rw [hu.uaddr off fun _ hr => hr]; rfl
  have hsrc := hs.sources rfl hlow
  have hsrc' := hs.sources_after rfl hlow
  rw [hafter] at hsrc hsrc'
  have hclear : MemWord.Clear ⟨sp, .uload d sz, sz.bytes, false, false, sb, .band, .relaxed⟩
      (s.after (.sld h d a sb sp sz off)) [(low, va)] := by
    intro p hp
    obtain rfl := List.mem_singleton.1 hp
    rw [hafter]; exact hreach
  obtain ⟨t, hrun, hstate, -, hbusy, hregs⟩ := hs.entersAccess hv (by rw [hafter]; exact hopen) .uniform
    (L := fun u x => [(x.low, u.me.uaddr x sp a off)]) (by rw [hafter]; exact hva s hsrc') (hva _ hsrc)
    (List.cons_ne_nil _ _) hclear
    (deferred := allLanes fun u x => memTrap u x _ [(x.low, u.me.uaddr x sp a off)] x.low) (fun _ x _ => ⟨x.low, rfl⟩)
    noBytes noBytes
  have hparts := hs.reach_parts hclear (s.ex h) (noBytes (s.atIssue (.sld h d a sb sp sz off)) (s.ex h))
    (noBytes (s.atIssue (.sld h d a sb sp sz off)) (s.ex h)) _ (.head _)
  rw [hafter] at hstate hregs hparts
  exact ⟨t, _, _, congrArg _ hrun, hstate, (s.atIssue_cur _).trans (congrArg _ hafter), rfl, rfl, rfl, rfl, rfl, rfl, rfl, rfl,
    hparts.2, hbusy, hregs⟩

/-- Settles O15: the words with an access in each lane, and SLD. -/
theorem memoryWords : Obligations.MemoryWords := ⟨memoryWordsIssue, uniformLoadIssue⟩

end Sys2Proof
end

section
/-!
PROOFS. The software traps (R95, R359 to R367, R379): what raising a trap in lanes does, the entry of the handler, and the
escalation of a trap that no handler can take.
-/

namespace Sys2Proof.Machine

/-! ## Lanes that trap (R356, R360) -/

theorem bit_or (a b : BitVec 32) (j : Nat) : bit (a ||| b) j = (bit a j || bit b j) := by simp [bit]

theorem bit_laneMask {t : Nat} (ht : t < 32) (j : Nat) : bit (laneMask t) j = decide (t = j) := by
  rw [bit, laneMask, BitVec.getLsbD_ofNat, Nat.mod_eq_of_lt ht, Nat.testBit_two_pow]
  by_cases h : t = j <;> simp [h]
  omega

theorem eq_of_bits {a b : BitVec 32} (h : ∀ j, bit a j = bit b j) : a = b := BitVec.eq_of_getLsbD_eq fun j _ => h j

theorem lanesOf_nodup (m : BitVec 32) : (lanesOf m).Nodup := List.nodup_range.filter _

theorem lt_of_mem_lanesOf {m : BitVec 32} {t : Nat} (h : t ∈ lanesOf m) : t < 32 := bit_lt ((mem_lanesOf m t).1 h)

/-- A step that changes one lane by `f`, done for the lanes of a mask. -/
theorem Band.lane_foldl {g : Band → Nat → Band} {f : Lane → Lane}
    (hg : ∀ (b : Band) t u, t < 32 → (g b t).lane u = if t = u then f (b.lane u) else b.lane u) (m : BitVec 32) (b : Band) (u : Nat) :
    ((lanesOf m).foldl g b).lane u = if bit m u = true then f (b.lane u) else b.lane u := by
  have hlist : ∀ ts : List Nat, ts.Nodup → (∀ t ∈ ts, t < 32) → ∀ b : Band,
      (ts.foldl g b).lane u = if u ∈ ts then f (b.lane u) else b.lane u := by
    intro ts
    induction ts with
    | nil => intro _ _ b; simp
    | cons t ts ih =>
      intro hn hlt b
      obtain ⟨ht, hn⟩ := List.nodup_cons.1 hn
      rw [List.foldl_cons, ih hn (fun t h => hlt t (.tail _ h)), hg b t u (hlt t (.head _))]
      by_cases hu : t = u
      · subst hu; simp [ht]
      · simp [hu, Ne.symm hu]
  rw [hlist _ (lanesOf_nodup m) (fun t ht => lt_of_mem_lanesOf ht)]
  simp

/-- A lane that has recorded a trap and waits for the handler (R356, R357). -/
def Lane.trapped (l : Lane) (resume : DWord) (q : Trap) : Lane :=
  { l with st := .waiting .trap, trapCode := q.word, trapPc := resume, trapAddr := q.addr, trapOrig := q.orig }

/-- The band after the lanes of a mask have raised a trap (R360, R361). -/
def Band.raiseAll (b : Band) (m : BitVec 32) (resume : DWord) (q : Trap) : Band :=
  ((lanesOf m).map fun t => (t, q)).foldl (fun b p => b.raise p.1 resume p.2) b

theorem Band.lane_raise (b : Band) {t : Nat} (u : Nat) (ht : t < 32) (resume : DWord) (q : Trap) :
    (b.raise t resume q).lane u = if t = u then (b.lane u).trapped resume q else b.lane u := by
  have h : (b.raise t resume q).lane u = (b.setLane t ((b.lane t).trapped resume q)).lane u := rfl
  rw [h, Band.lane_setLane]
  by_cases hu : t = u
  · subst hu; simp [ht]
  · simp [hu]

theorem Band.raise_frame (b : Band) (t : Nat) (resume : DWord) (q : Trap) :
    b.raise t resume q = { b with lanes := (b.raise t resume q).lanes, trapLane := b.trapLane ||| laneMask t } := rfl

theorem Band.lane_raiseAll (b : Band) (m : BitVec 32) (resume : DWord) (q : Trap) (u : Nat) :
    (b.raiseAll m resume q).lane u = if bit m u = true then (b.lane u).trapped resume q else b.lane u := by
  rw [Band.raiseAll, List.foldl_map]
  exact Band.lane_foldl (f := (·.trapped resume q)) (fun b t u ht => b.lane_raise u ht resume q) m b u

theorem Band.raiseAll_frame (b : Band) (m : BitVec 32) (resume : DWord) (q : Trap) :
    b.raiseAll m resume q = { b with lanes := (b.raiseAll m resume q).lanes, trapLane := b.trapLane ||| m } := by
  have hlist : ∀ ts : List Nat, (∀ t ∈ ts, t < 32) → ∀ b : Band, ∃ m' : BitVec 32, (∀ j, bit m' j = decide (j ∈ ts)) ∧
      ts.foldl (fun b t => b.raise t resume q) b =
        { b with lanes := (ts.foldl (fun b t => b.raise t resume q) b).lanes, trapLane := b.trapLane ||| m' } := by
    intro ts
    induction ts with
    | nil => exact fun _ b => ⟨0, fun j => (bit_zero j).trans (by simp), by simp⟩
    | cons t ts ih =>
      intro hlt b
      obtain ⟨m', hm', hf⟩ := ih (fun t h => hlt t (.tail _ h)) (b.raise t resume q)
      refine ⟨laneMask t ||| m', fun j => ?_, ?_⟩
      · rw [bit_or, bit_laneMask (hlt t (.head _)), hm']
        by_cases h : t = j
        · simp [h]
        · simp [h, Ne.symm h]
      · rw [List.foldl_cons, hf, b.raise_frame, BitVec.or_assoc]
  obtain ⟨m', hm', hf⟩ := hlist (lanesOf m) (fun t ht => lt_of_mem_lanesOf ht) b
  have : m' = m := eq_of_bits fun j => by rw [hm', Bool.eq_iff_iff]; simp
  rw [Band.raiseAll, List.foldl_map, hf, this]

/-! ## A band with nothing else to take -/

theorem Band.takeReports_none {b : Band} (h : ∀ l, (b.lane l).reports = []) : b.takeReports = b := by
  unfold Band.takeReports
  induction List.range 32 with
  | nil => rfl
  | cons t ts ih =>
    have ht : b.takeReport t = b := by rw [Band.takeReport]; simp only [h t]
    rw [List.foldl_cons, ht, ih]

theorem State.endRegion_closed {s : State} {bi : Nat} (h : (s.band bi).rgnOpen = false) : s.endRegion bi = s := by
  simp [State.endRegion, h]

theorem State.band_setBand_same (s : State) {bi : Nat} (h : bi < s.bands.length) (b : Band) : (s.setBand bi b).band bi = b := by
  rw [State.band_setBand, if_pos ⟨rfl, h⟩]

/-- The lanes of TRAPLANE at the handler's entry (R364). -/
def Band.entered (b : Band) : Band :=
  { b.mapLanes b.trapLane (fun _ l =>
      if l.live then { l with st := .eligible, pc := tvecEntry b.tvec, released := false, returned := false } else l) with
    handler := true, nextPc := 0 }

/-- The lanes of TRAPLANE record that their trap was not delivered (R379). -/
def Band.undelivered (b : Band) : Band :=
  (lanesOf b.trapLane).foldl (fun (b : Band) t =>
    b.setLane t { b.lane t with trapCode := (b.lane t).recorded.undelivered.word }) b

section
variable {s : State} {bi : Nat} {b : Band} (hbi : bi < s.bands.length) (hopen : b.rgnOpen = false)
  (hrep : ∀ l, (b.lane l).reports = []) (htrap : b.trapLane ≠ 0)
include hbi hopen hrep htrap

theorem State.enterHandler_delivered (hok : Claims.handlerOk s b) :
    (s.setBand bi b).enterHandler bi = s.setBand bi b.entered := by
  obtain ⟨hvalid, htarget⟩ := hok
  have hb : (s.setBand bi b).band bi = b := s.band_setBand_same hbi b
  have ht : (s.setBand bi b).targetTrap b (tvecEntry b.tvec) = none := htarget
  rw [State.enterHandler, State.endRegion_closed (hb.symm ▸ hopen)]
  simp only [hb, Band.takeReports_none hrep, State.setBand_setBand, htrap, if_false, hvalid, ht, Option.isNone_none,
    Bool.and_self, if_true]
  rfl

theorem State.enterHandler_undelivered (hok : ¬Claims.handlerOk s b) :
    (s.setBand bi b).enterHandler bi =
      (s.setBand bi b.undelivered).escalate bi (b.undelivered.lane (lowest b.trapLane)).recorded := by
  have hb : (s.setBand bi b).band bi = b := s.band_setBand_same hbi b
  have hno : (b.tvec.getLsbD 63 && (s.targetTrap b (tvecEntry b.tvec)).isNone) = false := by
    rw [Claims.handlerOk] at hok
    rw [Bool.eq_false_iff]
    simpa using hok
  have hno' : (b.tvec.getLsbD 63 && ((s.setBand bi b).targetTrap b (tvecEntry b.tvec)).isNone) = false := hno
  rw [State.enterHandler, State.endRegion_closed (hb.symm ▸ hopen)]
  simp only [hb, Band.takeReports_none hrep, State.setBand_setBand, htrap, if_false, hno', Bool.false_eq_true]
  rfl

end

/-! ## TRAP and BKPT (R95, R367) -/

section
variable {s : State} {i : Instr} {code : Byte} {tag : BitVec 16} (h : Claims.softTrap s i = some (code, tag))
include h

theorem softTrap_form : (∃ hd, i = .trap hd tag ∧ code = 0x18) ∨
    ∃ hd, i = .bkpt hd tag ∧ code = 0x1A ∧ s.haltsAtBkpt = false := by
  cases i with
  | trap hd t => cases h; exact .inl ⟨hd, rfl, rfl⟩
  | bkpt hd t =>
    simp only [Claims.softTrap] at h
    split at h
    · cases h
    · cases h; exact .inr ⟨hd, rfl, rfl, Bool.eq_false_iff.2 ‹_›⟩
  | _ => cases h

theorem exec_softTrap : exec i s = .next (plainWord i (fun _ s => s) s) := by
  obtain ⟨hd, rfl, -⟩ | ⟨hd, rfl, -, hn⟩ := softTrap_form h
  · rfl
  · show execBkpt hd tag s = _
    simp [execBkpt, hn]

/-- Each lane of V traps, in a chained pair or not (R444). -/
theorem preciseTraps_softTrap (hcheck : s.me.check.getLsbD 0 = false) :
    preciseTraps s (s.ex i.hdr) i =
      (lanesOf (s.vOf i)).map fun t => (t, syncTrap code tag.toNat 0 (s.ex i.hdr).pc) := by
  have hstall : ∀ t, s.me.stalls (s.ex i.hdr) t i = false := fun t => by simp only [Band.stalls, hcheck, Bool.false_and]
  obtain ⟨hown, hsoft, hout, h51, hover⟩ :
      (∀ t, ownPrecise s (s.ex i.hdr) i t = some (syncTrap code tag.toNat 0 (s.ex i.hdr).pc)) ∧
      (syncTrap code tag.toNat 0 (s.ex i.hdr).pc).software = true ∧ s.me.outside i = none ∧
      check51 i s.me (s.ex i.hdr).pc = none ∧ overflowLanes s (s.ex i.hdr) i = [] := by
    obtain ⟨hd, rfl, rfl⟩ | ⟨hd, rfl, rfl, -⟩ := softTrap_form h
    · exact ⟨fun _ => rfl, rfl, rfl, rfl, rfl⟩
    · exact ⟨fun _ => rfl, rfl, rfl, rfl, rfl⟩
  have hlane : ∀ t, preciseLane s (s.ex i.hdr) i t = some (syncTrap code tag.toNat 0 (s.ex i.hdr).pc) := fun t => by
    simp only [preciseLane, hstall, Bool.false_eq_true, if_false, hout, hown]
  unfold preciseTraps
  split
  · simp only [hown, Option.filter_some, hsoft, if_true, Option.map_some, List.filterMap_eq_map']; rfl
  · simp only [h51, ownTraps, hlane, hover, Option.map_some, List.filterMap_eq_map', ite_self, List.append_nil]; rfl

/-- The word takes its trap (R360). -/
theorem exec_softTrap_raises (hcur : s.cur < s.bands.length) (hv : s.vOf i ≠ 0) (hh : s.me.handler = false)
    (hcheck : s.me.check.getLsbD 0 = false) :
    exec i s = .next ((s.setMe (s.me.drain.raiseAll (s.vOf i) (nextAfter s (s.ex i.hdr))
      (syncTrap code tag.toNat 0 (s.ex i.hdr).pc))).enterHandler s.cur).tickFree := by
  have htraps := preciseTraps_softTrap h hcheck
  have hcode : (syncTrap code tag.toNat 0 (s.ex i.hdr).pc).code = 0x18 ∨ (syncTrap code tag.toNat 0 (s.ex i.hdr).pc).code = 0x1A := by
    obtain ⟨-, -, hc⟩ | ⟨-, -, hc, -⟩ := softTrap_form h
    · exact .inl hc
    · exact .inr hc
  generalize syncTrap code tag.toNat 0 (s.ex i.hdr).pc = q at *
  have htake : ∀ ts : List (Nat × Trap), ts = (lanesOf (s.vOf i)).map (fun t => (t, q)) →
      s.takePrecise s.cur (s.ex i.hdr).pc (nextAfter s (s.ex i.hdr)) ts =
        (s.setMe (s.me.drain.raiseAll (s.vOf i) (nextAfter s (s.ex i.hdr)) q)).enterHandler s.cur := by
    rintro ts rfl
    have hb : (s.setBand s.cur (s.band s.cur).drain).band s.cur = s.me.drain := s.band_setBand_same hcur _
    have hd : s.me.drain.handler = false := hh
    simp only [State.takePrecise, hb, hd, Bool.false_eq_true, if_false, State.setBand_setBand, List.foldl_map, hcode, if_true]
    rw [Band.raiseAll, List.foldl_map]; rfl
  rw [exec_softTrap h, plainWord, runWord]
  obtain ⟨t, ts, hts⟩ := List.exists_cons_of_ne_nil (mt lanesOf_eq_nil.1 hv)
  rw [hts, List.map_cons] at htraps
  rw [hts, List.map_cons] at htake
  simp only [htraps, htake _ rfl]

end

/-- TRAPCODE of a trap that is neither asynchronous nor an abort: INFO above the code (R356). -/
theorem Trap.word_eq {q : Trap} (ha : q.async = false) (hb : q.abrt = false) :
    q.word = BitVec.ofNat 32 (q.info.toNat * 2 ^ 16 + q.code.toNat) := by
  have hi := q.info.isLt
  have hc := q.code.isLt
  apply BitVec.eq_of_toNat_eq
  rw [Trap.word, ha, hb, BitVec.toNat_append, BitVec.toNat_append, BitVec.toNat_append, BitVec.toNat_append,
    ← Nat.shiftLeft_add_eq_or_of_lt hc, BitVec.toNat_ofNat, Nat.mod_eq_of_lt (by omega)]
  simp [Nat.shiftLeft_eq]
  omega

section
variable {s : State} {v : BitVec 32} {next : DWord} {q : Trap}

/-- The band of a software trap, before the handler is entered. -/
theorem raised_band (b : Band) : b.drain.raiseAll v next q =
    { b.drain with lanes := (b.drain.raiseAll v next q).lanes, trapLane := b.trapLane ||| v } :=
  b.drain.raiseAll_frame v next q

theorem raised_reports {b : Band} (h : ∀ l, (b.lane l).reports = []) (l : Nat) :
    ((b.drain.raiseAll v next q).lane l).reports = [] := by
  rw [Band.lane_raiseAll]
  split
  · exact h l
  · exact h l

theorem raised_trapLane_ne {b : Band} (hv : v ≠ 0) : (b.drain.raiseAll v next q).trapLane ≠ 0 := by
  rw [raised_band]
  obtain ⟨l, hl⟩ := List.exists_mem_of_ne_nil _ (mt lanesOf_eq_nil.1 hv)
  rw [mem_lanesOf] at hl
  intro h0
  have hb : bit (b.trapLane ||| v) l = false := (congrArg (bit · l) h0).trans (bit_zero l)
  rw [bit_or, hl, Bool.or_true] at hb
  cases hb

theorem handlerOk_raised {b : Band} : Claims.handlerOk s (b.drain.raiseAll v next q) ↔ Claims.handlerOk s b := by
  rw [raised_band]; exact Iff.rfl

end

/-- A lane of TRAPLANE goes to the handler's entry, another keeps its place (R364). -/
theorem Band.lane_entered (b : Band) (l : Nat) : b.entered.lane l =
    if bit b.trapLane l = true ∧ (b.lane l).live = true then
      { b.lane l with st := .eligible, pc := tvecEntry b.tvec, released := false, returned := false }
    else b.lane l := by
  have h : b.entered.lane l = (b.mapLanes b.trapLane fun _ l =>
      if l.live then { l with st := .eligible, pc := tvecEntry b.tvec, released := false, returned := false } else l).lane l :=
    rfl
  rw [h, Band.lane_mapLanes]
  by_cases h1 : bit b.trapLane l = true <;> by_cases h2 : (b.lane l).live = true <;> simp [h1, h2]

/-! ## A trap that no handler can take (R379, R403) -/

theorem Band.lane_undelivered (b : Band) (l : Nat) : b.undelivered.lane l =
    if bit b.trapLane l = true then { b.lane l with trapCode := (b.lane l).recorded.undelivered.word } else b.lane l := by
  refine Band.lane_foldl (f := fun l => { l with trapCode := l.recorded.undelivered.word }) (fun b t u ht => ?_) b.trapLane b l
  rw [Band.lane_setLane]
  by_cases hu : t = u
  · subst hu; simp [ht]
  · simp [hu]

theorem Band.undelivered_frame (b : Band) : b.undelivered = { b with lanes := b.undelivered.lanes } := by
  have hlist : ∀ (ts : List Nat) (f : Lane → Lane) (b : Band), ts.foldl (fun b t => b.setLane t (f (b.lane t))) b =
      { b with lanes := (ts.foldl (fun b t => b.setLane t (f (b.lane t))) b).lanes } := by
    intro ts f
    induction ts with
    | nil => exact fun _ => rfl
    | cons t ts ih => intro b; rw [List.foldl_cons, ih]; rfl
  exact hlist _ (fun l => { l with trapCode := l.recorded.undelivered.word }) b

/-- The record of a lane keeps the code of its trap. -/
theorem Lane.recorded_trapped (l : Lane) (resume : DWord) {q : Trap} (ha : q.async = false) (hb : q.abrt = false) :
    (l.trapped resume q).recorded.code = q.code ∧ (l.trapped resume q).recorded.async = false ∧
      (l.trapped resume q).recorded.abrt = false := by
  have hi := q.info.isLt
  have hc := q.code.isLt
  have hn : (q.word).toNat = q.info.toNat * 2 ^ 16 + q.code.toNat := by
    rw [Trap.word_eq ha hb, BitVec.toNat_ofNat, Nat.mod_eq_of_lt (by omega)]
  refine ⟨?_, ?_, ?_⟩
  · apply BitVec.eq_of_toNat_eq
    show (q.word.setWidth 8).toNat = _
    rw [BitVec.toNat_setWidth, hn]; omega
  · show q.word.getLsbD 15 = false
    rw [BitVec.getLsbD, hn, Nat.testBit_eq_decide_div_mod_eq, decide_eq_false_iff_not]; omega
  · show q.word.getLsbD 14 = false
    rw [BitVec.getLsbD, hn, Nat.testBit_eq_decide_div_mod_eq, decide_eq_false_iff_not]; omega

/-- A lane whose trap was not delivered: its code in INFO too (R379). -/
def Lane.undelivered (l : Lane) (resume : DWord) (q : Trap) : Lane :=
  { l.trapped resume q with trapCode := (l.trapped resume q).recorded.undelivered.word }

theorem Lane.trapCode_undelivered (l : Lane) (resume : DWord) {q : Trap} (ha : q.async = false) (hb : q.abrt = false) :
    (l.undelivered resume q).trapCode = BitVec.ofNat 32 (q.code.toNat * 2 ^ 16 + q.code.toNat) := by
  obtain ⟨hcode, hasync, habrt⟩ := l.recorded_trapped resume ha hb
  have hc := q.code.isLt
  show (l.trapped resume q).recorded.undelivered.word = _
  rw [Trap.word_eq (q := (l.trapped resume q).recorded.undelivered) hasync habrt]
  simp only [Trap.undelivered, hcode, BitVec.toNat_setWidth, Nat.mod_eq_of_lt (show q.code.toNat < 2 ^ 16 by omega)]

/-- The stop code of a quarter: INFO above the code (R403). -/
theorem stopCode_eq (info : BitVec 16) (code : Byte) :
    info ++ 0#8 ++ code = BitVec.ofNat 32 (info.toNat * 2 ^ 16 + code.toNat) := by
  have hi := info.isLt
  have hc := code.isLt
  apply BitVec.eq_of_toNat_eq
  rw [BitVec.toNat_append, BitVec.toNat_append, ← Nat.shiftLeft_add_eq_or_of_lt hc, BitVec.toNat_ofNat, Nat.mod_eq_of_lt (by omega)]
  simp [Nat.shiftLeft_eq]
  omega

/-- The trap that such a lane has recorded has its code in INFO. -/
theorem Lane.recorded_undelivered (l : Lane) (resume : DWord) {q : Trap} (ha : q.async = false) (hb : q.abrt = false) :
    (l.undelivered resume q).recorded.code = q.code ∧ (l.undelivered resume q).recorded.info = q.code.setWidth 16 := by
  have hc := q.code.isLt
  have hn : (l.undelivered resume q).trapCode.toNat = q.code.toNat * 2 ^ 16 + q.code.toNat := by
    rw [l.trapCode_undelivered resume ha hb, BitVec.toNat_ofNat, Nat.mod_eq_of_lt (by omega)]
  constructor
  · apply BitVec.eq_of_toNat_eq
    rw [Lane.recorded, BitVec.toNat_setWidth, hn]; omega
  · apply BitVec.eq_of_toNat_eq
    rw [Lane.recorded, BitVec.toNat_setWidth, BitVec.toNat_setWidth, BitVec.toNat_ushiftRight, hn, Nat.shiftRight_eq_div_pow,
      Nat.mul_comm, Nat.mul_add_div (by decide), Nat.div_eq_of_lt (show q.code.toNat < 2 ^ 16 by omega), Nat.add_zero]

section
variable {b : Band} {v : BitVec 32} {next : DWord} {q : Trap} (htl : b.trapLane = 0)
include htl

theorem raised_trapLane : (b.drain.raiseAll v next q).trapLane = v := by
  rw [raised_band, htl]; exact BitVec.zero_or

theorem undelivered_raised : (b.drain.raiseAll v next q).undelivered =
    { b.drain with lanes := (b.drain.raiseAll v next q).undelivered.lanes, trapLane := v } := by
  have hf := (b.drain.raiseAll v next q).undelivered_frame
  generalize (b.drain.raiseAll v next q).undelivered = u at hf ⊢
  rw [hf, raised_band, htl, show (0 : BitVec 32) ||| v = v from BitVec.zero_or]

theorem lane_undelivered_raised {l : Nat} (hl : bit v l = true) :
    (b.drain.raiseAll v next q).undelivered.lane l = (b.lane l).undelivered next q := by
  rw [Band.lane_undelivered, raised_trapLane htl, if_pos hl, Band.lane_raiseAll, if_pos hl]; rfl

end

theorem State.quarterOf_setQuarter (s : State) {core q : Nat} (hq : q < 4) (x : Quarter) {b : Band} (hc : b.core = core)
    (hb : b.quarter = q) : (s.setQuarter core q x).quarterOf b = x := by
  subst hc hb
  rw [State.quarterOf, State.setQuarter, State.core_setCore]
  simp [State.core_id, Array.getD, hq]

section
variable {s : State} {k : Nat}

theorem State.ctx_id {c : Ctx} (h : s.ctx k = some c) : c.id = k := by
  simpa using List.find?_some h

theorem State.ctx_setCtx {c x : Ctx} (h : s.ctx k = some c) (hx : x.id = k) : (s.setCtx x).ctx k = some x := by
  subst hx
  have hid : ∀ e : Ctx, ((if e.id == x.id then x else e).id == x.id) = (e.id == x.id) := fun e => by
    by_cases he : e.id = x.id <;> simp [he]
  have hf : s.ctxs.find? (·.id == x.id) = some c := h
  simp only [State.ctx, State.setCtx, List.find?_map, Function.comp_def, hid, hf, Option.map_some, State.ctx_id h, beq_self_eq_true,
    if_true]

/-- A record for a context without an event ring is not kept (R439). -/
theorem State.post_noRing {e : Ev} (h : ∀ c, s.ctx e.ctx = some c → c.eventRing = 0) : s.post [e] = s := by
  have h1 : s.post1 e = (s, []) := by
    unfold State.post1
    cases hc : s.ctx e.ctx with
    | none => rfl
    | some c => simp only [h c hc, if_true]
  rw [State.post, List.length_singleton, Nat.add_comm, State.postAll, h1]
  exact State.postAll_nil s _

/-- A context is stopped, with the code of the first stop. -/
theorem State.stopCtx_noRing (h : ∀ c, s.ctx k = some c → c.eventRing = 0) (die : Nat) (code : Byte) (orig : DWord) :
    s.stopCtx k die code orig = { s with ctxs := (s.stopCtx k die code orig).ctxs } ∧
      ∀ c, s.ctx k = some c → ((s.stopCtx k die code orig).ctx k).bind (·.stoppedBy) = some (c.stoppedBy.getD code) := by
  unfold State.stopCtx
  cases hc : s.ctx k with
  | none => exact ⟨rfl, fun c hc => by cases hc⟩
  | some c =>
    by_cases hs : c.stoppedBy.isSome = true
    · obtain ⟨x, hx⟩ := Option.isSome_iff_exists.1 hs
      simp [hc, hx]
    · have hctx : (s.setCtx { c with stoppedBy := some code }).ctx k = some { c with stoppedBy := some code } :=
        State.ctx_setCtx hc (show c.id = k from State.ctx_id hc)
      have hp : (s.setCtx { c with stoppedBy := some code }).post [⟨k, 6, die, code.toNat, orig⟩] =
          s.setCtx { c with stoppedBy := some code } := State.post_noRing fun c' hc' => by
        cases hctx.symm.trans hc'
        exact h c hc
      simp only [hs, Bool.false_eq_true, if_false, hp]
      refine ⟨rfl, fun c' hc' => ?_⟩
      cases hc'
      simp at hs
      simp [hctx, hs]

end

def Band.stop (b : Band) : Band := { b with stopped := true }

/-- The quarter of a band that escalates, where it has not stopped before (R403). -/
def State.stoppedQuarter (s : State) (b : Band) (x : Trap) : Quarter :=
  { s.quarterOf b with stopped := true, drained := false, stepping := false, stopCode := x.info ++ 0#8 ++ x.code,
                       stopCycle := s.stopClock b.core (s.quarterOf b) }

section
variable {s : State} {bi : Nat} {b : Band} (hbi : bi < s.bands.length) (x : Trap) (hstop : (s.quarterOf b).stopCode = 0)
include hbi hstop

theorem State.escalate_eq : (s.setBand bi b).escalate bi x =
    ((s.setBand bi b.stop).setQuarter b.core b.quarter (s.stoppedQuarter b x)).stopCtx (s.ctxOf b) (b.core / 256)
      x.code x.orig := by
  have hset : (s.setBand bi b).setBand bi { (s.setBand bi b).band bi with stopped := true } = s.setBand bi b.stop := by
    rw [s.band_setBand_same hbi, State.setBand_setBand]; rfl
  have hq : (s.setBand bi b.stop).quarterOf b.stop = s.quarterOf b := rfl
  rw [State.escalate, hset]
  simp only [s.band_setBand_same hbi, hq, hstop, bne_self_eq_false, Bool.false_eq_true, if_false]
  rfl

/-- A band that escalates in a context without an event ring: it stops with its quarter, whose code and INFO are those of
the trap, and so does its context. -/
theorem State.escalate_noRing (hq : b.quarter < 4) (hring : ∀ c, s.ctx (s.ctxOf b) = some c → c.eventRing = 0) :
    ((s.setBand bi b).escalate bi x).cur = s.cur ∧
    ((s.setBand bi b).escalate bi x).band bi = b.stop ∧
    ((s.setBand bi b).escalate bi x).quarterOf b.stop = s.stoppedQuarter b x ∧
    ∀ c, s.ctx (s.ctxOf b) = some c →
      ((((s.setBand bi b).escalate bi x).ctx (s.ctxOf b)).bind (·.stoppedBy)) = some (c.stoppedBy.getD x.code) := by
  obtain ⟨hframe, hctx⟩ := State.stopCtx_noRing (s := (s.setBand bi b.stop).setQuarter b.core b.quarter (s.stoppedQuarter b x))
    (k := s.ctxOf b) hring (b.core / 256) x.code x.orig
  rw [← State.escalate_eq hbi x hstop] at hframe hctx
  have hquarter := State.quarterOf_setQuarter (s.setBand bi b.stop) hq (s.stoppedQuarter b x) (b := b.stop) rfl rfl
  refine ⟨?_, ?_, ?_, hctx⟩
  · rw [hframe]; rfl
  · rw [hframe]; exact s.band_setBand_same hbi _
  · rw [hframe]; exact hquarter

end

end Sys2Proof.Machine

namespace Sys2Proof
open Machine

theorem softwareTraps : Claims.SoftwareTraps := by
  intro s i code tag h hcur hv hh hopen hrep hcheck hok
  have hword : (syncTrap code tag.toNat 0 (s.ex i.hdr).pc).word = BitVec.ofNat 32 (tag.toNat * 2 ^ 16 + code.toNat) := by
    rw [Trap.word_eq rfl rfl]; simp [syncTrap]
  have hexec := exec_softTrap_raises h hcur hv hh hcheck
  generalize hq : syncTrap code tag.toNat 0 (s.ex i.hdr).pc = q at hexec hword
  have haddr : q.addr = 0 := by rw [← hq]; rfl
  have horig : q.orig = (s.ex i.hdr).pc := by rw [← hq]; rfl
  generalize hb : s.me.drain.raiseAll (s.vOf i) (nextAfter s (s.ex i.hdr)) q = b at hexec
  have hlane : ∀ l, b.lane l = if bit (s.vOf i) l = true then (s.me.lane l).trapped (nextAfter s (s.ex i.hdr)) q else s.me.lane l :=
    fun l => by rw [← hb, Band.lane_raiseAll]; rfl
  have hband : b = { s.me.drain with lanes := b.lanes, trapLane := s.me.trapLane ||| s.vOf i } := by
    rw [← hb]; exact raised_band s.me
  rw [State.setMe, State.enterHandler_delivered hcur (by rw [hband]; exact hopen) (hb ▸ raised_reports hrep)
    (hb ▸ raised_trapLane_ne hv) (hb ▸ handlerOk_raised.2 hok)] at hexec
  have hme : (s.setBand s.cur b.entered).tickFree.me = b.entered := s.band_setBand_same hcur _
  have htvec : b.tvec = s.me.tvec := by rw [hband]; rfl
  have htl : ∀ l, bit b.trapLane l = (bit s.me.trapLane l || bit (s.vOf i) l) := fun l => by rw [hband, bit_or]
  refine ⟨_, hexec, rfl, fun n hn => ?_, ?_, fun l hl => ?_, fun l hl hm hlive => ?_, fun l hl hm => ?_⟩
  · exact (s.band_setBand s.cur n b.entered).trans (if_neg fun e => hn e.1.symm)
  · rw [hme, Band.entered, hband]; rfl
  · have hlive : (b.lane l).live = true := by rw [hlane, if_pos hl]; rfl
    rw [hme, Band.lane_entered, if_pos ⟨by rw [htl, hl, Bool.or_true], hlive⟩, htvec, hlane, if_pos hl, Lane.trapped, hword,
      haddr, horig]
  · have hkeep : b.lane l = s.me.lane l := by rw [hlane, if_neg (by simp [hl])]
    rw [hme, Band.lane_entered, hkeep, if_pos ⟨by rw [htl, hm, Bool.true_or], hlive⟩, htvec]
  · rw [hme, Band.lane_entered, if_neg (by rw [htl, hl, hm]; simp), hlane, if_neg (by simp [hl])]

theorem undeliveredTraps : Claims.UndeliveredTraps := by
  intro s i code tag h hcur hv hh hopen htl hrep hcheck hquarter hstop hok hring
  have hexec := exec_softTrap_raises h hcur hv hh hcheck
  generalize hq : syncTrap code tag.toNat 0 (s.ex i.hdr).pc = q at hexec
  have hcode : q.code = code := by rw [← hq]; rfl
  have horig : q.orig = (s.ex i.hdr).pc := by rw [← hq]; rfl
  have hasync : q.async = false := by rw [← hq]; rfl
  have habrt : q.abrt = false := by rw [← hq]; rfl
  have hband := raised_band (v := s.vOf i) (next := nextAfter s (s.ex i.hdr)) (q := q) s.me
  rw [State.setMe, State.enterHandler_undelivered hcur (by rw [hband]; exact hopen) (raised_reports hrep)
    (raised_trapLane_ne hv) (mt handlerOk_raised.1 hok), raised_trapLane htl] at hexec
  have hund := undelivered_raised (v := s.vOf i) (next := nextAfter s (s.ex i.hdr)) (q := q) htl
  have htrapped := fun l => lane_undelivered_raised (next := nextAfter s (s.ex i.hdr)) (q := q) (v := s.vOf i) htl (l := l)
  generalize (s.me.drain.raiseAll (s.vOf i) (nextAfter s (s.ex i.hdr)) q).undelivered = u at hexec hund htrapped
  obtain ⟨hxc, hxi⟩ : (u.lane (lowest (s.vOf i))).recorded.code = code ∧
      (u.lane (lowest (s.vOf i))).recorded.info = code.setWidth 16 := by
    rw [htrapped _ (bit_lowest hv), ← hcode]
    exact Lane.recorded_undelivered _ _ hasync habrt
  generalize (u.lane (lowest (s.vOf i))).recorded = x at hexec hxc hxi
  have hcore : s.quarterOf u = s.quarterOf s.me := by rw [hund]; rfl
  have hctx : s.ctxOf u = s.ctxOf s.me := by rw [hund]; rfl
  obtain ⟨hcur', hband', hquarter', hctx'⟩ := State.escalate_noRing (b := u) hcur x (by rw [hcore]; exact hstop)
    (by rw [hund]; exact hquarter) (by rw [hctx]; exact hring)
  rw [hctx, hxc] at hctx'
  generalize (s.setBand s.cur u).escalate s.cur x = t at hexec hcur' hband' hquarter' hctx'
  have hme : t.tickFree.me = u.stop := (congrArg t.band hcur').trans hband'
  have hstopped : t.tickFree.quarterOf u.stop = s.stoppedQuarter u x := hquarter'
  refine ⟨_, hexec, ?_, ?_, ?_, ?_, ?_, fun l hl => ?_, hctx'⟩
  · rw [hme, hund]; exact hh
  · rw [hme, hund]; rfl
  · rw [hme]; rfl
  · rw [hme, hstopped]; rfl
  · rw [hme, hstopped, State.stoppedQuarter, hxc, hxi, stopCode_eq, BitVec.toNat_setWidth,
      Nat.mod_eq_of_lt (show code.toNat < 2 ^ 16 by have := code.isLt; omega)]
  · rw [hme, show u.stop.lane l = u.lane l from rfl, htrapped l hl]
    exact ⟨hcode ▸ Lane.trapCode_undelivered _ _ hasync habrt, horig, rfl⟩

/-- Settles O8: the trap is taken by the handler, or escalates where no handler can take it. -/
theorem softwareTrapsTaken : Obligations.SoftwareTrapsTaken := ⟨softwareTraps, undeliveredTraps⟩

end Sys2Proof
end

section
/-!
PROOFS. Rounding to an integer and to a floating format (R103, R104).
-/

namespace Sys2Proof.Machine

/-! ## Rounding to an integer -/

/-- Whether a mode takes the integer above q for a value of q and r parts of u (R104). -/
def Mode.up (mode : Mode) (neg : Bool) (q r u : Nat) : Bool :=
  match mode with
  | .rne => decide (u < 2 * r) || (2 * r == u && r != 0 && q % 2 == 1)
  | .rz => false
  | .ru => !neg && r != 0
  | .rd => neg && r != 0

/-- A number of fewer bits than the shift is below half a unit. -/
theorem two_mul_lt_of_log2 {m sh : Nat} (h : Nat.log2 m + 2 ≤ sh) : 2 * m < 2 ^ sh := by
  have hm : m < 2 ^ (Nat.log2 m + 1) := Nat.lt_log2_self
  have hp : 2 ^ (Nat.log2 m + 1 + 1) ≤ 2 ^ sh := Nat.pow_le_pow_right (by decide) h
  rw [pow_succ] at hp
  omega

/-- The integer below, or the one above, by what is lost; the short form for small values agrees. -/
theorem roundNat_eq (mode : Mode) (neg : Bool) (m sh : Nat) : roundNat mode neg m sh =
    (m / 2 ^ sh + (if mode.up neg (m / 2 ^ sh) (m % 2 ^ sh) (2 ^ sh) then 1 else 0), decide (m % 2 ^ sh ≠ 0)) := by
  have hpos : 0 < 2 ^ sh := Nat.two_pow_pos sh
  by_cases hfar : Nat.log2 m + 2 ≤ sh
  · have h2 := two_mul_lt_of_log2 hfar
    have hq : m / 2 ^ sh = 0 := Nat.div_eq_of_lt (by omega)
    have hr : m % 2 ^ sh = m := Nat.mod_eq_of_lt (by omega)
    have hlt : ¬2 ^ sh < 2 * m := by omega
    cases mode <;> simp [roundNat, Mode.up, hfar, hq, hr, hlt] <;> rfl
  · cases mode <;> simp [roundNat, Mode.up, hfar, bne, beq_eq_decide] <;> split <;> rfl

/-- How far the rounded integer lies from m / 2^sh, in parts of 2^sh. -/
theorem roundNat_sub (mode : Mode) (neg : Bool) (m sh : Nat) :
    ((roundNat mode neg m sh).1 : Int) * 2 ^ sh - m =
      (if mode.up neg (m / 2 ^ sh) (m % 2 ^ sh) (2 ^ sh) then 2 ^ sh else 0) - ((m % 2 ^ sh : Nat) : Int) := by
  have hm : (m : Int) = ((m / 2 ^ sh : Nat) : Int) * 2 ^ sh + ((m % 2 ^ sh : Nat) : Int) := by
    rw [Int.mul_comm]; exact_mod_cast (Nat.div_add_mod m (2 ^ sh)).symm
  rw [roundNat_eq]
  generalize m / 2 ^ sh = q at *
  generalize m % 2 ^ sh = r at *
  rw [hm]
  split <;> push_cast <;> ring

/-! ## Codes (R100) -/

/-- Significand and exponent, above that of the smallest subnormal, of a code without its sign. -/
def significand (mb a : Nat) : Nat := (if a / 2 ^ mb = 0 then 0 else 2 ^ mb) + a % 2 ^ mb
def exponent (mb a : Nat) : Nat := a / 2 ^ mb - 1

theorem significand_lt (mb a : Nat) : significand mb a < 2 ^ (mb + 1) := by
  have := Nat.mod_lt a (Nat.two_pow_pos mb)
  rw [significand, pow_succ]
  split <;> omega

/-- Only the smallest exponent has subnormals. -/
theorem exponent_zero_or_normal (mb a : Nat) : exponent mb a = 0 ∨ 2 ^ mb ≤ significand mb a := by
  unfold exponent significand
  split <;> omega

theorem exponent_significand (mb a : Nat) : exponent mb a * 2 ^ mb + significand mb a = a := by
  have ha := Nat.div_add_mod' a (2 ^ mb)
  unfold exponent significand
  split
  · rename_i h0
    rw [h0] at ha ⊢
    omega
  · obtain ⟨e, he⟩ := Nat.exists_eq_succ_of_ne_zero ‹_›
    rw [he, Nat.succ_mul] at ha
    rw [he, Nat.succ_sub_one]
    omega

/-- A significand of full length, or any at the smallest exponent, stands for itself; so does the one past the largest,
which carries into the exponent. -/
theorem significand_mul_exponent {mb k m : Nat} (hm : m ≤ 2 ^ (mb + 1)) (hk : k = 0 ∨ 2 ^ mb ≤ m) :
    significand mb (k * 2 ^ mb + m) * 2 ^ exponent mb (k * 2 ^ mb + m) = m * 2 ^ k := by
  have hpos := Nat.two_pow_pos mb
  have hdiv : (k * 2 ^ mb + m) / 2 ^ mb = k + m / 2 ^ mb := by rw [Nat.add_comm, Nat.add_mul_div_right _ _ hpos, Nat.add_comm]
  have hmod : (k * 2 ^ mb + m) % 2 ^ mb = m % 2 ^ mb := by rw [Nat.add_comm, Nat.add_mul_mod_self_right]
  rw [pow_succ] at hm
  rw [significand, exponent, hdiv, hmod]
  rcases Nat.lt_or_ge m (2 ^ mb) with hlt | hge
  · obtain rfl : k = 0 := by omega
    simp [Nat.div_eq_of_lt hlt, Nat.mod_eq_of_lt hlt]
  rcases hm.lt_or_eq with hlt | rfl
  · have h1 : m / 2 ^ mb = 1 := Nat.div_eq_of_lt_le (by omega) (by omega)
    have h2 : m % 2 ^ mb = m - 2 ^ mb := by rw [Nat.mod_eq_sub_mod hge, Nat.mod_eq_of_lt (by omega)]
    rw [h1, h2, if_neg (by omega), Nat.add_sub_cancel, Nat.add_sub_cancel' hge]
  · rw [Nat.mul_div_cancel_left _ hpos, Nat.mul_mod_right, if_neg (by omega), Nat.add_zero,
      show k + 2 - 1 = k + 1 by omega, pow_succ]
    ring

namespace FSpec

/-- The value of a finite code. -/
theorem val_of_le (f : FSpec) {c : Nat} (h : c % f.signBit ≤ f.big) : f.val false c =
    .fin (bits c (f.eb + f.mb) 1 == 1) (significand f.mb (c % f.signBit)) (f.qmin + exponent f.mb (c % f.signBit)) := by
  simp only [val, Nat.not_lt.2 h, decide_false, Bool.false_eq_true, if_false, Bool.false_and, significand, exponent]
  split
  · simp [*]
  · rfl

/-- A value with the digits of a finite code is kept as it is (R104). -/
theorem roundMag_digits (f : FSpec) (mode : Mode) (neg : Bool) {m k : Nat} (hm : m < 2 ^ (f.mb + 1))
    (hk : k = 0 ∨ 2 ^ f.mb ≤ m) (hbig : k * 2 ^ f.mb + m ≤ f.big) :
    f.roundMag mode false neg m (f.qmin + k) = (k * 2 ^ f.mb + m, 0) := by
  have hpos := Nat.two_pow_pos f.mb
  by_cases h0 : m = 0
  · obtain rfl : k = 0 := by omega
    simp [roundMag, h0]
  have hlog : Nat.log2 m ≤ f.mb := Nat.lt_succ_iff.1 ((Nat.log2_lt h0).2 hm)
  have hlog' : 2 ^ f.mb ≤ m → Nat.log2 m = f.mb := fun h => le_antisymm hlog ((Nat.le_log2 h0).2 h)
  have hq : max ((Nat.log2 m : Int) + (f.qmin + k) - f.mb) f.qmin = f.qmin + k := by
    rcases hk with rfl | hk
    · omega
    · rw [hlog' hk]; omega
  simp only [roundMag, h0, if_false, hq, roundAt, le_refl, if_true, sub_self, Int.toNat_zero, pow_zero, Nat.mul_one,
    add_sub_cancel_left, Int.toNat_natCast, Nat.not_lt.2 hbig, Bool.false_and, Bool.false_eq_true, cIf]

/-- A code is its sign and the rest. -/
theorem sign_add_mod (f : FSpec) {c : Nat} (h : c < 2 * f.signBit) :
    (if (bits c (f.eb + f.mb) 1 == 1) = true then f.signBit else 0) + c % f.signBit = c := by
  have hd := Nat.div_add_mod c f.signBit
  have hlt : c / f.signBit < 2 := Nat.div_lt_of_lt_mul (by rwa [Nat.mul_comm])
  have hb : bits c (f.eb + f.mb) 1 = c / f.signBit := Nat.mod_eq_of_lt hlt
  rw [hb]
  rcases (show c / f.signBit = 0 ∨ c / f.signBit = 1 by omega) with h0 | h0 <;> rw [h0] at hd ⊢ <;> simp at hd ⊢ <;> omega

/-- Every code that is no NaN is a fixed point of rounding, in any format. -/
theorem round_val (f : FSpec) (mode : Mode) {c : Nat} (hc : c < 2 * f.signBit) (hn : (f.val false c).isNan = false) :
    f.round mode false (f.val false c) = (c, 0) := by
  have hsign := f.sign_add_mod hc
  by_cases hbig : c % f.signBit ≤ f.big
  · have hdig := exponent_significand f.mb (c % f.signBit)
    rw [f.val_of_le hbig]
    simp only [round]
    rw [f.roundMag_digits mode _ (significand_lt _ _) (exponent_zero_or_normal _ _) (by rwa [hdig]), hdig]
    exact congrArg (·, 0) hsign
  · by_cases hinf : (f.hasInf && c % f.signBit == f.infCode) = true
    · have hv : f.val false c = .inf (bits c (f.eb + f.mb) 1 == 1) := by
        simp only [val, Nat.lt_of_not_le hbig, decide_true, if_true, hinf]
      simp only [Bool.and_eq_true, beq_iff_eq] at hinf
      rw [hv, round, if_pos hinf.1, ← hinf.2]
      exact congrArg (·, 0) hsign
    · have hv : (f.val false c).isNan = true := by
        simp only [val, Nat.lt_of_not_le hbig, decide_true, if_true, hinf]; rfl
      rw [hv] at hn
      cases hn

end FSpec

end Sys2Proof.Machine

namespace Sys2Proof
open Machine

theorem roundingModes : Claims.RoundingModes := by
  intro neg m sh
  have hr : m % 2 ^ sh < 2 ^ sh := Nat.mod_lt _ (Nat.two_pow_pos sh)
  have hu : ((2 ^ sh : Nat) : Int) = 2 ^ sh := by push_cast; rfl
  simp only [roundNat_sub]
  simp only [roundNat_eq]
  generalize m / 2 ^ sh = q at *
  generalize m % 2 ^ sh = r at *
  generalize (2 : Int) ^ sh = v at *
  generalize 2 ^ sh = u at *
  have hbelow : |(0 : Int) - r| = r := by rw [zero_sub, abs_neg, Nat.abs_cast]
  have habove : |v - r| = v - r := abs_of_nonneg (by omega)
  refine and_assoc.1 ⟨?_, ?_, ?_, ?_, fun _ => trivial⟩
  · split <;> rename_i hup <;> simp [Mode.up] at hup
    · rw [habove]; omega
    · rw [hbelow]; omega
  · simp [Mode.up]; omega
  · cases neg <;> by_cases h0 : r = 0 <;> simp [Mode.up, h0] <;> omega
  · cases neg <;> by_cases h0 : r = 0 <;> simp [Mode.up, h0] <;> omega

theorem floatCodesExact : Claims.FloatCodesExact := fun f _ mode _ hc hn => f.round_val mode hc hn

/-- Settles O14: rounding to an integer by what is lost, and the digits of a code, which every mode keeps. -/
theorem roundingAndCodes : Obligations.RoundingAndCodes := ⟨roundingModes, floatCodesExact⟩

end Sys2Proof
end

section
/-!
PROOFS. Sums and products of numbers are rounded once (R104, R115, R118): the number for which a value stands, the
exact operations on numbers, and the distance of a rounded code.
-/

namespace Sys2Proof.Machine

/-! ## Numbers -/

/-- The sign of a number. -/
def signOf (neg : Bool) : ℚ := if neg then -1 else 1

/-- The value is the number `v`. -/
def Fp.Is (x : Fp) (v : ℚ) : Prop := ∃ neg m e, x = .fin neg m e ∧ v = signOf neg * ((m : ℚ) * 2 ^ e)

theorem abs_signOf_mul (neg : Bool) (v : ℚ) : |signOf neg * v| = |v| := by cases neg <;> simp [signOf]

theorem signOf_not (neg : Bool) : signOf (!neg) = -signOf neg := by cases neg <;> simp [signOf]

theorem signOf_xor (x y : Bool) : signOf (x != y) = signOf x * signOf y := by cases x <;> cases y <;> simp [signOf]

theorem signOf_natAbs (n : Int) : signOf (decide (n < 0)) * (n.natAbs : ℚ) = n := by
  rw [Nat.cast_natAbs, signOf]
  by_cases h : n < 0
  · simp [h, abs_of_neg]
  · simp [h, abs_of_nonneg (not_lt.1 h)]

/-- A number in units of a power of two that its exponent reaches. -/
theorem Fp.units_fin (neg : Bool) (m : Nat) {e q : Int} (h : q ≤ e) :
    ((Fp.fin neg m e).units q : ℚ) * 2 ^ q = signOf neg * ((m : ℚ) * 2 ^ e) := by
  obtain ⟨n, rfl⟩ := Int.le.dest h
  rw [Fp.units, add_sub_cancel_left, Int.toNat_natCast, zpow_add₀ two_ne_zero, zpow_natCast]
  cases neg <;> simp [signOf] <;> ring

theorem Fp.Is.neg {x : Fp} {v : ℚ} (h : x.Is v) : x.neg.Is (-v) := by
  obtain ⟨n, m, e, rfl, rfl⟩ := h
  exact ⟨!n, m, e, rfl, by rw [signOf_not, neg_mul]⟩

theorem Fp.Is.add {x y : Fp} {v w : ℚ} (hx : x.Is v) (hy : y.Is w) : (x.add y).Is (v + w) := by
  obtain ⟨n, m, e, rfl, rfl⟩ := hx
  obtain ⟨n', m', e', rfl, rfl⟩ := hy
  rw [← Fp.units_fin n m (min_le_left e e'), ← Fp.units_fin n' m' (min_le_right e e'), ← add_mul, Fp.add]
  rw [← Int.cast_add]
  generalize (Fp.fin n m e).units (min e e') + (Fp.fin n' m' e').units (min e e') = s
  split
  · exact ⟨_, _, _, rfl, by simp [*]⟩
  · exact ⟨_, _, _, rfl, by rw [← mul_assoc, signOf_natAbs]⟩

theorem Fp.Is.mul {x y : Fp} {v w : ℚ} (hx : x.Is v) (hy : y.Is w) : (x.mul y).Is (v * w) := by
  obtain ⟨n, m, e, rfl, rfl⟩ := hx
  obtain ⟨n', m', e', rfl, rfl⟩ := hy
  refine ⟨_, _, _, rfl, ?_⟩
  rw [signOf_xor, zpow_add₀ two_ne_zero]
  push_cast
  ring

/-! ## Rounding to units of a power of two -/

/-- Rounding to the nearest moves a number by half a unit at most (R104). -/
theorem roundAt_near (neg : Bool) (m : Nat) (e q : Int) :
    2 * |((roundAt .rne neg m e q).1 : ℚ) * 2 ^ q - (m : ℚ) * 2 ^ e| ≤ 2 ^ q := by
  unfold roundAt
  split
  · obtain ⟨n, rfl⟩ := Int.le.dest ‹q ≤ e›
    rw [add_sub_cancel_left, Int.toNat_natCast, zpow_add₀ two_ne_zero, zpow_natCast]
    have : ((m * 2 ^ n : Nat) : ℚ) * 2 ^ q - m * (2 ^ q * 2 ^ n) = 0 := by push_cast; ring
    rw [this]
    simp [zpow_nonneg]
  · obtain ⟨n, rfl⟩ := Int.le.dest (le_of_not_ge ‹¬q ≤ e›)
    rw [add_sub_cancel_left, Int.toNat_natCast, zpow_add₀ two_ne_zero, zpow_natCast]
    obtain ⟨hnear, -⟩ := roundingModes neg m n
    generalize (roundNat .rne neg m n).1 = r at *
    have hcast : (2 : ℚ) * |(r : ℚ) * 2 ^ n - m| ≤ 2 ^ n := by exact_mod_cast hnear
    have hpos : (0 : ℚ) < 2 ^ e := zpow_pos two_pos e
    calc 2 * |(r : ℚ) * (2 ^ e * 2 ^ n) - m * 2 ^ e| = 2 * |(r : ℚ) * 2 ^ n - m| * 2 ^ e := by
          rw [show (r : ℚ) * (2 ^ e * 2 ^ n) - m * 2 ^ e = (r * 2 ^ n - m) * 2 ^ e by ring, abs_mul, abs_of_pos hpos]
          ring
      _ ≤ 2 ^ n * 2 ^ e := mul_le_mul_of_nonneg_right hcast hpos.le
      _ = 2 ^ e * 2 ^ n := mul_comm _ _

/-- A number has as many digits as its logarithm says. -/
theorem log2_bounds {m : Nat} (hm : m ≠ 0) (e : Int) :
    (2 : ℚ) ^ ((Nat.log2 m : Int) + e) ≤ m * 2 ^ e ∧ (m : ℚ) * 2 ^ e < 2 ^ ((Nat.log2 m : Int) + e + 1) := by
  have hpos : (0 : ℚ) < 2 ^ e := zpow_pos two_pos e
  have hlo : ((2 : ℚ) ^ Nat.log2 m) ≤ m := by exact_mod_cast Nat.log2_self_le hm
  have hhi : (m : ℚ) < 2 ^ (Nat.log2 m + 1) := by exact_mod_cast Nat.lt_log2_self
  constructor
  · rw [zpow_add₀ two_ne_zero, zpow_natCast]
    exact mul_le_mul_of_nonneg_right hlo hpos.le
  · rw [add_right_comm, zpow_add₀ two_ne_zero]
    exact mul_lt_mul_of_pos_right (by exact_mod_cast hhi) hpos

/-- Within half a unit of a value below 2^(n + 1) units, an integer is at most 2^(n + 1). -/
theorem le_of_near {r n : Nat} {q : Int} {v : ℚ} (hv : v < 2 ^ (q + n + 1)) (hr : 2 * |(r : ℚ) * 2 ^ q - v| ≤ 2 ^ q) :
    r ≤ 2 ^ (n + 1) := by
  by_contra hc
  have hpos : (0 : ℚ) < 2 ^ q := zpow_pos two_pos q
  have h1 : ((2 ^ (n + 1) : Nat) : ℚ) + 1 ≤ r := by exact_mod_cast Nat.lt_of_not_le hc
  have h2 : (2 : ℚ) ^ (q + n + 1) = ((2 ^ (n + 1) : Nat) : ℚ) * 2 ^ q := by
    rw [add_assoc, zpow_add₀ two_ne_zero, mul_comm]; norm_cast
  have h3 := le_abs_self ((r : ℚ) * 2 ^ q - v)
  rw [h2] at hv
  nlinarith [mul_le_mul_of_nonneg_right h1 hpos.le]

/-- Within half a unit of a value of 2^n units or more, an integer is at least 2^n. -/
theorem ge_of_near {r n : Nat} {q : Int} {v : ℚ} (hv : 2 ^ (q + n) ≤ v) (hr : 2 * |(r : ℚ) * 2 ^ q - v| ≤ 2 ^ q) :
    2 ^ n ≤ r := by
  by_contra hc
  have hpos : (0 : ℚ) < 2 ^ q := zpow_pos two_pos q
  have h1 : (r : ℚ) + 1 ≤ ((2 ^ n : Nat) : ℚ) := by exact_mod_cast Nat.lt_of_not_le hc
  have h2 : (2 : ℚ) ^ (q + n) = ((2 ^ n : Nat) : ℚ) * 2 ^ q := by
    rw [zpow_add₀ two_ne_zero, mul_comm]; norm_cast
  have h3 := neg_abs_le ((r : ℚ) * 2 ^ q - v)
  rw [h2] at hv
  nlinarith [mul_le_mul_of_nonneg_right h1 hpos.le]

/-! ## Rounding to a format -/

/-- The format has the usual form: its largest finite code stands right before that of infinity. -/
def FSpec.Ieee (f : FSpec) : Prop := f.big + 1 = f.infCode

namespace FSpec

/-- A result that is no overflow is a finite code. -/
theorem overflow_cOF (f : FSpec) (mode : Mode) (neg : Bool) : (f.overflow mode neg).2 &&& cOF ≠ 0 := by
  simp only [overflow]
  generalize (f.hasInf && _) = b
  cases b <;> simp only [if_true, Bool.false_eq_true, if_false] <;> decide

/-- The code without its sign is r units of 2^(qmin + k), which is nearest to the magnitude `v`; 2^(qmin + k) is the least
unit that the format has for it (R104). -/
structure Nearest (f : FSpec) (v : ℚ) (code k r : Nat) : Prop where
  eq : code = k * 2 ^ f.mb + r
  finite : code ≤ f.big
  /-- the last integer stands for a carry into the exponent -/
  carry : r ≤ 2 ^ (f.mb + 1)
  normal : k = 0 ∨ 2 ^ f.mb ≤ r
  near : 2 * |(r : ℚ) * 2 ^ (f.qmin + k) - v| ≤ 2 ^ (f.qmin + k)
  least : ∀ q : Int, f.qmin ≤ q → v < 2 ^ (q + f.mb + 1) → f.qmin + k ≤ q

/-- A nonzero number rounded to the nearest, where it is no overflow. -/
theorem roundMag_nearest (f : FSpec) (neg : Bool) {m : Nat} {e : Int} (hm : m ≠ 0)
    (hof : (f.roundMag .rne false neg m e).2 &&& cOF = 0) :
    ∃ k r : Nat, f.Nearest (m * 2 ^ e) (f.roundMag .rne false neg m e).1 k r := by
  obtain ⟨hlo, hhi⟩ := log2_bounds hm e
  generalize htop : (Nat.log2 m : Int) + e = top at hlo hhi
  obtain ⟨k, hk⟩ : ∃ k : Nat, max (top - f.mb) f.qmin = f.qmin + k := by
    obtain ⟨k, hk⟩ := Int.le.dest (le_max_right (top - f.mb) f.qmin)
    exact ⟨k, hk.symm⟩
  have hnear := roundAt_near neg m e (f.qmin + k)
  simp only [roundMag, hm, if_false, htop, hk, add_sub_cancel_left, Int.toNat_natCast, Bool.false_and,
    Bool.false_eq_true] at hof ⊢
  generalize (roundAt .rne neg m e (f.qmin + k)) = r at hnear hof ⊢
  split at hof
  · exact absurd hof (f.overflow_cOF _ _)
  · rename_i hbig
    rw [if_neg hbig]
    refine ⟨k, r.1, rfl, not_lt.1 hbig, ?_, ?_, hnear, fun q hq hlt => ?_⟩
    · exact le_of_near (hhi.trans_le (zpow_le_zpow_right₀ one_le_two (by omega))) hnear
    · rcases Nat.eq_zero_or_pos k with h0 | h0
      · exact .inl h0
      · exact .inr (ge_of_near ((zpow_le_zpow_right₀ one_le_two (by omega)).trans hlo) hnear)
    · have := (zpow_lt_zpow_iff_right₀ (one_lt_two (α := ℚ))).1 (hlo.trans_lt hlt)
      omega

/-- The exponent field of a code does not depend on its sign. -/
theorem field_sign_add (f : FSpec) (neg : Bool) {a : Nat} (ha : a < f.signBit) :
    ((if neg then f.signBit else 0) + a) / 2 ^ f.mb % 2 ^ f.eb = a / 2 ^ f.mb := by
  have hs : f.signBit = 2 ^ f.eb * 2 ^ f.mb := pow_add 2 f.eb f.mb
  have h1 : a / 2 ^ f.mb < 2 ^ f.eb := Nat.div_lt_of_lt_mul (by rwa [Nat.mul_comm, ← hs])
  cases neg
  · simpa using Nat.mod_eq_of_lt h1
  · rw [if_pos rfl, hs, Nat.add_comm, Nat.add_mul_div_right _ _ (Nat.two_pow_pos _), Nat.add_mod_right, Nat.mod_eq_of_lt h1]

/-- The number of a code by its sign, significand and exponent (R100). -/
theorem codeNum_eq (f : FSpec) (neg : Bool) {a : Nat} (ha : a < f.signBit) :
    Claims.codeNum f.eb f.mb f.bias ((if neg then f.signBit else 0) + a) =
      signOf neg * ((significand f.mb a * 2 ^ exponent f.mb a : Nat) * 2 ^ f.qmin) := by
  have hs : f.signBit = 2 ^ f.eb * 2 ^ f.mb := pow_add 2 f.eb f.mb
  have hdiv : ((if neg then f.signBit else 0) + a) / 2 ^ (f.eb + f.mb) = if neg then 1 else 0 := by
    have h1 : a / f.signBit = 0 := Nat.div_eq_of_lt ha
    change _ / f.signBit = _
    cases neg
    · simpa using h1
    · rw [if_pos rfl, if_pos rfl, Nat.add_div_left a (show 0 < f.signBit from Nat.two_pow_pos _), h1]
  have hfield := f.field_sign_add neg ha
  have hmod : ((if neg then f.signBit else 0) + a) % 2 ^ f.mb = a % 2 ^ f.mb := by
    cases neg
    · simp
    · rw [if_pos rfl, hs, Nat.add_comm, Nat.add_mul_mod_self_right]
  have hsign : (if (if neg then 1 else 0) = 1 then (-1 : ℚ) else 1) = signOf neg := by cases neg <;> simp [signOf]
  simp only [Claims.codeNum, hdiv, hfield, hmod, hsign, significand, exponent]
  congr 1
  rcases Nat.eq_zero_or_pos (a / 2 ^ f.mb) with h0 | h0
  · simp [h0, qmin]
  · obtain ⟨j, hj⟩ := Nat.exists_eq_succ_of_ne_zero h0.ne'
    have hexp : ((j + 1 : Nat) : Int) - f.bias - f.mb = f.qmin + j := by rw [qmin]; push_cast; ring
    rw [hj, Nat.succ_eq_add_one, if_neg (by omega), if_neg (by omega), Nat.add_sub_cancel, hexp, zpow_add₀ two_ne_zero,
      zpow_natCast]
    push_cast
    ring

theorem Ieee.lt_signBit {f : FSpec} (h : f.Ieee) {a : Nat} (ha : a ≤ f.big) : a < f.signBit := by
  have hs : f.signBit = 2 ^ f.eb * 2 ^ f.mb := pow_add 2 f.eb f.mb
  have hi : f.infCode ≤ f.signBit := by rw [hs, infCode]; exact Nat.mul_le_mul_right _ (Nat.sub_le _ _)
  unfold Ieee at h
  omega

/-- The numbers of such a format are the codes up to the largest, with either sign. -/
theorem Ieee.isNum_iff {f : FSpec} (h : f.Ieee) (neg : Bool) {a : Nat} (ha : a < f.signBit) :
    Claims.isNum f.eb f.mb ((if neg then f.signBit else 0) + a) ↔ a ≤ f.big := by
  have hs : f.signBit = 2 ^ f.eb * 2 ^ f.mb := pow_add 2 f.eb f.mb
  have hfield : a / 2 ^ f.mb < 2 ^ f.eb := Nat.div_lt_of_lt_mul (by rwa [Nat.mul_comm, ← hs])
  have hlt : (if neg then f.signBit else 0) + a < 2 ^ (f.eb + f.mb + 1) := by
    rw [pow_succ, ← signBit]
    split <;> omega
  have hbig : a ≤ f.big ↔ a / 2 ^ f.mb < 2 ^ f.eb - 1 := by
    rw [Nat.div_lt_iff_lt_mul (Nat.two_pow_pos _), ← infCode, ← h, Nat.lt_succ_iff]
  rw [Claims.isNum, f.field_sign_add neg ha, hbig]
  omega

/-- A number's code has its value. -/
theorem Ieee.val_is {f : FSpec} (h : f.Ieee) {c : Nat} (hc : Claims.isNum f.eb f.mb c) :
    (f.val false c).Is (Claims.codeNum f.eb f.mb f.bias c) := by
  have hsign : _ = c := f.sign_add_mod (show c < 2 * f.signBit by rw [signBit, Nat.mul_comm, ← pow_succ]; exact hc.1)
  have ha : c % f.signBit < f.signBit := Nat.mod_lt _ (Nat.two_pow_pos _)
  have hbig : c % f.signBit ≤ f.big := (h.isNum_iff _ ha).1 (hsign.symm ▸ hc)
  refine ⟨_, _, _, f.val_of_le hbig, ?_⟩
  have := f.codeNum_eq (bits c (f.eb + f.mb) 1 == 1) ha
  rw [hsign] at this
  rw [this, zpow_add₀ two_ne_zero, zpow_natCast]
  push_cast
  ring

/-- The code of a number rounded once is within half a unit of it. -/
theorem Ieee.round_nearest {f : FSpec} (h : f.Ieee) {x : Fp} {v : ℚ} (hx : x.Is v)
    (hof : (f.round .rne false x).2 &&& cOF = 0) :
    Claims.nearest f.eb f.mb f.bias (f.round .rne false x).1 v := by
  obtain ⟨neg, m, e, rfl, rfl⟩ := hx
  have hround : f.round .rne false (.fin neg m e) =
    ((if neg then f.signBit else 0) + (f.roundMag .rne false neg m e).1, (f.roundMag .rne false neg m e).2) := rfl
  rw [hround] at hof ⊢
  by_cases hm : m = 0
  · subst hm
    have h0 : f.roundMag .rne false neg 0 e = (0, 0) := by simp [roundMag]
    rw [h0]
    refine ⟨(h.isNum_iff neg (Nat.two_pow_pos _)).2 (Nat.zero_le _), fun q _ _ => ?_⟩
    rw [f.codeNum_eq neg (Nat.two_pow_pos _)]
    simp [significand, zpow_nonneg]
  · obtain ⟨k, r, hr⟩ := f.roundMag_nearest neg hm hof
    have ha := h.lt_signBit hr.finite
    refine ⟨(h.isNum_iff neg ha).2 hr.finite, fun q hle hlt => ?_⟩
    rw [abs_signOf_mul, abs_of_nonneg (by positivity)] at hlt
    have hval : ((r * 2 ^ k : Nat) : ℚ) * 2 ^ f.qmin = r * 2 ^ (f.qmin + k) := by
      rw [zpow_add₀ two_ne_zero, zpow_natCast]; push_cast; ring
    rw [f.codeNum_eq neg ha, hr.eq, significand_mul_exponent hr.carry hr.normal, hval, ← mul_sub, abs_signOf_mul]
    exact hr.near.trans (zpow_le_zpow_right₀ one_le_two (hr.least q hle hlt))

end FSpec

/-- Conditions that hold no overflow together hold none alone. -/
theorem and_cOF_of_or {a b : Word} (h : (a ||| b) &&& cOF = 0) : a &&& cOF = 0 := by
  apply BitVec.eq_of_getLsbD_eq
  intro i hi
  have := congrArg (·.getLsbD i) h
  simp at this ⊢
  tauto

end Sys2Proof.Machine

namespace Sys2Proof
open Machine

/-- Each operation computes its exact result, and rounds it once. -/
theorem floatArithmetic : Claims.FloatArithmetic := by
  intro f eb mb bias hf a b c ha hb hc
  obtain ⟨hi, rfl, rfl, rfl⟩ : f.Ieee ∧ eb = f.eb ∧ mb = f.mb ∧ bias = f.bias := by
    simp only [List.mem_cons, Prod.mk.injEq, List.not_mem_nil, or_false] at hf
    rcases hf with ⟨rfl, rfl, rfl, rfl⟩ | ⟨rfl, rfl, rfl, rfl⟩ | ⟨rfl, rfl, rfl, rfl⟩ <;> exact ⟨rfl, rfl, rfl, rfl⟩
  have hx := hi.val_is ha
  have hy := hi.val_is hb
  have hz := hi.val_is hc
  refine ⟨fun h => ?_, fun h => ?_, fun h => ?_, fun h => ?_⟩
  · exact hi.round_nearest (hx.add hy) (and_cOF_of_or h)
  · rw [sub_eq_add_neg]
    exact hi.round_nearest (hx.add hy.neg) (and_cOF_of_or h)
  · exact hi.round_nearest (hx.mul hy) (and_cOF_of_or h)
  · exact hi.round_nearest ((hx.mul hy).add hz) (and_cOF_of_or h)

end Sys2Proof
end

section
/-!
PROOFS. The words of the FP pipe and FCMP (R107, R108, R118 to R126): what they compute from settled sources, what their
writes leave unchanged, and the lanes that trap.
-/

namespace Sys2Proof.Machine

/-! ## Writes of a run of general registers -/

/-- Write `n` successive general registers in every lane of a mask. -/
def Band.writeRun (b : Band) (due k : Nat) (m : BitVec 32) (d : Reg) (v : Nat → Nat → DWord) (n : Nat) : Band :=
  (List.range n).foldl (fun b i => b.writeLanes due k m (.g (d + BitVec.ofNat 6 i)) (v i)) b

theorem mem_gs {n : Nat} {r : Reg} {q : RegName} : q ∈ gs n r ↔ ∃ i < n, .g (r + BitVec.ofNat 6 i) = q := by
  simp [gs]

theorem gs_succ (n : Nat) (r : Reg) : gs (n + 1) r = gs n r ++ [.g (r + BitVec.ofNat 6 n)] := by
  simp [gs, List.range_succ]

theorem not_mem_gs {n : Nat} (hn : n < 64) (r : Reg) : .g (r + BitVec.ofNat 6 n) ∉ gs n r := by
  rw [mem_gs]
  rintro ⟨i, hi, he⟩
  have : BitVec.ofNat 6 i = BitVec.ofNat 6 n := by simpa using RegName.g.inj he
  have := congrArg BitVec.toNat this
  simp only [BitVec.toNat_ofNat] at this
  omega

section
variable (b : Band) (due k : Nat) (m : BitVec 32) (d : Reg) (v : Nat → Nat → DWord)

theorem Band.writeRun_succ (n : Nat) : b.writeRun due k m d v (n + 1) =
    (b.writeRun due k m d v n).writeLanes due k m (.g (d + BitVec.ofNat 6 n)) (v n) := by
  simp [Band.writeRun, List.range_succ]

theorem Band.regFrame_writeRun (n : Nat) : b.RegFrame (b.writeRun due k m d v n) m (gs n d) due := by
  induction n with
  | zero => exact .refl b m _ due
  | succ n ih =>
    rw [b.writeRun_succ, gs_succ]
    exact (ih.mono fun _ h => List.mem_append_left _ h).trans
      ((Band.regFrame_writeLanes _ _ _ _ _ _ rfl).mono fun _ h => List.mem_append_right _ h)

end

/-- Writes of other registers race with no write of a register. -/
theorem Band.RegFrame.keeps {b c : Band} {m : BitVec 32} {rs : List RegName} {due : Nat} (h : b.RegFrame c m rs due)
    {due' k t : Nat} {r : RegName} (hr : r ∉ rs) (hk : b.keeps due' k t r = false) : c.keeps due' k t r = false := by
  rw [Band.keeps, Bool.and_eq_false_iff] at hk ⊢
  refine hk.imp_left fun hb => ?_
  simp only [Band.races, List.any_eq_false] at hb ⊢
  intro e he
  rcases h.late e he with h1 | ⟨h1, -⟩
  · exact hb e h1
  · have : e.reg ≠ r := fun e' => hr (e' ▸ h1)
    simp [this]

/-- Each register of the run holds its value where no earlier write is left to R19. -/
theorem Band.getReg_writeRun (b : Band) {due k : Nat} {m : BitVec 32} {d : Reg} (v : Nat → Nat → DWord) {n : Nat} (hn : n ≤ 64)
    (hk : ∀ t, bit m t = true → ∀ r ∈ gs n d, b.keeps due k t r = false) {t : Nat} (ht : bit m t = true) {j : Nat} (hj : j < n) :
    (b.writeRun due k m d v n).getReg t (.g (d + BitVec.ofNat 6 j)) = RegName.fit (.g (d + BitVec.ofNat 6 j)) (v j t) := by
  induction n with
  | zero => omega
  | succ n ih =>
    have hf := b.regFrame_writeRun due k m d v n
    have hnew := not_mem_gs hn d
    simp only [gs_succ, List.mem_append, List.mem_singleton] at hk
    rw [b.writeRun_succ, Band.getReg_writeLanes _ _ _ _ _ _ rfl fun u hu => hf.keeps hnew (hk u hu _ (.inr rfl))]
    rcases Nat.lt_succ_iff_lt_or_eq.1 hj with hlt | rfl
    · rw [if_neg, ih (by omega) (fun u hu r hr => hk u hu r (.inl hr)) hlt]
      rintro ⟨-, he⟩
      exact hnew (mem_gs.2 ⟨j, hlt, he⟩)
    · rw [if_pos ⟨ht, rfl⟩]

/-- The results of a word of the FP pipe are such a run. -/
theorem State.putWords_eq (s : State) (hb : s.cur < s.bands.length) (x : Ex) (lat n : Nat) (d : Reg) (f : FpFun) :
    s.putWords x lat n d f = s.setMe (s.me.writeRun (x.now + lat) x.k x.v d
      (fun i t => ((f s.me x t).1.getD i 0).setWidth 64) n) := by
  have hrun : ∀ n, (List.range n).foldl (fun r i => r.putG x lat (d + BitVec.ofNat 6 i) fun t => (f s.me x t).1.getD i 0) s =
      s.setMe (s.me.writeRun (x.now + lat) x.k x.v d (fun i t => ((f s.me x t).1.getD i 0).setWidth 64) n) := by
    intro n
    induction n with
    | zero => exact (State.setMe_me s hb).symm
    | succ n ih =>
      rw [List.range_succ, List.foldl_append, ih, Band.writeRun_succ, List.foldl_cons, List.foldl_nil, State.putG,
        State.me_setMe _ _ hb, State.setMe_setMe]
  exact hrun n

/-! ## Sticky conditions (R107, R108, R117) -/

theorem Band.stick_frame (b : Band) (due : Nat) (c : Word) : b.stick due c = { b with fpLate := (b.stick due c).fpLate } := by
  unfold Band.stick; split <;> rfl

theorem Band.stick_zero (b : Band) (due : Nat) : b.stick due 0 = b := by simp [Band.stick, stickyOf]

theorem Band.fpLate_stick_congr {b c : Band} (h : b.fpLate = c.fpLate) (due : Nat) (w : Word) :
    (b.stick due w).fpLate = (c.stick due w).fpLate := by
  unfold Band.stick; split <;> simp [h]

theorem Band.lane_stick (b : Band) (due : Nat) (c : Word) (l : Nat) : (b.stick due c).lane l = b.lane l := by
  rw [Band.stick_frame]; rfl

theorem Band.getReg_stick (b : Band) (due : Nat) (c : Word) (l : Nat) (r : RegName) :
    (b.stick due c).getReg l r = b.getReg l r := by
  rw [Band.stick_frame]; exact Band.getReg_congr rfl rfl l r

/-- A word that leaves its frame, and whose conditions then become sticky. -/
theorem State.WordFrame.stick {s t : State} {i : Instr} {lat : Nat} {rs : List RegName} (h : s.WordFrame t i lat rs 0)
    (hcur : (s.after i).cur < (s.after i).bands.length) (c : Word) :
    s.WordFrame (t.setMe (t.me.stick (s.cycle + 5) c)) i lat rs c := by
  have htc : t.cur = (s.after i).cur := by rw [h.state]
  have hme : (t.setMe (t.me.stick (s.cycle + 5) c)).me = t.me.stick (s.cycle + 5) c :=
    State.me_setMe _ _ (by rw [h.count, htc]; exact hcur)
  have hlate : t.me.fpLate = (s.after i).me.fpLate := h.sticky.trans (by rw [Band.stick_zero])
  refine ⟨?_, ?_, fun b hb => ?_, ?_, ?_, fun l r hr => ?_, fun l r h1 h2 => ?_, fun l => ?_, fun l hl => ?_, fun l hl => ?_,
    fun e he => ?_, ?_⟩
  · rw [State.setMe, State.setBand, h.state]
  · simpa using h.count
  · rw [State.setMe, State.band_setBand, if_neg fun e => hb (e.1.symm.trans htc), h.bands b hb]
  · rw [hme, Band.stick_frame, h.band]
  · rw [hme, Band.fpLate_stick_congr hlate]
  · rw [hme, Band.getReg_stick, h.regs l r hr]
  · rw [hme, Band.getReg_stick, h.outside l r h1 h2]
  · rw [hme, Band.lane_stick, h.lane]
  · rw [hme, Band.lane_stick, h.others l hl]
  · rw [hme, Band.lane_stick, h.next l hl]
  · rw [hme, Band.stick_frame] at he
    exact h.late e he
  · rw [hme, Band.stick_frame]
    exact h.flights

/-! ## Deferred traps (R361) -/

/-- The band after some lanes have raised traps of their own. -/
def Band.raiseEach (b : Band) (pc : DWord) (ts : List (Nat × Trap)) : Band := ts.foldl (fun b p => b.raise p.1 pc p.2) b

theorem Band.raiseEach_frame (pc : DWord) (ts : List (Nat × Trap)) (b : Band) :
    b.raiseEach pc ts = { b with lanes := (b.raiseEach pc ts).lanes, trapLane := (b.raiseEach pc ts).trapLane } := by
  induction ts generalizing b with
  | nil => rfl
  | cons p ts ih =>
    have h := ih (b.raise p.1 pc p.2)
    rw [b.raise_frame] at h
    exact h

theorem Band.trapLane_raiseEach (pc : DWord) {l : Nat} (ts : List (Nat × Trap)) (hlt : ∀ p ∈ ts, p.1 < 32) (b : Band) :
    bit (b.raiseEach pc ts).trapLane l = (bit b.trapLane l || ts.any fun p => p.1 == l) := by
  induction ts generalizing b with
  | nil => simp [Band.raiseEach]
  | cons p ts ih =>
    have h := ih (fun p h => hlt p (.tail _ h)) (b.raise p.1 pc p.2)
    rw [show (b.raise p.1 pc p.2).trapLane = b.trapLane ||| laneMask p.1 from rfl, bit_or,
      bit_laneMask (hlt p (.head _)), Bool.or_assoc] at h
    rw [List.any_cons, beq_eq_decide]
    exact h

theorem Band.lane_raiseEach_off (pc : DWord) {l : Nat} (ts : List (Nat × Trap)) (hlt : ∀ p ∈ ts, p.1 < 32)
    (hl : ∀ p ∈ ts, p.1 ≠ l) (b : Band) : (b.raiseEach pc ts).lane l = b.lane l := by
  induction ts generalizing b with
  | nil => rfl
  | cons p ts ih =>
    exact (ih (fun p h => hlt p (.tail _ h)) (fun p h => hl p (.tail _ h)) _).trans
      ((b.lane_raise l (hlt p (.head _)) pc p.2).trans (if_neg (hl p (.head _))))

/-- Each lane of the list is masked with its own trap. -/
theorem Band.lane_raiseEach (pc : DWord) {ts : List (Nat × Trap)} (hn : (ts.map (·.1)).Nodup) (hlt : ∀ p ∈ ts, p.1 < 32)
    {p : Nat × Trap} (hp : p ∈ ts) (b : Band) : (b.raiseEach pc ts).lane p.1 = (b.lane p.1).trapped pc p.2 := by
  induction ts generalizing b with
  | nil => cases hp
  | cons q ts ih =>
    obtain ⟨hq, hn⟩ := List.nodup_cons.1 hn
    have hlt' : ∀ p ∈ ts, p.1 < 32 := fun p h => hlt p (.tail _ h)
    have hne : ∀ p ∈ ts, p.1 ≠ q.1 := fun p h e => hq (List.mem_map.2 ⟨p, h, e⟩)
    have hcons : b.raiseEach pc (q :: ts) = (b.raise q.1 pc q.2).raiseEach pc ts := rfl
    rw [hcons]
    rcases List.mem_cons.1 hp with rfl | hp
    · rw [Band.lane_raiseEach_off pc ts hlt' hne, b.lane_raise _ (hlt p (.head _)), if_pos rfl]
    · rw [ih hn hlt' hp, b.lane_raise _ (hlt q (.head _)), if_neg (hne p hp).symm]

theorem State.deferTraps_eq {s : State} (hb : s.cur < s.bands.length) (hh : s.me.handler = false) (pc : DWord)
    (ts : List (Nat × Trap)) : s.deferTraps s.cur pc ts = s.setMe (s.me.raiseEach pc ts) := by
  cases ts with
  | nil => exact (State.setMe_me s hb).symm
  | cons p ts =>
    have hh' : (s.band s.cur).handler = false := hh
    simp only [State.deferTraps, hh', Bool.false_eq_true, if_false]
    rfl

/-- The traps of some lanes, each with the lane that raises it. -/
def trapsIn (m : BitVec 32) (f : Nat → Option Trap) : List (Nat × Trap) :=
  (lanesOf m).filterMap fun t => (f t).map fun q => (t, q)

section
variable {m : BitVec 32} {f : Nat → Option Trap}

theorem mem_trapsIn {l : Nat} {q : Trap} : (l, q) ∈ trapsIn m f ↔ bit m l = true ∧ f l = some q := by
  simp only [trapsIn, List.mem_filterMap, mem_lanesOf, Option.map_eq_some_iff, Prod.mk.injEq]
  constructor
  · rintro ⟨t, ht, q', hq, rfl, rfl⟩
    exact ⟨ht, hq⟩
  · rintro ⟨hl, hq⟩
    exact ⟨l, hl, q, hq, rfl, rfl⟩

theorem lt_of_mem_trapsIn : ∀ p ∈ trapsIn m f, p.1 < 32 := fun _ h => bit_lt (mem_trapsIn.1 h).1

theorem trapsIn_nodup : ((trapsIn m f).map (·.1)).Nodup := by
  refine List.Nodup.sublist ?_ (lanesOf_nodup m)
  rw [trapsIn]
  induction lanesOf m with
  | nil => exact .slnil
  | cons t ts ih =>
    cases hf : f t with
    | none => simpa [hf] using ih.cons t
    | some q => simpa [hf] using ih

theorem bit_maskOfList {ts : List (Nat × Trap)} (hlt : ∀ p ∈ ts, p.1 < 32) {p : Nat × Trap} (hp : p ∈ ts) :
    bit (maskOfList ts) p.1 = true := by
  rw [maskOfList, bit_maskOf, Bool.and_eq_true, decide_eq_true_eq]
  exact ⟨hlt p hp, List.any_eq_true.2 ⟨p, hp, beq_self_eq_true _⟩⟩
end

/-- A word that ends no region and whose body writes registers, outside handler mode: each lane with a deferred trap is
masked with it and takes no other effect, and the conditions of earlier words are as they were (R361). -/
theorem State.Starts.defers {s : State} {i : Instr} (h : s.Starts i) (hr : endsRegion i = false) (hh : s.me.handler = false)
    (deferred : State → Ex → Nat → Option Trap) {body : Ex → State → State} {rs : List RegName} {due : Nat}
    (hbody : ∀ (m : BitVec 32) (u : State), u.cur < u.bands.length →
      ∃ c, body { s.ex i.hdr with v := m } u = u.setMe c ∧ u.me.RegFrame c m rs due) :
    (runWord i deferred body s).cur < (runWord i deferred body s).bands.length ∧
      (runWord i deferred body s).me.fpLate = s.me.fpLate ∧
      ∀ l q, bit (s.vOf i) l = true → deferred s (s.ex i.hdr) l = some q →
        (runWord i deferred body s).me.lane l = (s.me.lane l).trapped (s.ex i.hdr).pc q ∧
        bit (runWord i deferred body s).me.trapLane l = true := by
  have hb : s.cur < s.bands.length := by simpa only [s.after_eq i hr] using h.band
  generalize hts : trapsIn (s.vOf i) (deferred s (s.ex i.hdr)) = ts
  have hlt : ∀ p ∈ ts, p.1 < 32 := hts ▸ lt_of_mem_trapsIn
  have hnd : (ts.map (·.1)).Nodup := hts ▸ trapsIn_nodup
  generalize hu : s.advance (s.ex i.hdr) (maskOfList ts) = u
  generalize hm : s.vOf i &&& ~~~maskOfList ts = m
  have hcur : u.cur = s.cur := by rw [← hu, State.advance_cur]
  have hub : u.cur < u.bands.length := by rw [← hu]; simpa using hb
  obtain ⟨c, hc, hframe⟩ : ∃ c, (if m = 0 then u else body { s.ex i.hdr with v := m } u) = u.setMe c ∧
      u.me.RegFrame c m rs due := by
    split
    · exact ⟨u.me, (State.setMe_me u hub).symm, .refl _ _ _ _⟩
    · exact hbody _ u hub
  have hume : u.me = { s.me with lanes := u.me.lanes } := by
    rw [← hu]; exact State.advance_band _ _ _ hb
  have hcme := hframe.band
  have hsetMe : (u.setMe c).me = c := State.me_setMe _ _ hub
  have hrun : runWord i deferred body s = (u.setMe (c.raiseEach (s.ex i.hdr).pc ts)).tickFree := by
    have hd := State.deferTraps_eq (s := u.setMe c) (by simpa using hub) (by rw [hsetMe, hcme, hume]; exact hh) (s.ex i.hdr).pc ts
    rw [hsetMe, State.setMe_setMe, State.setMe_cur, hcur, ← hc] at hd
    rw [← hd]
    simp only [runWord, h.passes, hr, Bool.false_and, Bool.false_eq_true, if_false]
    subst hm hu hts
    rfl
  have hme : (runWord i deferred body s).me = c.raiseEach (s.ex i.hdr).pc ts := by
    rw [hrun]; exact State.me_setMe _ _ hub
  refine ⟨?_, ?_, fun l q hl hq => ?_⟩
  · rw [hrun]; simpa [State.tickFree] using hub
  · rw [hme, Band.raiseEach_frame, hcme, hume]
  · have hp : (l, q) ∈ ts := hts ▸ mem_trapsIn.2 ⟨hl, hq⟩
    have hmask := bit_maskOfList hlt hp
    rw [hme]
    constructor
    · rw [Band.lane_raiseEach _ hnd hlt hp, hframe.others l (by rw [← hm, bit_andNot, hmask, Bool.not_true, Bool.and_false]), ← hu,
        State.advance_lane _ _ _ hb, if_neg fun e => by simp [hmask] at e]
    · rw [Band.trapLane_raiseEach _ ts hlt, Bool.or_eq_true]
      exact .inr (List.any_eq_true.2 ⟨_, hp, beq_self_eq_true _⟩)


/-! ## The words of the FP pipe (R118 to R126) -/

open Claims (word1 half2 ftz)

/-- The word acts in each lane, ends no region, and writes `n` general registers from `d` on 5 cycles after issue. -/
structure FpShape (i : Instr) (d : Reg) (n : Nat) : Prop where
  lanes : onceOf i = false
  region : endsRegion i = false
  due : ∀ x : Ex, writeDue i x = x.now + 5
  dsts : dstsOf i = gs n d
  count : n ≤ 64

/-- From settled sources the word computes results and conditions `f` in a lane. -/
def FpMeans (i : Instr) (d : Reg) (n : Nat) (f : Band → Nat → List Word × Word) : Prop :=
  ∃ g : FpFun, (∀ s, Machine.exec i s = fpWord i d n g s) ∧
    ∀ (B C : Band) x t, B.Settled C x t (srcsOf i) → B.fpctl = C.fpctl → g B x t = f C t

section
variable {B C : Band} {x : Ex} {t : Nat} {rs : List RegName} (h : B.Settled C x t rs)
include h

theorem Band.Settled.triple {a : Reg} (ha : ∀ r ∈ gs 3 a, r ∈ rs) :
    B.triple x t a = ((C.gv t a).toNat, (C.gv t (a + 1)).toNat, (C.gv t (a + 2)).toNat) := by
  have h0 := ha _ (mem_gs_zero 3 a (by decide))
  have h1 := ha _ (mem_gs_one 3 a (by decide))
  have h2 : .g (a + 2) ∈ rs := ha _ (mem_gs.2 ⟨2, by decide, rfl⟩)
  rw [Band.triple, h.rg h0, h.rg h1, h.rg h2]

variable (hf : B.fpctl = C.fpctl) {d a : Reg} {b : Src} (ha : .g a ∈ rs) (hb : ∀ r ∈ srcNames 1 b, r ∈ rs)
include hf ha hb

theorem Band.Settled.f32op (op : Bool → Nat → Nat → Nat × Word) :
    Machine.f32op op a b B x t = word1 (op (ftz C) (C.gv t a).toNat (C.bv t b).toNat) := by
  rw [Machine.f32op, h.rg ha, h.src hb, hf]; rfl

/-- The third operand counts only where the operation looks at it. -/
theorem Band.Settled.packed {op : Bool → Nat → Nat → Nat → Nat × Word}
    (hd : .g d ∈ rs ∨ ∀ z p q k k', op z p q k = op z p q k') :
    Machine.packed op d a b B x t = half2 (op (ftz C)) (C.gv t a) (C.bv t b) (C.gv t d) := by
  have hlow : ∀ w : Word, bits w.toNat (16 * 0) 16 = w.toNat % 2 ^ 16 := fun w => by simp [bits]
  have hhigh : ∀ w : Word, bits w.toNat (16 * 1) 16 = w.toNat / 2 ^ 16 := fun w => by
    have := w.isLt
    simp only [bits]; omega
  have hthird : ∀ p q (half : Nat → Nat),
      op (ftz C) p q (half (B.rg x t d).toNat) = op (ftz C) p q (half (C.gv t d).toNat) := fun p q half =>
    hd.elim (fun hd => by rw [h.rg hd]) fun hd => hd ..
  have hftz : ftzOf B.fpctl = ftz C := by rw [hf]; rfl
  simp only [Machine.packed, hlow, hhigh, h.rg ha, h.src hb, hftz, hthird _ _ (· % 2 ^ 16), hthird _ _ (· / 2 ^ 16), half2]

end

section
variable {i : Instr} {d a : Reg} {b : Src}

/-- The A operand is a source of a word of two operands. -/
theorem gs_src_left : RegName.g a ∈ gs 1 a ++ srcNames 1 b := List.mem_append_left _ (mem_gs1 a)

/-- A word of two f32 operands. -/
theorem fpMeans_f32 (op : Bool → Nat → Nat → Nat × Word) (he : ∀ s, Machine.exec i s = fpWord i d 1 (f32op op a b) s)
    (hs : srcsOf i = gs 1 a ++ srcNames 1 b) :
    FpMeans i d 1 fun B l => word1 (op (ftz B) (B.gv l a).toNat (B.bv l b).toNat) :=
  ⟨_, he, fun _ _ _ _ h hf => by rw [hs] at h; exact h.f32op hf gs_src_left (fun _ hb => List.mem_append_right _ hb) op⟩

/-- A packed word of two operands. -/
theorem fpMeans_packed (op : Bool → Nat → Nat → Nat × Word)
    (he : ∀ s, Machine.exec i s = fpWord i d 1 (packed (fun z p q _ => op z p q) d a b) s)
    (hs : srcsOf i = gs 1 a ++ srcNames 1 b) :
    FpMeans i d 1 fun B l => half2 (fun p q _ => op (ftz B) p q) (B.gv l a) (B.bv l b) (B.gv l d) :=
  ⟨_, he, fun _ _ _ _ h hf => by
    rw [hs] at h; exact h.packed hf gs_src_left (fun _ hb => List.mem_append_right _ hb) (.inr fun _ _ _ _ _ => rfl)⟩

/-- A packed word that reads its destination. -/
theorem fpMeans_packed3 (op : Bool → Nat → Nat → Nat → Nat × Word)
    (he : ∀ s, Machine.exec i s = fpWord i d 1 (packed op d a b) s) (hs : srcsOf i = gs 1 d ++ gs 1 a ++ srcNames 1 b) :
    FpMeans i d 1 fun B l => half2 (op (ftz B)) (B.gv l a) (B.bv l b) (B.gv l d) :=
  ⟨_, he, fun _ _ _ _ h hf => by
    rw [hs, List.append_assoc] at h
    exact h.packed hf (List.mem_append_right _ gs_src_left)
      (fun _ hb => List.mem_append_right _ (List.mem_append_right _ hb)) (.inl (List.mem_append_left _ (mem_gs1 d)))⟩

/-- A word of one operand. -/
theorem fpMeans_unary (g : Bool → Word → List Word × Word)
    (he : ∀ s, Machine.exec i s = fpWord i d 1 (fun B x t => g (ftzOf B.fpctl) (B.rg x t a)) s) (hs : srcsOf i = gs 1 a) :
    FpMeans i d 1 fun B l => g (ftz B) (B.gv l a) :=
  ⟨_, he, fun B C x t h hf => by
    rw [hs] at h
    rw [h.rg (mem_gs1 a), hf]; rfl⟩

end

/-! ## Signs (R120) -/

theorem and_abs_mask (w : Word) : w &&& 0x7FFFFFFF = BitVec.ofNat 32 (w.toNat % 2 ^ 31) := by
  apply BitVec.eq_of_toNat_eq
  rw [BitVec.toNat_and, BitVec.toNat_ofNat, show (0x7FFFFFFF : Word).toNat = 2 ^ 31 - 1 from rfl, Nat.and_two_pow_sub_one_eq_mod,
    Nat.mod_eq_of_lt (b := 2 ^ 32) (by omega)]

theorem xor_sign (w : Word) : w ^^^ 0x80000000 = BitVec.ofNat 32 (w.toNat + 2 ^ 31) := by
  have hsign : (0x80000000 : Word) = BitVec.ofNat 32 (2 ^ 31) := rfl
  apply BitVec.eq_of_getLsbD_eq
  intro j hj
  rw [BitVec.getLsbD_xor, hsign, BitVec.getLsbD_ofNat, BitVec.getLsbD_ofNat, BitVec.getLsbD, Nat.testBit_two_pow, Nat.add_comm]
  rcases (show j < 31 ∨ j = 31 by omega) with h | rfl
  · rw [Nat.testBit_two_pow_add_gt h]
    simp [hj, show ¬31 = j by omega]
  · rw [Nat.testBit_two_pow_add_eq]
    simp

/-! ## The words -/

theorem fpShape_of_fpWord {i : Instr} {d : Reg} {n : Nat} {f : Band → Nat → List Word × Word}
    (hi : Claims.fpWord i = some (d, n, f)) : FpShape i d n := by
  unfold Claims.fpWord at hi
  split at hi <;> cases hi <;> exact ⟨rfl, rfl, fun _ => rfl, rfl, by decide⟩

theorem fpMeans_of_fpWord {i : Instr} {d : Reg} {n : Nat} {f : Band → Nat → List Word × Word}
    (hi : Claims.fpWord i = some (d, n, f)) : FpMeans i d n f := by
  cases i with
  | addF32 => cases hi; exact fpMeans_f32 fF32.fadd (fun _ => rfl) rfl
  | subF32 => cases hi; exact fpMeans_f32 fF32.fsub (fun _ => rfl) rfl
  | mulF32 => cases hi; exact fpMeans_f32 fF32.fmul (fun _ => rfl) rfl
  | minF32 => cases hi; exact fpMeans_f32 (fun z => fF32.fminmax z false) (fun _ => rfl) rfl
  | maxF32 => cases hi; exact fpMeans_f32 (fun z => fF32.fminmax z true) (fun _ => rfl) rfl
  | fmaF32 _ d a b =>
    cases hi
    refine ⟨_, fun _ => rfl, fun B C x t h hf => ?_⟩
    have h : B.Settled C x t (gs 1 d ++ (gs 1 a ++ srcNames 1 b)) := h
    have hab : B.Settled C x t (gs 1 a ++ srcNames 1 b) := h.mono fun _ hr => List.mem_append_right _ hr
    rw [h.rg (List.mem_append_left _ (mem_gs1 d))]
    exact hab.f32op hf gs_src_left (fun _ hb => List.mem_append_right _ hb) fun z p q => fF32.ffma z p q (C.gv t d).toNat
  | absF32 =>
    cases hi
    refine fpMeans_unary (fun _ w => ([BitVec.ofNat 32 (w.toNat % 2 ^ 31)], 0)) (fun s => ?_) rfl
    simp only [← and_abs_mask]; rfl
  | negF32 =>
    cases hi
    refine fpMeans_unary (fun _ w => ([BitVec.ofNat 32 (w.toNat + 2 ^ 31)], 0)) (fun s => ?_) rfl
    simp only [← xor_sign]; rfl
  | addF16x2 => cases hi; exact fpMeans_packed fF16.fadd (fun _ => rfl) rfl
  | mulF16x2 => cases hi; exact fpMeans_packed fF16.fmul (fun _ => rfl) rfl
  | maxF16x2 => cases hi; exact fpMeans_packed (fun z => fF16.fminmax z true) (fun _ => rfl) rfl
  | fmaF16x2 => cases hi; exact fpMeans_packed3 fF16.ffma (fun _ => rfl) rfl
  | addBf16x2 => cases hi; exact fpMeans_packed fBf16.fadd (fun _ => rfl) rfl
  | mulBf16x2 => cases hi; exact fpMeans_packed fBf16.fmul (fun _ => rfl) rfl
  | maxBf16x2 => cases hi; exact fpMeans_packed (fun z => fBf16.fminmax z true) (fun _ => rfl) rfl
  | fmaBf16x2 => cases hi; exact fpMeans_packed3 fBf16.ffma (fun _ => rfl) rfl
  | pmergeF32 _ d a b =>
    cases hi
    refine ⟨_, fun _ => rfl, fun B C x t h hf => ?_⟩
    have h : B.Settled C x t (gs 3 a ++ gs 3 b) := h
    rw [h.triple fun _ hr => List.mem_append_left _ hr, h.triple fun _ hr => List.mem_append_right _ hr, hf]; rfl
  | cvt _ d a dt st rz =>
    cases hi
    have hval : ∀ z n, st.val z (n % 2 ^ st.width) = st.val z n := fun z n => by simp only [Fmt.val, Nat.mod_mod]
    simp only [hval]
    exact fpMeans_unary (fun z w => word1 (dt.enc (if rz then .rz else .rne) z (st.val z w.toNat))) (fun _ => rfl) rfl
  | scalex _ d a ty =>
    cases hi
    refine fpMeans_unary (fun z w => word1 (blockScale ty (fF32.val z (w.toNat % 2 ^ 31)))) (fun s => ?_) rfl
    have hbits : ∀ n, bits n 0 31 = n % 2 ^ 31 := fun n => by rw [bits, pow_zero, Nat.div_one]
    simp only [← hbits]; rfl
  | _ => cases hi

/-! ## A word of the FP pipe at issue -/

theorem allConds_congr {v : BitVec 32} {c c' : Nat → Word} (h : ∀ l, bit v l = true → c l = c' l) :
    (lanesOf v).foldl (fun r l => r ||| c l) 0 = Claims.allConds v c' :=
  List.foldl_ext _ _ _ fun r l hl => by rw [h l ((mem_lanesOf v l).1 hl)]

section
variable {s : State} {i : Instr} {d : Reg} {n : Nat} {f : Band → Nat → List Word × Word} {g : FpFun} (hs : s.Runs i)
  (hi : FpShape i d n) (hg : ∀ (B C : Band) x t, B.Settled C x t (srcsOf i) → B.fpctl = C.fpctl → g B x t = f C t)
include hs hi hg

/-- When the word is checked its lanes of V compute `f` of the settled registers. -/
theorem fpValue_checked {l : Nat} (hl : bit (s.vOf i) l = true) : g s.me (s.ex i.hdr) l = f s.me l := by
  have h := hs.sources_after hi.lanes hl
  rw [s.after_eq i hi.region] at h
  exact hg _ _ _ _ h rfl

/-- So they do when it acts. -/
theorem fpValue_atIssue {l : Nat} (hl : bit (s.vOf i) l = true) : g (s.atIssue i).me (s.ex i.hdr) l = f s.me l := by
  have ha := s.after_eq i hi.region
  have h := hs.sources hi.lanes hl
  rw [ha] at h
  refine hg _ _ _ _ h ?_
  rw [State.atIssue, State.advance_band _ _ _ hs.band, ha]

/-- The conditions of all its lanes, those that trap among them, become sticky (R108). -/
theorem fpStick_eq (r : State) : fpStick i g s r =
    r.setMe (r.me.stick (s.cycle + 5) (Claims.allConds (s.vOf i) fun l => (f s.me l).2)) := by
  have hc : fpConds g s.me (s.ex i.hdr) = Claims.allConds (s.vOf i) fun l => (f s.me l).2 :=
    allConds_congr fun l hl => by rw [fpValue_checked hs hi hg hl]
  simp only [fpStick, hs.passes, List.isEmpty_nil, if_true, hc]
  rfl

/-- A lane traps if its conditions ask for it. -/
theorem fpTrap_eq {l : Nat} (hl : bit (s.vOf i) l = true) : fpTrap g s (s.ex i.hdr) l =
    if enabledCond s.me.fpctl (f s.me l).2 then some (syncTrap 0x0D (condInfo (f s.me l).2) 0 (s.ex i.hdr).pc) else none := by
  simp only [fpTrap, fpValue_checked hs hi hg hl]

/-- A word of which no lane traps writes its results, and nothing else (R18, R108). -/
theorem fpWord_writes (hno : ∀ l, bit (s.vOf i) l = true → enabledCond s.me.fpctl (f s.me l).2 = false) :
    ∃ t, fpWord i d n g s = .next t ∧
      s.WordFrame t i 5 (gs n d) (Claims.allConds (s.vOf i) fun l => (f s.me l).2) ∧
      ∀ l, bit (s.vOf i) l = true → ∀ k, k < n → t.me.gv l (d + BitVec.ofNat 6 k) = (f s.me l).1.getD k 0 := by
  have hb : (s.atIssue i).cur < (s.atIssue i).bands.length := by simpa [State.atIssue] using hs.band
  have hnone : ∀ l, bit (s.vOf i) l = true → fpTrap g (s.after i) (s.ex i.hdr) l = none := fun l hl => by
    rw [s.after_eq i hi.region, fpTrap_eq hs hi hg hl, hno l hl]; rfl
  have hkeeps : ∀ l, bit (s.vOf i) l = true → ∀ r ∈ gs n d,
      (s.atIssue i).me.keeps ((s.ex i.hdr).now + 5) (s.ex i.hdr).k l r = false := fun l hl r hr => by
    rw [← hi.due]
    exact hs.write hl (by simp [Band.writesIn, hi.dsts, hr]) _
  obtain ⟨c, hrun, hframe, hval⟩ : ∃ c,
      runWord i (fpTrap g) (fun x s => s.putWords x 5 n d g) s = ((s.atIssue i).setMe c).tickFree ∧
      (s.atIssue i).me.RegFrame c (s.vOf i) (gs n d) (s.cycle + 5) ∧
      ∀ l, bit (s.vOf i) l = true → ∀ k, k < n → c.gv l (d + BitVec.ofNat 6 k) = (f s.me l).1.getD k 0 := by
    rw [runWord_passes i _ _ s hs.passes hnone]
    by_cases h0 : s.vOf i = 0
    · rw [if_pos h0]
      exact ⟨_, by rw [State.setMe_me _ hb], .refl _ _ _ _, fun l hl => absurd hl (by rw [h0, bit_zero]; simp)⟩
    · rw [if_neg h0, State.putWords_eq _ hb]
      refine ⟨_, rfl, Band.regFrame_writeRun _ _ _ _ _ _ _, fun l hl k hk => ?_⟩
      refine (congrArg (BitVec.setWidth 32) (Band.getReg_writeRun _ _ hi.count hkeeps hl hk)).trans ?_
      rw [fpValue_atIssue hs hi hg hl]
      simp [RegName.fit]
  have hme : ((s.atIssue i).setMe c).tickFree.me = c := State.me_setMe _ _ hb
  have hword := (s.wordFrame_of i hs.band 5 (gs n d) c hframe).stick hs.band (Claims.allConds (s.vOf i) fun l => (f s.me l).2)
  refine ⟨_, ?_, hword, fun l hl k hk => ?_⟩
  · rw [fpWord, hrun, fpStick_eq hs hi hg]
  · rw [Band.gv, State.me_setMe _ _ (by simpa [State.tickFree] using hb), Band.getReg_stick, hme]
    exact hval l hl k hk

/-- A lane whose condition has its trap enabled is masked with code 0x0D (R108, R361). -/
theorem fpWord_traps (hh : s.me.handler = false) :
    ∃ t, fpWord i d n g s = .next t ∧
      t.me.fpLate = (s.me.stick (s.cycle + 5) (Claims.allConds (s.vOf i) fun l => (f s.me l).2)).fpLate ∧
      ∀ l, bit (s.vOf i) l = true → enabledCond s.me.fpctl (f s.me l).2 = true →
        t.me.lane l = (s.me.lane l).trapped (s.ex i.hdr).pc (syncTrap 0x0D (condInfo (f s.me l).2) 0 (s.ex i.hdr).pc) ∧
        bit t.me.trapLane l = true := by
  obtain ⟨hcur, hlate, htrap⟩ := hs.toStarts.defers hi.region hh (fpTrap g) (body := fun x s => s.putWords x 5 n d g)
    (rs := gs n d) (due := s.cycle + 5) fun _ u hu => ⟨_, u.putWords_eq hu _ 5 n d g, Band.regFrame_writeRun _ _ _ _ _ _ _⟩
  refine ⟨_, by rw [fpWord, fpStick_eq hs hi hg], ?_, fun l hl hen => ?_⟩
  · rw [State.me_setMe _ _ hcur]
    exact Band.fpLate_stick_congr hlate _ _
  · obtain ⟨hlane, hmask⟩ := htrap l _ hl ((fpTrap_eq hs hi hg hl).trans (if_pos hen))
    rw [State.me_setMe _ _ hcur, Band.lane_stick, Band.stick_frame]
    exact ⟨hlane, hmask⟩

end

/-- TRAPCODE of code 0x0D: the conditions of the lane above the code (R355, R356). -/
theorem fpTrap_word (c : Word) (pc : DWord) : (syncTrap 0x0D (condInfo c) 0 pc).word =
    BitVec.ofNat 32 (c.toNat / 2 ^ 9 % 2 ^ 5 * 2 ^ 16 + 0x0D) := by
  have hlt : condInfo c < 2 ^ 16 := (Nat.mod_lt _ (by decide)).trans_le (by decide : 2 ^ 5 ≤ 2 ^ 16)
  rw [Trap.word_eq rfl rfl]
  simp only [syncTrap, BitVec.toNat_ofNat, Nat.mod_eq_of_lt hlt]
  rfl

/-! ## FCMP (R122) -/

/-- The condition that FCMP tests is the one that its rule states. -/
theorem fccHolds_eq (cc : FCc) (x y : Fp) : fccHolds cc x y = Claims.fpCond cc x y := by
  have hord : (!x.isNan && !y.isNan) = !(x.isNan || y.isNan) := (Bool.not_or _ _).symm
  simp only [fccHolds, Fp.eq, Claims.fpCond, hord]
  generalize (x.isNan || y.isNan) = un
  cases un <;> cases cc <;> rfl

theorem Band.pv_eq (b : Band) (l : Nat) (p : PReg) : b.pv l p = (b.getReg l (.p p)).getLsbD 0 := by
  have hv : b.getReg l (.p p) = if (b.lane l).pred p then 1 else 0 := rfl
  rw [hv, Band.pv]
  cases (b.lane l).pred p <;> rfl

theorem fit_pred (p : PReg) (v : Bool) : (RegName.fit (.p p) (if v then 1 else 0)).getLsbD 0 = (p == 7 || v) := by
  have hv : ((if v then 1 else 0 : DWord)).getLsbD 0 = v := by cases v <;> rfl
  rw [RegName.fit, hv]
  cases (p == 7 || v) <;> rfl

end Sys2Proof.Machine

namespace Sys2Proof
open Machine

theorem floatResults : Claims.FloatResults := by
  intro i d n f hi s hs hno
  obtain ⟨g, hexec, hg⟩ := fpMeans_of_fpWord hi
  rw [hexec]
  exact fpWord_writes hs (fpShape_of_fpWord hi) hg hno

theorem floatCompare : Claims.FloatCompare := by
  intro h cc pd a b s hs
  have ha : s.after (.fcmp h cc pd a b) = s := s.after_eq _ rfl
  obtain ⟨t, ht, hframe, hval⟩ := s.word_writes _ hs 4 rfl (.p pd) rfl (.head _) fun s x l =>
    if fccHolds cc (fF32.val (ftzOf s.me.fpctl) (s.me.rg x l a).toNat) (fF32.val (ftzOf s.me.fpctl) (s.me.src x l b).toNat)
    then 1 else 0
  refine ⟨t, by rw [← ht]; rfl, hframe, fun l hl => ?_⟩
  have hsrc := hs.sources rfl hl
  have hctl : (s.atIssue (.fcmp h cc pd a b)).me.fpctl = s.me.fpctl := by
    rw [State.atIssue, State.advance_band _ _ _ hs.band, ha]
  rw [ha] at hsrc
  rw [Band.pv_eq, hval l hl, fit_pred, fccHolds_eq, hctl, hsrc.rg gs_src_left, hsrc.src fun _ hr => List.mem_append_right _ hr]
  rfl

/-- Settles O12: the lanes with an enabled condition are masked, and the conditions of every lane of V become sticky. -/
theorem floatTraps : Obligations.FloatTraps := by
  intro i d n f hi s hs hh
  obtain ⟨g, hexec, hg⟩ := fpMeans_of_fpWord hi
  obtain ⟨t, ht, hlate, htrap⟩ := fpWord_traps hs (fpShape_of_fpWord hi) hg hh
  refine ⟨t, (hexec s).trans ht, hlate, fun l hl hen => ?_⟩
  obtain ⟨hlane, hmask⟩ := htrap l hl hen
  rw [hlane, Lane.trapped, fpTrap_word]
  exact ⟨rfl, hmask⟩

/-- Settles O11, by its three parts: the words of the FP pipe, FCMP, and the arithmetic of numbers. -/
theorem floatValues : Obligations.FloatValues := ⟨floatResults, floatCompare, floatArithmetic⟩

end Sys2Proof
end

section
/-!
PROOFS. The special functions (R117, R127 to R129): what their words compute from settled sources, the entry that an issue
adds to their pipe, and what the completion of the oldest entry of a band leaves in it.
-/

namespace Sys2Proof.Machine

open Claims (word1 ftz)

/-! ## The words -/

/-- The word leaves the special function `fn` of g[a] to its pipe, for g[d]; it acts in each lane and ends no region. -/
structure SfuMeans (i : Instr) (fn : SfuFn) (d a : Reg) (sb : Flag) : Prop where
  exec : ∀ s, Machine.exec i s = sfuWord i fn d a sb s
  sources : srcsOf i = gs 1 a
  lanes : onceOf i = false
  region : endsRegion i = false

theorem sfuMeans_of_sfuWord {i : Instr} {d : Reg} {sb : Flag} {f : Band → Nat → Nat × Word}
    (hi : Claims.sfuWord i = some (d, sb, f)) :
    ∃ fn a, SfuMeans i fn d a sb ∧ f = fun B l => sfu fn (ftz B) (B.gv l a).toNat := by
  unfold Claims.sfuWord at hi
  split at hi <;> cases hi <;> exact ⟨_, _, ⟨fun _ => rfl, rfl, rfl, rfl⟩, rfl⟩

theorem Band.Settled.sfuFun {B C : Band} {x : Ex} {t : Nat} {rs : List RegName} (h : B.Settled C x t rs)
    (hf : B.fpctl = C.fpctl) {a : Reg} (ha : .g a ∈ rs) (fn : SfuFn) :
    Machine.sfuFun fn a B x t = word1 (sfu fn (ftz C) (C.gv t a).toNat) := by
  rw [Machine.sfuFun, h.rg ha, hf]; rfl

/-! ## Issue (R127) -/

/-- The entry that a word adds to the pipe. -/
def State.sfuEntry (s : State) (x : Ex) (d : Reg) (sb : Flag) (f : FpFun) (conds : Word) : SfuOp :=
  { id := s.nextId, band := s.cur, word := x.pc, d := d, flag := sb, lanes := x.v,
    vals := (lanesOf x.v).map fun t => (f s.me x t).1.headD 0, conds := stickyOf conds }

/-- The band of a word that has entered the pipe: its flag is busy and its register is awaited. -/
def Band.sfuEntered (b : Band) (o : SfuOp) : Band := (b.setBusy o.flag .sfu).fly o.id .sfu o.lanes [.g o.d]

theorem State.sfuIssue_eq (s : State) (x : Ex) (d : Reg) (sb : Flag) (f : FpFun) (conds : Word) :
    s.sfuIssue x d sb f conds =
      { s.setMe (s.me.sfuEntered (s.sfuEntry x d sb f conds)) with
        sfus := s.sfus ++ [s.sfuEntry x d sb f conds], nextId := s.nextId + 1 } := rfl

theorem State.me_sfuIssue {s : State} (h : s.cur < s.bands.length) (x : Ex) (d : Reg) (sb : Flag) (f : FpFun) (conds : Word) :
    (s.sfuIssue x d sb f conds).tickFree.me = s.me.sfuEntered (s.sfuEntry x d sb f conds) :=
  State.me_setMe s _ h

section
variable {s : State} {i : Instr} {fn : SfuFn} {d a : Reg} {sb : Flag} (hs : s.Runs i) (hi : SfuMeans i fn d a sb)
include hs hi

/-- When the word is checked its lanes of V compute the function of the settled register. -/
theorem sfuValue_checked {l : Nat} (hl : bit (s.vOf i) l = true) :
    sfuFun fn a s.me (s.ex i.hdr) l = word1 (sfu fn (ftz s.me) (s.me.gv l a).toNat) := by
  have h := hs.sources_after hi.lanes hl
  rw [s.after_eq i hi.region, hi.sources] at h
  exact h.sfuFun rfl (mem_gs1 a) fn

/-- So they do when it acts. -/
theorem sfuValue_atIssue {l : Nat} (hl : bit (s.vOf i) l = true) :
    sfuFun fn a (s.atIssue i).me (s.ex i.hdr) l = word1 (sfu fn (ftz s.me) (s.me.gv l a).toNat) := by
  have ha := s.after_eq i hi.region
  have h := hs.sources hi.lanes hl
  rw [ha, hi.sources] at h
  refine h.sfuFun ?_ (mem_gs1 a) fn
  rw [State.atIssue, State.advance_band _ _ _ hs.band, ha]

/-- A word of which no lane traps enters the pipe, with the conditions of every lane of V. -/
theorem sfuWord_enters (hv : s.vOf i ≠ 0)
    (hno : ∀ l, bit (s.vOf i) l = true → enabledCond s.me.fpctl (sfu fn (ftz s.me) (s.me.gv l a).toNat).2 = false) :
    Machine.exec i s = .next ((s.atIssue i).sfuIssue (s.ex i.hdr) d sb (sfuFun fn a)
      (Claims.allConds (s.vOf i) fun l => (sfu fn (ftz s.me) (s.me.gv l a).toNat).2)).tickFree := by
  have hnone : ∀ l, bit (s.vOf i) l = true → fpTrap (sfuFun fn a) s (s.ex i.hdr) l = none := fun l hl => by
    simp only [fpTrap, sfuValue_checked hs hi hl, word1, hno l hl, Bool.false_eq_true, if_false]
  have hconds : fpConds (sfuFun fn a) s.me (s.ex i.hdr) =
      Claims.allConds (s.vOf i) fun l => (sfu fn (ftz s.me) (s.me.gv l a).toNat).2 :=
    allConds_congr fun l hl => by rw [sfuValue_checked hs hi hl]; rfl
  have hsome : ((lanesOf (s.ex i.hdr).v).all fun t => (fpTrap (sfuFun fn a) s (s.ex i.hdr) t).isSome) = false := by
    obtain ⟨l, hl⟩ := List.exists_mem_of_ne_nil _ (mt lanesOf_eq_nil.1 hv)
    refine List.all_eq_false.2 ⟨l, hl, ?_⟩
    rw [hnone l ((mem_lanesOf _ l).1 hl)]; simp
  simp only [hi.exec, sfuWord, hsome, hconds, Bool.and_false, Bool.false_eq_true, if_false]
  rw [runWord_passes i _ _ s hs.passes (by rwa [s.after_eq i hi.region]), if_neg hv]

end

/-! ## Results into one register of several lanes (R19) -/

theorem Band.getReg_putReg_lane (b : Band) {t u : Nat} (h : u ≠ t) {r : RegName} (hr : r.uniform = false) (v : DWord)
    (q : RegName) : (b.putReg t r v).getReg u q = b.getReg u q := by
  cases r with
  | s x => cases hr
  | _ => cases q <;> simp [Band.putReg, Band.getReg, Band.lane_setLane, h.symm]

/-- The register `r` takes a word in each of some lanes. -/
def Band.putEach (b : Band) (r : RegName) (ps : List (Nat × Word)) : Band :=
  ps.foldl (fun b p => b.putReg p.1 r (p.2.setWidth 64)) b

theorem Band.putEach_frame (d : Reg) (ps : List (Nat × Word)) (b : Band) :
    b.putEach (.g d) ps = { b with lanes := (b.putEach (.g d) ps).lanes } := by
  induction ps generalizing b with
  | nil => rfl
  | cons p ps ih => exact ih (b.putReg p.1 (.g d) (p.2.setWidth 64))

/-- In lanes that take the result of a flagged word it goes to the register. -/
theorem Band.putEach_of_takes {now k id : Nat} {r : RegName} {ps : List (Nat × Word)} {b : Band}
    (hb : ∀ p ∈ ps, b.Takes now id p.1 r) : ps.foldl (fun b p => b.putResult now k id p.1 r p.2) b = b.putEach r ps := by
  induction ps generalizing b with
  | nil => rfl
  | cons p ps ih =>
    rw [List.foldl_cons, (hb p (.head ps)).putResult k p.2]
    exact ih fun q hq => (hb q (.tail p hq)).putReg p.1 r _

section
variable {r : RegName} (hr : r.uniform = false)
include hr

theorem Band.getReg_putEach_off {l : Nat} {q : RegName} {ps : List (Nat × Word)}
    (h : l ∉ ps.map (·.1) ∨ q ≠ r) (b : Band) : (b.putEach r ps).getReg l q = b.getReg l q := by
  induction ps generalizing b with
  | nil => rfl
  | cons p ps ih =>
    rw [List.map_cons, List.mem_cons, not_or] at h
    refine (ih (h.imp_left And.right) (b.putReg p.1 r (p.2.setWidth 64))).trans ?_
    rcases h with ⟨hl, -⟩ | hq
    · exact b.getReg_putReg_lane hl hr _ q
    · exact b.getReg_putReg_other p.1 l hq _

theorem Band.getReg_putEach {l : Nat} {v : Word} {ps : List (Nat × Word)} (hn : (ps.map (·.1)).Nodup) (hl : l < 32)
    (hm : (l, v) ∈ ps) (b : Band) : (b.putEach r ps).getReg l r = r.fit (v.setWidth 64) := by
  induction ps generalizing b with
  | nil => cases hm
  | cons p ps ih =>
    obtain ⟨hp, hn⟩ := List.nodup_cons.1 hn
    rcases List.mem_cons.1 hm with rfl | hm
    · exact (Band.getReg_putEach_off hr (.inl hp) (b.putReg l r (v.setWidth 64))).trans (b.getReg_putReg_same hl r _)
    · exact ih hn hm (b.putReg p.1 r (p.2.setWidth 64))

end

/-! ## Completion (R117, R127) -/

/-- The lanes of an entry with their results. -/
def SfuOp.results (o : SfuOp) : List (Nat × Word) := (lanesOf o.lanes).zip o.vals

/-- The result of an entry as it is delivered. -/
def SfuOp.result (o : SfuOp) : Result :=
  { id := o.id, word := o.word, flag := o.flag, kind := 2, uni := false, dreg := o.d.toNat, va := 0,
    lanes := (lanesOf o.lanes).zip (o.vals.map fun v => [v]), conds := o.conds }

theorem SfuOp.map_results {o : SfuOp} (h : o.vals.length = (lanesOf o.lanes).length) :
    o.results.map (·.1) = lanesOf o.lanes := List.map_fst_zip h.ge

theorem SfuOp.mem_lanes {o : SfuOp} {p : Nat × Word} (h : p ∈ o.results) : bit o.lanes p.1 = true :=
  (mem_lanesOf _ _).1 (List.of_mem_zip h).1

/-- The lanes that await an entry take its results. -/
theorem Band.putResults_sfu {b : Band} {o : SfuOp} {now : Nat} (k : Nat)
    (hb : ∀ l, bit o.lanes l = true → b.Takes now o.id l (.g o.d)) :
    b.putResults now k o.result = b.putEach (.g o.d) o.results := by
  have hreg : o.result.reg 0 = .g o.d := by simp [SfuOp.result, Result.reg]
  have hlanes : o.result.lanes = o.results.map fun p => (p.1, [p.2]) := by
    rw [SfuOp.result, SfuOp.results, List.zip_map_right]; rfl
  rw [← Band.putEach_of_takes (k := k) fun p hp => hb p.1 (o.mem_lanes hp)]
  simp only [Band.putResults, hlanes, List.foldl_map, List.mapIdx_cons, List.mapIdx_nil, List.foldl_cons, List.foldl_nil, hreg]
  rfl

/-- A band that keeps one mark of a flagged word, without a race, expects its result in the lanes of the mark. -/
theorem Band.takes_of_flight {b : Band} {id now : Nat} {p : Pipe} {r : RegName} {m : BitVec 32} (hr : r.uniform = false)
    (hf : b.inFlight.filter (·.id == id) = [⟨id, p, r, m, 0⟩]) {l : Nat} (hl : bit m l = true)
    (hlive : (b.lane l).live = true) (hrace : b.races now l r = false) : b.Takes now id l r where
  live := hlive
  expected := by
    have hm : (⟨id, p, r, m, 0⟩ : InFlight) ∈ b.inFlight.filter (·.id == id) := hf ▸ .head _
    refine ⟨_, (List.mem_filter.1 hm).1, rfl, rfl, ?_⟩
    cases r with
    | s u => cases hr
    | _ => exact hl
  clean f hm hid := by
    have hm : f ∈ b.inFlight.filter (·.id == id) := List.mem_filter.2 ⟨hm, by simpa using hid⟩
    rw [hf, List.mem_singleton] at hm
    rw [hm]; exact bit_zero _
  races := hrace

/-- What a band keeps of a flagged word that is complete. -/
theorem State.flagDone_band {s : State} {bi : Nat} (h : bi < s.bands.length) (id : Nat) (f : Flag) (conds : Word) :
    (s.flagDone bi id f conds).band bi =
      { s.band bi with flags := ((s.band bi).setDone f).flags, inFlight := (s.band bi).inFlight.filter fun e => e.id != id,
                       fpLate := (s.band bi).fpLate ++ if conds = 0 then [] else [(conds, s.cycle)] } := by
  rw [State.flagDone, State.band_setBand, if_pos ⟨rfl, h⟩, Band.sticky]
  by_cases hc : conds = 0
  · rw [if_pos hc, if_pos hc, List.append_nil]; rfl
  · rw [if_neg hc, if_neg hc]; rfl

theorem exec_sfuComplete {s : State} {n : Nat} {o : SfuOp} (h : s.sfus.find? (·.band == n) = some o) :
    exec (.sfuComplete n) s =
      .next ((({ s with sfus := s.sfus.filter fun e => e.id != o.id } : State).deliver n o.result).finish n o.id o.flag
        o.conds) := by
  show execSfuComplete n s = _
  rw [execSfuComplete, h]; rfl

section
variable {s : State} {n : Nat} (hq : (s.quarterOf (s.band n)).stopped = false)
include hq

/-- Where the quarter of a band runs, a result goes to its registers. -/
theorem State.deliver_running {r : Result} {c : Band} (hc : (s.band n).putResults s.cycle s.free r = c) :
    s.deliver n r = { s with bands := s.bands.set n c, free := s.free + 1 } := by
  simp only [State.deliver, hq, hc, Bool.false_eq_true, if_false]; rfl

/-- Where it runs and no flag lags, the flag of a word that is complete is done. -/
theorem State.finish_running (hh : s.holdFlags = false) (id : Nat) (f : Flag) (conds : Word) :
    s.finish n id f conds = s.flagDone n id f conds := by
  simp only [State.finish, hq, hh, Bool.false_and, Bool.false_eq_true, if_false]

end

end Sys2Proof.Machine

namespace Sys2Proof
open Machine
open Claims (ftz)

theorem specialFunctionIssue : Claims.SpecialFunctionIssue := by
  intro i d sb f hw s hs hv hno
  obtain ⟨fn, a, hi, rfl⟩ := sfuMeans_of_sfuWord hw
  have ha : s.after i = s := s.after_eq i hi.region
  have hstate := s.atIssue_state i
  have hcur := s.atIssue_cur i
  have hlen : (s.atIssue i).cur < (s.atIssue i).bands.length := by simpa [State.atIssue] using hs.band
  have hflight : (s.atIssue i).me.inFlight = s.me.inFlight := by
    rw [State.atIssue, State.advance_band _ _ _ hs.band, ha]
  rw [ha] at hstate hcur
  refine ⟨_, (s.atIssue i).sfuEntry (s.ex i.hdr) d sb (sfuFun fn a)
      (Claims.allConds (s.vOf i) fun l => (sfu fn (ftz s.me) (s.me.gv l a).toNat).2),
    sfuWord_enters hs hi hv hno, ?_, hcur, rfl, rfl, rfl, rfl, ?_, rfl, fun hf => ?_, fun l r => ?_, ?_⟩
  · rw [State.sfuIssue_eq, hstate]; rfl
  · exact List.map_congr_left fun l hl => by rw [sfuValue_atIssue hs hi ((mem_lanesOf _ l).1 hl)]; rfl
  · rw [State.me_sfuIssue hlen]
    exact Band.busy_setBusy_fly _ hf ..
  · rw [State.me_sfuIssue hlen, Band.sfuEntered, Band.getReg_setBusy_fly, hs.getReg_atIssue, ha]
  · rw [State.me_sfuIssue hlen, ← hflight]; rfl

theorem specialFunctionComplete : Claims.SpecialFunctionComplete := by
  intro s n o hn hfind hq hh hlen hlive hflight hrace
  have htakes : ∀ l, bit o.lanes l = true → (s.band n).Takes s.cycle o.id l (.g o.d) := fun l hl =>
    Band.takes_of_flight rfl hflight hl (hlive l hl) (hrace l hl)
  generalize hc : (s.band n).putEach (.g o.d) o.results = c
  have hframe : c = { s.band n with lanes := c.lanes } := hc ▸ Band.putEach_frame o.d o.results (s.band n)
  generalize hu : ({ s with bands := s.bands.set n c, sfus := s.sfus.filter fun e => e.id != o.id, free := s.free + 1 } : State) = u
  have hun : n < u.bands.length := by rw [← hu]; simpa using hn
  have hub : ∀ k, u.band k = if n = k ∧ k < s.bands.length then c else s.band k := fun k => by
    rw [← hu]; exact s.band_setBand n k c
  have hself : u.band n = c := (hub n).trans (if_pos ⟨rfl, hn⟩)
  have hrun : (u.quarterOf (u.band n)).stopped = false := by rw [hself, hframe, ← hu]; exact hq
  have hexec : exec (.sfuComplete n) s = .next (u.flagDone n o.id o.flag o.conds) := by
    have hdeliver : ({ s with sfus := s.sfus.filter fun e => e.id != o.id } : State).deliver n o.result = u :=
      hu ▸ State.deliver_running (s := { s with sfus := s.sfus.filter fun e => e.id != o.id }) hq
        ((Band.putResults_sfu _ htakes).trans hc)
    rw [exec_sfuComplete hfind, hdeliver, State.finish_running hrun (by rw [← hu]; exact hh)]
  have hdone := State.flagDone_band hun o.id o.flag o.conds
  rw [hself] at hdone
  have hregs : ∀ l r, ((u.flagDone n o.id o.flag o.conds).band n).getReg l r = c.getReg l r := fun l r => by
    rw [(State.FlagsOnly.flagDone u n o.id o.flag o.conds).regs, hself]
  refine ⟨_, hexec, ?_, fun k hk => ?_, ?_, ?_, State.flagDone_busy hun _ _ _, fun l v hm => ?_, fun l r hr => ?_⟩
  · rw [State.flagDone, ← hu]; rfl
  · rw [State.flagDone_other hk, hub, if_neg fun e => hk e.1.symm]
  · rw [hdone, hframe]
  · rw [hdone, hframe, ← hu]
  · have hnodup : (o.results.map (·.1)).Nodup := by rw [o.map_results hlen]; exact lanesOf_nodup _
    rw [Band.gv, hregs, ← hc, Band.getReg_putEach rfl hnodup (bit_lt (o.mem_lanes hm)) hm, setWidth_fit_g]
  · rw [hregs, ← hc]
    refine Band.getReg_putEach_off rfl (hr.imp_left fun hl => ?_) _
    rw [o.map_results hlen, mem_lanesOf, hl]; simp

/-- Settles O13, by its two parts: the issue and the completion. -/
theorem specialFunctions : Obligations.SpecialFunctions := ⟨specialFunctionIssue, specialFunctionComplete⟩

end Sys2Proof
end

section
/-!
PROOFS. GRANULE_FILL behind a load whose bytes are kept until its granule is there (R99, R393): a state in which the fill lets the
load complete.
-/

namespace Sys2Proof.Machine

/-- A load into g25 whose bytes have been read while the granule of g25 was absent, so that they are kept (R393). -/
def keptLoad : Access :=
  { id := 5, band := 0, word := 0x800000, kind := .load 25 .b32, sp := .gen, flag := 3, scope := .band, order := .relaxed
    after := []
    parts := [{ lane := 0, va := 0x900800, locs := [], ptes := [], data := [], cmp := [], held := [], done := true
                absent := false, got := some [7, 0, 0, 0] }] }

/-- A band whose granule 3 lies in a record, with such a load. -/
def State.fillBehindLoad : State :=
  let s := State.withFetchWord State.reset 32 0x38000000
  { s.setMe { s.me with absentGran := 8, saved := [(3, 0x900000)] } with accesses := [keptLoad] }

theorem State.fillBehindLoad_read :
    (State.fillBehindLoad.ctxRead (State.fillBehindLoad.ctxOf (State.fillBehindLoad.band 0)) 0x900000 1024).isOk = true := by
  decide +kernel

theorem State.fillBehindLoad_waits :
    0 < State.fillBehindLoad.bands.length ∧ (State.fillBehindLoad.band 0).spilled = false ∧
      (State.fillBehindLoad.band 0).stopped = false ∧
      (State.fillBehindLoad.quarterOf (State.fillBehindLoad.band 0)).stopped = false ∧
      3 ∈ State.fillBehindLoad.targetGranules 0 ∧
      (State.fillBehindLoad.band 0).saved.find? (·.1 == 3) = some (3, 0x900000) := by
  decide +kernel

/-- The fill writes what the load has kept, and the load is complete (R99). -/
theorem State.fillBehindLoad_retires : (State.fillBehindLoad.granuleFill 0 3).accesses = [] := by
  decide +kernel

end Sys2Proof.Machine

namespace Sys2Proof
open Machine

theorem not_registerGranules : ¬ Claims.RegisterGranules := by
  intro h
  obtain ⟨hlen, hsp, hst, hq, hg, hfind⟩ := State.fillBehindLoad_waits
  obtain ⟨v, hv⟩ : ∃ v, State.fillBehindLoad.ctxRead (State.fillBehindLoad.ctxOf (State.fillBehindLoad.band 0)) 0x900000 1024 =
      .ok v := by
    have := State.fillBehindLoad_read
    revert this
    cases State.fillBehindLoad.ctxRead _ _ _ with
    | ok v => exact fun _ => ⟨v, rfl⟩
    | error e => exact fun he => absurd he Bool.false_ne_true
  obtain ⟨t, ht, hframe, -⟩ := h.2 State.fillBehindLoad 0 3 0x900000 v hlen (by decide) hsp hst hq (.inl hg) hfind hv
  have he : State.fillBehindLoad.granuleFill 0 3 = t := Host.Outcome.next.inj ht
  have hacc : t.accesses = [keptLoad] := congrArg State.accesses hframe
  rw [← he, State.fillBehindLoad_retires] at hacc
  cases hacc

/-- Refutes O23: a granule that a load waits for is filled, and the load then writes the bytes that it has kept and leaves the
table of accesses, which the statement says is unchanged. -/
theorem not_registerGrants : ¬ Obligations.RegisterGrants := fun ⟨_, _, h⟩ => not_registerGranules h

end Sys2Proof
end

section
/-!
PROOFS. The record of a trace interval over the tables that map it (R228, R399): a state in which a byte of the record is lost.
-/

namespace Sys2Proof.Machine

/-- Bytes that read alike give the same value. -/
theorem Memory.readLE_congr {m m' : Memory} : {n a : Nat} → (∀ k, a ≤ k → k < a + n → m.read k = m'.read k) →
    m.readLE a n = m'.readLE a n
  | 0, _, _ => rfl
  | n + 1, a, h => by
    have ih : m.readLE (a + 1) n = m'.readLE (a + 1) n :=
      Memory.readLE_congr fun k h1 h2 => h k (by omega) (by omega)
    simp only [Memory.readLE, Memory.readN, leNat] at ih ⊢
    rw [ih, h a (Nat.le_refl a) (by omega)]

/-- Counters of an interval, of which one has bit 27 set. -/
def Transect.counted : Transect :=
  { Transect.blank with nrec := 8, bins := Transect.blank.bins.set 1 [2 ^ 27, 0, 0, 0, 0] }

/-- Core 0 has a record to write, with tables whose root is at 0 and which map their own page: the next record has its place
at 0x5000, over the table whose entry at 0x5020 maps that place. -/
def State.recordOverTable : State :=
  let s := { State.reset with mem := (((((State.reset.mem.writeLE 0 8 0xC000000000001000).writeLE 0x1000 8 0xC000000000002000).writeLE
    0x2000 8 0xC000000000003000).writeLE 0x3000 8 0xC000000000005000).writeLE 0x5020 8 0xE000000000000000) }
  let t := s.setCore { s.core 0 with trbuf := 0x44F00 }
  t.setQuarterAt 0 { t.quarterAt 0 with owed := [Transect.counted] }

theorem State.recordOverTable_area :
    (State.recordOverTable.quarterAt 0).owed = [Transect.counted] ∧ State.recordOverTable.trArea 0 = some 0x4F00 ∧
    State.recordOverTable.watches = [] ∧ State.recordOverTable.ctxs = [] := by
  decide +kernel

theorem State.recordOverTable_place :
    translate State.recordOverTable.mem (State.recordOverTable.rootOf (State.recordOverTable.core 0).l1ctx) 0x45000 =
      .ok 0x5000 true false 0x5020 ∧
    bits (State.recordOverTable.mem.readLE 0x5020 8) 59 1 = 0 ∧ State.recordOverTable.mem.readLE 0x4F80 4 = 0 := by
  decide +kernel

theorem State.recordOverTable_ready :
    Claims.ready State.recordOverTable 0x5000 256 ∧ Claims.ready State.recordOverTable 0x4F80 4 := by
  unfold Claims.ready
  decide +kernel

theorem State.recordOverTable_written : (State.recordOverTable.intervalEnd 0).mem.readLE 0x5024 4 = 0 := by
  decide +kernel

theorem State.ptesAt_of_ctxs_nil {s : State} (h : s.ctxs = []) (pa : Nat) : s.ptesAt pa = [] := by
  simp [State.ptesAt, h]

end Sys2Proof.Machine

namespace Sys2Proof
open Machine

/-- Refutes O44: a record that lies over the leaf entry of its own page is written in pieces of 64 bytes, and before each
of them RCL is cleared in that entry (R228), so that bit 27 of a counter that stands there is lost. -/
theorem not_refreshAndTrace : ¬ Obligations.RefreshAndTrace := by
  rintro ⟨-, -, -, -, -, -, hrecord, -⟩
  obtain ⟨howed, harea, hwatch, hctx⟩ := State.recordOverTable_area
  obtain ⟨hplace, hrcl, hwr⟩ := State.recordOverTable_place
  obtain ⟨hready, hready'⟩ := State.recordOverTable_ready
  obtain ⟨t, s1, hexec, -, -, -, -, -, -, hbins, -, -, -, hctx1, hlast⟩ :=
    hrecord State.recordOverTable 0 0x4F00 0x5000 false 0x5020 Transect.counted [] howed (by decide) harea
      (by rw [hwr]; decide) (by rw [hwr]; decide) (by rw [hwr]; exact hplace) hready hready' (by decide) (by decide) hrcl hwatch
      (.inr (by decide)) (by decide) (by decide) (by rw [hwr]; decide)
  have ht : State.recordOverTable.intervalEnd 0 = t := Host.Outcome.next.inj hexec
  obtain ⟨-, hsame⟩ := hlast (by simp [State.ptesAt_of_ctxs_nil (hctx1.trans hctx)])
  have hcounter : s1.mem.readLE 0x5024 4 = 2 ^ 27 := hbins 1 0 (by decide) (by decide)
  have hlost : t.mem.readLE 0x5024 4 = 0 := by rw [← ht]; exact State.recordOverTable_written
  rw [Memory.readLE_congr fun k hk _ => hsame k (.inr (by omega)), hcounter] at hlost
  exact absurd hlost (by decide)

end Sys2Proof
end

section
/-!
PROOFS. The delivery of work (R144 to R146, R167 to R169, R420 to R422): what a TAKE and a work request give to the lanes
that wait for a grain.
-/

namespace Sys2Proof.Machine

/-! ## Crews and launches -/

theorem State.crew_setCrew (s : State) (ci i : Nat) (x : Crew) :
    (s.setCrew ci x).crew i = if ci = i ∧ i < s.crews.length then some x else s.crew i := by
  simp only [State.crew, State.setCrew, List.getElem?_set]
  by_cases h : ci = i
  · subst h
    by_cases hl : ci < s.crews.length <;> simp [hl]
  · simp [h]

theorem State.crew_lt {s : State} {ci : Nat} {c : Crew} (h : s.crew ci = some c) : ci < s.crews.length :=
  (List.getElem?_eq_some_iff.1 h).1

theorem State.crew_setCrew_same {s : State} {ci : Nat} {c : Crew} (h : s.crew ci = some c) (x : Crew) :
    (s.setCrew ci x).crew ci = some x := by
  rw [State.crew_setCrew, if_pos ⟨rfl, State.crew_lt h⟩]

theorem State.launch_setLaunch_same {s : State} {li : Nat} {l : Launch} (h : s.launch li = some l) (x : Launch) :
    (s.setLaunch li x).launch li = some x := by
  have hl : li < s.launches.length := (List.getElem?_eq_some_iff.1 h).1
  simp [State.launch, State.setLaunch, hl]

theorem State.launchOf_eq {s : State} {b : Band} {c : Crew} {l : Launch} (hc : s.crew b.crew = some c)
    (hl : s.launch c.launch = some l) : s.launchOf b = some l := by
  rw [State.launchOf, hc, Option.bind_some, hl]

/-! ## The value that the lanes of a TAKE receive (R151) -/

section
variable {b : Band} {now k : Nat} {m : BitVec 32} {d : Reg}

theorem Band.regFrame_putTaken (b : Band) (now k : Nat) (m : BitVec 32) (d : Reg) (v : DWord) :
    b.RegFrame (b.putTaken now k m d v) m [.g d, .g (d + 1)] now :=
  ((b.regFrame_writeLanes now k m (.g d) _ rfl).mono (by simp)).trans
    ((Band.regFrame_writeLanes _ now k m (.g (d + 1)) _ rfl).mono (by simp))

@[simp] theorem Band.glo_putTaken (b : Band) (v : DWord) : (b.putTaken now k m d v).glo = b.glo := rfl
@[simp] theorem Band.ghi_putTaken (b : Band) (v : DWord) : (b.putTaken now k m d v).ghi = b.ghi := rfl
@[simp] theorem Band.glo_wake (b : Band) (m : BitVec 32) : (b.wake m).glo = b.glo := rfl
@[simp] theorem Band.ghi_wake (b : Band) (m : BitVec 32) : (b.wake m).ghi = b.ghi := rfl

theorem append_halves (v : DWord) : (v >>> 32).setWidth 32 ++ v.setWidth 32 = v := by
  apply BitVec.eq_of_getLsbD_eq
  intro i hi
  rw [BitVec.getLsbD_append]
  by_cases h : i < 32
  · simp [h]
  · have h' : i - 32 < 32 := by omega
    simp [h, h', Nat.add_sub_cancel' (Nat.le_of_not_lt h)]

/-- The pair holds the value in each lane where no earlier write is left to R19. -/
theorem Band.gv2_putTaken (h : ∀ l, bit m l = true → ∀ r ∈ gs 2 d, b.keeps now k l r = false) (v : DWord) {l : Nat}
    (hl : bit m l = true) : (b.putTaken now k m d v).gv2 l d = v := by
  have hne : RegName.g d ≠ .g (d + 1) := by simp
  have hlow := b.regFrame_writeLanes now k m (.g d) (fun _ => (v.setWidth 32).setWidth 64) rfl
  have h1 : ∀ t, bit m t = true → b.keeps now k t (.g d) = false := fun t ht => h t ht _ (mem_gs_zero 2 d (by decide))
  have h2 : ∀ t, bit m t = true → (b.writeLanes now k m (.g d) fun _ => (v.setWidth 32).setWidth 64).keeps now k t
      (.g (d + 1)) = false := fun t ht => hlow.keeps (by simp) (h t ht _ (mem_gs_one 2 d (by decide)))
  simp only [Band.gv2, Band.gv, Band.putTaken, Band.getReg_writeLanes _ _ _ _ _ _ rfl h2, Band.getReg_writeLanes _ _ _ _ _ _ rfl h1,
    hl, hne, true_and, if_true, if_false, setWidth_fit_g, append_halves]
end

/-! ## Grains (R144, R167) -/

/-- The band holds a grain: %glo and %ghi are its start and its end (R152). -/
def Band.holding (b : Band) (lo hi : DWord) : Band := { b with glo := lo, ghi := hi }

@[simp] theorem Band.glo_holding (b : Band) (lo hi : DWord) : (b.holding lo hi).glo = lo := rfl
@[simp] theorem Band.ghi_holding (b : Band) (lo hi : DWord) : (b.holding lo hi).ghi = hi := rfl
@[simp] theorem Band.keeps_holding (b : Band) (lo hi : DWord) (due k t : Nat) (r : RegName) :
    (b.holding lo hi).keeps due k t r = b.keeps due k t r := rfl
@[simp] theorem Band.quiet_holding (b : Band) (lo hi : DWord) : (b.holding lo hi).quiet = b.quiet := rfl
@[simp] theorem Band.lane_holding (b : Band) (lo hi : DWord) (l : Nat) : (b.holding lo hi).lane l = b.lane l := rfl

theorem Band.gv2_putTaken_holding {b : Band} {now k : Nat} {m : BitVec 32} {d : Reg}
    (h : ∀ l, bit m l = true → ∀ r ∈ gs 2 d, b.keeps now k l r = false) (lo hi v : DWord) {l : Nat} (hl : bit m l = true) :
    ((b.holding lo hi).putTaken now k m d v).gv2 l d = v :=
  Band.gv2_putTaken (fun l hl r hr => (b.keeps_holding lo hi now k l r).trans (h l hl r hr)) v hl

/-- A lane waits at its word. -/
theorem Band.lane_wait (b : Band) (x : Ex) (w : Nat → Wait) {l : Nat} {m : BitVec 32} (hl : bit m l = true) :
    ((b.wait x m w).lane l).st = .waiting (w l) ∧ ((b.wait x m w).lane l).pc = x.pc := by
  rw [Band.wait, Band.lane_mapLanes, if_pos hl]
  exact ⟨rfl, rfl⟩

theorem State.me_tickFree (s : State) : s.tickFree.me = s.me := rfl

section
variable {s : State} {bi : Nat} {c : Crew}

/-- The crew and its band after the lowest grain of the crew's range has been delivered. -/
def State.afterGrain (s : State) (bi : Nat) (c : Crew) (r : Range) : State :=
  (s.setCrew (s.band bi).crew { c with range := some { r with cur := r.grainEnd } }).setBand bi
    ((s.band bi).holding (BitVec.ofNat 64 r.cur) (BitVec.ofNat 64 r.grainEnd))

theorem State.takeGrain_some (hc : s.crew (s.band bi).crew = some c) {r : Range} (hr : c.range = some r) (h : r.cur < r.hi) :
    s.takeGrain bi = some (s.afterGrain bi c r, BitVec.ofNat 64 r.cur) := by
  have he : r.empty = false := by simp [Range.empty, h]
  simp only [State.takeGrain, hc, hr, he, Bool.false_eq_true, if_false]
  rfl

theorem State.core_afterGrain (s : State) (bi n : Nat) (c : Crew) (r : Range) : (s.afterGrain bi c r).core n = s.core n := rfl
theorem State.length_afterGrain (s : State) (bi : Nat) (c : Crew) (r : Range) :
    (s.afterGrain bi c r).bands.length = s.bands.length := List.length_set

theorem State.band_afterGrain (hb : bi < s.bands.length) (c : Crew) (r : Range) : (s.afterGrain bi c r).band bi =
    (s.band bi).holding (BitVec.ofNat 64 r.cur) (BitVec.ofNat 64 r.grainEnd) :=
  State.band_setBand_same (s.setCrew (s.band bi).crew _) hb _

/-- The crew has no grain left in a range of its own. -/
def Crew.Idle (c : Crew) : Prop := c.range = none ∨ ∃ r, c.range = some r ∧ r.hi ≤ r.cur

theorem State.takeGrain_none (hc : s.crew (s.band bi).crew = some c) (hr : c.Idle) : s.takeGrain bi = none := by
  rcases hr with hr | ⟨r, hr, h⟩
  · simp only [State.takeGrain, hc, hr]
  · simp [State.takeGrain, hc, hr, Range.empty, h]
end

/-! ## TAKE at issue (R144, R167) -/

section
variable {u : State} {x : Ex} {d : Reg} {c : Crew} {l : Launch}

theorem State.take_grain (hb : u.cur < u.bands.length) (hc : u.crew u.me.crew = some c) (hl : u.launch c.launch = some l)
    (hp : l.paused = false) {r : Range} (hr : c.range = some r) (h : r.cur < r.hi) :
    u.take x d = (u.setCrew u.me.crew { c with range := some { r with cur := r.grainEnd } }).setMe
      (Band.putTaken (u.me.holding (BitVec.ofNat 64 r.cur) (BitVec.ofNat 64 r.grainEnd)) x.now x.k x.v d
        (BitVec.ofNat 64 r.cur)) := by
  have hme : (u.afterGrain u.cur c r).me = (u.me.holding (BitVec.ofNat 64 r.cur) (BitVec.ofNat 64 r.grainEnd)) :=
    State.band_setBand_same _ (by simpa using hb) _
  simp only [State.take, State.launchOf_eq hc hl, Option.map_some, Option.getD_some, hp, Bool.false_eq_true, if_false,
    State.takeGrain_some hc hr h, hme]
  exact State.setBand_setBand ..

theorem State.take_noWork (hb : u.cur < u.bands.length) (hc : u.crew u.me.crew = some c) (hl : u.launch c.launch = some l)
    (hp : l.paused = false) (hr : c.Idle) (hn : l.noWork = true) :
    u.take x d = u.setMe (Band.putTaken (u.me.holding NOWORK NOWORK) x.now x.k x.v d NOWORK) := by
  have hme : (u.takeNothing u.cur).me = (u.me.holding NOWORK NOWORK) := State.band_setBand_same _ hb _
  simp only [State.take, State.launchOf_eq hc hl, Option.map_some, Option.getD_some, hp, hn, Bool.false_eq_true, if_false,
    Bool.true_or, if_true, State.takeGrain_none hc hr, hme]
  exact State.setBand_setBand ..

theorem State.take_waits (hc : u.crew u.me.crew = some c) (hl : u.launch c.launch = some l)
    (hp : l.paused = false) (hr : c.Idle) (hn : l.noWork = false) :
    u.take x d = State.setMe { u with nextId := u.nextId + 1 } (u.me.wait x x.v fun _ => .take u.nextId d) := by
  simp only [State.take, State.launchOf_eq hc hl, Option.map_some, Option.getD_some, hp, hn, Bool.false_eq_true, if_false,
    Bool.or_self, State.takeGrain_none hc hr]
  rfl
end

/-- A TAKE that takes effect acts in the state at issue. -/
theorem exec_take {s : State} {h : Hdr} {d : Reg} (hs : s.Runs (.take h d)) (hv : s.vOf (.take h d) ≠ 0) :
    exec (.take h d) s = .next (((s.atIssue (.take h d)).take (s.ex h) d).tickFree) := by
  have := plainWord_passes (.take h d) (fun x s => s.take x d) s hs.passes
  rw [if_neg hv] at this
  exact congrArg Host.Outcome.next this

/-- The writes of a TAKE race with no earlier one. -/
theorem State.Runs.take_keeps {s : State} {h : Hdr} {d : Reg} (hs : s.Runs (.take h d)) (l : Nat)
    (hl : bit (s.ex h).v l = true) (r : RegName) (hr : r ∈ gs 2 d) :
    (s.atIssue (.take h d)).me.keeps (s.ex h).now (s.ex h).k l r = false :=
  hs.write (i := .take h d) hl (List.mem_append_left _ hr) _

/-! ## Work requests (R146, R168, R420) -/

theorem State.deque_dropL1 (s : State) (k n : Nat) : ((s.dropL1 k).core n).deque = (s.core n).deque := by
  unfold State.dropL1
  dsimp only
  split
  · rfl
  · rw [State.core_setCore, State.core_id]
    split
    · next h => rw [h]
    · rfl

theorem Band.keeps_of_quiet {b : Band} (h : b.quiet = true) (due k t : Nat) (r : RegName) : b.keeps due k t r = false :=
  Band.keeps_of_openWrite (p := .coop) k (Band.openWrite_of_quiet h due .coop t r)

section
variable {s : State} {b : Nat} {m : BitVec 32} {d : Reg} {v : DWord}

theorem State.dropL1_bands (s : State) (k : Nat) : (s.dropL1 k).bands = s.bands := by
  rw [(State.CachesOnly.dropL1 s k).state]

/-- The lanes of a request go on with its value. -/
theorem State.resumeTake_band (hb : b < s.bands.length) :
    (s.resumeTake b d m v).band b = ((s.band b).wake m).putTaken s.cycle s.free m d v := by
  rw [State.band, State.resumeTake]
  dsimp only
  rw [State.dropL1_bands]
  exact s.band_setBand_same hb _

theorem Band.quiet_wake (c : Band) (m : BitVec 32) : (c.wake m).quiet = c.quiet := rfl

theorem Band.resumed (c : Band) (hq : c.quiet = true) (now k : Nat) {l : Nat} (hl : bit m l = true) :
    let t := (c.wake m).putTaken now k m d v
    t.gv2 l d = v ∧ (t.lane l).st = .eligible ∧ (t.lane l).pc = (c.lane l).resume := by
  have hlane := (Band.regFrame_putTaken (c.wake m) now k m d v).lane l
  have hwake : (c.wake m).lane l = (c.lane l).wake := by rw [Band.wake, Band.lane_mapLanes, if_pos hl]
  have hquiet : (c.wake m).quiet = true := (c.quiet_wake m).trans hq
  exact ⟨Band.gv2_putTaken (fun l _ r _ => Band.keeps_of_quiet hquiet now k l r) v hl,
    (congrArg Lane.st hlane).trans (congrArg Lane.st hwake), (congrArg Lane.pc hlane).trans (congrArg Lane.pc hwake)⟩
end

/-- The task of a deque that a request finds becomes the range of its crew. -/
theorem State.takeFrom_deque {s : State} {li ci k i : Nat} {c : Crew} {tk : Task} (hc : s.crew ci = some c)
    (ht : (s.core k).deque[i]? = some tk) :
    s.takeFrom li ci (.deque k i) =
      (s.setCore { s.core k with deque := (s.core k).deque.eraseIdx i }).setCrew ci { c with range := some tk.range } := by
  have hc' : (s.setCore { s.core k with deque := (s.core k).deque.eraseIdx i }).crew ci = some c := hc
  simp only [State.takeFrom, ht, State.giveRange, hc']

/-- A request that finds a task at its first level is served with the lowest grain of the task. -/
theorem State.serveTake_deque {s : State} {b choice q k : Nat} {d : Reg} {m : BitVec 32} {c : Crew} {l : Launch} {tk : Task}
    {r : List (List Source)} (hreq : (s.band b).takeRequest = some (q, d, m)) (hc : s.crew (s.band b).crew = some c)
    (hl : s.launch c.launch = some l) (hp : l.paused = false) (hr : c.range = none) (hdeq : (s.core k).deque = [tk])
    (hlev : s.levels c.launch (s.band b).crew c.core = [.deque k 0] :: r) (htk : tk.range.cur < tk.range.hi)
    (hperf : s.performed tk.after = true) :
    s.serveTake b choice = ((((s.setCore { s.core k with deque := [] }).setCrew (s.band b).crew { c with range := some tk.range }).afterGrain b
      { c with range := some tk.range } tk.range).resumeTake b d m (BitVec.ofNat 64 tk.range.cur)) := by
  have hfirst : (s.core k).deque[0]? = some tk := by rw [hdeq]; rfl
  have hready : s.sourceReady c.launch (.deque k 0) = true := by simp [State.sourceReady, hfirst, hperf]
  have hfrom := State.takeFrom_deque (li := c.launch) hc hfirst
  rw [hdeq] at hfrom
  have hgrain := State.takeGrain_some (bi := b) (c := { c with range := some tk.range })
    (s := (s.setCore { s.core k with deque := [] }).setCrew (s.band b).crew { c with range := some tk.range })
    (State.crew_setCrew_same (s := s.setCore { s.core k with deque := [] }) hc _) rfl htk
  simp only [State.serveTake, State.launchOf_eq hc hl, Option.map_some, Option.getD_some, hp, Bool.false_eq_true, if_false, hreq, hc,
    State.takeGrain_none hc (.inl hr), hlev, List.find?_cons, List.isEmpty_cons, Bool.not_false, List.length_singleton,
    Nat.mod_one, List.getD_cons_zero, hready, if_true, hfrom, List.eraseIdx_cons_zero, hgrain]

/-- A steal in which the first die after the thief that holds anything gives (R421). -/
theorem State.steal_gives {s : State} {li thief v : Nat} {l : Launch} (hl : s.launch li = some l)
    (hmem : thief ∈ l.cfg.dieList) (hholds : l.holds thief = false) (hp : l.paused = false) (hh : s.hungry li thief = true)
    (hv : (diesAfter l.cfg.dieList thief).find? l.holds = some v) : s.steal li thief = s.setLaunch li (l.give thief v) := by
  simp [State.steal, hl, hmem, hholds, hp, hh, hv]

/-! ## No work (R167, R422) -/

theorem State.resumeNoWork_launches (bi n : Nat) : (s : State) → (s.resumeNoWork bi n).launches = s.launches := by
  induction n with
  | zero => exact fun _ => rfl
  | succ n ih =>
    intro s
    rw [State.resumeNoWork]
    split
    · exact ih _
    · rfl

/-- A fold keeps what each of its steps keeps. -/
theorem State.foldl_keeps {α β : Type} (p : State → β) {f : State → α → State} (h : ∀ s a, p (f s a) = p s) (l : List α)
    (s : State) : p (l.foldl f s) = p s := by
  induction l generalizing s with
  | nil => rfl
  | cons a l ih => rw [List.foldl_cons, ih, h]

theorem State.noMoreWork_launches {s : State} {li : Nat} {l : Launch} (hl : s.launch li = some l) :
    (s.noMoreWork li).launches = (s.setLaunch li { l with noWork := true }).launches := by
  simp only [State.noMoreWork, hl]
  refine State.foldl_keeps (·.launches) (fun s ci => ?_) _ _
  split
  · exact State.foldl_keeps (·.launches) (fun s bi => s.resumeNoWork_launches bi 32) _ _
  · rfl

end Sys2Proof.Machine

namespace Sys2Proof
open Machine

theorem takeDelivers : Claims.TakeDelivers := by
  intro h d s hs hv c l hc hl hp
  have hlen : (s.atIssue (.take h d)).cur < (s.atIssue (.take h d)).bands.length := by simpa [State.atIssue] using hs.band
  have hstate := s.atIssue_state (.take h d)
  have hband : (s.atIssue (.take h d)).me = { (s.after (.take h d)).me with lanes := (s.atIssue (.take h d)).me.lanes } :=
    State.advance_band _ _ _ hs.band
  have hcrew : (s.atIssue (.take h d)).me.crew = (s.after (.take h d)).me.crew := by rw [hband]
  have hcrews : (s.atIssue (.take h d)).crews = (s.after (.take h d)).crews := by rw [hstate]
  have hc' : (s.atIssue (.take h d)).crew (s.atIssue (.take h d)).me.crew = some c := by
    rw [hcrew, State.crew, hcrews]; exact hc
  have hl' : (s.atIssue (.take h d)).launch c.launch = some l := by rw [hstate]; exact hl
  have hkeeps := hs.take_keeps
  have hvOf : s.vOf (.take h d) = (s.ex h).v := rfl
  rw [← hcrew, ← hcrews, exec_take hs hv, hvOf]
  generalize s.atIssue (.take h d) = u at hlen hc' hl' hkeeps
  refine ⟨fun r hr hlt => ⟨_, rfl, ?_⟩, fun hidle hn => ⟨_, rfl, ?_⟩, fun hidle hn => ⟨_, u.nextId, rfl, ?_⟩⟩
  · rw [State.take_grain hlen hc' hl' hp hr hlt]
    have hme := State.me_setMe (u.setCrew u.me.crew { c with range := some { r with cur := r.grainEnd } })
      ((u.me.holding (BitVec.ofNat 64 r.cur) (BitVec.ofNat 64 r.grainEnd)).putTaken (s.ex h).now (s.ex h).k (s.ex h).v d
        (BitVec.ofNat 64 r.cur)) hlen
    rw [State.me_tickFree, hme]
    exact ⟨State.crew_setCrew_same hc' _, rfl, rfl, fun k hk => Band.gv2_putTaken_holding hkeeps _ _ _ hk⟩
  · rw [State.take_noWork hlen hc' hl' hp hidle hn, State.me_tickFree, State.me_setMe _ _ hlen]
    exact ⟨rfl, rfl, rfl, fun k hk => Band.gv2_putTaken_holding hkeeps _ _ _ hk⟩
  · rw [State.take_waits hc' hl' hp hidle hn, State.me_tickFree, State.me_setMe { u with nextId := u.nextId + 1 } _ hlen]
    exact ⟨rfl, fun k hk => Band.lane_wait _ _ _ hk⟩

theorem workRequests : Claims.WorkRequests := by
  refine ⟨?_, fun s li thief l v hl hmem hholds hp hh hv => ⟨_, rfl, State.steal_gives hl hmem hholds hp hh hv⟩,
    fun s li l hl hq => ⟨s.noMoreWork li, ?_, rfl, ?_⟩⟩
  · intro s b choice c l q d m i tk r hb hreq hquiet hc hl hp hr hdeq hlev hi htk hperf
    subst hi
    refine ⟨_, congrArg Host.Outcome.next (State.serveTake_deque hreq hc hl hp hr hdeq hlev htk hperf), ?_⟩
    generalize hw : (s.setCore { s.core c.core with deque := [] }).setCrew (s.band b).crew { c with range := some tk.range } = w
    have hlen : b < w.bands.length := by rw [← hw]; exact hb
    have hband : w.band b = s.band b := by rw [← hw]; rfl
    have hdeque : (w.core c.core).deque = [] := by
      rw [← hw]
      exact congrArg Core.deque ((s.core_setCore { s.core c.core with deque := [] } c.core).trans (if_pos (s.core_id c.core)))
    have hgrain := State.band_afterGrain hlen { c with range := some tk.range } tk.range
    have hresumed := fun v => State.resumeTake_band (m := m) (d := d) (v := v)
      (hlen.trans_eq (w.length_afterGrain b { c with range := some tk.range } tk.range).symm)
    rw [hgrain, hband] at hresumed
    rw [hresumed]
    refine ⟨(State.deque_dropL1 _ _ _).trans hdeque, rfl, rfl, fun k hk => ?_⟩
    exact Band.resumed _ ((Band.quiet_holding _ _ _).trans hquiet) _ _ hk
  · exact congrArg Host.Outcome.next (if_pos hq)
  · have := State.launch_setLaunch_same hl { l with noWork := true }
    rw [State.launch, State.noMoreWork_launches hl]
    exact congrArg (Option.map (·.noWork)) this

/-- Settles O24, by its two parts: what a TAKE delivers, and how work requests are served, moved or ended. -/
theorem workDelivery : Obligations.WorkDelivery := ⟨takeDelivers, workRequests⟩

end Sys2Proof
end

section
/-!
PROOFS. A crew that is killed, and the launch that goes on without it or stops (R145, R234, R377, R378).
-/

namespace Sys2Proof.Machine

/-! ## A band that is killed (R377) -/

/-- A lane of a band that is killed. -/
def Lane.kill (l : Lane) : Lane := if l.live then { l with st := .exited, reports := [] } else l

theorem Lane.kill_kill (l : Lane) : l.kill.kill = l.kill := by
  unfold Lane.kill
  by_cases h : l.live = true
  · rw [if_pos h]
    exact if_neg (by simp [Lane.live])
  · rw [if_neg h, if_neg h]

theorem Band.lanes_kill (b : Band) : b.kill.lanes = b.lanes.map Lane.kill := by
  apply Vector.ext
  intro i hi
  have hbit : bit (BitVec.allOnes 32) i = true := by rw [bit, BitVec.getLsbD_allOnes]; exact decide_eq_true hi
  rw [Vector.getElem_map]
  exact (Vector.getElem_mapFinIdx hi).trans (if_pos hbit)

theorem Band.kill_kill (b : Band) : b.kill.kill = b.kill := by
  have hlanes : b.kill.kill.lanes = b.kill.lanes := by
    rw [Band.lanes_kill, Band.lanes_kill, Vector.map_map]
    exact congrArg (b.lanes.map ·) (funext Lane.kill_kill)
  exact congrArg (fun ls => { b.kill with lanes := ls }) hlanes

/-- A lane that lives in a band exits when the band is killed. -/
theorem Band.st_kill (b : Band) {n : Nat} (hn : n < 32) (h : (b.lane n).live = true) : (b.kill.lane n).st = .exited := by
  rw [Band.lane_of_lt _ hn] at h ⊢
  simp [Band.lanes_kill, Lane.kill, h]

/-! ## The bands of a crew are killed -/

/-- The bands of a list are killed, one after another. -/
def State.killAll (s : State) (l : List Nat) : State := l.foldl (fun s bi => s.setBand bi (s.band bi).kill) s

theorem State.killAll_state (l : List Nat) : (s : State) → s.killAll l = { s with bands := (s.killAll l).bands } := by
  induction l with
  | nil => exact fun _ => rfl
  | cons b l ih => exact fun s => ih (s.setBand b (s.band b).kill)

theorem State.length_killAll (s : State) (l : List Nat) : (s.killAll l).bands.length = s.bands.length :=
  State.foldl_keeps (·.bands.length) (fun _ _ => List.length_set) l s

theorem State.band_killAll (l : List Nat) (i : Nat) : (s : State) →
    (s.killAll l).band i = if i ∈ l ∧ i < s.bands.length then (s.band i).kill else s.band i := by
  induction l with
  | nil => exact fun s => (if_neg (by simp)).symm
  | cons b l ih =>
    intro s
    have hlen : (s.setBand b (s.band b).kill).bands.length = s.bands.length := List.length_set
    refine (ih (s.setBand b (s.band b).kill)).trans ?_
    rw [hlen, State.band_setBand]
    by_cases hb : b = i
    · subst hb
      by_cases hi : b < s.bands.length <;> simp [hi, Band.kill_kill]
    · simp [hb, Ne.symm hb]

/-- An access that reaches no scratchpad byte of the crew has nothing to do when the crew leaves (R216). -/
theorem State.leaveGrove_undisturbed {s : State} {ci : Nat} {c : Crew} (h : Claims.undisturbed s ci c) :
    s.leaveGrove c ci = s := by
  have hnone : (s.accesses.filter fun a => (s.band a.band).crew != ci &&
      a.parts.any fun p => !p.done && p.within (c.core * 2 ^ 18 + c.scrOff) c.scrLen) = [] := by
    rw [List.filter_eq_nil_iff]
    intro a ha hbad
    simp only [Bool.and_eq_true, bne_iff_ne, List.any_eq_true, Bool.not_eq_true'] at hbad
    obtain ⟨hne, p, hp, hdone, hin⟩ := hbad
    exact Bool.noConfusion (hin.symm.trans (h a ha hne p hp hdone))
  simp only [State.leaveGrove, hnone, List.map_nil, List.foldl_nil]

/-- What a crew holds in the matrix unit is released by an entry of the sequencer of its core (R193). -/
theorem State.releaseMatrix_state (s : State) (ci : Nat) :
    s.releaseMatrix ci = { s with nextId := (s.releaseMatrix ci).nextId, cores := (s.releaseMatrix ci).cores } := by
  unfold State.releaseMatrix
  split
  · rfl
  · dsimp only
    split <;> rfl

theorem State.free_releaseMatrix (s : State) (ci n : Nat) : ((s.releaseMatrix ci).core n).free = (s.core n).free := by
  have hset : ∀ (u : State) (k : Core), u.cores = s.cores → (∃ m, k.id = (s.core m).id ∧ k.free = (s.core m).free) →
      ((u.setCore k).core n).free = (s.core n).free := by
    intro u k hu ⟨m, hid, hfree⟩
    have hcore : u.core n = s.core n := by rw [State.core, State.core, hu]
    rw [State.core_setCore, hid, State.core_id]
    split
    · next h => rw [hfree, h]
    · rw [hcore]
  unfold State.releaseMatrix
  split
  · rfl
  · next c _ =>
    dsimp only
    split
    · exact hset _ _ rfl ⟨c.core, rfl, rfl⟩
    · exact hset _ _ rfl ⟨c.core, rfl, rfl⟩

/-! ## Crews that are killed (R377) -/

/-- From `s` to `t` the crews `ks` are killed, and no other: they run no longer, their bands are killed, and every other
band is what it was. -/
structure State.Kills (s t : State) (ks : List Nat) : Prop where
  mem : t.mem = s.mem
  queues : t.queues = s.queues
  ctlRunning : t.ctlRunning = s.ctlRunning
  ctxs : t.ctxs = s.ctxs
  launches : t.launches = s.launches
  accesses : t.accesses = s.accesses
  length : t.bands.length = s.bands.length
  crew : ∀ i, t.crew i = (s.crew i).map fun c => if i ∈ ks then { c with running := false } else c
  spared : ∀ bi, (∀ i ∈ ks, ∀ c, s.crew i = some c → bi ∉ c.bands) → t.band bi = s.band bi
  killed : ∀ i ∈ ks, ∀ c, s.crew i = some c → ∀ bi ∈ c.bands, bi < s.bands.length → t.band bi = (s.band bi).kill

theorem State.Kills.refl (s : State) : s.Kills s [] where
  mem := rfl
  queues := rfl
  ctlRunning := rfl
  ctxs := rfl
  launches := rfl
  accesses := rfl
  length := rfl
  crew _ := by simp
  spared _ _ := rfl
  killed _ h := absurd h List.not_mem_nil

/-- A band of `s` is killed in `t`, or it is as it was. -/
theorem State.Kills.band {s t : State} {ks : List Nat} (h : s.Kills t ks) (bi : Nat) :
    t.band bi = s.band bi ∨ t.band bi = (s.band bi).kill := by
  by_cases hlen : bi < s.bands.length
  · by_cases hk : ∃ i ∈ ks, ∃ c, s.crew i = some c ∧ bi ∈ c.bands
    · obtain ⟨i, hi, c, hc, hb⟩ := hk
      exact .inr (h.killed i hi c hc bi hb hlen)
    · exact .inl (h.spared bi fun i hi c hc hb => hk ⟨i, hi, c, hc, hb⟩)
  · left
    have hs : s.bands.length ≤ bi := by omega
    rw [State.band, State.band, List.getD_eq_default _ _ hs, List.getD_eq_default _ _ (h.length.trans_le hs)]

theorem State.Kills.crewOf {s t : State} {ks : List Nat} (h : s.Kills t ks) (bi : Nat) :
    (t.band bi).crew = (s.band bi).crew := by
  obtain h | h := h.band bi <;> rw [h]
  rfl

/-- A crew after some crews are killed is the crew before, but for `running`. -/
theorem State.Kills.crew_some {s t : State} {ks : List Nat} (h : s.Kills t ks) {i : Nat} {c : Crew} (hc : t.crew i = some c) :
    ∃ k, s.crew i = some k ∧ c = { k with running := c.running } ∧ c.running = (k.running && decide (i ∉ ks)) := by
  rw [h.crew, Option.map_eq_some_iff] at hc
  obtain ⟨k, hk, hc⟩ := hc
  refine ⟨k, hk, ?_⟩
  by_cases hi : i ∈ ks
  · rw [if_pos hi] at hc
    subst hc
    simp [hi]
  · rw [if_neg hi] at hc
    subst hc
    simp [hi]

theorem State.Kills.undisturbed {s t : State} {ks : List Nat} (h : s.Kills t ks) {i : Nat} {c k : Crew}
    (hc : c = { k with running := c.running }) (hu : Claims.undisturbed s i k) : Claims.undisturbed t i c := by
  intro a ha hne
  rw [h.accesses] at ha
  rw [h.crewOf] at hne
  rw [hc]
  exact hu a ha hne

theorem State.Kills.trans {s t u : State} {ks js : List Nat} (h : s.Kills t ks) (h' : t.Kills u js) :
    s.Kills u (ks ++ js) := by
  have hbands : ∀ {i k}, s.crew i = some k → ∃ c, t.crew i = some c ∧ c.bands = k.bands := by
    intro i k hk
    refine ⟨_, (h.crew i).trans (congrArg _ hk), ?_⟩
    simp only
    split <;> rfl
  have hbands' : ∀ {i c}, t.crew i = some c → ∃ k, s.crew i = some k ∧ c.bands = k.bands := by
    intro i c hc
    obtain ⟨k, hk, hck, -⟩ := h.crew_some hc
    exact ⟨k, hk, by rw [hck]⟩
  refine ⟨h'.mem.trans h.mem, h'.queues.trans h.queues, h'.ctlRunning.trans h.ctlRunning, h'.ctxs.trans h.ctxs,
    h'.launches.trans h.launches, h'.accesses.trans h.accesses, h'.length.trans h.length, fun i => ?_, fun bi hb => ?_,
    fun i hi c hc bi hb hlen => ?_⟩
  · rw [h'.crew, h.crew, Option.map_map]
    congr 1
    funext c
    by_cases hk : i ∈ ks <;> by_cases hj : i ∈ js <;> simp [hk, hj]
  · rw [h'.spared bi, h.spared bi]
    · exact fun i hi c hc => hb i (List.mem_append_left _ hi) c hc
    · intro i hi c hc
      obtain ⟨k, hk, hck⟩ := hbands' hc
      exact hck ▸ hb i (List.mem_append_right _ hi) k hk
  · obtain ⟨k, hk, hkc⟩ := hbands hc
    have hlen' : bi < t.bands.length := h.length ▸ hlen
    rw [List.mem_append] at hi
    obtain hi | hi := hi
    · have ht := h.killed i hi c hc bi hb hlen
      obtain hu | hu := h'.band bi
      · exact hu.trans ht
      · rw [hu, ht, Band.kill_kill]
    · have hu := h'.killed i hi k hk bi (hkc ▸ hb) hlen'
      obtain ht | ht := h.band bi
      · rw [hu, ht]
      · rw [hu, ht, Band.kill_kill]

/-- The bands of a crew are killed, and nothing is asked for or reported for them any more. -/
def State.bandsGone (s : State) (c : Crew) : State :=
  let s1 := s.killAll c.bands
  let mine (f : FaultRec) : Bool := c.bands.contains f.band && (match f.kind with
    | .access _ | .engine _ => false
    | _ => true)
  { s1 with
    slotReqs := s1.slotReqs.filter fun r => !c.bands.contains r.band
    late := s1.late.filter fun e => !c.bands.contains e.band
    faults := s1.faults.filter fun f => !mine f }

/-- The core of a crew with the granules that the bands of the crew occupied (R139). -/
def State.freedCore (s : State) (c : Crew) : Core :=
  { s.core c.core with free := (s.core c.core).free + (c.bands.map fun bi => (s.band bi).occupies).sum }

theorem State.core_bandsGone (s : State) (c : Crew) (n : Nat) : (s.bandsGone c).core n = s.core n := by
  have hall := congrArg State.cores (s.killAll_state c.bands)
  have hcores : (s.bandsGone c).cores = s.cores := hall
  rw [State.core, State.core, hcores]

/-- The machine before the matrix unit of the killed crew's core is released. -/
def State.crewFreed (s : State) (ci : Nat) (c : Crew) : State :=
  ((s.bandsGone c).setCore (s.freedCore c)).setCrew ci { c with running := false }

theorem State.killBands_eq {s : State} {ci : Nat} {c : Crew} (hc : s.crew ci = some c) (hu : Claims.undisturbed s ci c) :
    s.killBands ci = (s.crewFreed ci c).releaseMatrix ci := by
  have hfreed : s.freedCore c = { (s.bandsGone c).core c.core with
      free := ((s.bandsGone c).core c.core).free + (c.bands.map fun bi => (s.band bi).occupies).sum } := by
    rw [s.core_bandsGone c c.core]; rfl
  simp only [State.killBands, hc, State.leaveGrove_undisturbed hu]
  rw [State.crewFreed, hfreed]
  rfl

/-- A crew that is killed leaves the memory, queues, contexts, launches and accesses alone. -/
theorem State.killBands_state {s : State} {ci : Nat} {c : Crew} (hc : s.crew ci = some c) (hu : Claims.undisturbed s ci c) :
    s.killBands ci = { s with
      bands := (s.killBands ci).bands, crews := (s.killBands ci).crews, cores := (s.killBands ci).cores
      slotReqs := (s.killBands ci).slotReqs, late := (s.killBands ci).late, faults := (s.killBands ci).faults
      nextId := (s.killBands ci).nextId } := by
  rw [State.killBands_eq hc hu, State.releaseMatrix_state, State.crewFreed, State.bandsGone, s.killAll_state c.bands]
  rfl

theorem State.kills_killBands {s : State} {ci : Nat} (hu : ∀ c, s.crew ci = some c → Claims.undisturbed s ci c) :
    s.Kills (s.killBands ci) [ci] := by
  cases hc : s.crew ci with
  | none =>
    have hs : s.killBands ci = s := by simp only [State.killBands, hc]
    have hmem : ∀ i c, s.crew i = some c → i ∉ [ci] := by
      rintro i c hi h
      rw [List.mem_singleton.mp h, hc] at hi
      cases hi
    rw [hs]
    exact { State.Kills.refl s with
      crew := fun i => by
        cases hi : s.crew i with
        | none => rfl
        | some c => simp [hmem i c hi]
      spared := fun _ _ => rfl
      killed := fun i hi c hc => absurd hi (hmem i c hc) }
  | some c =>
    have hfreed : s.killBands ci = (s.crewFreed ci c).releaseMatrix ci := State.killBands_eq hc (hu c hc)
    have hstate := State.releaseMatrix_state (s.crewFreed ci c) ci
    have hall := s.killAll_state c.bands
    have hsame := State.killBands_state hc (hu c hc)
    have hband : ∀ bi, (s.killBands ci).band bi = (s.killAll c.bands).band bi := fun bi => by
      rw [hfreed, hstate]; rfl
    have hcrew : ∀ i, (s.killBands ci).crew i = (s.setCrew ci { c with running := false }).crew i := fun i => by
      rw [hfreed, hstate, State.crew, State.crew, State.crewFreed, State.bandsGone, hall]; rfl
    refine ⟨by rw [hsame], by rw [hsame], by rw [hsame], by rw [hsame], by rw [hsame], by rw [hsame],
      (congrArg (·.bands.length) (hfreed.trans hstate)).trans (s.length_killAll c.bands),
      fun i => ?_, fun bi hb => ?_, fun i hi k hk bi hb hlen => ?_⟩
    · rw [hcrew, State.crew_setCrew]
      by_cases hi : ci = i
      · subst hi
        simp [State.crew_lt hc, hc]
      · simp [hi, Ne.symm hi]
    · rw [hband, State.band_killAll, if_neg]
      exact fun h => hb ci (List.mem_singleton_self ci) c hc h.1
    · rw [List.mem_singleton.mp hi, hc] at hk
      cases hk
      rw [hband, State.band_killAll, if_pos ⟨hb, hlen⟩]

/-- The granules of the bands of a killed crew return to its core (R139, R377). -/
theorem State.free_killBands {s : State} {ci : Nat} {c : Crew} (hc : s.crew ci = some c) (hu : Claims.undisturbed s ci c) :
    ((s.killBands ci).core c.core).free = (s.core c.core).free + (c.bands.map fun bi => (s.band bi).occupies).sum := by
  rw [State.killBands_eq hc hu, State.free_releaseMatrix]
  exact congrArg Core.free (((s.bandsGone c).core_setCore (s.freedCore c) c.core).trans (if_pos (s.core_id c.core)))

/-- Every crew of a list is killed, where no access disturbs one. -/
theorem State.kills_foldl (l : List Nat) : (s : State) → (∀ i ∈ l, ∀ c, s.crew i = some c → Claims.undisturbed s i c) →
    s.Kills (l.foldl State.killBands s) l := by
  induction l with
  | nil => exact fun s _ => State.Kills.refl s
  | cons j l ih =>
    intro s hu
    have hj : s.Kills (s.killBands j) [j] := State.kills_killBands (hu j List.mem_cons_self)
    refine hj.trans (ih _ fun i hi c hc => ?_)
    obtain ⟨k, hk, hck, -⟩ := hj.crew_some hc
    exact hj.undisturbed hck (hu i (List.mem_cons_of_mem _ hi) k hk)

/-! ## A launch that stops (R378) -/

theorem State.mem_crewsOf {s : State} {li i : Nat} :
    i ∈ s.crewsOf li ↔ ∃ k, s.crew i = some k ∧ k.launch = li ∧ k.running = true := by
  rw [State.crewsOf, List.mem_filter, List.mem_range]
  cases hc : s.crew i with
  | none => simp
  | some c =>
    simp [State.crew_lt hc, and_comm]

/-- No crew of a stopped launch is to start again, and no work of it is left. -/
def State.launchGone (s : State) (li : Nat) (l : Launch) : State :=
  State.setLaunch { s with
      crews := s.crews.map fun c => if c.launch == li then { c with killed := false, range := none } else c
      cores := s.cores.map fun c => { c with deque := c.deque.filter fun t => t.launch != li } } li
    { l with toPlace := [], stripes := [], spill := [], ended := true }

/-- The origin of a stopped launch hears of code 0x16. -/
def State.originFails (s : State) (l : Launch) : State :=
  match l.origin with
  | .cmd q a => if (s.runningOf q).bind (·.entry) == some a then s.completeCmd q 4 0x16 else s
  | .sprout h => s.sproutEnds l.ctx h
  | .graph n => s.setNode n fun n => { n with result := some (.failed 0x16) }
  | .repair _ => s

theorem State.crew_launchGone (s : State) (li i : Nat) (l : Launch) : (s.launchGone li l).crew i =
    (s.crew i).map fun c => if c.launch == li then { c with killed := false, range := none } else c :=
  List.getElem?_map

theorem State.deque_launchGone (s : State) (li n : Nat) (l : Launch) :
    ∀ x ∈ ((s.launchGone li l).core n).deque, x.launch ≠ li := by
  have hcores : (s.launchGone li l).cores =
    s.cores.map fun c => { c with deque := c.deque.filter fun t => t.launch != li } := rfl
  rw [State.core, hcores, List.find?_map]
  cases s.cores.find? ((·.id == n) ∘ fun c : Core => { c with deque := c.deque.filter fun t => t.launch != li }) with
  | none => exact fun x hx => absurd hx List.not_mem_nil
  | some c =>
    intro x hx
    have := (List.mem_filter.mp hx).2
    simpa using this

/-- With no event ring, `stopLaunch` kills the crews that still run, ends the launch and tells its origin. -/
theorem State.stopLaunch_eq {s s1 : State} {li die : Nat} {l : Launch} (hl : s.launch li = some l)
    (hs1 : (s.crewsOf li).foldl State.killBands s = s1) (hring : ∀ x, s1.ctx l.ctx = some x → x.eventRing = 0) :
    s.stopLaunch li die = (s1.launchGone li l).originFails l := by
  have hpost : (s1.launchGone li l).post [⟨l.ctx, 6, die, 0x16, 0⟩] = s1.launchGone li l := State.post_noRing hring
  simp only [State.stopLaunch, hl, hs1]
  exact congrArg (State.originFails · l) hpost

/-- A launch with its running crews killed and its work gone is stopped. -/
theorem State.Kills.launchStopped {s s1 : State} {js : List Nat} {li : Nat} {l : Launch} (hk : s.Kills s1 js)
    (hl : s.launch li = some l) (hjs : ∀ i, i ∈ js ↔ ∃ k, s.crew i = some k ∧ k.launch = li ∧ k.running = true) :
    Claims.launchStopped s li l ((s1.launchGone li l).originFails l) := by
  have hl1 : s1.launch li = some l := by rw [State.launch, hk.launches]; exact hl
  refine ⟨s1.launchGone li l, hk.mem, hk.queues, State.launch_setLaunch_same hl1 _, fun i c hc hli => ?_,
    fun i k hi hli hrun bi hb hlen => ?_, fun bi hb => ?_, fun n => s1.deque_launchGone li n l, ?_⟩
  · rw [State.crew_launchGone, Option.map_eq_some_iff] at hc
    obtain ⟨c1, hc1, rfl⟩ := hc
    have hli1 : c1.launch = li := by split at hli <;> exact hli
    obtain ⟨k, hi, hck, hrun⟩ := hk.crew_some hc1
    have hkli : k.launch = li := by rw [hck] at hli1; exact hli1
    rw [if_pos (beq_iff_eq.mpr hli1)]
    refine ⟨?_, rfl, rfl⟩
    by_cases hkr : k.running = true
    · simp [hrun, (hjs i).mpr ⟨k, hi, hkli, hkr⟩]
    · simp [hrun, hkr]
  · have hband : (s1.launchGone li l).band bi = (s.band bi).kill :=
      hk.killed i ((hjs i).mpr ⟨k, hi, hli, hrun⟩) k hi bi hb hlen
    rw [hband]
    exact ⟨fun n hn => Band.st_kill _ hn, rfl, rfl⟩
  · refine hk.spared bi fun i hi c hc => ?_
    obtain ⟨k, hki, hli, hrun⟩ := (hjs i).mp hi
    rw [hc] at hki
    cases hki
    exact hb i c hc hli hrun
  · have hrunning : ∀ q, (s1.launchGone li l).runningOf q = s.runningOf q := fun q => by
      have hq : (s1.launchGone li l).queue q = s.queue q := congrArg (·.find? (·.id == q)) hk.queues
      have hctl : (s1.launchGone li l).ctlRunning = s.ctlRunning := hk.ctlRunning
      rw [State.runningOf, State.runningOf, hq, hctl]
    unfold State.originFails
    cases l.origin with
    | cmd q a => simp only [hrunning, beq_iff_eq]
    | sprout h => rfl
    | graph n => rfl
    | repair p => rfl

/-- A launch whose crews `ks` are killed already is stopped with the rest of them. -/
theorem State.Kills.stopLaunch {s s1 : State} {ks : List Nat} {li : Nat} {l : Launch} (hk : s.Kills s1 ks)
    (hks : ∀ i ∈ ks, ∃ k, s.crew i = some k ∧ k.launch = li ∧ k.running = true) (hl : s.launch li = some l)
    (hring : ∀ x, s.ctx l.ctx = some x → x.eventRing = 0)
    (hu : ∀ i k, s.crew i = some k → k.launch = li → k.running = true → Claims.undisturbed s i k) (die : Nat) :
    Claims.launchStopped s li l (s1.stopLaunch li die) := by
  have hl1 : s1.launch li = some l := by rw [State.launch, hk.launches]; exact hl
  have hof : ∀ i ∈ s1.crewsOf li, ∃ k, s.crew i = some k ∧ k.launch = li ∧ k.running = true := fun i hi => by
    obtain ⟨c, hc, hli, hrun⟩ := State.mem_crewsOf.mp hi
    obtain ⟨k, hik, hck, hkr⟩ := hk.crew_some hc
    rw [hck] at hli
    rw [hrun] at hkr
    exact ⟨k, hik, hli, (Bool.and_eq_true_iff.mp hkr.symm).1⟩
  have hrest : s1.Kills ((s1.crewsOf li).foldl State.killBands s1) (s1.crewsOf li) :=
    State.kills_foldl _ s1 fun i hi c hc => by
      obtain ⟨k, hik, hck, -⟩ := hk.crew_some hc
      obtain ⟨k', hik', hli, hrun⟩ := hof i hi
      rw [hik] at hik'
      cases hik'
      exact hk.undisturbed hck (hu i k hik hli hrun)
  have hall := hk.trans hrest
  have hring' : ∀ x, ((s1.crewsOf li).foldl State.killBands s1).ctx l.ctx = some x → x.eventRing = 0 := by
    rw [State.ctx, hall.ctxs]; exact hring
  rw [State.stopLaunch_eq hl1 rfl hring']
  refine hall.launchStopped hl fun i => ⟨fun hi => (List.mem_append.mp hi).elim (hks i) (hof i), ?_⟩
  rintro ⟨k, hik, hli, hrun⟩
  by_cases hi : i ∈ ks
  · exact List.mem_append_left _ hi
  · refine List.mem_append_right _ (State.mem_crewsOf.mpr ⟨k, ?_, hli, hrun⟩)
    rw [hk.crew, hik]
    exact congrArg some (if_neg hi)

/-! ## A crew of an idempotent image (R378) -/

/-- The tasks that a killed crew leaves to the distributor of its die: the last grains of its bands, in a range launch that
still has work. -/
def State.grainsBack (s : State) (ci : Nat) (c : Crew) (l : Launch) : List (Nat × Task) :=
  if l.image.crews = 0 ∧ l.noWork = false then
    (c.bands.map fun bi => lastGrain c.launch ci (c.core / 256) l.grain (s.band bi)).flatten
  else []

/-- What is left of the grain of a band. -/
def Band.grainLeft (b : Band) (grain : Nat) : Range := { cur := b.glo.toNat, hi := b.ghi.toNat, grain := grain }

theorem State.grainsBack_none {s : State} {ci : Nat} {c : Crew} {l : Launch} (h : l.image.crews ≠ 0 ∨ l.noWork = true) :
    s.grainsBack ci c l = [] :=
  if_neg fun hw => h.elim (· hw.1) fun hn => Bool.noConfusion (hw.2.symm.trans hn)

theorem State.grainsBack_mem {s : State} {ci bi : Nat} {c : Crew} {l : Launch} (hcrews : l.image.crews = 0)
    (hwork : l.noWork = false) (hb : bi ∈ c.bands) (hg : (s.band bi).glo.toNat < (s.band bi).ghi.toNat) :
    (c.core / 256, { launch := c.launch, crew := ci, range := (s.band bi).grainLeft l.grain, after := [] }) ∈
      s.grainsBack ci c l := by
  rw [State.grainsBack, if_pos ⟨hcrews, hwork⟩]
  refine List.mem_flatten.mpr ⟨_, List.mem_map_of_mem hb, ?_⟩
  rw [lastGrain, if_pos hg]
  exact List.mem_singleton_self _

theorem State.setLaunch_self {s : State} {li : Nat} {l : Launch} (hl : s.launch li = some l) : s.setLaunch li l = s := by
  obtain ⟨hlt, hget⟩ := List.getElem?_eq_some_iff.mp hl
  have hset : s.launches.set li l = s.launches := by rw [← hget, List.set_getElem_self]
  exact congrArg (fun ls => { s with launches := ls }) hset

/-- An error in a crew of an idempotent image: the crew is killed and waits to start again, and the launch gets back what
the crew leaves. -/
theorem State.uncorrectable_idempotent {s : State} {ci : Nat} {c : Crew} {l : Launch} (hc : s.crew ci = some c)
    (hl : s.launch c.launch = some l) (hrun : c.running = true) (hid : l.image.idempotent = true)
    (hk : s.Kills (s.killBands ci) [ci]) : s.uncorrectable ci =
      ((s.killBands ci).setCrew ci { c with running := false, killed := true }).setLaunch c.launch
        { l with spill := l.spill ++ s.grainsBack ci c l } := by
  have hcrew : (s.killBands ci).crew ci = some { c with running := false } := by
    rw [hk.crew, hc]
    exact congrArg some (if_pos (List.mem_singleton_self ci))
  have hlaunch : ((s.killBands ci).setCrew ci { c with running := false, killed := true }).launch c.launch = some l := by
    refine Eq.trans ?_ hl
    exact congrArg (·[c.launch]?) hk.launches
  simp only [State.uncorrectable, hc, hl, hrun, hid, hcrew, Bool.not_true, Bool.false_eq_true, if_false, if_true]
  by_cases hw : l.image.crews = 0 ∧ l.noWork = false
  · rw [if_pos hw, State.grainsBack, if_pos hw]
  · rw [if_neg hw, State.grainsBack, if_neg hw, List.append_nil]
    exact (State.setLaunch_self hlaunch).symm

/-! ## A crew starts again (R378) -/

/-- A band that starts has the registers, lanes and segments that R24, R136 and R139 give it. -/
theorem startBand_starts {s : State} {l : Launch} {x : Ctx} (hx : s.ctx l.ctx = some x) (ci num quarter slot : Nat) (cr : Crew) :
    Claims.startsBand s l ci cr.core num (startBand l x ci cr num quarter slot) := by
  have hlane : ∀ t, t < 32 → (startBand l x ci cr num quarter slot).lane t =
      Lane.start (decide (num * 32 + t < l.nthr)) l.image.entry := fun t ht => by
    rw [Band.lane_of_lt _ ht]
    exact Vector.getElem_ofFn ht
  have huv : ∀ u : SReg, (startBand l x ci cr num quarter slot).uv u = l.args.getD u.toNat 0 := fun u => by
    simp [Band.uv, Band.getReg, startBand]
  have hroot : x.ptroot = s.rootOf l.ctx := by rw [State.rootOf, hx]; rfl
  refine ⟨rfl, rfl, rfl, rfl, rfl, rfl, rfl, rfl, rfl, rfl, rfl, rfl, hroot, huv, fun t ht => ?_⟩
  rw [hlane t ht]
  refine ⟨rfl, ?_, fun r => ?_, rfl, rfl⟩
  · simp [Lane.start]
  · simp [Band.gv, Band.getReg, hlane t ht, Lane.get, Lane.start, Lane.blank]

/-- A crew starts on a core: one crew and its bands come to those there are. -/
theorem State.startCrew_adds {s : State} {li core num depth : Nat} {kind : CrewKind} {at_ : Nat × Nat} {l : Launch}
    (hl : s.launch li = some l) (hx : (s.ctx l.ctx).isSome = true) :
    ∃ c, (s.startCrew li core kind num depth at_).crews = s.crews ++ [c] ∧ c.num = num ∧ c.kind = kind ∧ c.core = core ∧
      c.running = true ∧ c.killed = false ∧ ∀ i, i < l.image.bands → Claims.startsBand s l s.crews.length core i
        ((s.startCrew li core kind num depth at_).band (s.bands.length + i)) := by
  obtain ⟨x, hx⟩ := Option.isSome_iff_exists.mp hx
  simp only [State.startCrew, hl, hx]
  refine ⟨_, rfl, rfl, rfl, rfl, rfl, rfl, fun i hi => ?_⟩
  obtain ⟨p, hp⟩ : ∃ p, (s.slotsFor core at_.1 l.image.bands)[i]? = some p :=
    ⟨_, List.getElem?_eq_getElem (by simpa [State.slotsFor] using hi)⟩
  simp only [State.band, State.setDie, State.setCore, List.getD_eq_getElem?_getD]
  rw [List.getElem?_append_right (Nat.le_add_right _ _), Nat.add_sub_cancel_left, List.getElem?_mapIdx, hp]
  exact startBand_starts hx _ i p.1 p.2 _

/-- A killed crew starts again on a core with room: its former entry is spent, and the new crew has the rest of its range. -/
theorem State.relaunch_eq {s : State} {ci core : Nat} {c : Crew} {l : Launch} {p : Nat × Nat} (hc : s.crew ci = some c)
    (hl : s.launch c.launch = some l) (hkilled : c.killed = true) (hruns : s.launchRuns l = true)
    (hdie : s.diePlaces l.cfg.dieList l.image (core / 256) = true) (hcore : core ∈ s.dieCores (core / 256))
    (hgrove : c.kind.isSprout = true → core / 64 = c.core / 64) (hroom : s.roomFor core l.image = some p) {k : Crew}
    (hnew : (s.startCrew c.launch core c.kind c.num c.depth p).crews = s.crews ++ [k]) :
    s.relaunch ci core = ((s.startCrew c.launch core c.kind c.num c.depth p).setCrew ci
      { c with killed := false, range := none }).setCrew s.crews.length { k with range := c.range } := by
  have hmay : (!c.killed || !s.launchRuns l || !s.diePlaces l.cfg.dieList l.image (core / 256) ||
      !(s.dieCores (core / 256)).contains core || (c.kind.isSprout && core / 64 != c.core / 64)) = false := by
    cases hsprout : c.kind.isSprout <;> simp [hkilled, hruns, hdie, hcore, hsprout, hgrove]
  have hlt := State.crew_lt hc
  have hk : ((s.startCrew c.launch core c.kind c.num c.depth p).setCrew ci { c with killed := false, range := none }).crew
      s.crews.length = some k := by
    rw [State.crew_setCrew, if_neg fun h => absurd h.1 (Nat.ne_of_lt hlt), State.crew, hnew]
    simp
  simp only [State.relaunch, hc, hl, hmay, hroom, hk, Bool.false_eq_true, if_false]

end Sys2Proof.Machine

namespace Sys2Proof
open Machine

/-- Settles O42: the crews that an error kills are those it should (`State.Kills`), a launch that stops is one whose running
crews are all killed, and a crew that starts again is one more crew. -/
theorem killedCrews : Obligations.KilledCrews := by
  refine ⟨fun s ci c l hc hl hrun _ hin => ⟨fun hid hu => ?_, fun hid hring hu => ?_⟩,
    fun s ci c l hc hl hrun hkilled => ?_, fun s ci c l hc hl hrun hkilled hring hu => ?_,
    fun s ci core c l q o hc hl hkilled hruns hdie hcore hgrove hroom hx => ?_⟩
  · have hk : s.Kills (s.killBands ci) [ci] := State.kills_killBands fun k hk => by
      rw [hc] at hk
      cases hk
      exact hu
    have hband : ∀ bi ∈ c.bands, (s.killBands ci).band bi = (s.band bi).kill := fun bi hb =>
      hk.killed ci (List.mem_singleton_self ci) c hc bi hb (hin bi hb)
    have hcrew : ∃ k, (s.killBands ci).crew ci = some k := ⟨_, (hk.crew ci).trans (congrArg _ hc)⟩
    obtain ⟨k, hcrew⟩ := hcrew
    have hlaunch : (s.killBands ci).launch c.launch = some l := by rw [State.launch, hk.launches]; exact hl
    refine ⟨_, _, { l with spill := l.spill ++ s.grainsBack ci c l },
      congrArg Host.Outcome.next (State.uncorrectable_idempotent hc hl hrun hid hk), State.crew_setCrew_same hcrew _, rfl,
      fun bi hb n hn hlive => ?_, fun bi hb => ?_, fun bi hb => ?_, hk.mem, State.free_killBands hc hu,
      State.launch_setLaunch_same hlaunch _, rfl, fun hnone => ?_, fun hcrews hwork bi hb hg => ?_⟩
    · exact (congrArg (fun b => (b.lane n).st) (hband bi hb)).trans (Band.st_kill _ hn hlive)
    · exact ⟨congrArg Band.held (hband bi hb), congrArg Band.rgnOpen (hband bi hb)⟩
    · refine hk.spared bi fun i hi k hik => ?_
      rw [List.mem_singleton.mp hi, hc] at hik
      cases hik
      exact hb
    · rw [State.grainsBack_none hnone, List.append_nil]
    · exact ⟨_, List.mem_append_right _ (State.grainsBack_mem hcrews hwork hb hg), rfl, rfl, rfl⟩
  · have hk : s.Kills (s.killBands ci) [ci] := State.kills_killBands fun k hk => by
      rw [hc] at hk
      cases hk
      exact hu ci c hc rfl hrun
    refine ⟨(s.killBands ci).stopLaunch c.launch (c.core / 256), congrArg Host.Outcome.next ?_,
      hk.stopLaunch (fun i hi => ⟨c, (List.mem_singleton.mp hi) ▸ hc, rfl, hrun⟩) hl hring hu _⟩
    simp [State.uncorrectable, hc, hl, hrun, hid]
  · refine congrArg Host.Outcome.next ?_
    simp [State.uncorrectable, hc, hl, hrun, hkilled]
  · refine ⟨s.stopLaunch c.launch (c.core / 256), congrArg Host.Outcome.next ?_,
      (State.Kills.refl s).stopLaunch (fun i hi => absurd hi List.not_mem_nil) hl hring hu _⟩
    simp [State.uncorrectable, hc, hl, hrun, hkilled]
  · obtain ⟨k, hnew, hnum, hkind, hkcore, hkrun, hkkilled, hstarts⟩ := State.startCrew_adds (core := core) (num := c.num)
      (depth := c.depth) (kind := c.kind) (at_ := (q, o)) hl hx
    have hlt := State.crew_lt hc
    refine ⟨_, { k with range := c.range }, congrArg Host.Outcome.next
      (State.relaunch_eq hc hl hkilled hruns hdie hcore hgrove hroom hnew), ?_, hnum, rfl, hkind, hkcore, hkrun, hkkilled, ?_,
      hstarts⟩
    · rw [State.crew_setCrew, if_pos]
      simp [State.setCrew, hnew]
    · rw [State.crew_setCrew, if_neg fun h => absurd h.1 (Nat.ne_of_gt hlt), State.crew_setCrew, if_pos]
      · rfl
      · exact ⟨rfl, by rw [hnew, List.length_append]; omega⟩

end Sys2Proof
end

section
/-!
PROOFS. Exchange among the lanes of a band and the uniform words (R135, R155, R157 to R160): what they read in the lanes
of V as settled values, and the one register that they write 4 cycles after issue.
-/

namespace Sys2Proof.Machine

section
variable {s : State} {i : Instr}

/-- The word ends no region and its results come 4 cycles after issue. -/
structure ExchangeShape (i : Instr) : Prop where
  region : endsRegion i = false
  due : ∀ x : Ex, writeDue i x = x.now + 4

/-- A source of a word that acts in each lane is settled in the state before the word, where it ends no region. -/
theorem State.Runs.sources_before (hs : s.Runs i) (hi : onceOf i = false) (hr : endsRegion i = false) {l : Nat}
    (hl : bit (s.vOf i) l = true) : (s.atIssue i).me.Settled s.me (s.ex i.hdr) l (srcsOf i) := by
  have := hs.sources hi hl
  rwa [s.after_eq i hr] at this

/-- A word that writes the predicate `w` in each lane of V. -/
theorem State.Runs.writesPred (hs : s.Runs i) (hi : ExchangeShape i) {pd : PReg} (hd : .p pd ∈ dstsOf i)
    {f : State → Ex → Nat → Bool} (he : exec i s = .next (plainWord i (fun x s => s.putP x 4 pd (f s x)) s)) {w : Nat → Bool}
    (hw : ∀ l, bit (s.vOf i) l = true → f (s.atIssue i) (s.ex i.hdr) l = w l) :
    ∃ t, exec i s = .next t ∧ s.WordFrame t i 4 [.p pd] 0 ∧
      ∀ l, bit (s.vOf i) l = true → t.me.pv l pd = (pd == 7 || w l) := by
  obtain ⟨t, ht, hframe, hval⟩ := s.word_writes i hs 4 (hi.due _) (.p pd) rfl hd fun s x l => if f s x l then 1 else 0
  refine ⟨t, by rw [he, ← ht]; rfl, hframe, fun l hl => ?_⟩
  rw [Band.pv_eq, hval l hl, fit_pred, hw l hl]

/-- A word that writes g[d] in each lane of V with the value of `f`. -/
theorem State.Runs.writesGeneral (hs : s.Runs i) (hi : ExchangeShape i) {d : Reg} (hd : .g d ∈ dstsOf i)
    {f : State → Ex → Nat → Word} (he : exec i s = .next (plainWord i (fun x s => s.putG x 4 d (f s x)) s)) :
    ∃ t, exec i s = .next t ∧ s.WordFrame t i 4 [.g d] 0 ∧
      ∀ l, bit (s.vOf i) l = true → t.me.gv l d = f (s.atIssue i) (s.ex i.hdr) l := by
  obtain ⟨t, ht, hframe, hval⟩ := s.word_writes i hs 4 (hi.due _) (.g d) rfl hd fun s x l => (f s x l).setWidth 64
  refine ⟨t, by rw [he, ← ht]; rfl, hframe, fun l hl => ?_⟩
  rw [Band.gv, hval l hl, setWidth_fit_g]

end

/-! ## Votes (R157) -/

/-- What a lane of V votes is the settled value of its predicate. -/
theorem voteOf_settled {B C : Band} {x : Ex} {l : Nat} {rs : List RegName} {pa : PReg} (h : B.Settled C x l rs)
    (hp : .p pa ∈ rs) (na : Bool) : voteOf B x na pa l = (C.pv l pa != na) := by
  rw [voteOf, h.rp hp]

theorem exchangeShape_of_voteWord {i : Instr} {pd : PReg} {v : Band → BitVec 32 → Bool}
    (hi : Claims.voteWord i = some (pd, v)) : ExchangeShape i ∧ .p pd ∈ dstsOf i := by
  unfold Claims.voteWord at hi
  split at hi <;> cases hi <;> exact ⟨⟨rfl, fun _ => rfl⟩, .head _⟩

/-- The votes of the lanes of V at issue. -/
theorem State.Runs.map_voteOf {s : State} {i : Instr} (hs : s.Runs i) (hi : onceOf i = false) (hr : endsRegion i = false)
    {pa : PReg} (hp : .p pa ∈ srcsOf i) (na : Bool) :
    (lanesOf (s.vOf i)).map (voteOf (s.atIssue i).me (s.ex i.hdr) na pa) =
      (lanesOf (s.vOf i)).map fun l => s.me.pv l pa != na :=
  List.map_congr_left fun l hl => voteOf_settled (hs.sources_before hi hr ((mem_lanesOf _ l).1 hl)) hp na

theorem voteWord_writes {i : Instr} {pd : PReg} {v : Band → BitVec 32 → Bool} (hi : Claims.voteWord i = some (pd, v))
    {s : State} (hs : s.Runs i) :
    ∃ t, exec i s = .next t ∧ s.WordFrame t i 4 [.p pd] 0 ∧
      ∀ l, bit (s.vOf i) l = true → t.me.pv l pd = (pd == 7 || v s.me (s.vOf i)) := by
  obtain ⟨hshape, hd⟩ := exchangeShape_of_voteWord hi
  cases i with
  | voteAll h _ na pa =>
    cases hi
    refine hs.writesPred hshape hd (f := fun s x _ => (lanesOf x.v).all (voteOf s.me x na pa)) rfl fun l _ => ?_
    have := congrArg (·.all id) (hs.map_voteOf rfl rfl (.head _) na)
    simp only [List.all_map] at this
    exact this
  | voteAny h _ na pa =>
    cases hi
    refine hs.writesPred hshape hd (f := fun s x _ => (lanesOf x.v).any (voteOf s.me x na pa)) rfl fun l _ => ?_
    have := congrArg (·.any id) (hs.map_voteOf rfl rfl (.head _) na)
    simp only [List.any_map] at this
    exact this
  | _ => cases hi

/-! ## Shuffles (R160) -/

theorem exchangeShape_of_shflLane {i : Instr} {d a : Reg} {b : Src} {j : Nat → Nat → Int}
    (hi : Claims.shflLane i = some (d, a, b, j)) :
    ExchangeShape i ∧ .g d ∈ dstsOf i ∧ onceOf i = false ∧ srcsOf i = gs 1 a ++ srcNames 1 b ∧
      ∀ s, exec i s = shuffle i d a b j s := by
  unfold Claims.shflLane at hi
  split at hi <;> cases hi <;> exact ⟨⟨rfl, fun _ => rfl⟩, mem_gs1 _, rfl, rfl, fun _ => rfl⟩

/-- A lane reads the lane that its control names, where that is one of V. -/
theorem shflWord_writes {i : Instr} {d a : Reg} {b : Src} {j : Nat → Nat → Int}
    (hi : Claims.shflLane i = some (d, a, b, j)) {s : State} (hs : s.Runs i) :
    ∃ t, exec i s = .next t ∧ s.WordFrame t i 4 [.g d] 0 ∧ ∀ l, bit (s.vOf i) l = true →
      (∀ k, j l (s.me.bv l b).toNat = (k : Nat) → bit (s.vOf i) k = true → t.me.gv l d = s.me.gv k a) ∧
      ((∀ k : Nat, j l (s.me.bv l b).toNat = k → bit (s.vOf i) k = false) → t.me.gv l d = s.me.gv l a) := by
  obtain ⟨hshape, hd, honce, hsrc, hexec⟩ := exchangeShape_of_shflLane hi
  obtain ⟨t, ht, hframe, hval⟩ := hs.writesGeneral hshape hd (hexec s)
  have hset : ∀ l, bit (s.vOf i) l = true → (s.atIssue i).me.Settled s.me (s.ex i.hdr) l (gs 1 a ++ srcNames 1 b) :=
    fun l hl => hsrc ▸ hs.sources_before honce hshape.region hl
  have hown : ∀ l, bit (s.vOf i) l = true → (s.atIssue i).me.rg (s.ex i.hdr) l a = s.me.gv l a := fun l hl =>
    (hset l hl).rg gs_src_left
  refine ⟨t, ht, hframe, fun l hl => ?_⟩
  have hctl : (s.atIssue i).me.src (s.ex i.hdr) l b = s.me.bv l b := (hset l hl).src fun _ hr => List.mem_append_right _ hr
  rw [hval l hl]
  simp only [hctl, Bool.and_eq_true, decide_eq_true_eq]
  generalize j l (s.me.bv l b).toNat = k
  refine ⟨?_, fun hout => ?_⟩
  · rintro k rfl hk
    rw [if_pos ⟨⟨by omega, by have := bit_lt hk; omega⟩, hk⟩]
    exact hown k hk
  · rw [if_neg, hown l hl]
    rintro ⟨⟨h0, -⟩, hk⟩
    exact Bool.false_ne_true ((hout k.toNat (Int.toNat_of_nonneg h0).symm).symm.trans hk)

/-! ## Uniform words (R135, R155, R158, R159) -/

/-- Every source of a word is settled in the lowest lane of V, the one lane that a word acting once per issue reads. -/
theorem State.Runs.sources_low {s : State} {i : Instr} (hs : s.Runs i) (hr : endsRegion i = false) (hv : s.vOf i ≠ 0) :
    (s.atIssue i).me.Settled s.me (s.ex i.hdr) (lowest (s.vOf i)) (srcsOf i) := by
  have hlow : (lowest (s.vOf i) != (s.ex i.hdr).low) = false := bne_self_eq_false _
  have := hs.settled (bit_lowest hv)
  rw [s.after_eq i hr] at this
  exact this.mono fun r hm => by simp [Band.readsIn, hlow, hm]

/-- A word that writes `w` to a uniform register once, if V is not empty. -/
theorem State.Runs.writesUniform {s : State} {i : Instr} (hs : s.Runs i) (hi : ExchangeShape i) {d : SReg}
    (hd : .s d ∈ dstsOf i) {f : State → Ex → Word}
    (he : exec i s = .next (plainWord i (fun x s => s.putU x 4 d (f s x)) s)) {w : Word}
    (hw : s.vOf i ≠ 0 → f (s.atIssue i) (s.ex i.hdr) = w) :
    ∃ t, exec i s = .next t ∧ s.WordFrame t i 4 [.s d] 0 ∧ (s.vOf i ≠ 0 → t.me.uv d = w) := by
  have hb : (s.atIssue i).cur < (s.atIssue i).bands.length := by simpa [State.atIssue] using hs.band
  refine ⟨_, he, ?_⟩
  rw [plainWord_passes i _ s hs.passes]
  by_cases h0 : s.vOf i = 0
  · rw [if_pos h0]
    exact ⟨s.wordFrame_none i hs.band 4 [.s d], fun h => absurd h0 h⟩
  · rw [if_neg h0]
    refine ⟨s.wordFrame_of i hs.band 4 [.s d] _ (Band.regFrame_writeU _ _ _ _ _ _), fun h => ?_⟩
    have hkeeps : (s.atIssue i).me.keeps ((s.ex i.hdr).now + 4) (s.ex i.hdr).k 0 (.s d) = false := by
      have := hs.write (r := .s d) (bit_lowest h) (List.mem_append_left _ hd) (s.ex i.hdr).k
      rwa [hi.due] at this
    have hme : ∀ c, (((s.atIssue i).setMe c).tickFree).me = c := fun c => State.me_setMe (s.atIssue i) c hb
    rw [State.putU, hme, Band.uv, Band.getReg_writeU _ _ _ _ _ hkeeps, if_pos rfl, hw h]
    simp

/-- The lanes of a mask for which a predicate holds, as the sum of their bits (R157). -/
theorem foldl_filter_sum (p f : Nat → Bool) (l : List Nat) (n : Nat) :
    l.foldl (fun a i => if p i && f i then a + 2 ^ i else a) n =
      n + ((l.filter p).map fun j => if f j then 2 ^ j else 0).sum := by
  induction l generalizing n with
  | nil => rfl
  | cons j l ih =>
    rw [List.foldl_cons, ih]
    cases hp : p j with
    | false => simp [hp]
    | true => cases hf : f j <;> simp [hp, hf, Nat.add_assoc]

theorem maskOf_lanes (m : BitVec 32) (f : Nat → Bool) :
    maskOf (fun j => bit m j && f j) = BitVec.ofNat 32 ((lanesOf m).map fun j => if f j then 2 ^ j else 0).sum := by
  rw [maskOf, foldl_filter_sum, Nat.zero_add]; rfl

theorem exchangeShape_of_uniWord {i : Instr} {d : SReg} {v : Band → BitVec 32 → Word} (hi : Claims.uniWord i = some (d, v)) :
    ExchangeShape i ∧ .s d ∈ dstsOf i := by
  unfold Claims.uniWord at hi
  split at hi <;> cases hi <;> exact ⟨⟨rfl, fun _ => rfl⟩, .head _⟩

/-- A word with the operation `g` on two uniform registers. -/
theorem State.Runs.writesUni {s : State} {i : Instr} (hs : s.Runs i) (hi : ExchangeShape i) {d a b : SReg}
    (hd : .s d ∈ dstsOf i) (hsrc : srcsOf i = [.s a, .s b]) (g : Word → Word → Word)
    (he : exec i s = uni i d (fun B x => g (B.ru x a) (B.ru x b)) s) {w : Word} (hw : g (s.me.uv a) (s.me.uv b) = w) :
    ∃ t, exec i s = .next t ∧ s.WordFrame t i 4 [.s d] 0 ∧ (s.vOf i ≠ 0 → t.me.uv d = w) :=
  hs.writesUniform hi hd he fun hv => by
    have hset := hs.sources_low hi.region hv
    have ha := hset.ru (hsrc ▸ .head _ : .s a ∈ srcsOf i)
    have hb := hset.ru (hsrc ▸ .tail _ (.head _) : .s b ∈ srcsOf i)
    exact (congrArg₂ g ha hb).trans hw

theorem uniWord_writes {i : Instr} {d : SReg} {v : Band → BitVec 32 → Word} (hi : Claims.uniWord i = some (d, v))
    {s : State} (hs : s.Runs i) :
    ∃ t, exec i s = .next t ∧ s.WordFrame t i 4 [.s d] 0 ∧ (s.vOf i ≠ 0 → t.me.uv d = v s.me (s.vOf i)) := by
  obtain ⟨hshape, hd⟩ := exchangeShape_of_uniWord hi
  cases i with
  | uaddI32 => cases hi; exact hs.writesUni hshape hd rfl (· + ·) rfl (wordOf_add _ _).symm
  | usubI32 => cases hi; exact hs.writesUni hshape hd rfl (· - ·) rfl (wordOf_sub _ _).symm
  | umulI32 => cases hi; exact hs.writesUni hshape hd rfl (· * ·) rfl (wordOf_mul _ _).symm
  | umovlB32 h _ lit => cases hi; exact hs.writesUniform hshape hd (f := fun _ _ => lit) rfl fun _ => rfl
  | uandB32 => cases hi; exact hs.writesUni hshape hd rfl (· &&& ·) rfl rfl
  | uorB32 => cases hi; exact hs.writesUni hshape hd rfl (· ||| ·) rfl rfl
  | ushlB32 => cases hi; exact hs.writesUni hshape hd rfl shlBy rfl ((shlBy_eq _ _).trans (ofNat_mul_two_pow _ _).symm)
  | ushrN32 => cases hi; exact hs.writesUni hshape hd rfl shrBy rfl ((shrBy_eq _ _).trans (ofNat_div_two_pow _ _).symm)
  | voteBallot h _ na pa =>
    cases hi
    refine hs.writesUniform hshape hd
      (f := fun s x => maskOf fun j => bit x.v j && voteOf s.me x na pa j) rfl fun _ => ?_
    have hvotes : ∀ l ∈ lanesOf (s.vOf (.voteBallot h d na pa)),
        voteOf (s.atIssue (.voteBallot h d na pa)).me (s.ex h) na pa l = (s.me.pv l pa != na) := fun l hl =>
      voteOf_settled (hs.sources_before rfl rfl ((mem_lanesOf _ l).1 hl)) (.head _) na
    rw [maskOf_lanes]
    exact congrArg (fun l : List Nat => BitVec.ofNat 32 l.sum)
      (List.map_congr_left fun l hl => congrArg (fun c : Bool => if c then 2 ^ l else 0) (hvotes l hl))
  | rdfl h _ a =>
    cases hi
    exact hs.writesUniform hshape hd (f := fun s x => s.me.rg x x.low a) rfl fun hv =>
      (hs.sources_low rfl hv).rg (mem_gs1 a)
  | _ => cases hi

end Sys2Proof.Machine

namespace Sys2Proof
open Machine

/-- Settles O20: the votes of V, and the source lanes of a shuffle, are read as settled values. -/
theorem exchangeResults : Obligations.ExchangeResults :=
  ⟨fun _ _ _ hi _ => voteWord_writes hi, fun _ _ _ _ _ hi _ => shflWord_writes hi⟩

/-- Settles O21: each word writes its value once, from sources that are settled in the lowest lane of V. -/
theorem uniformResults : Obligations.UniformResults := fun _ _ _ hi _ => uniWord_writes hi

end Sys2Proof
end

section
/-!
PROOFS. Remote enqueue (R171 to R174, R424, R425): what the grant of a slot, the arrival of an entry at its ring and the
return of its answer leave in the state.
-/

namespace Sys2Proof.Machine

/-! ## Grants (R172, R424) -/

/-- The slots of a band that name the ring of a descriptor. -/
def Band.slotsFor (b : Band) (s : State) (d : DWord) : Nat := (b.slots.filter fun p => sameRing s p.2 d).length

/-- One more slot of one band, which is of the context and has not ended, is one more in the sum over its bands. -/
theorem sum_filter_set {l : List Band} {i : Nat} {b : Band} (hi : i < l.length) (p : Band → Bool) (f : Band → Nat)
    (hold : p (l.getD i .blank) = true) (hnew : p b = true) (hf : f b = f (l.getD i .blank) + 1) :
    (((l.set i b).filter p).map f).sum = ((l.filter p).map f).sum + 1 := by
  induction l generalizing i with
  | nil => exact absurd hi (Nat.not_lt_zero i)
  | cons c l ih =>
    cases i with
    | zero =>
      rw [List.getD_cons_zero] at hold hf
      simp only [List.set_cons_zero, List.filter_cons, hold, hnew, if_true, List.map_cons, List.sum_cons, hf]
      omega
    | succ i =>
      rw [List.getD_cons_succ] at hold hf
      have := ih (Nat.lt_of_succ_lt_succ hi) hold hf
      simp only [List.set_cons_succ, List.filter_cons]
      split
      · simp only [List.map_cons, List.sum_cons, this]; omega
      · exact this

section
variable {s : State} {r : SlotReq} {g : RecvRing}

/-- The state after the slot of a request has been granted. -/
def State.granted (s : State) (r : SlotReq) : State :=
  { s.setBand r.band { s.band r.band with slots := (s.band r.band).slots ++ [(r.lane, r.desc)] } with
    slotReqs := s.slotReqs.filter fun e => e.id != r.id }

theorem State.slotGrant_eq (hn : reqNode r.desc = s.boot.node) (hg : s.ringOf (s.ctxOf (s.band r.band)) r.desc = some g) :
    s.slotGrant r =
      if (s.ringTail g + s.grantsOut (s.ctxOf (s.band r.band)) r.desc + 2 ^ 32 - s.ringHead g) % 2 ^ 32 < s.ringNent g
      then s.granted r else s := by
  simp only [State.slotGrant, hn, hg, if_true]
  rfl

/-- A grant to a band that has not ended is one more outstanding. -/
theorem State.grantsOut_granted (hb : r.band < s.bands.length) (hn : reqNode r.desc = s.boot.node)
    (he : (s.band r.band).ended = false) :
    (s.granted r).grantsOut (s.ctxOf (s.band r.band)) r.desc = s.grantsOut (s.ctxOf (s.band r.band)) r.desc + 1 := by
  have hsame : sameRing s r.desc r.desc = true := by simp [sameRing, hn]
  have hsum := sum_filter_set hb (b := { s.band r.band with slots := (s.band r.band).slots ++ [(r.lane, r.desc)] })
    (fun b => s.ctxOf b == s.ctxOf (s.band r.band) && !b.ended) (·.slotsFor s r.desc)
    (show (s.ctxOf (s.band r.band) == s.ctxOf (s.band r.band) && !(s.band r.band).ended) = true by simp [he])
    (show (s.ctxOf (s.band r.band) == s.ctxOf (s.band r.band) && !(s.band r.band).ended) = true by simp [he])
    (by simp only [Band.slotsFor, List.filter_append, List.length_append, List.filter_singleton, hsame, cond_true]; rfl)
  have := congrArg (· + (s.reqs.filter fun m => m.ctx == s.ctxOf (s.band r.band) && m.result.isNone &&
    sameRing s m.desc r.desc).length) hsum
  exact this.trans (Nat.add_right_comm _ 1 _)

theorem execReservedSlotGrant_eq (hf : s.slotReqs.find? (·.id == r.id) = some r) :
    exec (.reservedSlotGrant r.id) s = .next (s.slotGrant r) := by
  show execReservedSlotGrant r.id s = _
  rw [execReservedSlotGrant, hf]

end

/-! ## Entries that arrive (R172, R424, R425) -/

theorem leNat_leBytes : (n v : Nat) → v < 256 ^ n → leNat (leBytes v n) = v
  | 0, v, h => by rw [pow_zero] at h; simp only [leBytes, leNat]; omega
  | n + 1, v, h => by
    have h : v / 256 < 256 ^ n := by rw [pow_succ] at h; omega
    rw [leBytes, leNat, leNat_leBytes n _ h, BitVec.toNat_ofNat]
    omega

theorem Memory.readN_congr {m k : Memory} : {n a : Nat} → (∀ x, a ≤ x → x < a + n → m.read x = k.read x) →
    m.readN a n = k.readN a n
  | 0, _, _ => rfl
  | n + 1, a, h => by
    rw [Memory.readN, Memory.readN, h a (Nat.le_refl a) (by omega),
      Memory.readN_congr (n := n) (a := a + 1) fun x h1 h2 => h x (by omega) (by omega)]

/-- The bytes that a write has put at their place. -/
theorem Memory.readN_writeN (v : List Byte) : (m : Memory) → (a : Nat) → (m.writeN a v).readN a v.length = v := by
  induction v with
  | nil => exact fun _ _ => rfl
  | cons b v ih =>
    intro m a
    rw [List.length_cons, Memory.readN, Memory.read_writeN, if_pos ⟨Nat.le_refl a, by simp⟩, Nat.sub_self,
      List.getD_cons_zero, Memory.writeN, ih]

theorem mem_blocksOf_of_lt {a n x : Nat} (h1 : a ≤ x) (h2 : x < a + n) : x / 256 ∈ blocksOf a n := by
  rw [blocksOf, if_neg (by omega), List.mem_map]
  exact ⟨x / 256 - a / 256, List.mem_range.2 (by omega), by omega⟩

theorem range_map_mem (a n : Nat) : ((List.range n).map fun i => Loc.mem (a + i)) = memRun a n := by
  induction n generalizing a with
  | zero => rfl
  | succ n ih =>
    rw [List.range_succ_eq_map, List.map_cons, List.map_map, memRun, ← ih]
    refine congrArg₂ _ rfl (List.map_congr_left fun i _ => ?_)
    simp only [Function.comp, Nat.succ_eq_add_one, Nat.add_assoc, Nat.add_comm 1]

/-- Bytes that can be written at once are so too when one write that waited is tried again. -/
theorem freeAt_of_ready {s : State} {a n : Nat} (h : Claims.ready s a n) (id : Nat) :
    ∀ x ∈ memRun a n, (s.unblock id).freeAt x := by
  intro x hx
  rw [← range_map_mem, List.mem_map] at hx
  obtain ⟨i, hi, rfl⟩ := hx
  obtain ⟨hc, hb⟩ := h _ (mem_blocksOf_of_lt (a := a) (x := a + i) (by omega) (by have := List.mem_range.1 hi; omega))
  refine .inr ⟨_, rfl, hc, State.blocked_eq_false.2 fun d hd y hy => ?_⟩
  obtain ⟨d0, h0, rfl⟩ : ∃ d0 ∈ s.dies.toList, { d0 with blocks := d0.blocks.filter fun x => x.1 != id } = d := by
    simpa [State.unblock] using hd
  exact State.blocked_eq_false.1 hb d0 h0 y (List.mem_filter.1 hy).1

/-- A write of a context to aligned bytes of one writable page, which need no sector and meet no watch. -/
theorem State.ctxWrite_free {s : State} {w : Writer} {va : DWord} {v : List Byte} {pa e : Nat} {c : Bool}
    (hv : v.length = 16) (htr : translate s.mem (s.rootOf w.ctx) va = .ok pa true c e) (hcan : canonical va = true)
    (hal : va.toNat % 16 = 0) (hrcl : bits (s.mem.readLE e 8) 59 1 = 0) (hfree : ∀ x ∈ memRun pa 16, s.freeAt x)
    (hw : s.watches = []) :
    ∃ t, s.ctxWrite w va v = .ok t ∧ State.CachesOnly { s with mem := s.mem.writeN pa v } t := by
  have hrun : pageRuns va 2 16 = [(va, 16)] := by
    have hmin : min 16 (65536 - va.toNat % 65536) = 16 := by omega
    simp only [pageRuns, hmin]
    rfl
  have hlocs : runVa s (s.rootOf w.ctx) va 16 true = .ok (memRun pa 16) := by
    simp only [runVa, Nat.reduceDiv, hrun, List.foldl_cons, List.foldl_nil, Except.bind, hcan, htr, Bool.not_true,
      Bool.and_false, Bool.false_eq_true, if_false, List.nil_append, range_map_mem]
  have hptes : ptesVa s (s.rootOf w.ctx) va 16 = [e] := by
    simp only [ptesVa, Nat.reduceDiv, hrun, List.filterMap_cons, List.filterMap_nil, htr]
  have hcut : cutAll 0 v = [(0, v)] := by
    have h0 : v.drop 64 = [] := List.drop_eq_nil_of_le (by omega)
    have h1 : v.take 64 = v := List.take_of_length_le (by omega)
    obtain ⟨x, r, rfl⟩ := List.exists_cons_of_length_eq_add_one hv
    simp only [cutAll, hv, cut64, h0, h1]
  have hva : va + BitVec.ofInt 64 0 = va := BitVec.add_zero va
  have hclear : s.clearRcl [e] = s := State.clearRcl_clear (by simpa using hrcl)
  have hsh := State.CachesOnly.clearShadow s (memRun pa 16)
  obtain ⟨t, ht, hc⟩ := State.writeRuns_free w (memRun pa 16).length (memRun pa 16) v (s.clearShadow (memRun pa 16))
    (by rw [hsh.state]; exact hw) (fun x hx => (State.freeAt_congr (by rw [hsh.state]) (by rw [hsh.state]) x).2 (hfree x hx))
    (by rw [length_memRun, hv]) (Nat.le_refl _)
  refine ⟨t, ?_, ?_⟩
  · simp only [State.ctxWrite, State.writeOut, List.map_cons, List.map_nil, List.flatten_cons, List.flatten_nil,
      List.append_nil, hcut, hva, hv, hlocs, hptes, List.findSome?_cons, List.findSome?_nil, List.filterMap_cons,
      List.filterMap_nil, State.writeAll, hclear, ht, Written.toExcept]
  · have := (hsh.writeLocs (memRun pa 16) v).trans hc
    rwa [← hv, State.writeLocs_memRun] at this

section
variable {s : State} {m : ReqMsg} {g : RecvRing}

theorem execRemoteEnqueueDelivery_eq (hf : s.reqs.find? (·.id == m.id) = some m) :
    exec (.remoteEnqueueDelivery m.id) s = .next (s.reqDeliver m) := by
  show execRemoteEnqueueDelivery m.id s = _
  rw [execRemoteEnqueueDelivery, hf]

section
variable (hr : m.result = none) (hbehind : s.reqBehind m = false) (hclear : s.clear m.band (laneMask m.lane) m.id = true)
  (hpage : s.pageWaits m.id = false) (hn : reqNode m.desc = s.boot.node)
include hr hbehind hclear hpage hn

/-- An entry whose turn has come is written if its ring has room, and waits if it has none. -/
theorem State.reqDeliver_ring (hg : s.ringOf m.ctx m.desc = some g) :
    s.reqDeliver m =
      if (s.ringTail g + 2 ^ 32 - s.ringHead g) % 2 ^ 32 < s.ringNent g then s.reqPut m g else s := by
  simp only [State.reqDeliver, hr, hbehind, hclear, hpage, hn, hg, Option.isSome_none, Bool.not_true, Bool.or_self,
    Bool.false_eq_true, if_false, if_true]

/-- Without a ring it is dropped. -/
theorem State.reqDeliver_noRing (hg : s.ringOf m.ctx m.desc = none) : s.reqDeliver m = s.reqDrop m := by
  simp only [State.reqDeliver, hr, hbehind, hclear, hpage, hn, hg, Option.isSome_none, Bool.not_true, Bool.or_self,
    Bool.false_eq_true, if_false, if_true]

end

/-- Where the fate of an entry stands in the table (R174). -/
theorem State.reqs_reqFate (hm : m ∈ s.reqs) (ok : Bool) :
    (m.flag = 15 → ∀ x ∈ (s.reqFate m ok).reqs, x.id ≠ m.id) ∧
      (m.flag ≠ 15 → { m with result := some ok } ∈ (s.reqFate m ok).reqs) := by
  refine ⟨fun h x hx => ?_, fun h => ?_⟩
  · rw [State.reqFate, if_pos h] at hx
    simpa using (List.mem_filter.1 hx).2
  · rw [State.reqFate, if_neg h]
    exact List.mem_map.2 ⟨m, hm, if_pos (beq_self_eq_true _)⟩

theorem State.reqFate_state (s : State) (m : ReqMsg) (ok : Bool) :
    s.reqFate m ok = { s with reqs := (s.reqFate m ok).reqs } := by
  unfold State.reqFate
  split <;> rfl

/-- The address of the entry at the tail of a ring (R424). -/
def State.ringVa (s : State) (g : RecvRing) : DWord :=
  BitVec.ofNat 64 (s.mem.readLE g.pa 8) + BitVec.ofNat 64 (16 * (s.ringTail g % s.ringNent g))

/-- The writer of an entry, of its lane and without a depth (R283). -/
def State.reqWriter (s : State) (m : ReqMsg) : Writer :=
  { s.laneWriter m.band m.lane m.word false with ctx := m.ctx, depth := 0 }

/-- The memory after an entry has been written at the tail of its ring. -/
def State.ringMem (s : State) (m : ReqMsg) (g : RecvRing) (pa : Nat) : Memory :=
  (s.mem.writeN pa m.payload).writeN (g.pa + 0x10) (leBytes (s.ringTail g + 1) 4)

/-- An entry that is written: its bytes and the tail go to memory, and its fate is known. -/
theorem State.reqPut_free {pa e : Nat} {c : Bool} (hlen : m.payload.length = 16) (hroom : 0 < s.ringNent g)
    (htr : translate s.mem (s.rootOf m.ctx) (s.ringVa g) = .ok pa true c e) (hcan : canonical (s.ringVa g) = true)
    (hal : (s.ringVa g).toNat % 16 = 0) (hrcl : bits (s.mem.readLE e 8) 59 1 = 0) (hdata : Claims.ready s pa 16)
    (htail : Claims.ready s (g.pa + 0x10) 4) (hw : s.watches = [])
    (hptes : ∀ s1, (s.unblock m.id).ctxWrite (s.reqWriter m) (s.ringVa g) m.payload = .ok s1 →
      ∀ a ∈ s1.ptesAt (g.pa + 0x10), bits (s1.mem.readLE a 8) 59 1 = 0) :
    ∃ t : State, s.reqPut m g = t.reqFate m true ∧ t.mem = s.ringMem m g pa ∧ t.reqs = s.reqs := by
  obtain ⟨s1, h1, hc1⟩ := State.ctxWrite_free (s := s.unblock m.id) (w := s.reqWriter m) hlen htr hcan hal hrcl
    (freeAt_of_ready hdata m.id) hw
  have hst := hc1.state
  have hclear : s1.clearRcl (s1.ptesAt (g.pa + 0x10)) = s1 := State.clearRcl_clear (hptes s1 h1)
  obtain ⟨s2, h2, hc2⟩ := State.write_free (s := s1) (by rw [hst]; exact hw) (s.reqWriter m) (a := g.pa + 0x10)
    (v := leBytes (s.ringTail g + 1) 4) fun x hx =>
      (State.freeAt_congr (s := s.unblock m.id) (by rw [hst]) (by rw [hst]) x).2
        (freeAt_of_ready htail m.id x (by rwa [length_leBytes] at hx))
  refine ⟨s2.unwait m.id, ?_, ?_, ?_⟩
  · have hgo : (s.unblock m.id).ctxWrite ((s.unblock m.id).reqWriter m)
        (BitVec.ofNat 64 ((s.unblock m.id).mem.readLE g.pa 8) + BitVec.ofNat 64 (16 *
          (if (s.unblock m.id).ringNent g = 0 then 0 else (s.unblock m.id).ringTail g % (s.unblock m.id).ringNent g)))
        m.payload = .ok s1 := by
      rw [if_neg (show (s.unblock m.id).ringNent g ≠ 0 from Nat.ne_of_gt hroom)]
      exact h1
    have htail : s1.write ((s.unblock m.id).reqWriter m) (g.pa + 0x10)
        (leBytes ((s.unblock m.id).ringTail g + 1) 4) = some s2 := h2
    unfold State.reqWriter at hgo htail
    simp only [State.reqPut, hgo, hclear, htail]
  · show s2.mem = _
    rw [hc2.state, hst]; rfl
  · show s2.reqs = _
    rw [hc2.state, hst]; rfl

/-- The bytes of memory after an entry has been written. -/
theorem State.read_ringMem {pa : Nat} (hlen : m.payload.length = 16) (hoff : pa + 16 ≤ g.pa + 0x10 ∨ g.pa + 0x14 ≤ pa)
    (htail : s.ringTail g + 1 < 2 ^ 32) :
    (s.ringMem m g pa).readN pa 16 = m.payload ∧ (s.ringMem m g pa).readLE (g.pa + 0x10) 4 = s.ringTail g + 1 ∧
      ∀ k, (k < pa ∨ pa + 16 ≤ k) → (k < g.pa + 0x10 ∨ g.pa + 0x14 ≤ k) → (s.ringMem m g pa).read k = s.mem.read k := by
  have hl4 : (leBytes (s.ringTail g + 1) 4).length = 4 := length_leBytes _ _
  refine ⟨?_, ?_, fun k h1 h2 => ?_⟩
  · have hdata := Memory.readN_writeN m.payload s.mem pa
    rw [hlen] at hdata
    rw [← hdata]
    refine Memory.readN_congr fun x h1 h2 => ?_
    rw [State.ringMem, Memory.read_writeN, if_neg (by omega)]
  · have hnew := Memory.readN_writeN (leBytes (s.ringTail g + 1) 4) (s.mem.writeN pa m.payload) (g.pa + 0x10)
    rw [hl4] at hnew
    rw [Memory.readLE, State.ringMem, hnew, leNat_leBytes 4 _ htail]
  · rw [State.ringMem, Memory.read_writeN, if_neg (by omega), Memory.read_writeN, if_neg (by omega)]

/-! ## Entries without a ring (R173, R425) -/

theorem State.die_setDie {d : Nat} (h : d < 9) (x : Die) : (s.setDie d x).die d = x := by
  simp [State.die, State.setDie, Array.getD, h]

/-- The state in which a dropped entry is counted: RQERR of its die counts one that has no flag. -/
def State.reqCounted (s : State) (m : ReqMsg) : State :=
  if m.flag = 15 then
    let q := s.die (reqDie m.desc)
    s.setDie (reqDie m.desc) { q with rqerr := if q.rqerr = 0xFFFFFFFF then q.rqerr else q.rqerr + 1 }
  else s

theorem State.reqDrop_eq (hn : reqNode m.desc = s.boot.node) (hring : ∀ c, s.ctx m.ctx = some c → c.eventRing = 0) :
    s.reqDrop m = (s.reqCounted m).reqFate m false := by
  have hcount : (if decide (m.flag = 15) && reqNode m.desc == s.boot.node then
      s.setDie (reqDie m.desc) { s.die (reqDie m.desc) with
        rqerr := if (s.die (reqDie m.desc)).rqerr = 0xFFFFFFFF then (s.die (reqDie m.desc)).rqerr
                 else (s.die (reqDie m.desc)).rqerr + 1 } else s) = s.reqCounted m := by
    simp only [hn, beq_self_eq_true, Bool.and_true, decide_eq_true_eq]; rfl
  have hctx : ((s.reqCounted m).reqFate m false).ctx m.ctx = s.ctx m.ctx := by
    rw [State.reqFate_state, State.reqCounted]
    split <;> rfl
  simp only [State.reqDrop, hcount]
  exact State.post_noRing fun c hc => hring c (hctx ▸ hc)

/-- A dropped entry without a flag is counted, up to the highest count (R173). -/
theorem State.rqerr_reqCounted {m : ReqMsg} (hflag : m.flag = 15) (hdie : reqDie m.desc < 9) :
    ((s.reqCounted m).die (reqDie m.desc)).rqerr =
      if (s.die (reqDie m.desc)).rqerr = 0xFFFFFFFF then 0xFFFFFFFF else (s.die (reqDie m.desc)).rqerr + 1 := by
  rw [State.reqCounted, if_pos hflag, State.die_setDie hdie]
  split
  next hmax => exact hmax
  next => rfl

/-! ## Answers (R173, R174) -/

theorem execReqAck_eq (hf : s.reqs.find? (·.id == m.id) = some m) : exec (.reqAck m.id) s = .next (s.reqAck m) := by
  show execReqAck m.id s = _
  rw [execReqAck, hf]

/-- The band after a report to one lane, if that is live (R362). -/
def Band.reported (b : Band) (l : Nat) (x : Trap) : Band :=
  if (b.lane l).live then b.setLane l { b.lane l with reports := (b.lane l).reports ++ [x] } else b

theorem Band.reported_frame (b : Band) (l : Nat) (x : Trap) : b.reported l x = { b with lanes := (b.reported l x).lanes } := by
  unfold Band.reported
  split <;> rfl

theorem Band.lane_reported (b : Band) {l : Nat} (hl : l < 32) (x : Trap) (k : Nat) :
    (b.reported l x).lane k = { b.lane k with
      reports := if k = l ∧ (b.lane k).live = true then (b.lane k).reports ++ [x] else (b.lane k).reports } := by
  unfold Band.reported
  by_cases hk : k = l
  · subst hk
    split
    · rw [Band.lane_setLane, if_pos ⟨rfl, hl⟩, if_pos ⟨rfl, ‹_›⟩]
    · rw [if_neg fun h => absurd h.2 ‹¬(b.lane k).live = true›]
  · have hkeep : (if k = l ∧ (b.lane k).live = true then (b.lane k).reports ++ [x] else (b.lane k).reports) =
        (b.lane k).reports := if_neg fun h => hk h.1
    rw [hkeep]
    split
    · rw [Band.lane_setLane, if_neg fun h => hk h.1.symm]
    · rfl

theorem lanesOf_laneMask {l : Nat} (hl : l < 32) : lanesOf (laneMask l) = [l] := by
  decide +revert

/-- A report to one lane of a band that is not saved. -/
theorem State.reportAll_lane {bi l : Nat} (hb : bi < s.bands.length) (hl : l < 32) (hs : s.savedQueue bi = none) (x : Trap) :
    s.reportAll bi (laneMask l) x = s.setBand bi ((s.band bi).reported l x) := by
  have hsame : s.setBand bi (s.band bi) = s := by
    simp [State.setBand, State.band, List.getD_eq_getElem?_getD, hb]
  simp only [State.reportAll, lanesOf_laneMask hl, List.foldl_cons, List.foldl_nil, State.laneLive, State.report, hs,
    State.pend, Band.reported]
  split
  · rfl
  · exact hsame.symm

end

/-! ## The answer of an entry (R173, R174) -/

/-- The band after the answer of an entry: a refused one is reported to its lane. -/
def Band.answered (b : Band) (m : ReqMsg) (ok : Bool) : Band :=
  if ok then b else b.reported m.lane (asyncTrap 0x19 0 m.desc m.word)

theorem Band.answered_frame (b : Band) (m : ReqMsg) (ok : Bool) : b.answered m ok = { b with lanes := (b.answered m ok).lanes } := by
  unfold Band.answered
  split
  · rfl
  · exact Band.reported_frame _ _ _

theorem Band.lane_answered (b : Band) {m : ReqMsg} (hl : m.lane < 32) (ok : Bool) (l : Nat) :
    (b.answered m ok).lane l = { b.lane l with
      reports := if l = m.lane ∧ ok = false ∧ (b.lane l).live = true
        then (b.lane l).reports ++ [asyncTrap 0x19 0 m.desc m.word] else (b.lane l).reports } := by
  cases ok with
  | true => simp [Band.answered]
  | false => simp only [Band.answered, Bool.false_eq_true, if_false, Band.lane_reported b hl, true_and]

section
variable {s : State} {m : ReqMsg} {ok : Bool}

/-- The state in which the answer has been received, before its flag is looked at. -/
def State.answered (s : State) (m : ReqMsg) (ok : Bool) : State :=
  State.setBand { s with reqs := s.reqs.filter fun e => e.id != m.id } m.band ((s.band m.band).answered m ok)

theorem State.reqAck_eq (hr : m.result = some ok) (hb : m.band < s.bands.length) (hl : m.lane < 32)
    (hs : s.savedQueue m.band = none) :
    s.reqAck m = if (s.reqs.filter fun e => e.id != m.id).any fun e => e.band == m.band && e.flag == m.flag
      then s.answered m ok else (s.answered m ok).finish m.band m.id m.flag := by
  have hstep : (if ok = true then { s with reqs := s.reqs.filter fun e => e.id != m.id }
      else State.reportAll { s with reqs := s.reqs.filter fun e => e.id != m.id } m.band (laneMask m.lane)
        (asyncTrap 0x19 0 m.desc m.word)) = s.answered m ok := by
    cases ok with
    | true =>
      have hsame : s.bands.set m.band (s.band m.band) = s.bands := by
        simp [State.band, List.getD_eq_getElem?_getD, hb]
      simp only [State.answered, Band.answered, if_true, State.setBand, hsame]
    | false => exact State.reportAll_lane (s := { s with reqs := s.reqs.filter fun e => e.id != m.id }) hb hl hs _
  simp only [State.reqAck, hr, hstep]
  rfl

theorem State.band_answered (hb : m.band < s.bands.length) : (s.answered m ok).band m.band = (s.band m.band).answered m ok :=
  State.band_setBand_same { s with reqs := s.reqs.filter fun e => e.id != m.id } hb _

/-- The last answer for a flag makes it done. -/
theorem State.finish_answered (hb : m.band < s.bands.length) (hq : (s.quarterOf (s.band m.band)).stopped = false)
    (hh : s.holdFlags = false) :
    (s.answered m ok).finish m.band m.id m.flag = (s.answered m ok).flagDone m.band m.id m.flag := by
  refine State.finish_running (s := s.answered m ok) (n := m.band) ?_ hh m.id m.flag 0
  rw [State.band_answered hb, Band.answered_frame]
  exact hq

end

end Sys2Proof.Machine

namespace Sys2Proof
open Machine

/-- Settles O35: grants, entries that arrive at their ring, wait there or are dropped, and their answers. -/
theorem remoteQueues : Obligations.RemoteQueues := by
  refine ⟨fun s r g hf hn hg hb => ?_, fun s m hf hr hbehind hclear hpage hn => ⟨fun g hg hfull => ?_, ?_, ?_⟩,
    fun s m ok hf hr hb hl hs hq hh => ?_⟩
  · rw [execReservedSlotGrant_eq hf, State.slotGrant_eq hn hg]
    refine ⟨fun hfull => by rw [if_neg (Nat.not_lt.2 hfull)], fun hroom => ⟨s.granted r, by rw [if_pos hroom], rfl, ?_, ?_, ?_⟩⟩
    · exact State.band_setBand_same s hb _
    · exact fun n hne => (s.band_setBand r.band n _).trans (if_neg fun h => hne h.1.symm)
    · exact State.grantsOut_granted hb hn
  · rw [execRemoteEnqueueDelivery_eq hf, State.reqDeliver_ring hr hbehind hclear hpage hn hg, if_neg (Nat.not_lt.2 hfull)]
  · intro g pa c e hg hlen hroom va htr hcan hal hrcl hdata htail _ _ hw hoff hcount hptes
    obtain ⟨t, hput, hmem, hreqs⟩ := State.reqPut_free hlen (Nat.zero_lt_of_lt hroom) htr hcan hal hrcl hdata htail hw hptes
    obtain ⟨hpay, htl, hrest⟩ := State.read_ringMem hlen hoff hcount
    have hfate := State.reqs_reqFate (s := t) (hreqs ▸ List.mem_of_find?_eq_some hf) true
    have hmem' : (t.reqFate m true).mem = s.ringMem m g pa := by rw [State.reqFate_state]; exact hmem
    refine ⟨t.reqFate m true, ?_, ?_, ?_, fun k h1 h2 => ?_, hfate⟩
    · rw [execRemoteEnqueueDelivery_eq hf, State.reqDeliver_ring hr hbehind hclear hpage hn hg, if_pos hroom, hput]
    · rw [hmem', hpay]
    · exact htl.symm.trans (congrArg (Memory.readLE · (g.pa + 0x10) 4) hmem'.symm)
    · rw [hmem', hrest k h1 h2]
  · intro hg hdie hring
    have hm : m ∈ (s.reqCounted m).reqs := by
      rw [State.reqCounted]
      split <;> exact List.mem_of_find?_eq_some hf
    obtain ⟨hdropped, hkept⟩ := State.reqs_reqFate hm false
    have hstate := (s.reqCounted m).reqFate_state m false
    refine ⟨(s.reqCounted m).reqFate m false, ?_, ?_, fun hflag => ⟨hkept hflag, ?_⟩, fun hflag => ⟨hdropped hflag, ?_⟩⟩
    · rw [execRemoteEnqueueDelivery_eq hf, State.reqDeliver_noRing hr hbehind hclear hpage hn hg, State.reqDrop_eq hn hring]
    · rw [hstate, State.reqCounted]
      split <;> rfl
    · rw [hstate, State.reqCounted, if_neg hflag]
    · rw [hstate]
      exact State.rqerr_reqCounted hflag hdie
  · have hany : ((s.reqs.filter fun e => e.id != m.id).any fun e => e.band == m.band && e.flag == m.flag) = true ↔
        ∃ x ∈ s.reqs, x.id ≠ m.id ∧ x.band = m.band ∧ x.flag = m.flag := by
      simp
    have hlanes := fun l => (s.band m.band).lane_answered hl ok l
    rw [execReqAck_eq hf, State.reqAck_eq hr hb hl hs]
    by_cases hmore : ∃ x ∈ s.reqs, x.id ≠ m.id ∧ x.band = m.band ∧ x.flag = m.flag
    · rw [if_pos (hany.2 hmore)]
      refine ⟨s.answered m ok, rfl, rfl, fun l => ?_, fun hlast => ?_, fun _ => ?_⟩
      · rw [State.band_answered hb, hlanes]
      · obtain ⟨x, hx, hid, hsame⟩ := hmore
        exact absurd hsame (hlast x hx hid)
      · rw [State.band_answered hb, Band.answered_frame]
    · rw [if_neg fun h => hmore (hany.1 h), State.finish_answered hb hq hh]
      have hband := State.flagDone_band (s := s.answered m ok) (bi := m.band) (by simpa [State.answered] using hb) m.id m.flag 0
      rw [State.band_answered hb] at hband
      refine ⟨_, rfl, rfl, fun l => ?_, fun _ => ?_, fun h => absurd h hmore⟩
      · rw [hband]; exact hlanes l
      · rw [hband]; exact Band.busy_setDone _ _

end Sys2Proof
end

section
/-!
PROOFS. The end of a region performs the loads and the held stores of its band (R250, R369). It issues nothing, so that the
results of fixed latency that are not yet due stay the same (R19), and the cycle and the issuing band do too.
-/

namespace Sys2Proof.Machine

/-- The states agree on the cycle, on the band that issues, and on the results that are not yet due. -/
structure State.KeepsUnsettled (s t : State) : Prop where
  cur : t.cur = s.cur
  cycle : t.cycle = s.cycle
  unsettled : ∀ n, (t.band n).unsettled = (s.band n).unsettled

namespace State.KeepsUnsettled
variable {s t u : State}

theorem refl (s : State) : s.KeepsUnsettled s := ⟨rfl, rfl, fun _ => rfl⟩

theorem trans (h : s.KeepsUnsettled t) (k : t.KeepsUnsettled u) : s.KeepsUnsettled u :=
  ⟨k.cur.trans h.cur, k.cycle.trans h.cycle, fun n => (k.unsettled n).trans (h.unsettled n)⟩

/-- States with the same bands. -/
theorem of_bands (hc : t.cur = s.cur) (hy : t.cycle = s.cycle) (hb : t.bands = s.bands) : s.KeepsUnsettled t :=
  ⟨hc, hy, fun n => by rw [State.band, State.band, hb]⟩

theorem of_caches (h : s.CachesOnly t) : s.KeepsUnsettled t := by
  rw [h.state]; exact of_bands rfl rfl rfl

theorem setBand {b : Nat} {c : Band} (h : c.unsettled = (s.band b).unsettled) : s.KeepsUnsettled (s.setBand b c) := by
  refine ⟨rfl, rfl, fun n => ?_⟩
  rw [State.band_setBand]
  split
  next he => rw [h, he.1]
  next => rfl

theorem foldl {α : Type} {f : State → α → State} (h : ∀ (s : State) a, s.KeepsUnsettled (f s a)) (l : List α) (s : State) :
    s.KeepsUnsettled (l.foldl f s) := by
  induction l generalizing s with
  | nil => exact refl s
  | cons a l ih => exact (h s a).trans (ih _)

/-- A fold that also collects something. -/
theorem foldl_fst {α β : Type} {f : State × β → α → State × β}
    (h : ∀ (r : State × β) a, r.1.KeepsUnsettled (f r a).1) (l : List α) (r : State × β) : r.1.KeepsUnsettled (l.foldl f r).1 := by
  induction l generalizing r with
  | nil => exact refl r.1
  | cons a l ih => exact (h r a).trans (ih _)

/-! ## Writes to memory -/

theorem clearRcl (s : State) (ptes : List Nat) : s.KeepsUnsettled (s.clearRcl ptes) := by
  refine foldl (fun s a => ?_) ptes s
  dsimp only
  split
  · exact of_bands rfl rfl rfl
  · exact refl s

theorem takeSectors {die ctx : Nat} {k : Int} {book : Bool} (h : s.takeSectors die ctx k book = some t) : s.KeepsUnsettled t := by
  unfold State.takeSectors at h
  dsimp only at h
  generalize (if book = true then 0 else systemFloor) = floor at h
  split at h
  · cases h; exact of_bands rfl rfl rfl
  · split at h
    · cases h; exact of_bands rfl rfl rfl
    · split at h <;> cases h
      exact of_bands rfl rfl rfl

theorem charge {ctx : Nat} {book : Bool} {m : Memory} {bs : List Nat} (h : s.charge ctx book m bs = some t) :
    s.KeepsUnsettled t := by
  induction bs generalizing s with
  | nil => cases h; exact refl _
  | cons b bs ih =>
    rw [State.charge] at h
    split at h
    · exact ih h
    · split at h
      next s' hs' => exact (takeSectors hs').trans (ih h)
      next => cases h

theorem putMem {ctx pa : Nat} {book : Bool} {v : List Byte} (h : s.putMem ctx book pa v = some t) : s.KeepsUnsettled t := by
  unfold State.putMem at h
  split at h
  · cases h
  · obtain ⟨s', hs', rfl⟩ := Option.map_eq_some_iff.1 h
    exact (charge hs').trans (of_bands rfl rfl rfl)

theorem waitAt (s : State) (die id : Nat) (bs : List Nat) (va : DWord) : s.KeepsUnsettled (s.waitAt die id bs va) :=
  of_bands rfl rfl rfl

theorem bookWait (s : State) (w : Option Writer) (ctx pa : Nat) (v : List Byte) : s.KeepsUnsettled (s.bookWait w ctx pa v) :=
  of_bands rfl rfl rfl

theorem putBook (s : State) (ctx pa : Nat) (v : List Byte) : s.KeepsUnsettled (s.putBook ctx pa v) := by
  unfold State.putBook
  cases h : s.putMem ctx true pa v with
  | none => exact bookWait s none ctx pa v
  | some t => exact putMem h

/-! ## Watches (R280 to R287) -/

theorem setWatchState (s : State) (x : Watch) (st : Nat) : s.KeepsUnsettled (s.setWatchState x st) := by
  unfold State.setWatchState
  refine trans (trans ?_ (clearRcl _ _)) (putBook _ _ _ _)
  exact of_bands rfl rfl rfl

theorem pend (s : State) (bi l : Nat) (x : Trap) : s.KeepsUnsettled (s.pend bi l x) := setBand rfl

theorem runaway (s : State) (x : Watch) (w : Writer) (va : DWord) (why : Nat) : s.KeepsUnsettled (s.runaway x w va why).1 := by
  have hset := setWatchState s x why
  unfold State.runaway
  dsimp only
  generalize s.setWatchState x why = q at *
  split
  · split
    · exact hset.trans (pend q _ _ _)
    · exact hset
  · exact hset

theorem trigger (s : State) (x : Watch) (w : Writer) (va : DWord) (old new : Nat) :
    s.KeepsUnsettled (s.trigger x w va old new).1 := by
  unfold State.trigger
  dsimp only
  split
  · exact refl s
  · split
    · exact of_bands rfl rfl rfl
    · split
      · exact runaway s x w va 3
      · split
        · exact runaway s x w va 2
        · exact of_bands rfl rfl rfl

theorem checkWatch (s : State) (w : Writer) (m : Memory) (pa n handle ctx : Nat) :
    s.KeepsUnsettled (s.checkWatch w m pa n handle ctx).1 := by
  unfold State.checkWatch
  split
  · exact refl s
  next x _ =>
    dsimp only
    generalize (if x.wide = true then 8 else 4) = g
    refine foldl_fst (fun r a => ?_) _ (s, [])
    split
    · split
      · exact trigger r.1 _ w _ _ _
      · exact refl r.1
    · exact refl r.1

theorem checkWatches (s : State) (w : Writer) (m : Memory) (pa n : Nat) : s.KeepsUnsettled (s.checkWatches w m pa n).1 := by
  unfold State.checkWatches
  split
  · exact refl s
  · exact foldl_fst (f := fun (r : State × List Ev) (x : Watch) =>
      let q := r.1.checkWatch w m pa n x.handle x.ctx; (q.1, r.2 ++ q.2))
      (fun r x => checkWatch r.1 w m pa n x.handle x.ctx) _ (s, [])

theorem write1 {w : Writer} {pa : Nat} {v : List Byte} {r : State × List Ev} (h : s.write1 w pa v = some r) :
    s.KeepsUnsettled r.1 := by
  obtain ⟨s1, hs1, rfl⟩ := Option.map_eq_some_iff.1 h
  exact (putMem hs1).trans ((of_caches (State.CachesOnly.touchL1 s1 w pa v)).trans (checkWatches _ _ _ _ _))

/-! ## Events (R439) -/

theorem cpBook (s : State) (die ctx pa : Nat) (v : List Byte) : s.KeepsUnsettled (s.cpBook die ctx pa v).1 := by
  unfold State.cpBook State.bookBy
  cases h : s.write1 (cpWriter die ctx true) pa v with
  | none => exact bookWait s _ _ pa v
  | some r => exact write1 h

theorem post1 (s : State) (e : Ev) : s.KeepsUnsettled (s.post1 e).1 := by
  have put : ∀ (s : State) a p v, s.KeepsUnsettled ((s.clearRcl [p]).cpBook e.die e.ctx a v).1 := fun s a p v =>
    (clearRcl s [p]).trans (cpBook _ _ _ _ _)
  unfold State.post1
  dsimp only
  split
  · exact refl s
  · split
    · exact refl s
    · split
      · exact refl s
      · split
        · exact put s _ _ _
        · split
          · exact refl s
          · exact (put s _ _ _).trans (put _ _ _ _)

theorem postAll (n : Nat) : ∀ (s : State) (es : List Ev), s.KeepsUnsettled (s.postAll n es) := by
  induction n with
  | zero => exact fun s _ => refl s
  | succ n ih =>
    intro s es
    cases es with
    | nil => exact refl s
    | cons e es => exact (post1 s e).trans (ih _ _)

theorem write {w : Writer} {pa : Nat} {v : List Byte} (h : s.write w pa v = some t) : s.KeepsUnsettled t := by
  obtain ⟨r, hr, rfl⟩ := Option.map_eq_some_iff.1 h
  exact (write1 hr).trans (postAll _ _ _)

theorem writeLoc (s : State) (l : Loc) (v : Byte) : s.KeepsUnsettled (s.writeLoc l v) := by
  cases l <;> exact of_bands rfl rfl rfl

theorem writeRuns {w : Writer} (n : Nat) : ∀ {s : State} {ls : List Loc} {v : List Byte}, s.writeRuns w n ls v = some t →
    s.KeepsUnsettled t := by
  induction n with
  | zero => intro s ls v h; cases h; exact refl _
  | succ n ih =>
    intro s ls v h
    cases ls with
    | nil => cases h; exact refl _
    | cons l ls =>
      cases l with
      | mem a =>
        rw [State.writeRuns] at h
        split at h
        next s' hs' => exact (write hs').trans (ih h)
        next => cases h
      | ws | scr =>
        cases v with
        | nil => cases h; exact refl _
        | cons x xs => exact (writeLoc _ _ _).trans (ih h)

/-! ## Accesses (R23, R99, R260) -/

theorem mapAccess (s : State) (id : Nat) (f : Access → Access) : s.KeepsUnsettled (s.mapAccess id f) := of_bands rfl rfl rfl

theorem performPart {a : Access} {p : Part} {v : List Byte} (h : s.performPart a p = some (t, v)) : s.KeepsUnsettled t := by
  have hfresh : ∀ (u : State) core, u.KeepsUnsettled (p.locs.foldl (fun s l => match l with
      | .mem x => s.dropLine core false x
      | _ => s) u) := fun u core => foldl (fun s l => by
    cases l with
    | mem x => exact of_caches (State.CachesOnly.dropLine s core false x)
    | _ => exact refl s) _ u
  have hwr : ∀ {b : Band} {plain : Bool} {x : List Byte} {u : State},
      ((s.clearRcl p.ptes).shadowed b a.word p.locs (s.isLocal b a p) plain true).writeRuns
        (s.laneWriter a.band p.lane a.word false) p.locs.length p.locs x = some u → s.KeepsUnsettled u := fun h =>
    (clearRcl s p.ptes).trans ((of_caches (State.CachesOnly.shadowed _ _ _ _ _ _ _)).trans (writeRuns _ h))
  unfold State.performPart at h
  cases hk : a.kind with
  | load | uload =>
    simp only [hk] at h
    cases h
    exact (foldl (fun s l => of_caches (State.CachesOnly.allocLine s _ _ l)) _ _).trans
      (of_caches (State.CachesOnly.shadowed _ _ _ _ _ _ _))
  | loadOrd =>
    simp only [hk] at h
    cases h
    exact hfresh s _
  | store | storeOrd =>
    simp only [hk] at h
    obtain ⟨u, hu, he⟩ := Option.map_eq_some_iff.1 h
    cases he
    exact hwr hu
  | atom =>
    simp only [hk] at h
    obtain ⟨u, hu, he⟩ := Option.map_eq_some_iff.1 h
    cases he
    exact (hwr hu).trans (hfresh u _)
  | cas =>
    simp only [hk] at h
    split at h
    · obtain ⟨u, hu, he⟩ := Option.map_eq_some_iff.1 h
      cases he
      exact (hwr hu).trans (hfresh u _)
    · cases h
      exact hfresh s _

theorem putResult (b : Band) (now k id l : Nat) (r : RegName) (v : Word) :
    (b.putResult now k id l r v).unsettled = b.unsettled := by
  have hput : (b.putReg l r (v.setWidth 64)).unsettled = b.unsettled := by cases r <;> rfl
  unfold Band.putResult
  rw [apply_ite Band.unsettled, hput, ite_self]

theorem unsettled_foldl {α : Type} {f : Band → α → Band} (h : ∀ (b : Band) a, (f b a).unsettled = b.unsettled) (l : List α)
    (b : Band) : (l.foldl f b).unsettled = b.unsettled := by
  induction l generalizing b with
  | nil => rfl
  | cons a l ih => exact (ih _).trans (h b a)

theorem putResults (b : Band) (now k : Nat) (r : Result) : (b.putResults now k r).unsettled = b.unsettled := by
  unfold Band.putResults
  rw [unsettled_foldl fun b l => ?_]
  rw [unsettled_foldl fun b p => ?_]
  exact putResult ..

theorem deliver (s : State) (bi : Nat) (r : Result) : s.KeepsUnsettled (s.deliver bi r) := by
  unfold State.deliver
  dsimp only
  split
  · exact of_bands rfl rfl rfl
  · exact (setBand (putResults _ _ _ _)).trans (of_bands rfl rfl rfl)

theorem deliverPart (s : State) (a : Access) (p : Part) (v : List Byte) : s.KeepsUnsettled (s.deliverPart a p v) := by
  unfold State.deliverPart
  split
  · exact deliver s _ _
  · exact refl s

theorem dropL1 (s : State) (core : Nat) : s.KeepsUnsettled (s.dropL1 core) := of_caches (State.CachesOnly.dropL1 s core)

theorem afterPart (s : State) (a : Access) (p : Part) (v : List Byte) : s.KeepsUnsettled (s.afterPart a p v) := by
  have hstep : s.KeepsUnsettled (if a.kind.hasDest && !(s.loadsBefore a.band a.id).isEmpty then
      s.mapAccess a.id fun e => { e with parts := e.parts.map fun q => if q.lane == p.lane then { q with got := some v } else q }
    else s.deliverPart a p v) := by
    split
    · exact mapAccess s _ _
    · exact deliverPart s a p v
  unfold State.afterPart
  dsimp only
  split
  · exact hstep.trans (dropL1 _ _)
  · exact hstep

theorem performParts (id : Nat) (ps : List Part) : ∀ s : State, s.KeepsUnsettled (s.performParts id ps) := by
  induction ps with
  | nil => exact fun s => refl s
  | cons p ps ih =>
    intro s
    unfold State.performParts
    split
    · exact refl s
    · split
      · split
        next hp => exact (performPart hp).trans ((mapAccess _ _ _).trans ((afterPart _ _ _ _).trans (ih _)))
        next =>
          split
          · exact waitAt s _ _ _ _
          · exact refl s
      · split
        · exact ih s
        · exact refl s

theorem flagDone (s : State) (bi id : Nat) (f : Flag) (conds : Word) : s.KeepsUnsettled (s.flagDone bi id f conds) :=
  setBand (by rw [Band.sticky_frame]; rfl)

theorem finish (s : State) (bi id : Nat) (f : Flag) (conds : Word) : s.KeepsUnsettled (s.finish bi id f conds) := by
  unfold State.finish
  dsimp only
  split
  · exact refl s
  · split
    · exact of_bands rfl rfl rfl
    · exact flagDone s bi id f conds

theorem flushLate (s : State) : s.KeepsUnsettled s.flushLate := by
  refine trans ?_ (foldl (fun (s : State) (e : Late) => flagDone s e.band e.id e.flag e.conds) _ _)
  exact of_bands rfl rfl rfl

theorem complete (s : State) (a : Access) : s.KeepsUnsettled (s.complete a) := by
  unfold State.complete
  dsimp only
  generalize (if a.kind.hasDest || a.flag == 15 then [] else s.loadsBefore a.band a.id) = w
  split
  · exact finish s _ _ _ _
  · exact of_bands rfl rfl rfl

theorem remove (s : State) (a : Access) : s.KeepsUnsettled (s.remove a) := by
  unfold State.remove
  refine trans (trans ?_ (complete _ a)) (flushLate _)
  exact of_bands rfl rfl rfl

theorem deliverKept (s : State) (a : Access) : s.KeepsUnsettled (s.deliverKept a) := by
  unfold State.deliverKept
  split
  · exact refl s
  · exact (mapAccess s _ _).trans (foldl (fun (s : State) (q : Part × List Byte) => deliverPart s a q.1 q.2) _ _)

theorem nextLoads (bi n : Nat) : ∀ s : State, s.KeepsUnsettled (s.nextLoads bi n) := by
  induction n with
  | zero => exact fun s => refl s
  | succ n ih =>
    intro s
    unfold State.nextLoads
    split
    next a _ =>
      split
      · exact refl s
      · dsimp only
        split
        · exact (deliverKept s a).trans ((remove _ a).trans (ih _))
        · exact deliverKept s a
    next => exact refl s

theorem retire (s : State) (id : Nat) : s.KeepsUnsettled (s.retire id) := by
  unfold State.retire
  split
  next a _ =>
    split
    · exact refl s
    · split
      · exact remove s a
      · split
        · exact (deliverKept s a).trans ((remove _ a).trans (nextLoads _ _ _))
        · exact refl s
  next => exact refl s

theorem perform (s : State) (id : Nat) : s.KeepsUnsettled (s.perform id) := by
  have hstart : s.KeepsUnsettled (s.unblock id) := of_bands rfl rfl rfl
  unfold State.perform
  dsimp only
  split
  · exact hstart.trans ((performParts id _ _).trans (retire _ _))
  · exact hstart

theorem performLoads (bi n : Nat) : ∀ s : State, s.KeepsUnsettled (s.performLoads bi n) := by
  induction n with
  | zero => exact fun s => refl s
  | succ n ih =>
    intro s
    unfold State.performLoads
    split
    · dsimp only
      split
      · exact perform s _
      · exact (perform s _).trans (ih _)
    · exact refl s

/-! ## Regions (R250, R369) -/

theorem releaseHeld (s : State) (bi : Nat) (h : HeldStore) : s.KeepsUnsettled (s.releaseHeld bi h) := by
  unfold State.releaseHeld
  extract_lets f at_ gone a src s1 s2
  have h1 : s.KeepsUnsettled s1 := of_bands rfl rfl rfl
  have h2 : s.KeepsUnsettled s2 := by
    change s.KeepsUnsettled (if gone = true then s1.accessFault bi f.1 h.va else s1.perform f.1)
    split
    · exact h1.trans (of_bands rfl rfl rfl)
    · exact h1.trans (perform s1 f.1)
  split
  · refine h2.trans ?_
    exact setBand rfl
  · exact h2

/-- The end of a region. -/
theorem endRegion (s : State) (bi : Nat) : s.KeepsUnsettled (s.endRegion bi) := by
  unfold State.endRegion
  dsimp only
  split
  · refine trans ?_ (foldl (fun s h => releaseHeld s bi h) _ _)
    split
    · exact setBand rfl
    · refine trans ?_ (performLoads _ _ _)
      exact setBand rfl
  · exact refl s

/-- The state in which a word acts. -/
theorem after (s : State) (i : Instr) : s.KeepsUnsettled (s.after i) := by
  unfold State.after
  split
  · exact endRegion s s.cur
  · exact refl s

end State.KeepsUnsettled

end Sys2Proof.Machine
end

section
/-!
PROOFS. Barriers (R162 to R164, R241): which bands a barrier waits for, what its release does to the lanes that wait at it,
and the words BAR, GBAR and BCAST.
-/

namespace Sys2Proof.Machine

/-! ## Waiting lanes -/

theorem Band.bit_lanesIn (b : Band) (p : LaneSt → Bool) {l : Nat} (hl : l < 32) :
    bit (b.lanesIn p) l = ((b.lane l).live && p (b.lane l).st) := by
  rw [Band.lanesIn, bit_maskOf, decide_eq_true hl, Bool.true_and]

theorem Lane.live_of_waiting {l : Lane} {w : Wait} (h : l.st = .waiting w) : l.live = true := by
  rw [Lane.live, h]

theorem Band.lt_of_live {b : Band} {l : Nat} (h : (b.lane l).live = true) : l < 32 := by
  by_cases hl : l < 32
  · exact hl
  · rw [b.lane_of_ge hl] at h; cases h

theorem Band.inBarrier_iff (b : Band) : b.inBarrier = true ↔ ∃ l, (b.lane l).live = true := by
  rw [Band.inBarrier, Band.ended, Bool.not_eq_true', List.all_eq_false]
  refine ⟨fun ⟨l, _, h⟩ => ⟨l, by simpa using h⟩, fun ⟨l, h⟩ => ⟨l, List.mem_range.2 (b.lt_of_live h), by simpa using h⟩⟩

theorem Band.lane_wake (b : Band) (m : BitVec 32) (l : Nat) :
    (b.wake m).lane l = if bit m l then (b.lane l).wake else b.lane l := Band.lane_mapLanes ..

/-- A wake changes no register. -/
theorem Band.getReg_wake (b : Band) (m : BitVec 32) (l : Nat) (r : RegName) : (b.wake m).getReg l r = b.getReg l r := by
  cases r with
  | s => rfl
  | _ => simp only [Band.getReg, Band.lane_wake]; split <;> rfl

/-- Nor does a wait. -/
theorem Band.getReg_wait (b : Band) (x : Ex) (m : BitVec 32) (w : Nat → Wait) (l : Nat) (r : RegName) :
    (b.wait x m w).getReg l r = b.getReg l r := by
  cases r with
  | s => rfl
  | _ => simp only [Band.getReg, Band.wait, Band.lane_mapLanes]; split <;> rfl

/-! ## A barrier releases the lanes that wait at it -/

/-- The band after the live lanes in a state have been woken. -/
def Band.freed (b : Band) (p : LaneSt → Bool) : Band := b.wake (b.lanesIn p)

theorem Band.getReg_freed (b : Band) (p : LaneSt → Bool) (l : Nat) (r : RegName) : (b.freed p).getReg l r = b.getReg l r :=
  b.getReg_wake _ l r

theorem Band.lane_freed (b : Band) (p : LaneSt → Bool) (l : Nat) :
    (b.freed p).lane l = if (b.lane l).live = true ∧ p (b.lane l).st = true then (b.lane l).wake else b.lane l := by
  by_cases hl : l < 32
  · rw [Band.freed, Band.lane_wake, b.bit_lanesIn p hl]
    simp only [Bool.and_eq_true]
  · rw [Band.lane_of_ge _ hl, b.lane_of_ge hl, if_neg]
    rintro ⟨h, -⟩
    cases h

/-- A lane that waits there goes on where its wait ends. -/
theorem Band.freed_waiting {b : Band} {p : LaneSt → Bool} {l : Nat} {w : Wait} (h : (b.lane l).st = .waiting w)
    (hp : p (.waiting w) = true) :
    ((b.freed p).lane l).st = .eligible ∧ ((b.freed p).lane l).pc = (b.lane l).resume := by
  rw [b.lane_freed, if_pos ⟨Lane.live_of_waiting h, h ▸ hp⟩]
  exact ⟨rfl, rfl⟩

/-- The bands of a barrier, one after the other, wake their lanes. -/
def State.freeAll (s : State) (p : LaneSt → Bool) (bs : List Nat) : State :=
  bs.foldl (fun s bi => s.setBand bi ((s.band bi).freed p)) s

theorem State.freeAll_state (p : LaneSt → Bool) (bs : List Nat) (s : State) :
    s.freeAll p bs = { s with bands := (s.freeAll p bs).bands } := by
  induction bs generalizing s with
  | nil => rfl
  | cons b bs ih => exact ih (s.setBand b ((s.band b).freed p))

theorem State.getReg_freeAll (p : LaneSt → Bool) (bs : List Nat) (s : State) (n l : Nat) (r : RegName) :
    ((s.freeAll p bs).band n).getReg l r = (s.band n).getReg l r := by
  induction bs generalizing s with
  | nil => rfl
  | cons b bs ih =>
    refine (ih (s.setBand b ((s.band b).freed p))).trans ?_
    rw [State.band_setBand]
    split
    next h => rw [h.1, Band.getReg_freed]
    next => rfl

/-- A lane of a band that is none of these, or that is in no such state, is unchanged. -/
theorem State.lane_freeAll_off {p : LaneSt → Bool} {n l : Nat} (bs : List Nat) {s : State}
    (h : n ∈ bs → p ((s.band n).lane l).st = false) : ((s.freeAll p bs).band n).lane l = (s.band n).lane l := by
  induction bs generalizing s with
  | nil => rfl
  | cons b bs ih =>
    have hstep : ((s.setBand b ((s.band b).freed p)).band n).lane l = (s.band n).lane l := by
      rw [State.band_setBand]
      split
      next hb =>
        obtain ⟨rfl, -⟩ := hb
        rw [Band.lane_freed, if_neg fun hp => Bool.false_ne_true ((h (.head _)).symm.trans hp.2)]
      next => rfl
    exact (ih fun hn => by rw [hstep]; exact h (.tail _ hn)).trans hstep

/-- A lane of one of these bands that waits in such a state goes on where its wait ends. -/
theorem State.lane_freeAll_waiting {p : LaneSt → Bool} {n l : Nat} {w : Wait} (he : p .eligible = false)
    (hp : p (.waiting w) = true) {bs : List Nat} {s : State} (hn : n ∈ bs) (h : ((s.band n).lane l).st = .waiting w) :
    (((s.freeAll p bs).band n).lane l).st = .eligible ∧
      (((s.freeAll p bs).band n).lane l).pc = ((s.band n).lane l).resume := by
  induction bs generalizing s with
  | nil => cases hn
  | cons b bs ih =>
    by_cases hb : b = n
    · subst hb
      have hlen : b < s.bands.length := by
        by_cases hlen : b < s.bands.length
        · exact hlen
        · rw [State.band, List.getD_eq_default _ _ (Nat.le_of_not_lt hlen)] at h
          have hblank : (Band.blank.lane l).st = .absent := by
            by_cases hl : l < 32
            · rw [Band.lane_of_lt _ hl]; simp [Band.blank, Lane.blank]
            · rw [Band.lane_of_ge _ hl]; rfl
          rw [hblank] at h; cases h
      have hfirst := Band.freed_waiting h hp
      have hband : (s.setBand b ((s.band b).freed p)).band b = (s.band b).freed p := State.band_setBand_same s hlen _
      have hrest := State.lane_freeAll_off (n := b) (l := l) (p := p) bs
        (s := s.setBand b ((s.band b).freed p)) fun _ => by rw [hband, hfirst.1]; exact he
      rw [hband] at hrest
      exact ⟨(congrArg Lane.st hrest).trans hfirst.1, (congrArg Lane.pc hrest).trans hfirst.2⟩
    · have hband : (s.setBand b ((s.band b).freed p)).band n = s.band n := by
        rw [State.band_setBand, if_neg fun hc => hb hc.1]
      have := ih (s := s.setBand b ((s.band b).freed p)) (List.mem_of_ne_of_mem (Ne.symm hb) hn) (by rw [hband]; exact h)
      rwa [hband] at this

/-- The lane waits at the crew barrier. -/
def LaneSt.atCrewBar (st : LaneSt) : Bool := decide (st = .waiting .crewBar)

/-! ## Who has arrived (R162, R163) -/

theorem State.arrived_iff (s : State) (n : Nat) (p : LaneSt → Bool) : s.arrived n p = true ↔
    (∀ l, ((s.band n).lane l).live = true → p ((s.band n).lane l).st = true) ∧ s.unperformed n (BitVec.allOnes 32) = [] := by
  simp only [State.arrived, Bool.and_eq_true, List.isEmpty_iff, List.all_eq_true, List.mem_range, Bool.or_eq_true,
    Bool.not_eq_true']
  refine and_congr_left fun _ => ⟨fun h l hl => ?_, fun h l _ => ?_⟩
  · exact (h l ((s.band n).lt_of_live hl)).resolve_left (by simp [hl])
  · cases hl : ((s.band n).lane l).live with
    | false => exact .inl rfl
    | true => exact .inr (h l hl)

theorem State.unperformed_eq_nil {s : State} (h : Claims.nothingPending s) (n : Nat) (m : BitVec 32) : s.unperformed n m = [] := by
  obtain ⟨ha, hq⟩ := h
  simp [State.unperformed, State.transfers, ha, hq]

theorem State.mem_taking {s : State} {ci n : Nat} {c : Crew} (hc : s.crew ci = some c) (hr : c.running = true) :
    n ∈ s.taking ci ↔ n ∈ c.bands ∧ ∃ l, ((s.band n).lane l).live = true := by
  simp only [State.taking, hc, hr, if_true, List.mem_filter, Band.inBarrier_iff]

/-- The state of a crew whose barrier has released. -/
def State.nextBarrier (s : State) (ci : Nat) : State :=
  (s.crew ci).elim s fun c => s.setCrew ci { c with barGen := c.barGen + 1 }

theorem State.crewBarrier_eq (s : State) (ci : Nat) : s.crewBarrier ci =
    if !(s.taking ci).isEmpty && (s.taking ci).all fun n => s.arrived n LaneSt.atCrewBar then
      (s.freeAll LaneSt.atCrewBar (s.taking ci)).nextBarrier ci else s := by
  unfold State.crewBarrier State.nextBarrier
  change (if (!(s.taking ci).isEmpty && (s.taking ci).all fun n => s.arrived n LaneSt.atCrewBar) = true then _ else _) = _
  congr 1
  change (match (s.freeAll LaneSt.atCrewBar (s.taking ci)).crew ci with | some c => _ | none => _) = _
  cases (s.freeAll LaneSt.atCrewBar (s.taking ci)).crew ci <;> rfl

/-- The crew barrier waits for a band of its crew. -/
theorem State.crewBarrier_waits {s : State} {ci n : Nat} (hn : n ∈ s.taking ci)
    (h : s.arrived n LaneSt.atCrewBar = false) : s.crewBarrier ci = s := by
  rw [State.crewBarrier_eq]
  refine if_neg fun hall => ?_
  simp only [Bool.and_eq_true, List.all_eq_true] at hall
  exact Bool.false_ne_true (h.symm.trans (hall.2 n hn))

/-- The crew barrier releases once every band that takes part has arrived. -/
theorem State.crewBarrier_releases {s : State} {ci : Nat} (hne : s.taking ci ≠ [])
    (h : ∀ n ∈ s.taking ci, s.arrived n LaneSt.atCrewBar = true) :
    s.crewBarrier ci = (s.freeAll LaneSt.atCrewBar (s.taking ci)).nextBarrier ci := by
  rw [State.crewBarrier_eq]
  exact if_pos (by simpa [hne] using h)

/-! ## The lanes of V wait -/

/-- The state at issue in which the lanes of V wait. -/
def State.vWaits (s : State) (i : Instr) (w : Nat → Wait) : State :=
  (s.atIssue i).setMe ((s.atIssue i).me.wait (s.ex i.hdr) (s.vOf i) w)

section
variable {s : State} {i : Instr} {w : Nat → Wait}

theorem State.vWaits_state : s.vWaits i w = { s.after i with bands := (s.vWaits i w).bands } := by
  rw [State.vWaits, s.atIssue_state i]; rfl

theorem State.vWaits_other {n : Nat} (hn : n ≠ (s.after i).cur) : (s.vWaits i w).band n = (s.after i).band n := by
  rw [State.vWaits, State.setMe, State.band_setBand, if_neg fun h => hn (h.1.symm.trans (s.atIssue_cur i))]
  exact State.advance_other _ _ _ _ hn

theorem State.me_vWaits : (s.vWaits i w).me = (s.vWaits i w).band (s.after i).cur := by rw [State.me, State.vWaits_state]

theorem State.nothingPending_vWaits (h : Claims.nothingPending (s.after i)) : Claims.nothingPending (s.vWaits i w) := by
  rw [State.vWaits_state]
  exact h

theorem State.mem_taking_vWaits {n : Nat} (hm : ∃ l, (((s.vWaits i w).band n).lane l).live = true) {ci : Nat} {c : Crew}
    (hc : (s.after i).crew ci = some c) (hr : c.running = true) (hn : n ∈ c.bands) : n ∈ (s.vWaits i w).taking ci := by
  have hc' : (s.vWaits i w).crew ci = some c := by rw [State.vWaits_state]; exact hc
  exact (State.mem_taking hc' hr).2 ⟨hn, hm⟩

variable (h : s.Starts i)
include h

theorem State.Starts.me_vWaits : (s.vWaits i w).me = (s.atIssue i).me.wait (s.ex i.hdr) (s.vOf i) w :=
  State.me_setMe _ _ (by simpa [State.atIssue] using h.band)

theorem State.Starts.getReg_vWaits (n l : Nat) (r : RegName) :
    ((s.vWaits i w).band n).getReg l r = ((s.after i).band n).getReg l r := by
  by_cases hn : n = (s.after i).cur
  · subst hn
    rw [← State.me_vWaits, h.me_vWaits, Band.getReg_wait]
    exact State.advance_getReg _ _ _ h.band l r
  · rw [State.vWaits_other hn]

/-- A lane of V waits in the word, and goes on at the next one. -/
theorem State.Starts.lane_vWaits {l : Nat} (hl : bit (s.vOf i) l = true) :
    ((s.vWaits i w).me.lane l).st = .waiting (w l) ∧ ((s.vWaits i w).me.lane l).pc = (s.ex i.hdr).pc ∧
      (s.GoesOn i l → ((s.vWaits i w).me.lane l).resume = nextPc (s.ex i.hdr).pc (s.ex i.hdr).lbit) := by
  rw [h.me_vWaits]
  refine ⟨(Band.lane_wait _ _ _ hl).1, (Band.lane_wait _ _ _ hl).2, fun ⟨hset, hmoved, hpair, hst⟩ => ?_⟩
  rw [Band.wait, Band.lane_mapLanes, if_pos hl]
  change ((s.atIssue i).me.lane l).pc = _
  rw [State.atIssue, State.advance_lane _ _ _ h.band l, if_pos ⟨hpair, hset, by simp [bit], hmoved⟩, hst]

/-- A lane outside V is in the state in which it was. -/
theorem State.Starts.st_vWaits {l : Nat} (hl : bit (s.vOf i) l = false) :
    ((s.vWaits i w).me.lane l).st = ((s.after i).me.lane l).st := by
  rw [h.me_vWaits, Band.wait, Band.lane_mapLanes, if_neg (by simp [hl]), State.atIssue, State.advance_lane_frame _ _ _ h.band l]

/-- Once the lanes of V wait, a live lane of a band is in no such state exactly if it is missing (R162, R163). -/
theorem State.Starts.missing_iff {p : LaneSt → Bool} (hp : ∀ l, p (.waiting (w l)) = true) (n : Nat) :
    Claims.missing (s.after i) (s.vOf i) n p ↔
      ∃ l, (((s.vWaits i w).band n).lane l).live = true ∧ p (((s.vWaits i w).band n).lane l).st = false := by
  have hlive : ∀ a b : Lane, a.st = b.st → a.live = b.live := fun a b hab => by rw [Lane.live, Lane.live, hab]
  by_cases hn : n = (s.after i).cur
  · subst hn
    rw [← State.me_vWaits]
    refine ⟨fun ⟨l, _, hl, hv, hst⟩ => ?_, fun ⟨l, hl, hst⟩ => ?_⟩
    · have hv' : bit (s.vOf i) l = false := by simpa using hv
      have hsame := h.st_vWaits (w := w) hv'
      exact ⟨l, (hlive _ _ hsame).trans hl, hsame ▸ hst⟩
    · have hv : bit (s.vOf i) l = false := by
        cases hv : bit (s.vOf i) l with
        | false => rfl
        | true =>
          rw [(h.lane_vWaits hv).1, hp l] at hst
          exact hst
      have hsame := h.st_vWaits (w := w) hv
      exact ⟨l, Band.lt_of_live hl, (hlive _ _ hsame).symm.trans hl, by simp [hv], hsame ▸ hst⟩
  · rw [State.vWaits_other hn]
    exact ⟨fun ⟨l, _, hl, _, hst⟩ => ⟨l, hl, hst⟩, fun ⟨l, hl, hst⟩ => ⟨l, Band.lt_of_live hl, hl, fun hc => hn hc.1, hst⟩⟩

/-- A missing lane keeps its band from having arrived. -/
theorem State.Starts.not_arrived {p : LaneSt → Bool} (hp : ∀ l, p (.waiting (w l)) = true) {n : Nat}
    (hm : Claims.missing (s.after i) (s.vOf i) n p) :
    (s.vWaits i w).arrived n p = false ∧ ∃ l, (((s.vWaits i w).band n).lane l).live = true := by
  obtain ⟨l, hl, hst⟩ := (h.missing_iff hp n).1 hm
  refine ⟨Bool.eq_false_iff.2 fun ha => ?_, l, hl⟩
  rw [((State.arrived_iff _ _ _).1 ha).1 l hl] at hst
  cases hst

/-- With no lane missing, and nothing still to be performed, the band has arrived. -/
theorem State.Starts.arrived {p : LaneSt → Bool} (hp : ∀ l, p (.waiting (w l)) = true)
    (hnone : Claims.nothingPending (s.after i)) {n : Nat} (hm : ¬Claims.missing (s.after i) (s.vOf i) n p) :
    (s.vWaits i w).arrived n p = true := by
  refine (State.arrived_iff _ _ _).2 ⟨fun l hl => ?_, State.unperformed_eq_nil (State.nothingPending_vWaits hnone) _ _⟩
  by_contra hst
  exact hm ((h.missing_iff hp n).2 ⟨l, hl, by simpa using hst⟩)

end

/-! ## BAR (R162) -/

theorem exec_bar {h : Hdr} {s : State} (hs : s.Starts (.bar h)) (hv : s.vOf (.bar h) ≠ 0) : exec (.bar h) s =
    .next (((s.vWaits (.bar h) fun _ => .crewBar).crewBarrier (s.after (.bar h)).me.crew).tickFree) := by
  have hrun := plainWord_passes (.bar h) (fun x s =>
    (s.setMe (s.me.wait x x.v fun _ => .crewBar)).crewBarrier s.me.crew) s hs.passes
  have hcrew : (s.atIssue (.bar h)).me.crew = (s.after (.bar h)).me.crew := by
    rw [State.atIssue, State.advance_band _ _ _ hs.band]
  rw [if_neg hv, hcrew] at hrun
  exact congrArg Host.Outcome.next hrun

/-- While a band has not arrived the lanes of V wait. -/
theorem bar_waits {h : Hdr} {s : State} (hs : s.Starts (.bar h)) (hv : s.vOf (.bar h) ≠ 0) {c : Crew}
    (hc : (s.after (.bar h)).crew (s.after (.bar h)).me.crew = some c) (hr : c.running = true) {n : Nat} (hn : n ∈ c.bands)
    (hm : Claims.missing (s.after (.bar h)) (s.vOf (.bar h)) n LaneSt.atCrewBar) :
    exec (.bar h) s = .next (s.vWaits (.bar h) fun _ => .crewBar).tickFree := by
  obtain ⟨habsent, hlive⟩ := hs.not_arrived (w := fun _ => .crewBar) (fun _ => rfl) hm
  rw [exec_bar hs hv, State.crewBarrier_waits (State.mem_taking_vWaits hlive hc hr hn) habsent]

/-- When the last band arrives the lanes of every one go on. -/
theorem bar_releases {h : Hdr} {s : State} (hs : s.Starts (.bar h)) (hv : s.vOf (.bar h) ≠ 0) {c : Crew}
    (hc : (s.after (.bar h)).crew (s.after (.bar h)).me.crew = some c) (hr : c.running = true)
    (hcur : (s.after (.bar h)).cur ∈ c.bands) (hnone : Claims.nothingPending (s.after (.bar h)))
    (hall : ∀ n ∈ c.bands, ¬Claims.missing (s.after (.bar h)) (s.vOf (.bar h)) n LaneSt.atCrewBar)
    {u : State} (hu : s.vWaits (.bar h) (fun _ => .crewBar) = u) {ci : Nat} (hci : (s.after (.bar h)).me.crew = ci) :
    exec (.bar h) s = .next ((u.freeAll LaneSt.atCrewBar (u.taking ci)).nextBarrier ci).tickFree := by
  rw [hci] at hc
  have hlive : ∃ l, ((u.band (s.after (.bar h)).cur).lane l).live = true := by
    rw [← hu, ← State.me_vWaits]
    exact ⟨_, Lane.live_of_waiting (hs.lane_vWaits (bit_lowest hv)).1⟩
  subst hu
  have hc' : (s.vWaits (.bar h) fun _ => .crewBar).crew ci = some c := by rw [State.vWaits_state]; exact hc
  have hmine := State.mem_taking_vWaits hlive hc hr hcur
  rw [exec_bar hs hv, hci, State.crewBarrier_releases (List.ne_nil_of_mem hmine) fun n hn => ?_]
  exact hs.arrived (fun _ => rfl) hnone (hall n ((State.mem_taking hc' hr).1 hn).1)

/-- What the release of a crew's barrier does. -/
theorem State.nextBarrier_freeAll {u : State} {ci : Nat} {c : Crew} (hc : u.crew ci = some c) (p : LaneSt → Bool) (bs : List Nat) :
    ((u.freeAll p bs).nextBarrier ci).crew ci = some { c with barGen := c.barGen + 1 } ∧
      ((u.freeAll p bs).nextBarrier ci).cur = u.cur ∧
      ∀ n, ((u.freeAll p bs).nextBarrier ci).band n = (u.freeAll p bs).band n := by
  have hc' : (u.freeAll p bs).crew ci = some c := by rw [State.freeAll_state]; exact hc
  rw [State.nextBarrier, hc']
  refine ⟨State.crew_setCrew_same hc' _, ?_, fun _ => rfl⟩
  rw [State.freeAll_state]; rfl

/-- The crew barrier (R162). -/
theorem crewBarrier : Claims.CrewBarrier := by
  intro h s hs hv c hc hr
  generalize hu : s.vWaits (.bar h) (fun _ => .crewBar) = u
  have hstate : u = { s.after (.bar h) with bands := u.bands } := hu ▸ State.vWaits_state
  have hme : u.me = u.band (s.after (.bar h)).cur := hu ▸ State.me_vWaits
  have hlane := fun l (hl : bit (s.vOf (.bar h)) l = true) => hu ▸ hs.lane_vWaits (w := fun _ => .crewBar) hl
  have hreg := fun n l r => hu ▸ hs.getReg_vWaits (w := fun _ => .crewBar) n l r
  have hother := fun n hn => hu ▸ State.vWaits_other (s := s) (i := .bar h) (w := fun _ => .crewBar) (n := n) hn
  refine ⟨fun ⟨n, hn, hm⟩ => ?_, fun hcur hnone hall hlive => ?_⟩
  · refine ⟨u.tickFree, hu ▸ bar_waits hs hv hc hr hn hm, ?_, hother, fun l r => ?_, hlane⟩
    · exact (congrArg State.crews hstate : u.crews = _)
    · exact (congrArg (·.getReg l r) hme).trans (hreg _ l r)
  · have hexec := bar_releases hs hv hc hr hcur hnone hall hu rfl
    generalize (s.after (.bar h)).me.crew = ci at *
    have hc' : u.crew ci = some c := by rw [hstate]; exact hc
    obtain ⟨hgen, hcurs, hbands⟩ := State.nextBarrier_freeAll hc' LaneSt.atCrewBar (u.taking ci)
    have hwake : ∀ n ∈ c.bands, ∀ l, ((u.band n).lane l).st = .waiting .crewBar → _ := fun n hn l hl =>
      State.lane_freeAll_waiting (p := LaneSt.atCrewBar) (bs := u.taking ci) rfl rfl
        ((State.mem_taking hc' hr).2 ⟨hn, l, Lane.live_of_waiting hl⟩) hl
    generalize (u.freeAll LaneSt.atCrewBar (u.taking ci)).nextBarrier ci = t at *
    refine ⟨t.tickFree, hexec, hgen, fun n l r => ?_, fun l hgo hl => ?_, fun n hn hne l hl => ?_⟩
    · exact (congrArg (·.getReg l r) (hbands n)).trans ((State.getReg_freeAll ..).trans (hreg n l r))
    · obtain ⟨hst, -, hres⟩ := hlane l hl
      rw [hme] at hst hres
      have hwoken := hwake _ hcur l hst
      rw [← hbands] at hwoken
      have hmine : t.me = t.band (s.after (.bar h)).cur := by rw [State.me, hcurs, hstate]
      rw [State.me_tickFree, hmine]
      exact ⟨hwoken.1, hwoken.2.trans (hres hgo)⟩
    · have hsame := hother n hne
      have := hwake n hn l (hsame ▸ hl)
      rw [← hbands, hsame] at this
      exact this

end Sys2Proof.Machine
end

section
/-!
PROOFS. GBAR and BCAST at the barrier of their group (R163, R164): which bands it waits for, and the words that wait.
-/

namespace Sys2Proof.Machine

/-! ## Groups (R163, R164) -/

section
variable {s : State} {i : Instr} {u : SReg}

/-- GBAR or BCAST on the group that s[u] names. -/
def ArrivesAtGroup (i : Instr) (u : SReg) : Prop := (∃ h, i = .gbar h u) ∨ ∃ h d a, i = .bcast h d a u

/-- What a lane of V waits for at its group. -/
def groupWait (s : State) (i : Instr) (u : SReg) (l : Nat) : Wait :=
  match i with
  | .bcast _ d a _ => .bcast (grpOf ((s.after i).me.uv u)) (rootOf ((s.after i).me.uv u)) d ((s.after i).me.gv l a)
  | _ => .groupBar (grpOf ((s.after i).me.uv u))

theorem State.groupFor_member {b : Band} {w : Word} {li : Nat} {g : Group} (h : s.groupFor b w = some (li, g)) : g.index = grpOf w := by
  unfold State.groupFor at h
  split at h
  · split at h
    · obtain ⟨x, hx, he⟩ := Option.map_eq_some_iff.1 h
      cases he
      have := List.find?_some hx
      simp only [Bool.and_eq_true, beq_iff_eq] at this
      exact this.1
    · cases h
  · cases h

theorem State.Runs.groupFor_atIssue (hs : s.Runs i) (w : Word) :
    (s.atIssue i).groupFor (s.atIssue i).me w = (s.after i).groupFor (s.after i).me w := by
  have hb : (s.atIssue i).me = { (s.after i).me with lanes := (s.atIssue i).me.lanes } := State.advance_band _ _ _ hs.band
  rw [hb, s.atIssue_state i]; rfl

theorem Band.wait_congr (b : Band) (x : Ex) {m : BitVec 32} {w w' : Nat → Wait} (h : ∀ l, bit m l = true → w l = w' l) :
    b.wait x m w = b.wait x m w' := by
  have hl : (b.wait x m w).lanes = (b.wait x m w').lanes := by
    apply Vector.ext
    intro l hl
    have := fun v => (Band.lane_of_lt (b.wait x m v) hl).symm
    rw [this, this, Band.wait, Band.wait, Band.lane_mapLanes, Band.lane_mapLanes]
    split
    next hm => rw [h l hm]
    next => rfl
  exact congrArg (fun L => { b with lanes := L }) hl

theorem State.vWaits_congr {w w' : Nat → Wait} (h : ∀ l, bit (s.vOf i) l = true → w l = w' l) : s.vWaits i w = s.vWaits i w' := by
  rw [State.vWaits, Band.wait_congr _ _ h, State.vWaits]

/-- What a lane arrives with, read at issue. -/
theorem State.arriveGroup_vWaits (hs : s.Runs i) (hu : (s.atIssue i).me.ru (s.ex i.hdr) u = (s.after i).me.uv u) {li : Nat} {g : Group}
    (hg : (s.after i).groupFor (s.after i).me ((s.after i).me.uv u) = some (li, g)) {w w' : Nat → Wait}
    (hw : ∀ l, bit (s.vOf i) l = true → w l = w' l) :
    (s.atIssue i).arriveGroup (s.ex i.hdr) u w = (s.vWaits i w').groupBarrier li g := by
  rw [← State.vWaits_congr hw, State.arriveGroup]
  simp only [hu, hs.groupFor_atIssue, hg]
  rfl

theorem groupTrap_none {x : Ex} {root : Bool} (hu : s.me.ru x u = s.me.uv u) (hg : (s.groupFor s.me (s.me.uv u)).isSome = true)
    (hr : root = true → ∃ l, s.launchOf s.me = some l ∧ rootOf (s.me.uv u) < l.image.crews) : groupTrap u root s x = none := by
  unfold groupTrap
  dsimp only
  rw [hu]
  refine if_neg fun h => ?_
  rw [Bool.or_eq_true, Bool.and_eq_true, decide_eq_true_eq, Option.isNone_iff_eq_none] at h
  rcases h with h | ⟨hroot, hle⟩
  · rw [h] at hg; cases hg
  · obtain ⟨l, hl, hlt⟩ := hr hroot
    rw [hl] at hle
    exact absurd hle (Nat.not_le.2 hlt)

/-- GBAR and BCAST arrive at the barrier of their group. -/
theorem exec_groupWord (hi : ArrivesAtGroup i u) (hs : s.Runs i) (hv : s.vOf i ≠ 0) {li : Nat} {g : Group}
    (hg : (s.after i).groupFor (s.after i).me ((s.after i).me.uv u) = some (li, g))
    (hroot : ∀ h d a, i = .bcast h d a u → ∃ l, (s.after i).launchOf (s.after i).me = some l ∧
      rootOf ((s.after i).me.uv u) < l.image.crews) :
    exec i s = .next ((s.vWaits i (groupWait s i u)).groupBarrier li g).tickFree := by
  have hlow := bit_lowest hv
  rcases hi with ⟨h, rfl⟩ | ⟨h, d, a, rfl⟩
  · have hrun := runWord_passes _ (allLanes (groupTrap u false)) (fun x s => s.arriveGroup x u fun _ => .groupBar (grpOf (s.me.ru x u)))
      s hs.passes fun l hl => groupTrap_none ((hs.sources_after rfl hl).ru (.head _)) (by rw [hg]; rfl) nofun
    have hu : (s.atIssue (.gbar h u)).me.ru (s.ex (Instr.gbar h u).hdr) u = (s.after (.gbar h u)).me.uv u :=
      (hs.sources rfl hlow).ru (.head _)
    rw [if_neg hv, State.arriveGroup_vWaits hs hu hg (w' := groupWait s (.gbar h u) u) fun l _ => by rw [hu]; rfl] at hrun
    exact congrArg Host.Outcome.next hrun
  · have hrun := runWord_passes _ (allLanes (groupTrap u true)) (fun x s => s.arriveGroup x u fun t =>
        .bcast (grpOf (s.me.ru x u)) (rootOf (s.me.ru x u)) d (s.me.rg x t a))
      s hs.passes fun l hl => groupTrap_none ((hs.sources_after rfl hl).ru (by simp [srcsOf])) (by rw [hg]; rfl) fun _ => hroot h d a rfl
    have hu : (s.atIssue (.bcast h d a u)).me.ru (s.ex (Instr.bcast h d a u).hdr) u = (s.after (.bcast h d a u)).me.uv u :=
      (hs.sources rfl hlow).ru (by simp [srcsOf])
    rw [if_neg hv, State.arriveGroup_vWaits hs hu hg (w' := groupWait s (.bcast h d a u) u) fun l hl => by
      rw [hu, (hs.sources rfl hl).rg (by simp [srcsOf, gs])]; rfl] at hrun
    exact congrArg Host.Outcome.next hrun

end

/-! ## The barrier of a group (R163, R164) -/

/-- The bands that the barrier of a group waits for. -/
def State.groupBands (s : State) (li : Nat) (g : Group) : List Nat :=
  ((g.members.filterMap (s.memberCrew li)).map s.taking).flatten

/-- Every band of the group has arrived. -/
def State.groupReady (s : State) (li : Nat) (g : Group) : Bool :=
  !(s.crews.any fun c => c.killed && c.launch == li && g.members.contains c.num) && !(s.groupBands li g).isEmpty &&
    (s.groupBands li g).all fun n => s.arrived n (·.atGroup g.index) && ((s.band n).absentIn (s.band n).bcastDests).isEmpty

/-- The value for the lanes that named a root. -/
def State.groupValue (s : State) (li : Nat) (g : Group) (root : Nat) : Word :=
  (((g.members.map fun r => (r, s.bcastValue li g.index r g.members)).find? (·.1 == root)).map (·.2)).getD 0

/-- The bands of a group are released. -/
def State.groupFree (s : State) (li : Nat) (g : Group) : State :=
  (s.groupBands li g).foldl (fun t n => (t.groupWake n g.index (s.groupValue li g)).dropL1 (t.band n).core) s

/-- The generation of a group advances. -/
def State.nextGroup (s : State) (li k : Nat) : State :=
  (s.launch li).elim s fun l => s.setLaunch li { l with groups := l.groups.map fun x =>
    if x.index == k then { x with gen := x.gen + 1 } else x }

theorem State.groupBarrier_eq (s : State) (li : Nat) (g : Group) :
    s.groupBarrier li g = if s.groupReady li g then (s.groupFree li g).nextGroup li g.index else s := by
  have hnext : (s.groupFree li g).nextGroup li g.index = match (s.groupFree li g).launch li with
      | some l => (s.groupFree li g).setLaunch li { l with groups := l.groups.map fun x =>
          if x.index == g.index then { x with gen := x.gen + 1 } else x }
      | none => s.groupFree li g := by
    rw [State.nextGroup]
    cases (s.groupFree li g).launch li <;> rfl
  rw [hnext]
  rfl

theorem State.mem_groupBands {s : State} {li m ci n : Nat} {g : Group} (hm : m ∈ g.members) (hc : s.memberCrew li m = some ci)
    (hn : n ∈ s.taking ci) : n ∈ s.groupBands li g :=
  List.mem_flatten.2 ⟨s.taking ci, List.mem_map.2 ⟨ci, List.mem_filterMap.2 ⟨m, hm, hc⟩, rfl⟩, hn⟩

/-- The barrier of a group waits for a band of a member. -/
theorem State.groupBarrier_waits {s : State} {li n : Nat} {g : Group} (hn : n ∈ s.groupBands li g)
    (h : s.arrived n (·.atGroup g.index) = false) : s.groupBarrier li g = s := by
  rw [State.groupBarrier_eq, if_neg fun hr => ?_]
  simp only [State.groupReady, Bool.and_eq_true, List.all_eq_true] at hr
  exact Bool.false_ne_true (h.symm.trans (hr.2 n hn).1)

theorem State.taking_cases {s : State} {ci n : Nat} (h : n ∈ s.taking ci) :
    ∃ c, s.crew ci = some c ∧ c.running = true ∧ n ∈ c.bands := by
  cases hc : s.crew ci with
  | none => simp [State.taking, hc] at h
  | some c =>
    cases hr : c.running with
    | false => simp [State.taking, hc, hr] at h
    | true => exact ⟨c, rfl, hr, ((State.mem_taking hc hr).1 h).1⟩

section
variable {s : State} {i : Instr} {u : SReg} {li : Nat} {g : Group}

theorem atGroup_groupWait (hk : g.index = grpOf ((s.after i).me.uv u)) (l : Nat) :
    LaneSt.atGroup (.waiting (groupWait s i u l)) g.index = true := by
  cases i <;> simp [groupWait, LaneSt.atGroup, hk]

theorem State.memberCrew_vWaits (w : Nat → Wait) (n : Nat) : (s.vWaits i w).memberCrew li n = (s.after i).memberCrew li n := by
  rw [State.vWaits_state]; rfl

/-- While a live lane of a member has not arrived the lanes of V wait. -/
theorem groupWord_waits (hi : ArrivesAtGroup i u) (hs : s.Runs i) (hv : s.vOf i ≠ 0)
    (hg : (s.after i).groupFor (s.after i).me ((s.after i).me.uv u) = some (li, g))
    (hroot : ∀ h d a, i = .bcast h d a u → ∃ l, (s.after i).launchOf (s.after i).me = some l ∧
      rootOf ((s.after i).me.uv u) < l.image.crews) {m ci n : Nat} (hm : m ∈ g.members)
    (hc : (s.after i).memberCrew li m = some ci) (hn : n ∈ (s.after i).taking ci)
    (hmiss : Claims.missing (s.after i) (s.vOf i) n (·.atGroup g.index)) :
    exec i s = .next (s.vWaits i (groupWait s i u)).tickFree := by
  obtain ⟨hno, hlive⟩ := hs.toStarts.not_arrived (w := groupWait s i u) (atGroup_groupWait (State.groupFor_member hg)) hmiss
  obtain ⟨c, hcrew, hrun, hband⟩ := State.taking_cases hn
  have hmem := State.mem_groupBands hm ((State.memberCrew_vWaits _ m).trans hc) (State.mem_taking_vWaits hlive hcrew hrun hband)
  rw [exec_groupWord hi hs hv hg hroot, State.groupBarrier_waits hmem hno]

end

/-- GBAR and BCAST wait (R163, R164). -/
theorem groupBarrierWaits : Claims.GroupBarrierWaits := by
  intro i u hi s hs hv li g hg hroot ⟨m, hm, ci, hci, n, hn, hmiss⟩
  have hexec := groupWord_waits hi hs hv hg hroot hm hci hn hmiss
  have hstate := State.vWaits_state (s := s) (i := i) (w := groupWait s i u)
  have hother := fun n => State.vWaits_other (s := s) (i := i) (w := groupWait s i u) (n := n)
  have hreg := hs.toStarts.getReg_vWaits (w := groupWait s i u) (s.after i).cur
  have hlane := fun l => hs.toStarts.lane_vWaits (w := groupWait s i u) (l := l)
  have hme := State.me_vWaits (s := s) (i := i) (w := groupWait s i u)
  generalize s.vWaits i (groupWait s i u) = t at *
  refine ⟨t.tickFree, hexec, (congrArg State.launches hstate : t.launches = _), (congrArg State.crews hstate : t.crews = _),
    hother, fun l r => (congrArg (·.getReg l r) hme).trans (hreg l r), fun l hl => ?_⟩
  obtain ⟨hst, hpc, -⟩ := hlane l hl
  refine ⟨hpc, fun h he => ?_, fun h d a he => ?_⟩
  · subst he; exact hst
  · subst he; exact hst

end Sys2Proof.Machine
end

section
/-!
PROOFS. The release of a group's barrier (R151, R163, R164, R241): the lanes go on, and those of BCAST receive the value of the
root.
-/

namespace Sys2Proof.Machine

/-! ## The values of a BCAST (R151, R164) -/

theorem RegName.laneOf_lane {r : RegName} (h : r.uniform = false) (t : Nat) : r.laneOf t = t := by
  cases r with
  | s => cases h
  | _ => rfl

/-- A write in other lanes races with no write of a lane. -/
theorem Band.keeps_writeLanes_off {b : Band} {due k : Nat} {m : BitVec 32} {r q : RegName} {v : Nat → DWord} (hr : r.uniform = false)
    {due' k' l : Nat} (hl : bit m l = false) (hq : q.uniform = false) (hk : b.keeps due' k' l q = false) :
    (b.writeLanes due k m r v).keeps due' k' l q = false := by
  rw [Band.keeps, Bool.and_eq_false_iff] at hk ⊢
  refine hk.imp_left fun hb => ?_
  simp only [Band.races, List.any_eq_false, RegName.laneOf_lane hq l] at hb ⊢
  intro e he
  simp only [Band.writeLanes, Band.note, Band.mapLanes_unsettled, List.mem_append] at he
  rcases he with he | he
  · exact hb e he
  · split at he
    · cases he
    · obtain ⟨t, ht, rfl⟩ := List.mem_map.1 he
      have hne : t ≠ l := fun h => by rw [h, mem_lanesOf, hl] at ht; cases ht
      simp [RegName.laneOf_lane hr t, hne]

/-- A lane that arrived by BCAST receives the value of its root. -/
def Band.deliver (due k : Nat) (val : Nat → Word) (b : Band) (l : Nat) : Band :=
  match (b.lane l).st with
  | .waiting (.bcast _ root d _) => b.writeLanes due k (laneMask l) (.g d) fun _ => (val root).setWidth 64
  | _ => b

theorem State.groupWake_eq (s : State) (bi g : Nat) (val : Nat → Word) : s.groupWake bi g val = s.setBand bi
    (((lanesOf ((s.band bi).lanesIn (·.atGroup g))).foldl (Band.deliver (s.cycle + 4) s.free val) (s.band bi)).wake
      ((s.band bi).lanesIn (·.atGroup g))) := rfl

section
variable {b : Band} {due k : Nat} {val : Nat → Word}

/-- Lanes that arrived by GBAR receive nothing. -/
theorem Band.deliver_groupBar {g l : Nat} (h : (b.lane l).st = .waiting (.groupBar g)) : b.deliver due k val l = b := by
  simp only [Band.deliver, h]

theorem Band.deliver_bcast {g r l : Nat} {d : Reg} {v : Word} (h : (b.lane l).st = .waiting (.bcast g r d v)) :
    b.deliver due k val l = b.writeLanes due k (laneMask l) (.g d) fun _ => (val r).setWidth 64 := by
  simp only [Band.deliver, h]

theorem Band.deliverAll_groupBar {g : Nat} {ls : List Nat} (h : ∀ l ∈ ls, (b.lane l).st = .waiting (.groupBar g)) :
    ls.foldl (Band.deliver due k val) b = b := by
  induction ls with
  | nil => rfl
  | cons l ls ih => rw [List.foldl_cons, Band.deliver_groupBar (h l (.head _)), ih fun j hj => h j (.tail _ hj)]

/-- Lanes that arrived by BCAST each receive the value of their root, and nothing else changes. -/
theorem Band.deliverAll_bcast {g r : Nat} {d : Reg} {m : BitVec 32} {ls : List Nat} (hm : ∀ l ∈ ls, bit m l = true) (hd : ls.Nodup)
    (h : ∀ l ∈ ls, ∃ v, (b.lane l).st = .waiting (.bcast g r d v)) (hk : ∀ l ∈ ls, b.keeps due k l (.g d) = false) :
    b.RegFrame (ls.foldl (Band.deliver due k val) b) m [.g d] due ∧
      (∀ l, l ∉ ls → (ls.foldl (Band.deliver due k val) b).lane l = b.lane l) ∧
      ∀ l ∈ ls, (ls.foldl (Band.deliver due k val) b).gv l d = val r := by
  induction ls generalizing b with
  | nil => exact ⟨.refl b m _ due, fun _ _ => rfl, nofun⟩
  | cons l ls ih =>
    obtain ⟨v, hv⟩ := h l (.head _)
    obtain ⟨hnot, hd⟩ := List.nodup_cons.1 hd
    have hl32 : l < 32 := bit_lt (hm l (.head _))
    have hmask : ∀ j, bit (laneMask l) j = true → j = l := fun j hj => by simpa [bit_laneMask hl32, eq_comm] using hj
    have hoff : ∀ j ∈ ls, bit (laneMask l) j = false := fun j hj => by
      rw [bit_laneMask hl32, decide_eq_false]
      rintro rfl
      exact hnot hj
    have hfirst := b.regFrame_writeLanes due k (laneMask l) (.g d) (fun _ => (val r).setWidth 64) rfl
    rw [List.foldl_cons, Band.deliver_bcast hv]
    generalize hc : b.writeLanes due k (laneMask l) (.g d) (fun _ => (val r).setWidth 64) = c at hfirst
    obtain ⟨hframe, hothers, hvals⟩ := ih (b := c) (fun j hj => hm j (.tail _ hj)) hd
      (fun j hj => by rw [hfirst.others j (hoff j hj)]; exact h j (.tail _ hj))
      fun j hj => hc ▸ Band.keeps_writeLanes_off rfl (hoff j hj) rfl (hk j (.tail _ hj))
    refine ⟨(hfirst.sub fun j hj => hmask j hj ▸ hm l (.head _)).trans hframe, fun j hj => ?_, fun j hj => ?_⟩
    · rw [List.mem_cons, not_or] at hj
      rw [hothers j hj.2, hfirst.others j]
      rw [bit_laneMask hl32, decide_eq_false fun e => hj.1 e.symm]
    · rcases List.mem_cons.1 hj with rfl | hj
      · have hreg : (ls.foldl (Band.deliver due k val) c).getReg j (.g d) = c.getReg j (.g d) :=
          congrArg (·.get (.g d)) (hothers j hnot)
        rw [Band.gv, hreg, ← hc, Band.getReg_writeLanes _ _ _ _ _ _ rfl fun t ht => hmask t ht ▸ hk j (.head _),
          if_pos ⟨by simp [bit_laneMask hl32], rfl⟩,
          setWidth_fit_g]
      · exact hvals j hj
end

/-- What a lane that waits in BCAST at a group gives for a root. -/
def Band.bcastOf (b : Band) (g root t : Nat) : Option Word :=
  match (b.lane t).st with
  | .waiting (.bcast x r _ v) => if (b.lane t).live && x == g && r == root then some v else none
  | _ => none

theorem State.bcastValue_eq {s : State} {li g root ci : Nat} {ms : List Nat} (hm : root ∈ ms) (hc : s.memberCrew li root = some ci) :
    s.bcastValue li g root ms =
      ((s.taking ci).map fun n => (List.range 32).filterMap ((s.band n).bcastOf g root)).flatten.headD 0 := by
  simp only [State.bcastValue, List.contains_iff_mem.2 hm, if_true, hc]
  rfl

theorem filterMap_ite {α β : Type} (p : α → Bool) (f : α → β) (l : List α) :
    l.filterMap (fun x => if p x then some (f x) else none) = (l.filter p).map f := by
  induction l with
  | nil => rfl
  | cons x l ih => by_cases h : p x = true <;> simp [h, ih]

theorem lanesOf_eq_cons {m : BitVec 32} (h : m ≠ 0) : ∃ ls, lanesOf m = lowest m :: ls := by
  have hfind : ∀ l : List Nat, l.filter (bit m) ≠ [] → ∃ ls, l.filter (bit m) = (l.find? (bit m)).getD 0 :: ls := fun l => by
    induction l with
    | nil => exact fun h => absurd rfl h
    | cons j l ih =>
      intro hne
      cases hj : bit m j with
      | true => exact ⟨l.filter (bit m), by simp [hj]⟩
      | false => simpa [hj] using ih (by simpa [hj] using hne)
  exact hfind _ (mt lanesOf_eq_nil.1 h)

/-- The lowest lane gives the value (R164). -/
theorem State.bcastValue_lowest {s : State} {li g root ci n : Nat} {ms : List Nat} (hm : root ∈ ms)
    (hc : s.memberCrew li root = some ci) (ht : s.taking ci = [n]) {m : BitVec 32} (hne : m ≠ 0) {f : Nat → Word}
    (hin : ∀ l, bit m l = true → (s.band n).bcastOf g root l = some (f l))
    (hout : ∀ l, bit m l = false → (s.band n).bcastOf g root l = none) : s.bcastValue li g root ms = f (lowest m) := by
  obtain ⟨ls, hls⟩ := lanesOf_eq_cons hne
  have hof : (s.band n).bcastOf g root = fun l => if bit m l then some (f l) else none := funext fun l => by
    cases hl : bit m l with
    | true => rw [hin l hl]; rfl
    | false => rw [hout l hl]; rfl
  have hvals : (List.range 32).filterMap ((s.band n).bcastOf g root) = f (lowest m) :: ls.map f := by
    rw [hof, filterMap_ite]
    exact congrArg (List.map f) hls
  rw [State.bcastValue_eq hm hc, ht, List.map_singleton, List.flatten_singleton, hvals, List.headD_cons]

/-! ## The release (R163, R164, R241) -/

theorem State.l1_dropL1 (s : State) (k : Nat) : ((s.dropL1 k).core k).l1 = [] := by
  unfold State.dropL1
  dsimp only
  split
  next h => exact List.isEmpty_iff.1 h
  next => rw [State.core_setCore, if_pos (s.core_id k)]

/-- A register that lies in a granule that is still to be filled is named in the list. -/
theorem Band.absentIn_eq_nil {b c : Band} (hg : b.absentGran = c.absentGran) {rs qs : List RegName} (h : ∀ r ∈ rs, r ∈ qs)
    (hc : c.absentIn qs = []) : b.absentIn rs = [] := by
  unfold Band.absentIn Band.isAbsent at hc ⊢
  rw [hg]
  split at hc
  next h0 => rw [if_pos h0]
  next h0 =>
    rw [if_neg h0, List.filterMap_eq_nil_iff] at *
    exact fun r hr => hc r (h r hr)

theorem Band.mem_bcastDests {b : Band} {q : RegName} (h : q ∈ b.bcastDests) :
    ∃ l g r d v, (b.lane l).st = .waiting (.bcast g r d v) ∧ q = .g d := by
  unfold Band.bcastDests at h
  obtain ⟨qs, hqs, hq⟩ := List.mem_flatten.1 h
  obtain ⟨l, -, rfl⟩ := List.mem_map.1 hqs
  split at hq
  next g r d v hst => exact ⟨l, g, r, d, v, hst, by simpa using hq⟩
  next => cases hq

section
variable {v : State} {li ci n : Nat} {g : Group} {c : Crew} {l : Launch} {m : BitVec 32}

/-- The group is one running crew of one band, of which the lanes `m` are live and wait at the group's barrier, with nothing still
to be performed. -/
structure State.LoneGroup (v : State) (li ci n : Nat) (g : Group) (c : Crew) (m : BitVec 32) : Prop where
  members : g.members = [c.num]
  crew : v.crew ci = some c
  member : v.memberCrew li c.num = some ci
  bands : c.bands = [n]
  running : c.running = true
  killed : ∀ x ∈ v.crews, x.killed = false
  pending : Claims.nothingPending v
  some : m ≠ 0
  live : ∀ k, ((v.band n).lane k).live = true ↔ bit m k = true
  waits : ∀ k, bit m k = true → ((v.band n).lane k).st.atGroup g.index = true
  dests : (v.band n).absentIn (v.band n).bcastDests = []

variable (h : v.LoneGroup li ci n g c m)
include h

theorem State.LoneGroup.taking : v.taking ci = [n] := by
  have hlive : (v.band n).inBarrier = true := (Band.inBarrier_iff _).2 ⟨_, (h.live _).2 (bit_lowest h.some)⟩
  simp [State.taking, h.crew, h.running, h.bands, hlive]

theorem State.LoneGroup.groupBands : v.groupBands li g = [n] := by
  simp [State.groupBands, h.members, h.member, h.taking]

theorem State.LoneGroup.arrived : v.arrived n (·.atGroup g.index) = true :=
  (State.arrived_iff _ _ _).2 ⟨fun k hk => h.waits k ((h.live k).1 hk), State.unperformed_eq_nil h.pending _ _⟩

theorem State.LoneGroup.ready : v.groupReady li g = true := by
  have hkilled : (v.crews.any fun x => x.killed && x.launch == li && g.members.contains x.num) = false :=
    List.any_eq_false.2 fun x hx => by simp [h.killed x hx]
  rw [State.groupReady, hkilled, h.groupBands]
  simp [h.arrived, h.dests]

theorem State.LoneGroup.lanesIn : (v.band n).lanesIn (·.atGroup g.index) = m := by
  apply BitVec.eq_of_getLsbD_eq
  intro k hk
  change bit _ k = bit m k
  rw [Band.bit_lanesIn _ _ hk]
  cases hm : bit m k with
  | true => rw [(h.live k).2 hm, h.waits k hm]; rfl
  | false =>
    cases hl : ((v.band n).lane k).live with
    | false => rfl
    | true => rw [(h.live k).1 hl] at hm; cases hm

/-- The band after the values of BCAST have been written. -/
def State.bcastServed (v : State) (li n : Nat) (g : Group) (m : BitVec 32) : Band :=
  (lanesOf m).foldl (Band.deliver (v.cycle + 4) v.free (v.groupValue li g)) (v.band n)

theorem State.LoneGroup.groupBarrier : v.groupBarrier li g =
    ((v.setBand n ((v.bcastServed li n g m).wake m)).dropL1 (v.band n).core).nextGroup li g.index := by
  rw [State.groupBarrier_eq, if_pos h.ready, State.groupFree, h.groupBands]
  simp only [List.foldl_cons, List.foldl_nil, State.groupWake_eq, h.lanesIn]
  rfl

end

section
variable {s : State} {i : Instr} {u : SReg} {li : Nat} {g : Group} {c : Crew} {l : Launch}

/-- A wait changes nothing of the band but its lanes. -/
theorem State.Starts.me_vWaits_frame (hs : s.Starts i) (w : Nat → Wait) :
    (s.vWaits i w).me = { (s.after i).me with lanes := (s.vWaits i w).me.lanes } := by
  have hb : (s.atIssue i).me = { (s.after i).me with lanes := (s.atIssue i).me.lanes } := State.advance_band _ _ _ hs.band
  rw [hs.me_vWaits, hb]; rfl

/-- Only BCAST waits for a value, for its own destination. -/
theorem groupWait_bcast {k x r : Nat} {d : Reg} {v : Word} (h : groupWait s i u k = .bcast x r d v) (hi : ArrivesAtGroup i u) :
    ∃ h a, i = .bcast h d a u := by
  rcases hi with ⟨h', rfl⟩ | ⟨h', d', a', rfl⟩
  · cases h
  · cases h; exact ⟨h', a', rfl⟩

/-- In a group of one crew of one band whose live lanes are all in V. -/
theorem loneGroup_vWaits (hi : ArrivesAtGroup i u) (hs : s.Runs i) (hv : s.vOf i ≠ 0) (hk : g.index = grpOf ((s.after i).me.uv u))
    (hc : (s.after i).crew (s.after i).me.crew = some c) (hm : g.members = [c.num])
    (hmc : (s.after i).memberCrew li c.num = some (s.after i).me.crew) (hb : c.bands = [(s.after i).cur]) (hr : c.running = true)
    (hkill : ∀ x ∈ (s.after i).crews, x.killed = false) (hnone : Claims.nothingPending (s.after i))
    (hlive : ∀ k, k < 32 → (((s.after i).me.lane k).live = true ↔ bit (s.vOf i) k = true))
    (habs : ∀ h d a, i = .bcast h d a u → (s.after i).me.absentIn [.g d] = []) :
    (s.vWaits i (groupWait s i u)).LoneGroup li (s.after i).me.crew (s.after i).cur g c (s.vOf i) := by
  have hst := State.vWaits_state (s := s) (i := i) (w := groupWait s i u)
  have hin := fun k hk => (hs.toStarts.lane_vWaits (w := groupWait s i u) (l := k) hk).1
  have hout := fun k hk => hs.toStarts.st_vWaits (w := groupWait s i u) (l := k) hk
  have hme := State.me_vWaits (s := s) (i := i) (w := groupWait s i u)
  have hgran : (s.vWaits i (groupWait s i u)).me.absentGran = (s.after i).me.absentGran := by
    rw [hs.toStarts.me_vWaits_frame]
  have hpend := State.nothingPending_vWaits (w := groupWait s i u) hnone
  have hmem := (State.memberCrew_vWaits (li := li) (groupWait s i u) c.num).trans hmc
  generalize s.vWaits i (groupWait s i u) = v at *
  have hdead : ∀ k, bit (s.vOf i) k = false → (v.me.lane k).live = false := fun k hk => by
    have hl : (v.me.lane k).live = ((s.after i).me.lane k).live := by rw [Lane.live, Lane.live, hout k hk]
    rw [hl]
    cases hlk : ((s.after i).me.lane k).live with
    | false => rfl
    | true => rw [(hlive k (Band.lt_of_live hlk)).1 hlk] at hk; cases hk
  have hwaits : ∀ k w, (v.me.lane k).st = .waiting w → bit (s.vOf i) k = true := fun k w hw => by
    cases hk : bit (s.vOf i) k with
    | true => rfl
    | false => exact absurd (Lane.live_of_waiting hw) (by rw [hdead k hk]; exact Bool.false_ne_true)
  refine ⟨hm, by rw [hst]; exact hc, hmem, hb, hr, by rw [hst]; exact hkill, hpend, hv, fun k => ?_, fun k hkv => ?_, ?_⟩
  · rw [← hme]
    cases hkv : bit (s.vOf i) k with
    | true => exact iff_of_true (Lane.live_of_waiting (hin k hkv)) rfl
    | false => rw [hdead k hkv]
  · rw [← hme, hin k hkv]
    exact atGroup_groupWait hk k
  · rw [← hme]
    have hdest : ∀ q ∈ v.me.bcastDests, ∃ h d a, i = .bcast h d a u ∧ q = .g d := fun q hq => by
      obtain ⟨k, x, r, d, y, hw, rfl⟩ := Band.mem_bcastDests hq
      have hkw := hin k (hwaits k _ hw)
      rw [hw, LaneSt.waiting.injEq] at hkw
      obtain ⟨h, a, he⟩ := groupWait_bcast hkw.symm hi
      exact ⟨h, d, a, he, rfl⟩
    rcases hi with ⟨h, rfl⟩ | ⟨h, d, a, rfl⟩
    · have hnil : v.me.bcastDests = [] := List.eq_nil_iff_forall_not_mem.2 fun q hq => by
        obtain ⟨h, d, a, he, -⟩ := hdest q hq
        cases he
      rw [hnil]
      exact Band.absentIn_eq_nil rfl (qs := []) nofun (by simp [Band.absentIn])
    · refine Band.absentIn_eq_nil hgran (fun q hq => ?_) (habs h d a rfl)
      obtain ⟨h', d', a', he, rfl⟩ := hdest q hq
      cases he
      exact .head _

/-- Nothing of a lane but registers changes, so that it goes on where its wait ends. -/
theorem Band.wake_frame {b c : Band} {m : BitVec 32} {rs : List RegName} {due k : Nat} (h : b.RegFrame c m rs due)
    (hk : bit m k = true) : ((c.wake m).lane k).st = .eligible ∧ ((c.wake m).lane k).pc = (b.lane k).resume := by
  rw [Band.lane_wake, if_pos hk]
  refine ⟨rfl, ?_⟩
  rw [h.lane k]; rfl

/-- A released group: the L1 of the core is dropped, and the generation advances. -/
theorem State.groupReleased {v : State} {n k : Nat} {b : Band} (hn : n < v.bands.length) (hl : v.launch li = some l)
    (hg : l.groups = [g]) :
    let t := (((v.setBand n b).dropL1 k).nextGroup li g.index).tickFree
    (t.core k).l1 = [] ∧ t.launch li = some { l with groups := [{ g with gen := g.gen + 1 }] } ∧ t.cur = v.cur ∧ t.band n = b := by
  have hstate := (State.CachesOnly.dropL1 (v.setBand n b) k).state
  have hcore := (v.setBand n b).l1_dropL1 k
  generalize (v.setBand n b).dropL1 k = w at *
  have hlaunch : w.launch li = some l := by rw [hstate]; exact hl
  have hgroups : (l.groups.map fun x => if x.index == g.index then { x with gen := x.gen + 1 } else x) =
      [{ g with gen := g.gen + 1 }] := by simp [hg]
  rw [State.nextGroup, hlaunch, Option.elim_some, hgroups]
  refine ⟨hcore, State.launch_setLaunch_same hlaunch _, (congrArg State.cur hstate : w.cur = _), ?_⟩
  exact (congrArg (·.band n) hstate).trans (State.band_setBand_same v hn b)

/-- The root's value, for a group of one crew. -/
theorem State.groupValue_single {v : State} (hm : g.members = [c.num]) :
    v.groupValue li g c.num = v.bcastValue li g.index c.num [c.num] := by
  simp [State.groupValue, hm]

end

section
variable {s : State} {i : Instr} {u : SReg} {li : Nat} {g : Group} {c : Crew}

theorem writeDue_bcast (s : State) (h : Hdr) (d a : Reg) (u : SReg) :
    writeDue (.bcast h d a u) (s.ex (Instr.bcast h d a u).hdr) = s.cycle + 4 := rfl

theorem State.Starts.keeps_vWaits (hs : s.Starts i) (w : Nat → Wait) (due k l : Nat) (r : RegName) :
    (s.vWaits i w).me.keeps due k l r = (s.atIssue i).me.keeps due k l r := by
  rw [hs.me_vWaits]; rfl

/-- A lane of V gives its g[a] for its root, and no other lane waits (R164). -/
theorem bcastOf_waiting {h : Hdr} {d a : Reg} (hs : s.Runs (.bcast h d a u)) {v : State}
    (hv : s.vWaits (.bcast h d a u) (groupWait s (.bcast h d a u) u) = v) {ci : Nat}
    (hlone : v.LoneGroup li ci (s.after (.bcast h d a u)).cur g c (s.vOf (.bcast h d a u)))
    (hk : g.index = grpOf ((s.after (.bcast h d a u)).me.uv u)) (hr : rootOf ((s.after (.bcast h d a u)).me.uv u) = c.num) (l : Nat) :
    (v.band (s.after (.bcast h d a u)).cur).bcastOf g.index c.num l =
      if bit (s.vOf (.bcast h d a u)) l then some ((s.after (.bcast h d a u)).me.gv l a) else none := by
  have hme : v.me = v.band (s.after (.bcast h d a u)).cur := hv ▸ State.me_vWaits
  cases hl : bit (s.vOf (.bcast h d a u)) l with
  | true =>
    have hlive := (hlone.live l).2 hl
    have hst := (hs.toStarts.lane_vWaits (w := groupWait s (.bcast h d a u) u) hl).1
    rw [hv, hme] at hst
    simp only [Band.bcastOf, hst, groupWait, hlive, hk, hr]
    simp
  | false =>
    have hlive : ((v.band (s.after (.bcast h d a u)).cur).lane l).live = false := by
      rw [Bool.eq_false_iff]
      exact fun hc => Bool.false_ne_true (hl.symm.trans ((hlone.live l).1 hc))
    unfold Band.bcastOf
    split
    · simp [hlive]
    · rfl

/-- What the release writes: nothing for GBAR, and the root's value in the destination of BCAST. -/
theorem bcastServed_writes (hi : ArrivesAtGroup i u) (hs : s.Runs i) (hv : s.vOf i ≠ 0) (hk : g.index = grpOf ((s.after i).me.uv u))
    {v : State} (hvw : s.vWaits i (groupWait s i u) = v)
    (hlone : v.LoneGroup li (s.after i).me.crew (s.after i).cur g c (s.vOf i))
    (hroot : ∀ h d a, i = .bcast h d a u → rootOf ((s.after i).me.uv u) = c.num) :
    ∃ rs due, v.me.RegFrame (v.bcastServed li (s.after i).cur g (s.vOf i)) (s.vOf i) rs due ∧ (∀ h, i = .gbar h u → rs = []) ∧
      ∀ h d a, i = .bcast h d a u → rs = [.g d] ∧ ∀ k, bit (s.vOf i) k = true →
        (v.bcastServed li (s.after i).cur g (s.vOf i)).gv k d = (s.after i).me.gv (lowest (s.vOf i)) a := by
  have hme : v.me = v.band (s.after i).cur := hvw ▸ State.me_vWaits
  have hin : ∀ k ∈ lanesOf (s.vOf i), ((v.band (s.after i).cur).lane k).st = .waiting (groupWait s i u k) := fun k hk => by
    rw [← hme, ← hvw]
    exact (hs.toStarts.lane_vWaits ((mem_lanesOf _ k).1 hk)).1
  have hcycle : v.cycle = s.cycle := by
    rw [← (State.KeepsUnsettled.after s i).cycle, ← hvw, State.vWaits_state]
  rcases hi with ⟨h, rfl⟩ | ⟨h, d, a, rfl⟩
  · refine ⟨[], 0, ?_, fun _ _ => rfl, nofun⟩
    rw [State.bcastServed, Band.deliverAll_groupBar hin, hme]
    exact .refl _ _ _ _
  · have hr := hroot h d a rfl
    have hkeeps : ∀ k ∈ lanesOf (s.vOf (.bcast h d a u)),
        (v.band (s.after (.bcast h d a u)).cur).keeps (v.cycle + 4) v.free k (.g d) = false := fun k hk => by
      have hfree := hs.write ((mem_lanesOf _ k).1 hk) (r := .g d) (List.mem_append_left _ (mem_gs1 d)) v.free
      rw [writeDue_bcast] at hfree
      rw [← hs.toStarts.keeps_vWaits (groupWait s (.bcast h d a u) u), hvw] at hfree
      rw [← hme, hcycle]
      exact hfree
    obtain ⟨hframe, -, hvals⟩ := Band.deliverAll_bcast (val := v.groupValue li g) (fun k hk => (mem_lanesOf _ k).1 hk)
      (lanesOf_nodup _) (fun k hk => ⟨_, hin k hk⟩) hkeeps
    have hvalue : v.groupValue li g c.num = (s.after (.bcast h d a u)).me.gv (lowest (s.vOf (.bcast h d a u))) a := by
      rw [State.groupValue_single hlone.members]
      refine State.bcastValue_lowest (.head _) hlone.member hlone.taking hv (f := fun l => (s.after (.bcast h d a u)).me.gv l a)
        (fun l hl => ?_) fun l hl => ?_
      · rw [bcastOf_waiting hs hvw hlone hk hr, if_pos hl]
      · rw [bcastOf_waiting hs hvw hlone hk hr, hl]; rfl
    refine ⟨[.g d], v.cycle + 4, hme ▸ hframe, nofun, fun h' d' a' he => ?_⟩
    cases he
    exact ⟨rfl, fun k hk => (hvals k ((mem_lanesOf _ k).2 hk)).trans (hr ▸ hvalue)⟩

end

/-- GBAR and BCAST that complete the barrier of a group of one crew (R163, R164, R241). -/
theorem groupBarrierReleases : Claims.GroupBarrierReleases := by
  intro i u hi s hs hv li g c l hg hl hgr hc hcl hm hmc hb hr hkill hnone hlive hroot
  have hk : g.index = grpOf ((s.after i).me.uv u) := State.groupFor_member hg
  have hlone := loneGroup_vWaits hi hs hv hk hc hm hmc hb hr hkill hnone hlive fun h d a he => (hroot h d a he).2.2
  have hexec := exec_groupWord hi hs hv hg fun h d a he => ⟨l, State.launchOf_eq hc (hcl ▸ hl), by
    rw [(hroot h d a he).1]; exact (hroot h d a he).2.1⟩
  have hlane := fun k => hs.toStarts.lane_vWaits (w := groupWait s i u) (l := k)
  have hreg := hs.toStarts.getReg_vWaits (w := groupWait s i u) (s.after i).cur
  have hstate := State.vWaits_state (s := s) (i := i) (w := groupWait s i u)
  have hframe := hs.toStarts.me_vWaits_frame (groupWait s i u)
  have hlen : (s.after i).cur < (s.vWaits i (groupWait s i u)).bands.length := by
    simpa [State.vWaits, State.setMe, State.setBand, State.atIssue] using hs.band
  have hme := State.me_vWaits (s := s) (i := i) (w := groupWait s i u)
  generalize hvw : s.vWaits i (groupWait s i u) = v at *
  obtain ⟨rs, due, hwrites, hgbar, hbcast⟩ := bcastServed_writes hi hs hv hk hvw hlone fun h d a he => (hroot h d a he).1
  have hcore : (v.band (s.after i).cur).core = (s.after i).me.core := by rw [← hme, hframe]
  rw [hlone.groupBarrier, hcore] at hexec
  have hlaunch : v.launch li = some l := by rw [hstate]; exact hl
  generalize v.bcastServed li (s.after i).cur g (s.vOf i) = B at *
  obtain ⟨hl1, hgen, hcur, hband⟩ := State.groupReleased (k := (s.after i).me.core) (b := B.wake (s.vOf i)) hlen hlaunch hgr
  generalize (((v.setBand (s.after i).cur (B.wake (s.vOf i))).dropL1 (s.after i).me.core).nextGroup li g.index).tickFree = t at *
  have hmine : t.me = B.wake (s.vOf i) := by
    have hcur' : v.cur = (s.after i).cur := by rw [hstate]
    rw [State.me, hcur, hcur', hband]
  have hregs : ∀ k r, r ∉ rs → t.me.getReg k r = (s.after i).me.getReg k r := fun k r hn => by
    rw [hmine, Band.getReg_wake, hwrites.regs k r hn, hme, hreg]; rfl
  refine ⟨t, hexec, hl1, hgen, fun k hgo hk => ?_, fun h he k r => ?_, fun h d a he k hk => ?_⟩
  · obtain ⟨hst, hpc⟩ := Band.wake_frame hwrites hk
    rw [hmine]
    exact ⟨hst, hpc.trans ((hlane k hk).2.2 hgo)⟩
  · exact hregs k r (hgbar h he ▸ List.not_mem_nil)
  · obtain ⟨hrs, hvals⟩ := hbcast h d a he
    refine ⟨?_, fun r hn => hregs k r (by simpa [hrs] using hn)⟩
    rw [hmine, Band.gv, Band.getReg_wake]
    exact hvals k hk

end Sys2Proof.Machine

namespace Sys2Proof
open Machine

/-- Settles O22: the barriers of a crew and of a group, from the bands that have not arrived. -/
theorem barriers : Obligations.Barriers := ⟨crewBarrier, groupBarrierWaits, groupBarrierReleases⟩

end Sys2Proof
end

section
/-!
PROOFS. REQ (R171 to R173): which lanes still need a slot, the slots that are asked for, and the entries that are sent.
-/

namespace Sys2Proof.Machine

/-! ## Reads before a region ends -/

/-- Flagged words in flight play no part in what a read finds (log entry 6). -/
theorem Band.readReg_of_due {b : Band} {now l : Nat} {r : RegName} (k : Nat)
    (h : b.unsettled.any (fun e => e.lane == r.laneOf l && decide (e.reg = r) && decide (now < e.due)) = false) :
    b.readReg now k l r = b.getReg l r := by
  have hquiet := Band.readReg_certain (b := { b with inFlight := [] }) (now := now) (t := l) (r := r) k
    (by simpa [Band.earlyRead] using h)
  have hget : ({ b with inFlight := [] } : Band).getReg l r = b.getReg l r := Band.getReg_congr rfl rfl l r
  rw [hget] at hquiet
  rw [← hquiet]
  simp only [Band.readReg, hget]

section
variable {s : State} {i : Instr}

/-- The sources of a word are settled before its region ends too: the end of a region issues nothing. -/
theorem State.Runs.sources_start (hs : s.Runs i) (hi : onceOf i = false) {l : Nat} (hl : bit (s.vOf i) l = true) :
    s.me.Settled s.me (s.ex i.hdr) l (srcsOf i) := by
  intro r hr
  have hcertain := hs.certain l hl
  simp only [Band.stallViolation, Bool.or_eq_false_iff, List.any_eq_false] at hcertain
  have hearly := hcertain.1 r (Band.mem_readsIn hi hr)
  have hkeep := State.KeepsUnsettled.after s i
  have hsame : (s.after i).me.unsettled = s.me.unsettled :=
    (congrArg (fun n => ((s.after i).band n).unsettled) hkeep.cur).trans (hkeep.unsettled _)
  refine Band.readReg_of_due _ ?_
  simp only [Band.earlyRead, Bool.or_eq_true, not_or, Bool.not_eq_true, hsame] at hearly
  exact hearly.1

end

/-- They are settled at issue. -/
theorem State.Runs.sources_atIssue {s : State} {i : Instr} (hs : s.Runs i) (hi : onceOf i = false) {l : Nat}
    (hl : bit (s.vOf i) l = true) : (s.atIssue i).me.Settled (s.atIssue i).me (s.ex i.hdr) l (srcsOf i) := fun r hr => by
  rw [hs.getReg_atIssue]
  exact hs.sources hi hl r hr

/-! ## Lanes and slots (R172, R173) -/

/-- A destination that its lane cannot find wrong (R173). -/
def reqDestOk (s : State) (d : DWord) : Prop :=
  reqDie d ≤ 8 ∧ reqKind d = 0 ∧ bits d.toNat 0 30 = 0 ∧ reqNode d < s.boot.nnode

theorem reqTrap_none {s : State} {x : Ex} {a : Reg} {l : Nat} (h : reqDestOk s (s.me.rg2 x l a)) : reqTrap a s x l = none := by
  obtain ⟨hdie, hkind, hlow, hnode⟩ := h
  unfold reqTrap
  dsimp only
  rw [if_neg]
  omega

theorem reqLanes_eq {s : State} {x : Ex} {a : Reg} (hread : ∀ l, bit x.v l = true → s.me.rg2 x l a = s.me.gv2 l a)
    (hok : ∀ l, bit x.v l = true → reqDestOk s (s.me.gv2 l a)) :
    reqLanes s x a = (lanesOf x.v).map fun l => (l, s.me.gv2 l a) := by
  have hall : (lanesOf x.v).filter (fun l => (reqTrap a s x l).isNone) = lanesOf x.v := List.filter_eq_self.2 fun l hl => by
    rw [mem_lanesOf] at hl
    rw [reqTrap_none (by rw [hread l hl]; exact hok l hl)]
    rfl
  rw [reqLanes, hall]
  exact List.map_congr_left fun l hl => by rw [hread l ((mem_lanesOf _ l).1 hl)]

theorem Band.hasSlot_iff (b : Band) (l : Nat) (d : DWord) : b.hasSlot l d = true ↔ (l, d) ∈ b.slots := List.contains_iff_mem

/-- One slot is asked for, unless the lane holds it or has asked. -/
def State.askSlot (s : State) (p : Nat × DWord) : State :=
  if s.me.hasSlot p.1 p.2 || s.slotReqs.any fun r => r.band == s.cur && r.lane == p.1 then s
  else { s with nextId := s.nextId + 1
                slotReqs := s.slotReqs ++ [{ id := s.nextId, band := s.cur, lane := p.1, desc := p.2 }] }

theorem State.askSlots_cons (s : State) (p : Nat × DWord) (ls : List (Nat × DWord)) :
    s.askSlots (p :: ls) = (s.askSlot p).askSlots ls := rfl

theorem State.askSlot_state (s : State) (p : Nat × DWord) :
    s.askSlot p = { s with slotReqs := (s.askSlot p).slotReqs, nextId := (s.askSlot p).nextId } := by
  unfold State.askSlot
  split <;> rfl

theorem State.askSlot_slotReqs (s : State) (p : Nat × DWord) :
    (∀ r ∈ s.slotReqs, r ∈ (s.askSlot p).slotReqs) ∧
      (s.me.hasSlot p.1 p.2 = false → ∃ r ∈ (s.askSlot p).slotReqs, r.band = s.cur ∧ r.lane = p.1) := by
  unfold State.askSlot
  split
  next h =>
    refine ⟨fun _ hr => hr, fun hno => ?_⟩
    simpa [hno] using h
  next => exact ⟨fun _ hr => List.mem_append_left _ hr, fun _ => ⟨_, List.mem_append_right _ (.head _), rfl, rfl⟩⟩

/-- Every lane that holds no slot has asked for one, and nothing else changes. -/
theorem State.askSlots_asks (ls : List (Nat × DWord)) : ∀ s : State,
    s.askSlots ls = { s with slotReqs := (s.askSlots ls).slotReqs, nextId := (s.askSlots ls).nextId } ∧
      (∀ r ∈ s.slotReqs, r ∈ (s.askSlots ls).slotReqs) ∧
      ∀ p ∈ ls, p ∉ s.me.slots → ∃ r ∈ (s.askSlots ls).slotReqs, r.band = s.cur ∧ r.lane = p.1 := by
  induction ls with
  | nil => exact fun s => ⟨rfl, fun _ hr => hr, nofun⟩
  | cons p ls ih =>
    intro s
    obtain ⟨hkept, hasked⟩ := s.askSlot_slotReqs p
    obtain ⟨hstate, hmono, hall⟩ := ih (s.askSlot p)
    have hone := s.askSlot_state p
    rw [State.askSlots_cons]
    generalize s.askSlot p = u at *
    have hcur : u.cur = s.cur := by rw [hone]
    have hme : u.me = s.me := by rw [hone]; rfl
    rw [hcur, hme] at hall
    refine ⟨by rw [hstate, hone], fun r hr => hmono r (hkept r hr), fun q hq hno => ?_⟩
    rcases List.mem_cons.1 hq with rfl | hq
    · obtain ⟨r, hr, hb⟩ := hasked (Bool.eq_false_iff.2 fun h => hno ((s.me.hasSlot_iff _ _).1 h))
      exact ⟨r, hmono r hr, hb⟩
    · exact hall q hq hno

/-! ## Entries (R172) -/

/-- The entry of a lane of band `b`. -/
def State.entryOf (s : State) (b : Band) (x : Ex) (d : Reg) (sz : Size) (sb : Flag) (p : Nat × DWord) : ReqMsg :=
  { id := s.nextId, band := s.cur, lane := p.1, word := x.pc, ctx := s.ctxOf b, desc := p.2,
    payload := b.rgBytes x p.1 d sz.regs ++ List.replicate (16 - (b.rgBytes x p.1 d sz.regs).length) 0, flag := sb,
    result := none }

/-- One entry is sent. -/
def State.sendReq (b : Band) (x : Ex) (d : Reg) (sz : Size) (sb : Flag) (s : State) (p : Nat × DWord) : State :=
  { s with nextId := s.nextId + 1, reqs := s.reqs ++ [s.entryOf b x d sz sb p] }

theorem State.sendReqs_eq (s : State) (x : Ex) (ls : List (Nat × DWord)) (d : Reg) (sz : Size) (sb : Flag) :
    s.sendReqs x ls d sz sb = ls.foldl (State.sendReq s.me x d sz sb)
      (s.setMe { s.me.setBusy sb .coop with slots := s.me.slots.filter fun p => !ls.contains p }) := rfl

/-- What an entry holds but for its number. -/
def ReqMsg.content (m : ReqMsg) : Nat × Nat × DWord × Nat × DWord × List Byte × Flag × Option Bool :=
  (m.band, m.lane, m.word, m.ctx, m.desc, m.payload, m.flag, m.result)

/-- One entry for each lane, and nothing else changes. -/
theorem State.sendReq_all (b : Band) (x : Ex) (d : Reg) (sz : Size) (sb : Flag) (ls : List (Nat × DWord)) : ∀ s : State, ∃ ms,
    ls.foldl (State.sendReq b x d sz sb) s = { s with reqs := s.reqs ++ ms, nextId := s.nextId + ls.length } ∧
      ms.map ReqMsg.content = ls.map fun p => (s.cur, p.1, x.pc, s.ctxOf b, p.2,
        b.rgBytes x p.1 d sz.regs ++ List.replicate (16 - (b.rgBytes x p.1 d sz.regs).length) 0, sb, none) := by
  induction ls with
  | nil => exact fun s => ⟨[], by simp, rfl⟩
  | cons p ls ih =>
    intro s
    obtain ⟨ms, hstate, hms⟩ := ih (s.sendReq b x d sz sb p)
    refine ⟨s.entryOf b x d sz sb p :: ms, ?_, ?_⟩
    · rw [List.foldl_cons, hstate]
      simp [State.sendReq, Nat.add_assoc, Nat.add_comm 1]
    · rw [List.map_cons, hms]; rfl

/-! ## REQ -/

section
variable {s : State} {h : Hdr} {d a : Reg} {sb : Flag} {sz : Size}

theorem exec_req_asks (hp : preciseTraps s (s.ex h) (.req h d a sb sz) = [])
    (hany : (reqLanes s (s.ex h) a).any (fun p => !s.me.hasSlot p.1 p.2) = true) :
    exec (.req h d a sb sz) s = .next (s.askSlots (reqLanes s (s.ex h) a)) := by
  show execReq h d a sb sz s = _
  rw [execReq]
  exact if_pos (by rw [hp, hany]; rfl)

theorem exec_req_sends (hs : s.Runs (.req h d a sb sz)) (hv : s.vOf (.req h d a sb sz) ≠ 0)
    (hany : (reqLanes s (s.ex h) a).any (fun p => !s.me.hasSlot p.1 p.2) = false)
    (hd : ∀ l, bit (s.vOf (.req h d a sb sz)) l = true → reqTrap a (s.after (.req h d a sb sz)) (s.ex h) l = none) :
    exec (.req h d a sb sz) s = .next (((s.atIssue (.req h d a sb sz)).sendReqs (s.ex h)
      (reqLanes (s.atIssue (.req h d a sb sz)) (s.ex h) a) d sz sb).tickFree) := by
  have hrun := runWord_passes (.req h d a sb sz) (reqTrap a) (fun x s => s.sendReqs x (reqLanes s x a) d sz sb) s hs.passes hd
  rw [if_neg hv] at hrun
  show execReq h d a sb sz s = _
  rw [execReq]
  exact (if_neg (by rw [hany, Bool.and_false]; exact Bool.false_ne_true)).trans (congrArg Host.Outcome.next hrun)

/-- The payload of an entry, in 16 bytes (R172). -/
theorem payload_eq {B C : Band} {x : Ex} {l : Nat} {rs : List RegName} (hset : B.Settled C x l rs) (hd : ∀ r ∈ gs sz.regs d, r ∈ rs)
    (hsz : sz = .b64 ∨ sz = .b128) :
    B.rgBytes x l d sz.regs ++ List.replicate (16 - (B.rgBytes x l d sz.regs).length) 0 =
      leBytes (Claims.regsNat C l d sz.regs) sz.bytes ++ List.replicate (16 - sz.bytes) 0 := by
  have hbytes : 4 * sz.regs = sz.bytes := by rcases hsz with rfl | rfl <;> rfl
  rw [hset.rgBytes sz.regs d hd, length_leBytes, hbytes]

end

/-- REQ (R171 to R173). -/
theorem remoteEnqueue : Claims.RemoteEnqueue := by
  intro h d a sb sz s hsz hs hv i u dest hok
  obtain ⟨hok0, hok1, hok2⟩ := hok
  have hsrc : ∀ r ∈ gs 2 a, r ∈ srcsOf i := fun r hr => by simp [i, srcsOf, hr]
  have hdata : ∀ r ∈ gs sz.regs d, r ∈ srcsOf i := fun r hr => by simp [i, srcsOf, hr]
  have hL0 : reqLanes s (s.ex h) a = (lanesOf (s.vOf i)).map fun l => (l, s.me.gv2 l a) :=
    reqLanes_eq (fun l hl => (hs.sources_start rfl hl).rg2 hsrc) hok0
  refine ⟨fun ⟨hslot0, hslot1, hslot2⟩ => ?_, fun ⟨l, hl, hno⟩ => ?_⟩
  · have hread := fun l (hl : bit (s.vOf i) l = true) => (hs.sources_atIssue rfl hl).rg2 hsrc
    have hL : reqLanes u (s.ex h) a = (lanesOf (s.vOf i)).map fun l => (l, dest l) := reqLanes_eq hread hok2
    have hany : (reqLanes s (s.ex h) a).any (fun p => !s.me.hasSlot p.1 p.2) = false := by
      rw [hL0, List.any_eq_false]
      intro p hp
      obtain ⟨l, hl, rfl⟩ := List.mem_map.1 hp
      simpa using (Band.hasSlot_iff _ _ _).2 (hslot0 l ((mem_lanesOf _ l).1 hl))
    have hd : ∀ l, bit (s.vOf i) l = true → reqTrap a (s.after i) (s.ex h) l = none := fun l hl => by
      have hafter : (s.after i).me.rg2 (s.ex h) l a = (s.after i).me.gv2 l a := (hs.sources_after rfl hl).rg2 hsrc
      exact reqTrap_none (hafter ▸ hok1 l hl)
    have hexec := exec_req_sends hs hv hany hd
    have hpay : ∀ l ∈ lanesOf (s.vOf i),
        u.me.rgBytes (s.ex h) l d sz.regs ++ List.replicate (16 - (u.me.rgBytes (s.ex h) l d sz.regs).length) 0 =
          leBytes (Claims.regsNat u.me l d sz.regs) sz.bytes ++ List.replicate (16 - sz.bytes) 0 := fun l hl =>
      payload_eq (hs.sources_atIssue rfl ((mem_lanesOf _ l).1 hl)) hdata hsz
    have hlen : u.cur < u.bands.length := by simpa [u, State.atIssue] using hs.band
    change exec i s = .next ((u.sendReqs (s.ex h) (reqLanes u (s.ex h) a) d sz sb).tickFree) at hexec
    rw [hL, State.sendReqs_eq] at hexec
    clear_value u
    obtain ⟨ms, hstate, hms⟩ := State.sendReq_all u.me (s.ex h) d sz sb ((lanesOf (s.vOf i)).map fun l => (l, dest l))
      (u.setMe { u.me.setBusy sb .coop with
        slots := u.me.slots.filter fun p => !((lanesOf (s.vOf i)).map fun l => (l, dest l)).contains p })
    rw [hstate] at hexec
    refine ⟨_, hexec, rfl, fun n hn => ?_, State.me_setMe _ _ hlen, List.take_left' rfl, ?_⟩
    · exact (State.band_setBand ..).trans (if_neg fun hc => hn hc.1.symm)
    · refine (congrArg (List.map ReqMsg.content) (List.drop_left' rfl)).trans (hms.trans ?_)
      rw [List.map_map]
      exact List.map_congr_left fun l hl =>
        congrArg (fun y => (u.cur, l, (s.ex h).pc, u.ctxOf u.me, dest l, y, sb, none)) (hpay l hl)
  · have hany : (reqLanes s (s.ex h) a).any (fun p => !s.me.hasSlot p.1 p.2) = true := by
      rw [hL0, List.any_eq_true]
      refine ⟨_, List.mem_map.2 ⟨l, (mem_lanesOf _ l).2 hl, rfl⟩, ?_⟩
      rw [Bool.not_eq_true', Bool.eq_false_iff]
      exact fun hc => hno ((Band.hasSlot_iff _ _ _).1 hc)
    obtain ⟨hstate, -, hall⟩ := State.askSlots_asks (reqLanes s (s.ex h) a) s
    exact ⟨_, exec_req_asks hs.passes hany, hstate, fun l hl hno =>
      hall (l, s.me.gv2 l a) (hL0 ▸ List.mem_map.2 ⟨l, (mem_lanesOf _ l).2 hl, rfl⟩) hno⟩

end Sys2Proof.Machine
end

section
/-!
PROOFS. Barrier objects (R269 to R271): their fields, the bytes that hold them, and the arrival of the lanes of BOARRIVE.
-/

namespace Sys2Proof.Machine

/-! ## The object in its bytes (R269) -/

theorem leNat_lt : (l : List Byte) → leNat l < 256 ^ l.length
  | [] => Nat.one_pos
  | b :: l => by
    have := leNat_lt l
    have := b.isLt
    rw [leNat, List.length_cons, Nat.pow_succ]
    omega

theorem Memory.length_readN (m : Memory) (a n : Nat) : (m.readN a n).length = n := by
  induction n generalizing a with
  | zero => rfl
  | succ n ih => rw [Memory.readN, List.length_cons, ih]

section
variable {s : State} {a n o : Nat}

theorem State.object_lt (s : State) (a : Nat) : s.object a < 2 ^ 64 := by
  have := leNat_lt (s.scr.readN a 8)
  rw [Memory.length_readN] at this
  exact this

theorem State.putObject_state (s : State) (a o : Nat) :
    s.putObject a o = { s with scr := s.scr.writeLE a 8 o, cores := (s.putObject a o).cores } := by
  unfold State.putObject
  dsimp only
  split <;> rfl

theorem State.read_putObject (s : State) (a o k : Nat) (h : k < a ∨ a + 8 ≤ k) : (s.putObject a o).scr.read k = s.scr.read k := by
  rw [s.putObject_state, Memory.writeLE, Memory.read_writeN, if_neg (by rw [length_leBytes]; omega)]

theorem State.object_putObject (s : State) (a : Nat) (h : o < 2 ^ 64) : (s.putObject a o).object a = o := by
  have hread := Memory.readN_writeN (leBytes o 8) s.scr a
  rw [length_leBytes] at hread
  rw [State.object, s.putObject_state, Memory.readLE, Memory.writeLE, hread, leNat_leBytes 8 o h]

theorem State.object_putObject_off (s : State) (o : Nat) (h : n + 8 ≤ a ∨ a + 8 ≤ n) : (s.putObject a o).object n = s.object n :=
  Memory.readLE_congr fun k h1 h2 => s.read_putObject a o k (by omega)

/-- A core of which the sequence stays the same. -/
theorem State.seq_setCore {c : Core} (hid : c.id = n) (h : c.seq = (s.core n).seq) (k : Nat) :
    ((s.setCore c).core k).seq = (s.core k).seq := by
  rw [State.core_setCore]
  split
  next hk => rw [h, ← hid, hk]
  next => rfl

/-- Only race shadows of cores are cleared (R402). -/
theorem State.seq_putObject (s : State) (a o k : Nat) : ((s.putObject a o).core k).seq = (s.core k).seq := by
  unfold State.putObject
  dsimp only
  split
  · rfl
  · refine (State.seq_setCore (n := a / 2 ^ 18) ?_ ?_ k).trans rfl
    · exact State.core_id _ _
    · rfl

end

/-! ## Arrival (R271) -/

/-- A word with the fields GEN, EXP and PEND (R269). -/
def objWord (hi gen exp pend : Nat) : Nat := hi * 2 ^ 48 + gen * 2 ^ 32 + exp * 2 ^ 16 + pend

theorem objFields_lt (o : Nat) : objGen o < 2 ^ 16 ∧ objExp o < 2 ^ 16 ∧ objPend o < 2 ^ 16 :=
  ⟨Nat.mod_lt _ (by decide), Nat.mod_lt _ (by decide), Nat.mod_lt _ (by decide)⟩

theorem objFields_objWord {hi gen exp pend : Nat} (hg : gen < 2 ^ 16) (he : exp < 2 ^ 16) (hp : pend < 2 ^ 16) :
    objGen (objWord hi gen exp pend) = gen ∧ objExp (objWord hi gen exp pend) = exp ∧ objPend (objWord hi gen exp pend) = pend := by
  unfold objGen objExp objPend bits objWord
  omega

theorem objWord_fields (o : Nat) : objWord (o / 2 ^ 48) (objGen o) (objExp o) (objPend o) = o := by
  unfold objWord objGen objExp objPend bits
  omega

/-- The last arrival of a round. -/
theorem objArrive_last {o : Nat} (h : objPend o = 1) :
    objArrive o = objWord (o / 2 ^ 48) ((objGen o + 1) % 2 ^ 16) (objExp o) (objExp o) := by
  have ho := objWord_fields o
  have hzero : (objPend o + 2 ^ 16 - 1) % 2 ^ 16 = 0 := by omega
  have heq : objArrive o = o - objGen o * 2 ^ 32 + (objGen o + 1) % 2 ^ 16 * 2 ^ 32 - objPend o + objExp o := by
    unfold objArrive
    exact if_pos hzero
  rw [heq]
  rw [objWord] at ho ⊢
  omega

/-- Any other arrival. -/
theorem objArrive_more {o : Nat} (h : objPend o ≠ 1) :
    objArrive o = objWord (o / 2 ^ 48) (objGen o) (objExp o) ((objPend o + 2 ^ 16 - 1) % 2 ^ 16) := by
  obtain ⟨-, -, hp⟩ := objFields_lt o
  have ho := objWord_fields o
  have hne : (objPend o + 2 ^ 16 - 1) % 2 ^ 16 ≠ 0 := by omega
  have heq : objArrive o = o - objPend o + (objPend o + 2 ^ 16 - 1) % 2 ^ 16 := by
    unfold objArrive
    exact if_neg hne
  rw [heq]
  rw [objWord] at ho ⊢
  omega

/-- What an arrival does to the fields (R271). -/
theorem objArrive_fields (o : Nat) : objExp (objArrive o) = objExp o ∧
    (objPend o = 1 → objGen (objArrive o) = (objGen o + 1) % 2 ^ 16 ∧ objPend (objArrive o) = objExp o) ∧
    (1 < objPend o → objGen (objArrive o) = objGen o ∧ objPend (objArrive o) = objPend o - 1) := by
  obtain ⟨hg, he, hp⟩ := objFields_lt o
  by_cases h : objPend o = 1
  · obtain ⟨hg', he', hp'⟩ := objFields_objWord (hi := o / 2 ^ 48) (Nat.mod_lt (objGen o + 1) (by decide : 0 < 2 ^ 16)) he he
    rw [objArrive_last h]
    exact ⟨he', fun _ => ⟨hg', hp'⟩, fun hc => by omega⟩
  · obtain ⟨hg', he', hp'⟩ := objFields_objWord (hi := o / 2 ^ 48) hg he
      (Nat.mod_lt (objPend o + 2 ^ 16 - 1) (by decide : 0 < 2 ^ 16))
    rw [objArrive_more h]
    exact ⟨he', fun hc => absurd hc h, fun hc => ⟨hg', by omega⟩⟩

theorem objWord_lt {hi gen exp pend : Nat} (hh : hi < 2 ^ 16) (hg : gen < 2 ^ 16) (he : exp < 2 ^ 16) (hp : pend < 2 ^ 16) :
    objWord hi gen exp pend < 2 ^ 64 := by
  unfold objWord
  omega

theorem objArrive_lt {o : Nat} (ho : o < 2 ^ 64) : objArrive o < 2 ^ 64 := by
  obtain ⟨hg, he, hp⟩ := objFields_lt o
  have hh : o / 2 ^ 48 < 2 ^ 16 := by omega
  by_cases h : objPend o = 1
  · rw [objArrive_last h]
    exact objWord_lt hh (Nat.mod_lt _ (by decide)) he he
  · rw [objArrive_more h]
    exact objWord_lt hh hg he (Nat.mod_lt _ (by decide))

end Sys2Proof.Machine
end

section
/-!
PROOFS. BOARRIVE (R271, R273): what one lane's arrival changes, and the arrivals of the lanes of V one after the other.
-/

namespace Sys2Proof.Machine

theorem foldl_of_fixed {α β : Type} {f : β → α → β} (l : List α) (v : β) (h : ∀ p ∈ l, f v p = v) : l.foldl f v = v := by
  induction l with
  | nil => rfl
  | cons p l ih => rw [List.foldl_cons, h p (.head _), ih fun q hq => h q (.tail _ hq)]

/-- A write adds results of its own lanes alone. -/
theorem Band.unsettled_writeLanes_append (b : Band) (due k : Nat) (m : BitVec 32) {r : RegName} (v : Nat → DWord)
    (hr : r.uniform = false) : ∃ es, (b.writeLanes due k m r v).unsettled = b.unsettled ++ es ∧ ∀ e ∈ es, bit m e.lane = true := by
  simp only [Band.writeLanes, Band.note, Band.mapLanes_unsettled]
  refine ⟨_, rfl, fun e he => ?_⟩
  split at he
  · cases he
  · obtain ⟨t, ht, rfl⟩ := List.mem_map.1 he
    rw [mem_lanesOf] at ht
    rw [RegName.laneOf_lane hr]
    exact ht

/-- A write in other lanes changes no read of a lane. -/
theorem Band.readReg_writeLanes_off {b : Band} {due k : Nat} {m : BitVec 32} {r q : RegName} {v : Nat → DWord} (hr : r.uniform = false)
    {now k' l : Nat} (hl : bit m l = false) (hq : q.uniform = false) :
    (b.writeLanes due k m r v).readReg now k' l q = b.readReg now k' l q := by
  have hget : (b.writeLanes due k m r v).getReg l q = b.getReg l q := (b.regFrame_writeLanes due k m r v hr).outside l q hl hq
  obtain ⟨es, hes, hlanes⟩ := b.unsettled_writeLanes_append due k m v hr
  simp only [Band.readReg, hget, hes, List.mapIdx_append, List.foldl_append, RegName.laneOf_lane hq]
  refine foldl_of_fixed _ _ fun p hp => ?_
  obtain ⟨i, hi, rfl⟩ := List.mem_mapIdx.1 hp
  have hne : (es[i].lane == l) = false := by
    rw [beq_eq_false_iff_ne]
    intro h
    have := hlanes es[i] (List.getElem_mem hi)
    rw [h, hl] at this
    cases this
  simp [hne]

/-- What the words on barrier objects leave unchanged: all but the scratchpad, the band's lanes, results and gang mark, and
what cores keep beside their sequences. -/
structure State.ObjFrame (s t : State) : Prop where
  state : t = { s with scr := t.scr, bands := t.bands, cores := t.cores }
  me : t.me = { s.me with lanes := t.me.lanes, unsettled := t.me.unsettled, inFlight := t.me.inFlight, gang := t.me.gang }
  count : t.bands.length = s.bands.length
  seq : ∀ k, (t.core k).seq = (s.core k).seq

namespace State.ObjFrame
variable {s t u : State}

theorem refl (s : State) : s.ObjFrame s := ⟨rfl, rfl, rfl, fun _ => rfl⟩

theorem trans (h : s.ObjFrame t) (k : t.ObjFrame u) : s.ObjFrame u :=
  ⟨by rw [k.state, h.state], by rw [k.me, h.me], k.count.trans h.count, fun n => (k.seq n).trans (h.seq n)⟩

variable (h : s.ObjFrame t)
include h

theorem reach (l : Nat) (sp : Space) (va : DWord) (n : Nat) (write rmw : Bool) :
    Machine.reach t t.me l sp va n write rmw = Machine.reach s s.me l sp va n write rmw := by
  rw [h.me]
  generalize t.me.lanes = L, t.me.unsettled = U, t.me.inFlight = F, t.me.gang = G
  rw [h.state]
  rfl

theorem unperformed (m : BitVec 32) : t.unperformed t.cur m = s.unperformed s.cur m := by
  have hcur : t.cur = s.cur := by rw [h.state]
  have hacc : t.accesses = s.accesses := by rw [h.state]
  have hcore : (t.band s.cur).core = (s.band s.cur).core := by
    have := congrArg Band.core h.me
    rwa [State.me, hcur] at this
  simp only [State.unperformed, State.transfers, hcur, hacc, hcore, h.seq]

end State.ObjFrame

/-! ## One arrival -/

/-- A lane of BOARRIVE can arrive at object `n`, with its address `va`, and no earlier write of its token is left to R19. -/
structure State.MayArrive (s : State) (x : Ex) (d a : Reg) (l n : Nat) (va : Word) : Prop where
  read : s.me.rg x l a = va
  reach : Machine.reach s s.me l .scr (va.setWidth 64) 8 true true = .locs ((List.range 8).map fun k => .scr (n + k))
  keeps : s.me.keeps (x.now + 4) x.k l (.g d) = false
  clear : s.unperformed s.cur (laneMask l) = []

theorem objAt_eq {s : State} {x : Ex} {l n : Nat} {a : Reg} {va : Word} {w : Bool} (hread : s.me.rg x l a = va)
    (hreach : reach s s.me l .scr (va.setWidth 64) 8 w true = .locs ((List.range 8).map fun k => .scr (n + k))) :
    objAt s x l a w = some n := by
  unfold objAt objReach
  rw [hread, hreach]
  rfl

theorem State.settleObj_none {s : State} (h : s.accesses = []) (l : Nat) : s.settleObj l = s := by
  simp [State.settleObj, h]

/-- The state after one lane has arrived at object `n`. -/
def State.arrivedAt (s : State) (x : Ex) (d : Reg) (l n : Nat) (va : Word) : State :=
  (s.putObject n (objArrive (s.object n))).setMe (((s.putObject n (objArrive (s.object n))).me.touchGrove va).writeLanes (x.now + 4) x.k
    (laneMask l) (.g d) fun _ => BitVec.ofNat 64 (objGen (s.object n)))

section
variable {s : State} {x : Ex} {d a : Reg} {l n : Nat} {va : Word}

theorem State.MayArrive.arriveLane (h : s.MayArrive x d a l n va) (hacc : s.accesses = []) :
    s.arriveLane x d a l = s.arrivedAt x d l n va := by
  unfold State.arriveLane
  rw [objAt_eq h.read h.reach]
  simp only [State.settleObj_none hacc, h.clear, h.read, List.isEmpty_nil, if_true]
  rfl

theorem Band.touchGrove_frame (b : Band) (va : Word) : b.touchGrove va = { b with gang := (b.touchGrove va).gang } := by
  unfold Band.touchGrove
  split <;> rfl

theorem Band.getReg_touchGrove (b : Band) (va : Word) (l : Nat) (r : RegName) : (b.touchGrove va).getReg l r = b.getReg l r := by
  rw [b.touchGrove_frame]
  exact Band.getReg_congr rfl rfl l r

theorem State.me_putObject (s : State) (n o : Nat) : (s.putObject n o).me = s.me := by
  rw [s.putObject_state]; rfl

theorem State.me_arrivedAt (hb : s.cur < s.bands.length) : (s.arrivedAt x d l n va).me =
    (s.me.touchGrove va).writeLanes (x.now + 4) x.k (laneMask l) (.g d) fun _ => BitVec.ofNat 64 (objGen (s.object n)) := by
  rw [State.arrivedAt, State.me_setMe, State.me_putObject]
  rw [s.putObject_state]; exact hb

theorem State.scr_arrivedAt : (s.arrivedAt x d l n va).scr = (s.putObject n (objArrive (s.object n))).scr := rfl

theorem State.objFrame_arrivedAt (hb : s.cur < s.bands.length) : s.ObjFrame (s.arrivedAt x d l n va) := by
  have hput := s.putObject_state n (objArrive (s.object n))
  refine ⟨?_, ?_, ?_, fun k => s.seq_putObject n _ k⟩
  · rw [State.arrivedAt, hput]; rfl
  · rw [State.me_arrivedAt hb, Band.writeLanes_frame, s.me.touchGrove_frame]
  · rw [State.arrivedAt, hput]
    exact List.length_set

/-- The lane takes GEN as its token (R271). -/
theorem State.MayArrive.token (h : s.MayArrive x d a l n va) (hl : l < 32) (hb : s.cur < s.bands.length) :
    (s.arrivedAt x d l n va).me.gv l d = BitVec.ofNat 32 (objGen (s.object n)) := by
  have hkeeps : ∀ t, bit (laneMask l) t = true → (s.me.touchGrove va).keeps (x.now + 4) x.k t (.g d) = false := fun t ht => by
    obtain rfl : l = t := by simpa [bit_laneMask hl] using ht
    rw [s.me.touchGrove_frame]
    exact h.keeps
  rw [Band.gv, State.me_arrivedAt hb, Band.getReg_writeLanes _ _ _ _ _ _ rfl hkeeps, if_pos ⟨by simp [bit_laneMask hl], rfl⟩]
  apply BitVec.eq_of_toNat_eq
  simp [RegName.fit]

theorem State.getReg_arrivedAt (hb : s.cur < s.bands.length) {j : Nat} {r : RegName} (h : r ≠ .g d ∨ bit (laneMask l) j = false) :
    (s.arrivedAt x d l n va).me.getReg j r = s.me.getReg j r := by
  rw [State.me_arrivedAt hb]
  refine Eq.trans ?_ (s.me.getReg_touchGrove va j r)
  have hframe := (s.me.touchGrove va).regFrame_writeLanes (x.now + 4) x.k (laneMask l) (.g d)
    (fun _ => BitVec.ofNat 64 (objGen (s.object n))) rfl
  by_cases hr : r = .g d
  · exact hframe.outside j r (h.resolve_left (not_not.2 hr)) (by rw [hr]; rfl)
  · exact hframe.regs j r (by simpa using hr)

/-- The arrival of one lane keeps no other from arriving. -/
theorem State.MayArrive.after (hl : l < 32) (hb : s.cur < s.bands.length) {j m : Nat} {vb : Word} (hj : s.MayArrive x d a j m vb)
    (hne : j ≠ l) : (s.arrivedAt x d l n va).MayArrive x d a j m vb := by
  have hoff : bit (laneMask l) j = false := by simpa [bit_laneMask hl] using hne.symm
  have hframe := State.objFrame_arrivedAt (s := s) (x := x) (d := d) (l := l) (n := n) (va := va) hb
  refine ⟨?_, (hframe.reach ..).trans hj.reach, ?_, (hframe.unperformed _).trans hj.clear⟩
  · have hread : (s.me.touchGrove va).rg x j a = s.me.rg x j a := by rw [s.me.touchGrove_frame]; rfl
    rw [State.me_arrivedAt hb, Band.rg, Band.readReg_writeLanes_off rfl hoff rfl]
    exact hread.trans hj.read
  · rw [State.me_arrivedAt hb]
    refine Band.keeps_writeLanes_off rfl hoff rfl ?_
    rw [s.me.touchGrove_frame]
    exact hj.keeps

end

/-! ## The lanes of V (R271) -/

/-- Lanes arrive one after the other. -/
def State.arriveLanes (s : State) (x : Ex) (d a : Reg) (ls : List Nat) : State := ls.foldl (fun r l => r.arriveLane x d a l) s

theorem State.arriveLanes_cons (s : State) (x : Ex) (d a : Reg) (l : Nat) (ls : List Nat) :
    s.arriveLanes x d a (l :: ls) = (s.arriveLane x d a l).arriveLanes x d a ls := rfl

/-- The lanes arrive one after the other, each at an object of its own: each takes the GEN that its object had, and no other
register and no other object changes. -/
theorem State.arriveLanes_spec {x : Ex} {d a : Reg} {at_ : Nat → Nat} {va : Nat → Word} (ls : List Nat) : ∀ {s : State},
    s.cur < s.bands.length → s.accesses = [] → ls.Nodup → (∀ l ∈ ls, l < 32) →
    (∀ l ∈ ls, ∀ m ∈ ls, l ≠ m → at_ l + 8 ≤ at_ m ∨ at_ m + 8 ≤ at_ l) → (∀ l ∈ ls, s.MayArrive x d a l (at_ l) (va l)) →
    s.ObjFrame (s.arriveLanes x d a ls) ∧
      (∀ n, (∀ l ∈ ls, at_ l + 8 ≤ n ∨ n + 8 ≤ at_ l) → (s.arriveLanes x d a ls).object n = s.object n) ∧
      (∀ j r, r ≠ .g d ∨ j ∉ ls → (s.arriveLanes x d a ls).me.getReg j r = s.me.getReg j r) ∧
      ∀ l ∈ ls, (s.arriveLanes x d a ls).me.gv l d = BitVec.ofNat 32 (objGen (s.object (at_ l))) ∧
        (s.arriveLanes x d a ls).object (at_ l) = objArrive (s.object (at_ l)) := by
  induction ls with
  | nil => exact fun _ _ _ _ _ _ => ⟨.refl _, fun _ _ => rfl, fun _ _ _ => rfl, nofun⟩
  | cons l ls ih =>
    intro s hb hacc hd h32 hdis hmay
    obtain ⟨hnot, hd⟩ := List.nodup_cons.1 hd
    have hl := h32 l (.head _)
    have hfirst := hmay l (.head _)
    rw [State.arriveLanes_cons, hfirst.arriveLane hacc]
    have hframe := State.objFrame_arrivedAt (s := s) (x := x) (d := d) (l := l) (n := at_ l) (va := va l) hb
    have htoken := hfirst.token hl hb
    have hregs := fun j r h => State.getReg_arrivedAt (s := s) (x := x) (d := d) (l := l) (n := at_ l) (va := va l) hb (j := j) (r := r) h
    have hscr := State.scr_arrivedAt (s := s) (x := x) (d := d) (l := l) (n := at_ l) (va := va l)
    have hmay' := fun j (hj : j ∈ ls) => State.MayArrive.after (n := at_ l) (va := va l) hl hb (hmay j (.tail _ hj))
      fun e : j = l => hnot (e ▸ hj)
    generalize s.arrivedAt x d l (at_ l) (va l) = u at *
    have hcur : u.cur = s.cur := by rw [hframe.state]
    have hsame : u.object (at_ l) = objArrive (s.object (at_ l)) :=
      (congrArg (Memory.readLE · (at_ l) 8) hscr).trans (s.object_putObject _ (objArrive_lt (s.object_lt _)))
    have hother : ∀ n, (at_ l + 8 ≤ n ∨ n + 8 ≤ at_ l) → u.object n = s.object n := fun n hn =>
      (congrArg (Memory.readLE · n 8) hscr).trans (s.object_putObject_off _ hn.symm)
    obtain ⟨hf, hobj, hr, hv⟩ := ih (s := u) (by rw [hcur, hframe.count]; exact hb) (by rw [hframe.state]; exact hacc) hd
      (fun j hj => h32 j (.tail _ hj)) (fun j hj m hm => hdis j (.tail _ hj) m (.tail _ hm)) hmay'
    refine ⟨hframe.trans hf, fun n hn => ?_, fun j r h => ?_, fun j hj => ?_⟩
    · rw [hobj n fun j hj => hn j (.tail _ hj), hother n (hn l (.head _))]
    · have hoff : r ≠ .g d ∨ bit (laneMask l) j = false := h.imp_right fun hn => by
        rw [bit_laneMask hl, decide_eq_false]
        rintro rfl
        exact hn (.head _)
      rw [hr j r (h.imp_right fun hn hm => hn (.tail _ hm)), hregs j r hoff]
    · rcases List.mem_cons.1 hj with rfl | hj
      · have hlane : ∀ m ∈ ls, m ≠ j := fun m hm e => hnot (e ▸ hm)
        rw [Band.gv, hr j _ (.inr hnot), hobj (at_ j) fun m hm => hdis m (.tail _ hm) j (.head _) (hlane m hm)]
        exact ⟨htoken, hsame⟩
      · have hne : l ≠ j := fun e => hnot (e ▸ hj)
        obtain ⟨h1, h2⟩ := hv j hj
        rw [h1, h2, hother (at_ j) (hdis l (.head _) j (.tail _ hj) hne)]
        exact ⟨rfl, rfl⟩

/-! ## BOARRIVE -/

section
variable {s : State} {i : Instr}

/-- No lane finds its object broken or its address wrong. -/
theorem brkTrap_none {x : Ex} {l n : Nat} {a : Reg} {va : Word} {w : Bool} (hread : s.me.rg x l a = va)
    (hreach : reach s s.me l .scr (va.setWidth 64) 8 w true = .locs ((List.range 8).map fun k => .scr (n + k)))
    (hacc : s.accesses = []) (hbrk : objBrk (s.object n) = false) : brkTrap w a s x l = none := by
  have htrap : objTrap s x l a w = none := by
    unfold objTrap objReach
    rw [hread, hreach]
  simp only [brkTrap, htrap, objAt_eq hread hreach, State.settleObj_none hacc, hbrk]
  rfl

/-- The band acts at issue in its place. -/
theorem State.Runs.band_atIssue (hs : s.Runs i) : (s.atIssue i).cur < (s.atIssue i).bands.length := by
  simpa [State.atIssue] using hs.band

end

theorem exec_boarrive {s : State} {h : Hdr} {d a : Reg} (hs : s.Runs (.boarrive h d a))
    (hd : ∀ l, bit (s.vOf (.boarrive h d a)) l = true → brkTrap true a (s.after (.boarrive h d a)) (s.ex h) l = none) :
    exec (.boarrive h d a) s = .next ((s.atIssue (.boarrive h d a)).arriveLanes (s.ex h) d a (lanesOf (s.vOf (.boarrive h d a)))).tickFree := by
  have hrun := runWord_passes (.boarrive h d a) (brkTrap true a) (fun x s => (lanesOf x.v).foldl (fun r t => r.arriveLane x d a t) s)
    s hs.passes hd
  by_cases hv : s.vOf (.boarrive h d a) = 0
  · rw [if_pos hv] at hrun
    rw [lanesOf_eq_nil.2 hv]
    exact congrArg Host.Outcome.next hrun
  · rw [if_neg hv] at hrun
    exact congrArg Host.Outcome.next hrun

/-- What an object is after an arrival, against what it was (R271). -/
def Arrived (o p : Nat) : Prop :=
  objExp p = objExp o ∧ (objPend o = 1 → objGen p = (objGen o + 1) % 2 ^ 16 ∧ objPend p = objExp o) ∧
    (1 < objPend o → objGen p = objGen o ∧ objPend p = objPend o - 1)

/-- The lanes of V find their objects: whole, at the address that g[a] gives, with no access left to perform. -/
def FindsObjects (a : Reg) (v : BitVec 32) (write : Bool) (at_ : Nat → Nat) (u : State) : Prop :=
  ∀ l, bit v l = true → reach u u.me l .scr ((u.me.gv l a).setWidth 64) 8 write true =
    .locs ((List.range 8).map fun k => .scr (at_ l + k)) ∧ objBrk (u.object (at_ l)) = false ∧ u.accesses = []

section
variable {s : State} {h : Hdr} {d a : Reg} {at_ : Nat → Nat}

theorem State.Runs.mayArrive (hs : s.Runs (.boarrive h d a))
    (hfind : FindsObjects a (s.vOf (.boarrive h d a)) true at_ (s.atIssue (.boarrive h d a)))
    (hclear : ∀ l, (s.atIssue (.boarrive h d a)).unperformed (s.atIssue (.boarrive h d a)).cur (laneMask l) = []) {l : Nat}
    (hl : bit (s.vOf (.boarrive h d a)) l = true) :
    (s.atIssue (.boarrive h d a)).MayArrive (s.ex h) d a l (at_ l) ((s.atIssue (.boarrive h d a)).me.gv l a) where
  read := (hs.sources_atIssue rfl hl).rg (mem_gs1 a)
  reach := (hfind l hl).1
  keeps := hs.write hl (r := .g d) (List.mem_append_left _ (mem_gs1 d)) _
  clear := hclear l

/-- BOARRIVE (R271). -/
theorem boarrive_arrives (hs : s.Runs (.boarrive h d a))
    (hfind : s.AtChecks (.boarrive h d a) (FindsObjects a (s.vOf (.boarrive h d a)) true at_))
    (hdis : ∀ l m, bit (s.vOf (.boarrive h d a)) l = true → bit (s.vOf (.boarrive h d a)) m = true → l ≠ m →
      at_ l + 8 ≤ at_ m ∨ at_ m + 8 ≤ at_ l)
    (hclear : ∀ l, (s.atIssue (.boarrive h d a)).unperformed (s.atIssue (.boarrive h d a)).cur (laneMask l) = []) :
    ∃ t, exec (.boarrive h d a) s = .next t ∧ t.mem = (s.atIssue (.boarrive h d a)).mem ∧
      t.arrivals = (s.atIssue (.boarrive h d a)).arrivals ∧ ∀ l, bit (s.vOf (.boarrive h d a)) l = true →
        t.me.gv l d = BitVec.ofNat 32 (objGen ((s.atIssue (.boarrive h d a)).object (at_ l))) ∧
        Arrived ((s.atIssue (.boarrive h d a)).object (at_ l)) (t.object (at_ l)) ∧
        ∀ r, r ≠ .g d → t.me.getReg l r = (s.atIssue (.boarrive h d a)).me.getReg l r := by
  obtain ⟨-, hafter, hissue⟩ := hfind
  have hexec := exec_boarrive hs fun l hl => brkTrap_none ((hs.sources_after rfl hl).rg (mem_gs1 a)) (hafter l hl).1 (hafter l hl).2.2
    (hafter l hl).2.1
  have hmay := fun l (hl : l ∈ lanesOf _) => hs.mayArrive hissue hclear ((mem_lanesOf _ l).1 hl)
  by_cases hv : s.vOf (.boarrive h d a) = 0
  · rw [lanesOf_eq_nil.2 hv] at hexec
    exact ⟨_, hexec, State.tickFree_mem _, State.tickFree_arrivals _, fun l hl => by rw [hv] at hl; simp [bit] at hl⟩
  · have hacc := (hissue _ (bit_lowest hv)).2.2
    obtain ⟨hframe, -, hregs, hvals⟩ := State.arriveLanes_spec _ hs.band_atIssue hacc (lanesOf_nodup _)
      (fun l hl => bit_lt ((mem_lanesOf _ l).1 hl))
      (fun l hl m hm => hdis l m ((mem_lanesOf _ l).1 hl) ((mem_lanesOf _ m).1 hm)) hmay
    generalize (s.atIssue (.boarrive h d a)).arriveLanes (s.ex h) d a (lanesOf (s.vOf (.boarrive h d a))) = t at *
    refine ⟨t.tickFree, hexec, (congrArg State.mem hframe.state : t.mem = _), (congrArg State.arrivals hframe.state : t.arrivals = _),
      fun l hl => ?_⟩
    obtain ⟨htoken, hobj⟩ := hvals l ((mem_lanesOf _ l).2 hl)
    have harrived := objArrive_fields ((s.atIssue (.boarrive h d a)).object (at_ l))
    rw [← hobj] at harrived
    exact ⟨htoken, harrived, fun r hr => hregs l r (.inl hr)⟩

end

end Sys2Proof.Machine
end

section
/-!
PROOFS. BOWAIT (R271, R273): a lane whose token is the generation of its object waits, any other goes on.
-/

namespace Sys2Proof.Machine

theorem Band.readReg_congr {b c : Band} (hu : b.unsettled = c.unsettled) {now k l : Nat} {r : RegName}
    (hg : b.getReg l r = c.getReg l r) : b.readReg now k l r = c.readReg now k l r := by
  simp only [Band.readReg, hu, hg]

theorem State.seq_dropL1 (s : State) (k n : Nat) : ((s.dropL1 k).core n).seq = (s.core n).seq := by
  unfold State.dropL1
  dsimp only
  split
  · rfl
  · refine State.seq_setCore (n := k) ?_ ?_ n
    · exact s.core_id k
    · rfl

/-- What BOWAIT leaves unchanged. -/
structure State.WaitFrame (s t : State) : Prop extends s.ObjFrame t where
  scr : t.scr = s.scr
  unsettled : t.me.unsettled = s.me.unsettled
  regs : ∀ l r, t.me.getReg l r = s.me.getReg l r

namespace State.WaitFrame
variable {s t u : State}

theorem refl (s : State) : s.WaitFrame s := ⟨.refl s, rfl, rfl, fun _ _ => rfl⟩

theorem trans (h : s.WaitFrame t) (k : t.WaitFrame u) : s.WaitFrame u :=
  ⟨h.toObjFrame.trans k.toObjFrame, k.scr.trans h.scr, k.unsettled.trans h.unsettled, fun l r => (k.regs l r).trans (h.regs l r)⟩

theorem rg (h : s.WaitFrame t) (x : Ex) (l : Nat) (a : Reg) : t.me.rg x l a = s.me.rg x l a :=
  congrArg (BitVec.setWidth 32) (Band.readReg_congr h.unsettled (h.regs l (.g a)))

/-- A change of the issuing band that touches no register and no result. -/
theorem setMe {b : Band} (hb : s.cur < s.bands.length) (hf : b = { s.me with lanes := b.lanes, gang := b.gang })
    (hr : ∀ l r, b.getReg l r = s.me.getReg l r) : s.WaitFrame (s.setMe b) := by
  have hme := State.me_setMe s b hb
  refine ⟨⟨rfl, ?_, List.length_set, fun _ => rfl⟩, rfl, ?_, fun l r => ?_⟩
  · rw [hme, hf]
  · rw [hme, hf]
  · rw [hme, hr]

theorem dropL1 (s : State) (k : Nat) : s.WaitFrame (s.dropL1 k) := by
  have hstate := (State.CachesOnly.dropL1 s k).state
  have hme : (s.dropL1 k).me = s.me := by rw [hstate]; rfl
  refine ⟨⟨by rw [hstate], by rw [hme], by rw [hstate], fun n => s.seq_dropL1 k n⟩, by rw [hstate], by rw [hme],
    fun l r => by rw [hme]⟩

end State.WaitFrame

/-! ## One lane -/

/-- A lane of BOWAIT finds object `n`, with its address and its token. -/
structure State.MayWait (s : State) (x : Ex) (a b : Reg) (l n : Nat) (va tok : Word) : Prop where
  addr : s.me.rg x l a = va
  token : s.me.rg x l b = tok
  reach : Machine.reach s s.me l .scr (va.setWidth 64) 8 false true = .locs ((List.range 8).map fun k => .scr (n + k))

/-- What BOWAIT does to one lane. -/
def Waited (s t : State) (x : Ex) (l n : Nat) (va tok : Word) : Prop :=
  (objGen (s.object n) = tok.toNat % 2 ^ 16 →
    (t.me.lane l).st = .waiting (.bowait n va (tok.setWidth 16)) ∧ (t.me.lane l).pc = x.pc) ∧
  (objGen (s.object n) ≠ tok.toNat % 2 ^ 16 → t.me.lane l = s.me.lane l)

section
variable {s : State} {x : Ex} {a b : Reg} {l n : Nat} {va tok : Word}

theorem State.objReleased_none (h : s.arrivals = []) (n : Nat) : s.objReleased n = true := by
  simp [State.objReleased, h]

/-- The grove window makes the band's crew a gang (R394). -/
def State.gangs (s : State) (va : Word) : State := s.setMe (s.me.touchGrove va)

theorem State.me_gangs (hb : s.cur < s.bands.length) (va : Word) : (s.gangs va).me = s.me.touchGrove va := State.me_setMe _ _ hb

theorem State.waitFrame_gangs (hb : s.cur < s.bands.length) (va : Word) : s.WaitFrame (s.gangs va) :=
  .setMe hb (by rw [s.me.touchGrove_frame]) (s.me.getReg_touchGrove va)

theorem State.MayWait.waitLane (h : s.MayWait x a b l n va tok) (hacc : s.accesses = []) (harr : s.arrivals = []) :
    s.waitLane x a b l = if objGen (s.object n) = tok.toNat % 2 ^ 16
      then (s.gangs va).setMe ((s.gangs va).me.wait x (laneMask l) fun _ => .bowait n va (tok.setWidth 16))
      else (s.gangs va).dropL1 (s.gangs va).me.core := by
  have hrel : (s.gangs va).objReleased n = true := State.objReleased_none harr n
  have hobj : (s.gangs va).object n = s.object n := rfl
  have htok : (tok.setWidth 16).toNat = tok.toNat % 2 ^ 16 := BitVec.toNat_setWidth ..
  unfold State.waitLane
  rw [objAt_eq h.addr h.reach]
  simp only [State.settleObj_none hacc, h.addr, h.token]
  change (if objGen ((s.gangs va).object n) = (tok.setWidth 16).toNat ∨ (s.gangs va).objReleased n = false then _ else _) = _
  rw [hrel, hobj, htok]
  simp only [Bool.true_eq_false, or_false]
  rfl

/-- The wait of one lane. -/
theorem State.MayWait.waited (h : s.MayWait x a b l n va tok) (hl : l < 32) (hb : s.cur < s.bands.length) (hacc : s.accesses = [])
    (harr : s.arrivals = []) : s.WaitFrame (s.waitLane x a b l) ∧ Waited s (s.waitLane x a b l) x l n va tok ∧
      ∀ j, j ≠ l → (s.waitLane x a b l).me.lane j = s.me.lane j := by
  have hgang := State.waitFrame_gangs hb va
  have hlanes : ∀ j, (s.gangs va).me.lane j = s.me.lane j := fun j => by
    rw [State.me_gangs hb, s.me.touchGrove_frame]; rfl
  have hb' : (s.gangs va).cur < (s.gangs va).bands.length := by
    rw [hgang.count]; exact hb
  rw [h.waitLane hacc harr]
  generalize s.gangs va = g at *
  split
  next hgen =>
    have hme := State.me_setMe g (g.me.wait x (laneMask l) fun _ => .bowait n va (tok.setWidth 16)) hb'
    refine ⟨hgang.trans (.setMe hb' rfl (Band.getReg_wait _ _ _ _)), ⟨fun _ => ?_, fun hc => absurd hgen hc⟩, fun j hj => ?_⟩
    · rw [hme]
      exact Band.lane_wait _ _ _ (by simp [bit_laneMask hl])
    · rw [hme, Band.wait, Band.lane_mapLanes, if_neg (by simpa [bit_laneMask hl] using hj.symm), hlanes]
  next hgen =>
    have hme : (g.dropL1 g.me.core).me = g.me := by rw [(State.CachesOnly.dropL1 g g.me.core).state]; rfl
    exact ⟨hgang.trans (.dropL1 g _), ⟨fun hc => absurd hc hgen, fun _ => by rw [hme, hlanes]⟩, fun j _ => by rw [hme, hlanes]⟩

theorem State.MayWait.after {t : State} (h : s.MayWait x a b l n va tok) (hf : s.WaitFrame t) : t.MayWait x a b l n va tok :=
  ⟨(hf.rg ..).trans h.addr, (hf.rg ..).trans h.token, (hf.reach ..).trans h.reach⟩

end

/-! ## The lanes of V -/

/-- Lanes wait or go on one after the other. -/
def State.waitLanes (s : State) (x : Ex) (a b : Reg) (ls : List Nat) : State := ls.foldl (fun r l => r.waitLane x a b l) s

theorem State.waitLanes_cons (s : State) (x : Ex) (a b : Reg) (l : Nat) (ls : List Nat) :
    s.waitLanes x a b (l :: ls) = (s.waitLane x a b l).waitLanes x a b ls := rfl

/-- Each lane does what its own token and object ask. -/
theorem State.waitLanes_spec {x : Ex} {a b : Reg} {at_ : Nat → Nat} {va tok : Nat → Word} (ls : List Nat) : ∀ {s : State},
    s.cur < s.bands.length → s.accesses = [] → s.arrivals = [] → ls.Nodup → (∀ l ∈ ls, l < 32) →
    (∀ l ∈ ls, s.MayWait x a b l (at_ l) (va l) (tok l)) →
    s.WaitFrame (s.waitLanes x a b ls) ∧
      (∀ l ∈ ls, Waited s (s.waitLanes x a b ls) x l (at_ l) (va l) (tok l)) ∧
      ∀ j, j ∉ ls → (s.waitLanes x a b ls).me.lane j = s.me.lane j := by
  induction ls with
  | nil => exact fun _ _ _ _ _ _ => ⟨.refl _, nofun, fun _ _ => rfl⟩
  | cons l ls ih =>
    intro s hb hacc harr hd h32 hmay
    obtain ⟨hnot, hd⟩ := List.nodup_cons.1 hd
    obtain ⟨hframe, hwait, hoff⟩ := (hmay l (.head _)).waited (h32 l (.head _)) hb hacc harr
    rw [State.waitLanes_cons]
    generalize s.waitLane x a b l = u at *
    have hcur : u.cur = s.cur := by rw [hframe.state]
    obtain ⟨hf, hall, hrest⟩ := ih (s := u) (by rw [hcur, hframe.count]; exact hb) (by rw [hframe.state]; exact hacc)
      (by rw [hframe.state]; exact harr) hd (fun j hj => h32 j (.tail _ hj)) fun j hj => (hmay j (.tail _ hj)).after hframe
    have hobj : ∀ n, u.object n = s.object n := fun n => congrArg (Memory.readLE · n 8) hframe.scr
    refine ⟨hframe.trans hf, fun j hj => ?_, fun j hj => ?_⟩
    · rcases List.mem_cons.1 hj with rfl | hj
      · rw [Waited, hrest j hnot]
        exact hwait
      · have hj' := hall j hj
        rw [Waited, hobj, hoff j fun e => hnot (e ▸ hj)] at hj'
        exact hj'
    · rw [List.mem_cons, not_or] at hj
      rw [hrest j hj.2, hoff j hj.1]

theorem exec_bowait {s : State} {h : Hdr} {a b : Reg} (hs : s.Runs (.bowait h a b)) (hv : s.vOf (.bowait h a b) ≠ 0)
    (hd : ∀ l, bit (s.vOf (.bowait h a b)) l = true → brkTrap false a (s.after (.bowait h a b)) (s.ex h) l = none) :
    exec (.bowait h a b) s = .next ((s.atIssue (.bowait h a b)).waitLanes (s.ex h) a b (lanesOf (s.vOf (.bowait h a b)))).tickFree := by
  have hrun := runWord_passes (.bowait h a b) (brkTrap false a) (fun x s => (lanesOf x.v).foldl (fun r t => r.waitLane x a b t) s)
    s hs.passes hd
  rw [if_neg hv] at hrun
  exact congrArg Host.Outcome.next hrun

theorem findsObjects_of_noArrivals {a : Reg} {v : BitVec 32} {w : Bool} {at_ : Nat → Nat} {u : State}
    (h : ∀ l, bit v l = true → reach u u.me l .scr ((u.me.gv l a).setWidth 64) 8 w true =
      .locs ((List.range 8).map fun k => .scr (at_ l + k)) ∧ objBrk (u.object (at_ l)) = false ∧ u.accesses = [] ∧
        u.arrivals = []) : FindsObjects a v w at_ u := fun l hl => by
  obtain ⟨hreach, hbrk, hacc, -⟩ := h l hl
  exact ⟨hreach, hbrk, hacc⟩

section
variable {s : State} {h : Hdr} {a b : Reg} {at_ : Nat → Nat}

/-- BOWAIT (R271). -/
theorem bowait_waits (hs : s.Runs (.bowait h a b)) (hv : s.vOf (.bowait h a b) ≠ 0)
    (hfind : s.AtChecks (.bowait h a b) (FindsObjects a (s.vOf (.bowait h a b)) false at_))
    (harr : (s.atIssue (.bowait h a b)).arrivals = []) :
    ∃ t, exec (.bowait h a b) s = .next t.tickFree ∧ (s.atIssue (.bowait h a b)).WaitFrame t ∧
      ∀ l, bit (s.vOf (.bowait h a b)) l = true → Waited (s.atIssue (.bowait h a b)) t (s.ex h) l (at_ l)
        ((s.atIssue (.bowait h a b)).me.gv l a) ((s.atIssue (.bowait h a b)).me.gv l b) := by
  obtain ⟨-, hafter, hissue⟩ := hfind
  have hsrc : ∀ r ∈ gs 1 a ++ gs 1 b, r ∈ srcsOf (.bowait h a b) := fun r hr => hr
  have hexec := exec_bowait hs hv fun l hl => brkTrap_none
    ((hs.sources_after rfl hl).rg (hsrc _ (List.mem_append_left _ (mem_gs1 a)))) (hafter l hl).1 (hafter l hl).2.2 (hafter l hl).2.1
  have hmay : ∀ l ∈ lanesOf (s.vOf (.bowait h a b)), (s.atIssue (.bowait h a b)).MayWait (s.ex h) a b l (at_ l)
      ((s.atIssue (.bowait h a b)).me.gv l a) ((s.atIssue (.bowait h a b)).me.gv l b) := fun l hl => by
    have hset := hs.sources_atIssue rfl ((mem_lanesOf _ l).1 hl)
    exact ⟨hset.rg (hsrc _ (List.mem_append_left _ (mem_gs1 a))), hset.rg (hsrc _ (List.mem_append_right _ (mem_gs1 b))),
      (hissue l ((mem_lanesOf _ l).1 hl)).1⟩
  obtain ⟨hframe, hall, -⟩ := State.waitLanes_spec _ hs.band_atIssue (hissue _ (bit_lowest hv)).2.2 harr (lanesOf_nodup _)
    (fun l hl => bit_lt ((mem_lanesOf _ l).1 hl)) hmay
  exact ⟨_, hexec, hframe, fun l hl => hall l ((mem_lanesOf _ l).2 hl)⟩

end

end Sys2Proof.Machine
end

section
/-!
PROOFS. BOINIT (R270, R271): every lane that waits on the object resumes with code 0x0F, and the object holds its count.
-/

namespace Sys2Proof.Machine

/-! ## Lanes that wait on an object (R270) -/

/-- The lane waits in BOWAIT on object `n`. -/
def LaneSt.waitsOn (st : LaneSt) (n : Nat) : Prop := ∃ va tok, st = .waiting (.bowait n va tok)

/-- A lane before and after the waiters of object `n` have been failed. -/
def Failed (n : Nat) (k l : Lane) : Prop :=
  (k.st.waitsOn n → l.st = .eligible ∧ l.reports.getLast?.map (·.code) = some 0x0F) ∧ (¬k.st.waitsOn n → l = k)

/-- One lane of a band, if it waits on the object, takes code 0x0F. -/
def State.failAt (n bi : Nat) (s : State) (l : Nat) : State :=
  match ((s.band bi).lane l).st with
  | .waiting (.bowait m va _) => if m == n then s.failWaiter bi l va else s
  | _ => s

/-- Lanes of a band. -/
def State.failLanes (s : State) (n bi : Nat) (ls : List Nat) : State := ls.foldl (State.failAt n bi) s

theorem State.failLanes_cons (s : State) (n bi l : Nat) (ls : List Nat) :
    s.failLanes n bi (l :: ls) = (s.failAt n bi l).failLanes n bi ls := rfl

/-- All the lanes of some bands. -/
def State.failBands (s : State) (n : Nat) (bs : List Nat) : State := bs.foldl (fun s bi => s.failLanes n bi (List.range 32)) s

theorem State.failBands_cons (s : State) (n b : Nat) (bs : List Nat) :
    s.failBands n (b :: bs) = (s.failLanes n b (List.range 32)).failBands n bs := by
  rw [State.failBands, List.foldl_cons, State.failBands]

theorem State.trapWaiters_eq (s : State) (n : Nat) : s.trapWaiters n =
    s.failBands n ((List.range s.bands.length).filter fun bi => !s.crewSaved (s.band bi).crew) := rfl

/-- No lane that waits on the object does so in handler mode, in which its trap would escalate (R379). -/
def Band.Calm (b : Band) (n : Nat) : Prop :=
  ∀ l, (b.lane l).st.waitsOn n → b.handler = false ∨ bit b.trapLane l = false

theorem State.failAt_idle {s : State} {n bi l : Nat} (h : ¬((s.band bi).lane l).st.waitsOn n) : s.failAt n bi l = s := by
  unfold State.failAt
  split
  next m va tok hst =>
    refine if_neg fun hm => h ⟨va, tok, ?_⟩
    rw [hst, beq_iff_eq.1 hm]
  next => rfl

theorem State.failAt_waiting {s : State} {n bi l : Nat} {va : Word} {tok : BitVec 16} (hc : (s.band bi).Calm n)
    (h : ((s.band bi).lane l).st = .waiting (.bowait n va tok)) :
    s.failAt n bi l = s.setBand bi ((s.band bi).resumeTrap l 0x0F 0 (va.setWidth 64)) := by
  have hcalm : ((s.band bi).handler && bit (s.band bi).trapLane l) = false :=
    Bool.and_eq_false_iff.2 (hc l ⟨va, tok, h⟩)
  simp only [State.failAt, h, beq_self_eq_true, if_true, State.failWaiter, hcalm, Bool.false_eq_true, if_false]

/-- Only lanes differ, and none of their registers. -/
structure Band.SameRegs (b c : Band) : Prop where
  band : c = { b with lanes := c.lanes }
  regs : ∀ l r, c.getReg l r = b.getReg l r

theorem Band.SameRegs.refl (b : Band) : b.SameRegs b := ⟨rfl, fun _ _ => rfl⟩

theorem Band.SameRegs.trans {a b c : Band} (h : a.SameRegs b) (k : b.SameRegs c) : a.SameRegs c :=
  ⟨by rw [k.band, h.band], fun l r => (k.regs l r).trans (h.regs l r)⟩

section
variable {b : Band} {l : Nat} {code : Byte} {info : Nat} {va : DWord}

theorem Band.lane_resumeTrap (k : Nat) : (b.resumeTrap l code info va).lane k =
    if l = k ∧ k < 32 then { b.lane l with st := .eligible, released := false, returned := false,
                                           reports := (b.lane l).reports ++ [syncTrap code info va (b.lane l).pc] }
    else b.lane k := Band.lane_setLane ..

theorem Band.sameRegs_resumeTrap : b.SameRegs (b.resumeTrap l code info va) := by
  refine ⟨rfl, fun k r => ?_⟩
  cases r with
  | s => rfl
  | _ =>
    simp only [Band.getReg, Band.lane_resumeTrap]
    split
    next h => rw [← h.1]; rfl
    next => rfl
end

/-- What the failed waiters of an object leave unchanged: all but lanes, and every register. -/
structure State.FailFrame (s t : State) : Prop where
  state : t = { s with bands := t.bands }
  count : t.bands.length = s.bands.length
  bands : ∀ bi, (s.band bi).SameRegs (t.band bi)

namespace State.FailFrame
variable {s t u : State}

theorem refl (s : State) : s.FailFrame s := ⟨rfl, rfl, fun _ => .refl _⟩

theorem trans (h : s.FailFrame t) (k : t.FailFrame u) : s.FailFrame u :=
  ⟨by rw [k.state, h.state], k.count.trans h.count, fun bi => (h.bands bi).trans (k.bands bi)⟩

end State.FailFrame

/-- One lane. -/
theorem State.failAt_spec {s : State} {n bi l : Nat} (hb : bi < s.bands.length) (hl : l < 32) (hc : (s.band bi).Calm n) :
    s.FailFrame (s.failAt n bi l) ∧ (∀ k, k ≠ bi → (s.failAt n bi l).band k = s.band k) ∧
      (∀ j, j ≠ l → ((s.failAt n bi l).band bi).lane j = (s.band bi).lane j) ∧
      Failed n ((s.band bi).lane l) (((s.failAt n bi l).band bi).lane l) := by
  by_cases hw : ((s.band bi).lane l).st.waitsOn n
  · obtain ⟨va, tok, hst⟩ := id hw
    rw [State.failAt_waiting hc hst]
    have hsame := s.band_setBand_same hb ((s.band bi).resumeTrap l 0x0F 0 (va.setWidth 64))
    have hother : ∀ k, k ≠ bi → (s.setBand bi ((s.band bi).resumeTrap l 0x0F 0 (va.setWidth 64))).band k = s.band k := fun k hk => by
      rw [State.band_setBand, if_neg fun e => hk e.1.symm]
    refine ⟨⟨rfl, List.length_set, fun k => ?_⟩, hother, fun j hj => ?_, fun _ => ?_, fun hn => absurd hw hn⟩
    · by_cases hk : k = bi
      · rw [hk, hsame]; exact Band.sameRegs_resumeTrap
      · rw [hother k hk]; exact .refl _
    · rw [hsame, Band.lane_resumeTrap, if_neg fun e => hj e.1.symm]
    · rw [hsame, Band.lane_resumeTrap, if_pos ⟨rfl, hl⟩]
      exact ⟨rfl, by simp [syncTrap]⟩
  · rw [State.failAt_idle hw]
    exact ⟨.refl s, fun _ _ => rfl, fun _ _ => rfl, fun h => absurd h hw, fun _ => rfl⟩

/-- Only the state of waiting lanes changes, so that no lane comes to wait. -/
theorem Band.Calm.of_failed {b c : Band} {n : Nat} (h : b.Calm n) (hb : b.SameRegs c)
    (hl : ∀ l, (c.lane l) = b.lane l ∨ Failed n (b.lane l) (c.lane l)) : c.Calm n := by
  intro l hw
  have hsame : c.lane l = b.lane l := (hl l).resolve_right fun hf => by
    by_cases hk : (b.lane l).st.waitsOn n
    · obtain ⟨va, tok, hst⟩ := hw
      rw [(hf.1 hk).1] at hst
      cases hst
    · rw [hf.2 hk] at hw
      exact hk hw
  rw [hsame] at hw
  have := h l hw
  rw [hb.band]
  exact this

/-- Lanes of one band. -/
theorem State.failLanes_spec {n bi : Nat} (ls : List Nat) : ∀ {s : State}, bi < s.bands.length → ls.Nodup → (∀ l ∈ ls, l < 32) →
    (s.band bi).Calm n → s.FailFrame (s.failLanes n bi ls) ∧
      (∀ k, k ≠ bi → (s.failLanes n bi ls).band k = s.band k) ∧
      (∀ j, j ∉ ls → ((s.failLanes n bi ls).band bi).lane j = (s.band bi).lane j) ∧
      ∀ l ∈ ls, Failed n ((s.band bi).lane l) (((s.failLanes n bi ls).band bi).lane l) := by
  induction ls with
  | nil => exact fun _ _ _ _ => ⟨.refl _, fun _ _ => rfl, fun _ _ => rfl, nofun⟩
  | cons l ls ih =>
    intro s hb hd h32 hc
    obtain ⟨hnot, hd⟩ := List.nodup_cons.1 hd
    obtain ⟨hframe, hbands, hlanes, hfail⟩ := State.failAt_spec hb (h32 l (.head _)) hc
    rw [State.failLanes_cons]
    generalize s.failAt n bi l = u at *
    have hcalm : (u.band bi).Calm n := hc.of_failed (hframe.bands bi) fun j => by
      by_cases hj : j = l
      · rw [hj]; exact .inr hfail
      · exact .inl (hlanes j hj)
    obtain ⟨hf, hk, hoff, hall⟩ := ih (s := u) (by rw [hframe.count]; exact hb) hd (fun j hj => h32 j (.tail _ hj)) hcalm
    refine ⟨hframe.trans hf, fun k hne => (hk k hne).trans (hbands k hne), fun j hj => ?_, fun j hj => ?_⟩
    · rw [List.mem_cons, not_or] at hj
      rw [hoff j hj.2, hlanes j hj.1]
    · rcases List.mem_cons.1 hj with rfl | hj
      · rw [hoff j hnot]; exact hfail
      · rw [← hlanes j fun e => hnot (e ▸ hj)]
        exact hall j hj

/-- Bands, one after the other. -/
theorem State.failBands_spec {n : Nat} (bs : List Nat) : ∀ {s : State}, bs.Nodup → (∀ bi ∈ bs, bi < s.bands.length) →
    (∀ bi, (s.band bi).Calm n) → s.FailFrame (s.failBands n bs) ∧
      (∀ k, k ∉ bs → (s.failBands n bs).band k = s.band k) ∧
      ∀ bi ∈ bs, ∀ l, l < 32 → Failed n ((s.band bi).lane l)
        (((s.failBands n bs).band bi).lane l) := by
  induction bs with
  | nil => exact fun _ _ _ => ⟨.refl _, fun _ _ => rfl, nofun⟩
  | cons b bs ih =>
    intro s hd hlt hc
    obtain ⟨hnot, hd⟩ := List.nodup_cons.1 hd
    obtain ⟨hframe, hbands, -, hfail⟩ := State.failLanes_spec (List.range 32) (hlt b (.head _)) List.nodup_range
      (fun l hl => List.mem_range.1 hl) (hc b)
    rw [State.failBands_cons]
    generalize s.failLanes n b (List.range 32) = u at *
    have hcalm : ∀ k, (u.band k).Calm n := fun k => by
      by_cases hk : k = b
      · subst hk
        refine (hc k).of_failed (hframe.bands k) fun j => ?_
        by_cases hj : j < 32
        · exact .inr (hfail j (List.mem_range.2 hj))
        · exact .inl (by rw [Band.lane_of_ge _ hj, Band.lane_of_ge _ hj])
      · rw [hbands k hk]; exact hc k
    obtain ⟨hf, hk, hall⟩ := ih (s := u) hd (fun k hk => by rw [hframe.count]; exact hlt k (.tail _ hk)) hcalm
    refine ⟨hframe.trans hf, fun k hne => ?_, fun k hmem l hl => ?_⟩
    · rw [List.mem_cons, not_or] at hne
      rw [hk k hne.2, hbands k hne.1]
    · rcases List.mem_cons.1 hmem with rfl | hmem
      · rw [hk k hnot]; exact hfail l (List.mem_range.2 hl)
      · rw [← hbands k fun e => hnot (e ▸ hmem)]
        exact hall k hmem l hl

/-- Every lane that waits on the object, but those of saved crews, resumes with code 0x0F (R270). -/
theorem State.trapWaiters_spec {s : State} {n : Nat} (hc : ∀ bi, (s.band bi).Calm n) : s.FailFrame (s.trapWaiters n) ∧
    (∀ bi, s.crewSaved (s.band bi).crew = true → (s.trapWaiters n).band bi = s.band bi) ∧
    ∀ bi, bi < s.bands.length → s.crewSaved (s.band bi).crew = false → ∀ l, l < 32 →
      Failed n ((s.band bi).lane l) (((s.trapWaiters n).band bi).lane l) := by
  rw [State.trapWaiters_eq]
  obtain ⟨hf, hoff, hall⟩ := State.failBands_spec (n := n)
    ((List.range s.bands.length).filter fun bi => !s.crewSaved (s.band bi).crew) (List.nodup_range.filter _)
    (fun bi hb => List.mem_range.1 (List.mem_filter.1 hb).1) hc
  refine ⟨hf, fun bi hs => hoff bi fun hm => ?_, fun bi hb hs l hl => hall bi ?_ l hl⟩
  · rw [List.mem_filter, hs] at hm
    exact absurd hm.2 Bool.false_ne_true
  · rw [List.mem_filter, hs]
    exact ⟨List.mem_range.2 hb, rfl⟩

/-! ## BOINIT -/

section
variable {s : State} {i : Instr}

/-- Every source is settled in the lowest lane of V, for words that act once too. -/
theorem State.Runs.sources_lowest (hs : s.Runs i) (hv : s.vOf i ≠ 0) :
    (s.after i).me.Settled (s.after i).me (s.ex i.hdr) (lowest (s.vOf i)) (srcsOf i) ∧
      (s.atIssue i).me.Settled (s.atIssue i).me (s.ex i.hdr) (lowest (s.vOf i)) (srcsOf i) := by
  have hlow : (lowest (s.vOf i) != (s.ex i.hdr).low) = false := bne_self_eq_false _
  have hset := (hs.settled (bit_lowest hv)).mono (qs := srcsOf i) fun r hm => by simp [Band.readsIn, hlow, hm]
  refine ⟨fun r hr => ?_, fun r hr => ?_⟩
  · rw [← hs.readReg_atIssue]; exact hset r hr
  · rw [hs.getReg_atIssue]; exact hset r hr

end

theorem boinitTrap_none {s : State} {x : Ex} {a b : Reg} {c va : Word} {n : Nat} (hb : s.me.rg x x.low b = c) (h1 : 1 ≤ c.toNat)
    (h2 : c.toNat ≤ 65535) (ha : s.me.rg x x.low a = va)
    (hreach : reach s s.me x.low .scr (va.setWidth 64) 8 true true = .locs ((List.range 8).map fun k => .scr (n + k))) :
    boinitTrap a b s x = none := by
  have htrap : objTrap s x x.low a true = none := by
    unfold objTrap objReach
    rw [ha, hreach]
  simp only [boinitTrap, hb, htrap]
  rw [if_neg (by omega)]

/-- The object once it has been initialised. -/
def State.initObject (s : State) (n c : Nat) (va : Word) : State :=
  State.setMe ((s.trapWaiters n).putObject n (c * 2 ^ 16 + c)) (((s.trapWaiters n).putObject n (c * 2 ^ 16 + c)).me.touchGrove va)

section
variable {s : State} {h : Hdr} {a b : Reg} {n : Nat}

theorem exec_boinit (hs : s.Runs (.boinit h a b)) (hv : s.vOf (.boinit h a b) ≠ 0)
    (hchk : s.AtChecks (.boinit h a b) fun u => 1 ≤ (u.me.gv (lowest (s.vOf (.boinit h a b))) b).toNat ∧
      (u.me.gv (lowest (s.vOf (.boinit h a b))) b).toNat ≤ 65535 ∧
      reach u u.me (lowest (s.vOf (.boinit h a b))) .scr ((u.me.gv (lowest (s.vOf (.boinit h a b))) a).setWidth 64) 8 true true =
        .locs ((List.range 8).map fun k => .scr (n + k))) (hacc : (s.atIssue (.boinit h a b)).accesses = []) :
    exec (.boinit h a b) s = .next ((s.atIssue (.boinit h a b)).initObject n
      ((s.atIssue (.boinit h a b)).me.gv (lowest (s.vOf (.boinit h a b))) b).toNat
      ((s.atIssue (.boinit h a b)).me.gv (lowest (s.vOf (.boinit h a b))) a)).tickFree := by
  obtain ⟨-, ⟨ha1, ha2, hareach⟩, -, -, hreach⟩ := hchk
  obtain ⟨hafter, hissue⟩ := hs.sources_lowest hv
  have hsrc : ∀ r ∈ gs 1 a ++ gs 1 b, r ∈ srcsOf (.boinit h a b) := fun r hr => hr
  have hsa := hsrc _ (List.mem_append_left _ (mem_gs1 a))
  have hsb := hsrc _ (List.mem_append_right _ (mem_gs1 b))
  have hrun := runWord_passes (.boinit h a b) (allLanes (boinitTrap a b)) (fun x s =>
      let c := (s.me.rg x x.low b).toNat
      match objAt s x x.low a true with
      | some n =>
        let s1 := ((s.settleObj x.low).trapWaiters n).putObject n (c * 2 ^ 16 + c)
        s1.setMe (s1.me.touchGrove (s.me.rg x x.low a))
      | none => s) s hs.passes fun l _ =>
    boinitTrap_none (hafter.rg hsb) ha1 ha2 (hafter.rg hsa) hareach
  have hx : (s.ex (Instr.boinit h a b).hdr).low = lowest (s.vOf (.boinit h a b)) := rfl
  rw [if_neg hv] at hrun
  dsimp only at hrun
  rw [hx, objAt_eq (hissue.rg hsa) hreach, hissue.rg hsa, hissue.rg hsb, State.settleObj_none hacc] at hrun
  exact congrArg Host.Outcome.next hrun

end

section
variable {u : State} {n c : Nat} {va : Word}

/-- The bands differ from those of failed waiters in the gang mark alone. -/
theorem State.band_initObject (bi : Nat) : ∃ g, (u.initObject n c va).band bi = { (u.trapWaiters n).band bi with gang := g } := by
  have hput := (u.trapWaiters n).putObject_state n (c * 2 ^ 16 + c)
  have hband : ∀ k, ((u.trapWaiters n).putObject n (c * 2 ^ 16 + c)).band k = (u.trapWaiters n).band k := fun k => by rw [hput]; rfl
  rw [State.initObject, State.setMe, State.band_setBand]
  split
  next h =>
    rw [State.me, h.1, hband, Band.touchGrove_frame]
    exact ⟨_, rfl⟩
  next =>
    rw [hband]
    exact ⟨_, rfl⟩

theorem State.lane_initObject (bi l : Nat) : ((u.initObject n c va).band bi).lane l = ((u.trapWaiters n).band bi).lane l := by
  obtain ⟨g, hg⟩ := u.band_initObject (n := n) (c := c) (va := va) bi
  rw [hg]; rfl

theorem State.getReg_initObject (bi l : Nat) (r : RegName) :
    ((u.initObject n c va).band bi).getReg l r = ((u.trapWaiters n).band bi).getReg l r := by
  obtain ⟨g, hg⟩ := u.band_initObject (n := n) (c := c) (va := va) bi
  rw [hg]
  exact Band.getReg_congr rfl rfl l r

theorem State.scr_initObject : (u.initObject n c va).scr = ((u.trapWaiters n).putObject n (c * 2 ^ 16 + c)).scr := rfl

theorem State.mem_initObject (h : u.FailFrame (u.trapWaiters n)) :
    (u.initObject n c va).mem = u.mem ∧ (u.initObject n c va).ws = u.ws := by
  rw [State.initObject, (u.trapWaiters n).putObject_state n, h.state]
  exact ⟨rfl, rfl⟩

/-- The object holds its count as PEND and EXP, with GEN 0. -/
theorem State.object_initObject (hc : c ≤ 65535) : (u.initObject n c va).object n = c * 2 ^ 16 + c :=
  (congrArg (Memory.readLE · n 8) State.scr_initObject).trans (State.object_putObject _ n (by omega))

theorem State.read_initObject (h : u.FailFrame (u.trapWaiters n)) {k : Nat} (hk : k < n ∨ n + 8 ≤ k) :
    (u.initObject n c va).scr.read k = u.scr.read k := by
  rw [State.scr_initObject, State.read_putObject _ _ _ _ hk, h.state]

end

/-- The barrier objects (R269 to R271). -/
theorem barrierObjects : Claims.BarrierObjects := by
  refine ⟨?_, ?_, ?_⟩
  · intro h a b s hs hv u low c n hchk hacc hcalm
    have hexec := exec_boinit hs hv hchk hacc
    obtain ⟨hf, hsaved, hfail⟩ := State.trapWaiters_spec (s := u) (n := n) fun bi l ⟨va, tok, hst⟩ => hcalm bi l va tok hst
    have ⟨_, _, _, hc, _⟩ := hchk
    change exec (.boinit h a b) s = .next (u.initObject n c (u.me.gv low a)).tickFree at hexec
    have hlane := fun bi l => u.lane_initObject (n := n) (c := c) (va := u.me.gv low a) bi l
    have hreg := fun bi l r => u.getReg_initObject (n := n) (c := c) (va := u.me.gv low a) bi l r
    have hobj := State.object_initObject (u := u) (n := n) (va := u.me.gv low a) hc
    have hmem := State.mem_initObject (c := c) (va := u.me.gv low a) hf
    have hread := fun k hk => State.read_initObject (c := c) (va := u.me.gv low a) hf (k := k) hk
    generalize u.initObject n c (u.me.gv low a) = t at *
    refine ⟨t.tickFree, hexec, hobj, hmem.1, hmem.2, hread,
      fun bi l m va tok hb hl hst => ⟨fun hm hns => ?_, fun hm => ?_⟩, fun bi l r => ?_⟩
    · have hfailed := (hfail bi hb hns l hl).1 ⟨va, tok, hm ▸ hst⟩
      rw [← hlane] at hfailed
      exact hfailed
    · refine (hlane bi l).trans ?_
      cases hs' : u.crewSaved (u.band bi).crew with
      | true => rw [hsaved bi hs']
      | false =>
        refine (hfail bi hb hs' l hl).2 fun ⟨va', tok', he⟩ => ?_
        rw [hst] at he
        cases he
        exact hm.elim (fun hne => hne rfl) fun hs => Bool.false_ne_true (hs'.symm.trans hs)
    · exact (hreg bi l r).trans ((hf.bands bi).regs l r)
  · intro h d a s hs u at_ hfind hdis hclear
    obtain ⟨t, hexec, hmem, harr, hall⟩ := boarrive_arrives hs hfind hdis hclear
    refine ⟨t, hexec, hmem, harr, fun l hl => ?_⟩
    obtain ⟨htoken, ⟨hexp, hlast, hmore⟩, hregs⟩ := hall l hl
    exact ⟨htoken, hexp, hlast, hmore, hregs⟩
  · intro h a b s hs hv u at_ hfind
    have hlow := bit_lowest hv
    obtain ⟨hstart, hafter, hissue⟩ := hfind
    obtain ⟨-, -, -, harr⟩ := hissue _ hlow
    obtain ⟨t, hexec, hframe, hall⟩ := bowait_waits (at_ := at_) hs hv ⟨findsObjects_of_noArrivals hstart,
      findsObjects_of_noArrivals hafter, findsObjects_of_noArrivals hissue⟩ harr
    exact ⟨t.tickFree, hexec, hframe.scr, (congrArg State.mem hframe.state : t.mem = _), hframe.regs, hall⟩

end Sys2Proof.Machine

namespace Sys2Proof
open Machine

/-- Settles O33: REQ through the slots of its lanes, and the three words on barrier objects. -/
theorem enqueueAndBarrierObjects : Obligations.EnqueueAndBarrierObjects := ⟨remoteEnqueue, barrierObjects⟩

end Sys2Proof
end
